-- ==== Sys2Proof/Word.lean ====
section
/-! DEFINITION. The word types of the module and their plainest arithmetic (R5 to R8). -/

namespace Sys2Proof

/-- A 64-bit register value. -/
abbrev Word := BitVec 64

/-- One byte of memory. -/
abbrev Byte := BitVec 8

/-- A general register number g0..g7 (R152). -/
abbrev GReg := BitVec 3

/-- A float-window register number f0..f63 (R152). -/
abbrev FReg := BitVec 6

/-- A vector register number v0..v15 (R152). -/
abbrev VReg := BitVec 4

/-- A mask register number m0..m7 (R152). -/
abbrev MReg := BitVec 3

/-- The `w`-bit field of `x` whose lowest bit is `lo`, as a number (R5). -/
def bits {n : Nat} (x : BitVec n) (lo w : Nat) : Nat := (x.toNat >>> lo) % 2 ^ w

/-- One bit of `x` (R5). -/
def bit {n : Nat} (x : BitVec n) (i : Nat) : Bool := x.toNat.testBit i

end Sys2Proof
end

