-- ==== Sys2Proof/Machine/Numbers.lean ====
section
/-! DEFINITION. Number formats and the rounding function: VF, the IEEE formats, E8M10 and E8M0 (R73 to R88), exact dyadic
values, RoundF (R110 to R112), special values (R113, R114) and conversions (R115, R116).

A finite value is kept exactly as (−1)^neg · m · 2^e; rounding is the one place where anything is lost. -/

namespace Sys2Proof.Machine

/-- Sticky flags in the order of PREC[15:11]: bit 4 NV, 3 DZ, 2 OF, 1 UF, 0 NX (R108). -/
abbrev FFlags := BitVec 5
/-- Invalid. -/
abbrev FFlags.nv : FFlags := 16#5
/-- Divide by zero. -/
abbrev FFlags.dz : FFlags := 8#5
/-- Overflow. -/
abbrev FFlags.of : FFlags := 4#5
/-- Underflow. -/
abbrev FFlags.uf : FFlags := 2#5
/-- Inexact. -/
abbrev FFlags.nx : FFlags := 1#5

/-- The value of a floating encoding (R77). A NaN keeps FRAC aligned to 112 bits, its quiet bit at bit 111. -/
inductive FV where
  | nan (neg : Bool) (frac : Nat)
  | inf (neg : Bool)
  | fin (neg : Bool) (m : Nat) (e : Int)
  deriving DecidableEq, Repr

/-- The quiet bit of a left-aligned fraction. -/
def quietBit : Nat := 2 ^ 111

/-- The default quiet NaN (R113). -/
def FV.dnan : FV := .nan false quietBit

/-- Plus zero. -/
def FV.zero : FV := .fin false 0 0

/-- Rounding modes of PREC.RM (R108). -/
inductive RMode where
  | rne
  | rtz
  | rup
  | rdn
  | rna
  | rod
  deriving DecidableEq, Repr

/-- The mode a code 0..5 names; codes 6 and 7 never stand in PREC (R108). -/
def RMode.ofCode (n : Nat) : RMode :=
  match n with
  | 0 => .rne
  | 1 => .rtz
  | 2 => .rup
  | 3 => .rdn
  | 4 => .rna
  | _ => .rod

/-- A rounding target: significand length and exponent range (R110, R115). -/
structure Fmt where
  p : Nat
  emin : Int
  emax : Int
  deriving DecidableEq, Repr

/-- VF at length p (R110). -/
def Fmt.vf (p : Nat) : Fmt := { p := p, emin := -1022, emax := 1023 }
/-- binary16 (R115). -/
def Fmt.f16 : Fmt := { p := 11, emin := -14, emax := 15 }
/-- bfloat16 (R115). -/
def Fmt.bf16 : Fmt := { p := 8, emin := -126, emax := 127 }
/-- binary32 (R115). -/
def Fmt.f32 : Fmt := { p := 24, emin := -126, emax := 127 }
/-- binary64 (R115). -/
def Fmt.f64 : Fmt := { p := 53, emin := -1022, emax := 1023 }
/-- E8M10 (R83). -/
def Fmt.e8m10 : Fmt := { p := 11, emin := -126, emax := 127 }

/-- OverflowValue (R111). -/
def overflowValue (neg : Bool) (f : Fmt) (mode : RMode) : FV :=
  let max := FV.fin neg (2 ^ f.p - 1) (f.emax - f.p + 1)
  match mode with
  | .rne | .rna => .inf neg
  | .rtz | .rod => max
  | .rup => if neg then max else .inf neg
  | .rdn => if neg then .inf neg else max

/-- Whether the magnitude k + rem/2^sh, rem not 0, rounds up to k + 1 (R110). -/
def roundsUp (neg : Bool) (k rem sh : Nat) (mode : RMode) : Bool :=
  match mode with
  | .rne => 2 * rem > 2 ^ sh || (2 * rem == 2 ^ sh && k % 2 == 1)
  | .rna => 2 * rem ≥ 2 ^ sh
  | .rtz => false
  | .rup => !neg
  | .rdn => neg
  | .rod => k % 2 == 0

/-- RoundF of (−1)^neg · m · 2^e (R110, R111, R112). -/
def roundF (neg : Bool) (m : Nat) (e : Int) (f : Fmt) (mode : RMode) : FV × FFlags :=
  if m = 0 then (.fin neg 0 0, 0) else
  let top : Int := m.log2 + e
  let qe : Int := max top f.emin - f.p + 1
  let sh : Nat := (qe - e).toNat
  let k0 : Nat := if e ≥ qe then m * 2 ^ (e - qe).toNat else m / 2 ^ sh
  let rem : Nat := if e ≥ qe then 0 else m % 2 ^ sh
  let k : Nat := if rem ≠ 0 ∧ roundsUp neg k0 rem sh mode then k0 + 1 else k0
  let fl : FFlags := if rem = 0 then 0 else if top < f.emin then FFlags.nx ||| FFlags.uf else FFlags.nx
  if k ≠ 0 ∧ (k.log2 : Int) + qe > f.emax then (overflowValue neg f mode, fl ||| FFlags.nx ||| FFlags.of)
  else (.fin neg k (if k = 0 then 0 else qe), fl)

/-- `roundF` of a value a little above m · 2^e when `sticky`: exact for rounding when m has at least p + 2 bits. -/
def roundSticky (neg : Bool) (m : Nat) (e : Int) (sticky : Bool) (f : Fmt) (mode : RMode) : FV × FFlags :=
  roundF neg (2 * m + if sticky then 1 else 0) (e - 1) f mode

/-! ## NaN handling -/

/-- Whether the value is a signalling NaN (R75, R80). -/
def FV.isSnan (a : FV) : Bool :=
  match a with
  | .nan _ frac => !frac.testBit 111
  | _ => false

/-- Whether the value is a NaN. -/
def FV.isNan (a : FV) : Bool :=
  match a with
  | .nan _ _ => true
  | _ => false

/-- Keep the top p − 1 bits of a left-aligned fraction. -/
def keepTop (frac p : Nat) : Nat := frac / 2 ^ (113 - p) * 2 ^ (113 - p)

/-- Narrow a NaN as a load does (R115): quiet bit kept, payload cut, a vanished fraction made quiet. -/
def narrowNan (neg : Bool) (frac p : Nat) : FV :=
  let k := keepTop frac p
  .nan neg (if k = 0 then quietBit else k)

/-- The NaN result of an operation (R114): quiet bit set, payload cut to p − 2 bits. -/
def quietNan (neg : Bool) (frac p : Nat) : FV := .nan neg (keepTop (frac % quietBit) p + quietBit)

/-- The first NaN among the operands as a result (R114). -/
def firstNan (ops : List FV) (p : Nat) : Option FV :=
  match ops with
  | [] => none
  | .nan neg frac :: _ => some (quietNan neg frac p)
  | _ :: rest => firstNan rest p

/-- NV when some operand is signalling (R113). -/
def snanFlag (ops : List FV) : FFlags := if ops.any FV.isSnan then FFlags.nv else 0

/-- Round a value to a format: finite values under R110, infinities kept, NaN narrowed (R115). -/
def FV.convert (a : FV) (f : Fmt) (mode : RMode) : FV × FFlags :=
  match a with
  | .nan neg frac => (narrowNan neg frac f.p, 0)
  | .inf neg => (.inf neg, 0)
  | .fin neg m e => roundF neg m e f mode

/-! ## Arithmetic -/

/-- The sign of a value. -/
def FV.sign (a : FV) : Bool :=
  match a with
  | .nan n _ => n
  | .inf n => n
  | .fin n _ _ => n

/-- Set the sign of a value. -/
def FV.withSign (a : FV) (s : Bool) : FV :=
  match a with
  | .nan _ f => .nan s f
  | .inf _ => .inf s
  | .fin _ m e => .fin s m e

/-- Flip the sign of a value. -/
def FV.neg (a : FV) : FV := a.withSign (!a.sign)

/-- The signed integer multiple of 2^e of a finite value, for e at or below its own exponent. -/
def scaled (neg : Bool) (m : Nat) (ev e : Int) : Int :=
  let v : Int := (m * 2 ^ (ev - e).toNat : Nat)
  if neg then -v else v

/-- The exact sum of two finite values as (sign, magnitude, exponent), with the zero rule of R112. -/
def exactSum (n1 : Bool) (m1 : Nat) (e1 : Int) (n2 : Bool) (m2 : Nat) (e2 : Int) (mode : RMode) : Bool × Nat × Int :=
  let e := min e1 e2
  let s := scaled n1 m1 e1 e + scaled n2 m2 e2 e
  if s = 0 then ((if n1 = n2 then n1 else mode == .rdn), 0, 0) else (decide (s < 0), s.natAbs, e)

/-- a + b, rounded once (R110 to R114). -/
def FV.add (a b : FV) (p : Nat) (mode : RMode) : FV × FFlags :=
  match firstNan [a, b] p with
  | some r => (r, snanFlag [a, b])
  | none =>
    match a, b with
    | .inf s, .inf t => if s = t then (.inf s, 0) else (.dnan, FFlags.nv)
    | .inf s, _ => (.inf s, 0)
    | _, .inf t => (.inf t, 0)
    | .fin n1 m1 e1, .fin n2 m2 e2 =>
      let r := exactSum n1 m1 e1 n2 m2 e2 mode
      roundF r.1 r.2.1 r.2.2 (Fmt.vf p) mode
    | _, _ => (.dnan, 0)

/-- a · b, rounded once. -/
def FV.mul (a b : FV) (p : Nat) (mode : RMode) : FV × FFlags :=
  match firstNan [a, b] p with
  | some r => (r, snanFlag [a, b])
  | none =>
    let s := a.sign != b.sign
    match a, b with
    | .inf _, .fin _ m _ => if m = 0 then (.dnan, FFlags.nv) else (.inf s, 0)
    | .fin _ m _, .inf _ => if m = 0 then (.dnan, FFlags.nv) else (.inf s, 0)
    | .fin _ m1 e1, .fin _ m2 e2 => roundF s (m1 * m2) (e1 + e2) (Fmt.vf p) mode
    | _, _ => (.inf s, 0)

/-- a / b, rounded once (R113 for zero and infinite operands). -/
def FV.div (a b : FV) (p : Nat) (mode : RMode) : FV × FFlags :=
  match firstNan [a, b] p with
  | some r => (r, snanFlag [a, b])
  | none =>
    let s := a.sign != b.sign
    match a, b with
    | .inf _, .inf _ => (.dnan, FFlags.nv)
    | .inf _, _ => (.inf s, 0)
    | _, .inf _ => (.fin s 0 0, 0)
    | .fin _ m1 e1, .fin _ m2 e2 =>
      if m2 = 0 then (if m1 = 0 then (.dnan, FFlags.nv) else (.inf s, FFlags.dz))
      else if m1 = 0 then (.fin s 0 0, 0)
      else
        let sh := p + 3 + m2.log2
        let num := m1 * 2 ^ sh
        roundSticky s (num / m2) (e1 - e2 - sh) (num % m2 != 0) (Fmt.vf p) mode
    | _, _ => (.dnan, 0)

/-- Integer square root by one bit a turn, from bit `k − 1` down. -/
def isqrt (n : Nat) : Nat → Nat → Nat
  | 0, r => r
  | k + 1, r =>
    let t := r + 2 ^ k
    isqrt n k (if t * t ≤ n then t else r)

/-- Square root, rounded once. -/
def FV.sqrt (a : FV) (p : Nat) (mode : RMode) : FV × FFlags :=
  match firstNan [a] p with
  | some r => (r, snanFlag [a])
  | none =>
    match a with
    | .inf s => if s then (.dnan, FFlags.nv) else (.inf false, 0)
    | .fin s m e =>
      if m = 0 then (.fin s 0 0, 0)
      else if s then (.dnan, FFlags.nv)
      else
        let up := 2 * (p + 3)
        let sh := if (e - up) % 2 = 0 then up else up + 1
        let n := m * 2 ^ sh
        let r := isqrt n (n.log2 / 2 + 1) 0
        roundSticky false r ((e - sh) / 2) (r * r != n) (Fmt.vf p) mode
    | .nan _ _ => (.dnan, 0)

/-- a · b + c, rounded once; NaN operands in the order a, b, c, and NV for 0 · ∞ (R113, R114). -/
def FV.fma (a b c : FV) (p : Nat) (mode : RMode) : FV × FFlags :=
  let bad : Bool :=
    match a, b with
    | .inf _, .fin _ m _ => m == 0
    | .fin _ m _, .inf _ => m == 0
    | _, _ => false
  match firstNan [a, b, c] p with
  | some r => (r, snanFlag [a, b, c] ||| (if bad then FFlags.nv else 0))
  | none =>
    if bad then (.dnan, FFlags.nv) else
    let s := a.sign != b.sign
    match a, b, c with
    | .fin _ m1 e1, .fin _ m2 e2, .fin n3 m3 e3 =>
      let r := exactSum s (m1 * m2) (e1 + e2) n3 m3 e3 mode
      roundF r.1 r.2.1 r.2.2 (Fmt.vf p) mode
    | .fin _ _ _, .fin _ _ _, .inf t => (.inf t, 0)
    | _, _, .inf t => if t = s then (.inf s, 0) else (.dnan, FFlags.nv)
    | _, _, _ => (.inf s, 0)

/-- How two values compare: none when either is a NaN; zeros of both signs are equal (R266). -/
def FV.cmp (a b : FV) : Option Ordering :=
  match a, b with
  | .nan _ _, _ => none
  | _, .nan _ _ => none
  | .inf s, .inf t => some (if s = t then .eq else if s then .lt else .gt)
  | .inf s, _ => some (if s then .lt else .gt)
  | _, .inf t => some (if t then .gt else .lt)
  | .fin n1 m1 e1, .fin n2 m2 e2 =>
    let e := min e1 e2
    some (compare (scaled n1 m1 e1 e) (scaled n2 m2 e2 e))

/-- Round a finite value to an integer under a mode; the flag says whether it was inexact. -/
def roundInt (neg : Bool) (m : Nat) (e : Int) (mode : RMode) : Int × Bool :=
  if e ≥ 0 then
    let v : Int := (m * 2 ^ e.toNat : Nat)
    ((if neg then -v else v), false)
  else
    let sh := (-e).toNat
    let k0 := m / 2 ^ sh
    let rem := m % 2 ^ sh
    let k : Nat := if rem ≠ 0 ∧ roundsUp neg k0 rem sh mode then k0 + 1 else k0
    ((if neg then -(k : Int) else k), rem != 0)

/-- VF to an integer of range lo..hi (R115): NaN gives 0 with NV, out of range saturates with NV, rounding sets NX. -/
def FV.toInt (a : FV) (lo hi : Int) (mode : RMode) : Int × FFlags :=
  match a with
  | .nan _ _ => (0, FFlags.nv)
  | .inf s => (if s then lo else hi, FFlags.nv)
  | .fin n m e =>
    let r := roundInt n m e mode
    if r.1 < lo then (lo, FFlags.nv) else if r.1 > hi then (hi, FFlags.nv)
    else (r.1, if r.2 then FFlags.nx else 0)

/-- An integer as an exact value. -/
def FV.ofInt (i : Int) : FV := .fin (decide (i < 0)) i.natAbs 0

/-! ## VF encodings -/

/-- Bytes of a VF value at precision p (R76). -/
def vfBytes (p : Nat) : Nat := (p + 22) / 8

/-- The encoding of a value held at precision p (R77, R79). -/
def vfEncode (p : Nat) (a : FV) : Nat :=
  let n := vfBytes p
  let w := 8 * n - 16
  let put (frac ex : Nat) (s : Bool) : Nat := frac * 2 ^ 16 + ex * 32 + (if s then 16 else 0) + (n - 1)
  match a with
  | .nan s frac => put (frac / 2 ^ (112 - w)) 2047 s
  | .inf s => put 0 2047 s
  | .fin s m e =>
    if m = 0 then put 0 0 s else
    let top : Int := m.log2 + e
    if top ≥ -1022 then
      let sh : Int := e - top + w
      let full := if sh ≥ 0 then m * 2 ^ sh.toNat else m / 2 ^ (-sh).toNat
      put (full - 2 ^ w) (top + 1023).toNat s
    else
      let sh : Int := e + 1022 + w
      put (if sh ≥ 0 then m * 2 ^ sh.toNat else m / 2 ^ (-sh).toNat) 0 s

/-- The length code of an encoding. -/
def vfLen (v : Nat) : Nat := v % 16

/-- The value of an encoding whose length code is at least 2 (R77). -/
def vfDecode (v : Nat) : FV :=
  let n := vfLen v + 1
  let w := 8 * n - 16
  let s := v.testBit 4
  let ex := v / 32 % 2048
  let frac := v / 2 ^ 16 % 2 ^ w
  if ex = 2047 then
    (if frac = 0 then .inf s else .nan s (frac * 2 ^ (112 - w)))
  else if ex = 0 then .fin s frac (-1022 - w)
  else .fin s (2 ^ w + frac) ((ex : Int) - 1023 - w)

/-! ## IEEE formats and E8M10 -/

/-- Field widths of a binary format. -/
structure Ieee where
  eb : Nat
  fb : Nat
  fmt : Fmt
  deriving DecidableEq, Repr

/-- binary16 (R74). -/
def Ieee.f16 : Ieee := { eb := 5, fb := 10, fmt := Fmt.f16 }
/-- bfloat16 (R74). -/
def Ieee.bf16 : Ieee := { eb := 8, fb := 7, fmt := Fmt.bf16 }
/-- binary32 (R74). -/
def Ieee.f32 : Ieee := { eb := 8, fb := 23, fmt := Fmt.f32 }
/-- binary64 (R74). -/
def Ieee.f64 : Ieee := { eb := 11, fb := 52, fmt := Fmt.f64 }
/-- E8M10 (R83). -/
def Ieee.e8m10 : Ieee := { eb := 8, fb := 10, fmt := Fmt.e8m10 }

/-- Exponent bias. -/
def Ieee.bias (k : Ieee) : Nat := 2 ^ (k.eb - 1) - 1

/-- The value of an encoding (R74, R75, R83). -/
def Ieee.decode (k : Ieee) (x : Nat) : FV :=
  let frac := x % 2 ^ k.fb
  let ex := x / 2 ^ k.fb % 2 ^ k.eb
  let s := x.testBit (k.eb + k.fb)
  if ex = 2 ^ k.eb - 1 then (if frac = 0 then .inf s else .nan s (frac * 2 ^ (112 - k.fb)))
  else if ex = 0 then .fin s frac (1 - (k.bias : Int) - k.fb)
  else .fin s (2 ^ k.fb + frac) ((ex : Int) - k.bias - k.fb)

/-- The encoding of a value that the format holds (after `FV.convert`). -/
def Ieee.encode (k : Ieee) (a : FV) : Nat :=
  let put (frac ex : Nat) (s : Bool) : Nat := (if s then 2 ^ (k.eb + k.fb) else 0) + ex * 2 ^ k.fb + frac
  match a with
  | .nan s frac => put (frac / 2 ^ (112 - k.fb)) (2 ^ k.eb - 1) s
  | .inf s => put 0 (2 ^ k.eb - 1) s
  | .fin s m e =>
    if m = 0 then put 0 0 s else
    let top : Int := m.log2 + e
    if top ≥ k.fmt.emin then
      let sh : Int := e - top + k.fb
      let full := if sh ≥ 0 then m * 2 ^ sh.toNat else m / 2 ^ (-sh).toNat
      put (full - 2 ^ k.fb) (top + k.bias).toNat s
    else
      let sh : Int := e - k.fmt.emin + k.fb
      put (if sh ≥ 0 then m * 2 ^ sh.toNat else m / 2 ^ (-sh).toNat) 0 s

/-- Convert to the format and encode (R115). -/
def Ieee.of (k : Ieee) (a : FV) (mode : RMode) : Nat × FFlags :=
  let r := a.convert k.fmt mode
  (k.encode r.1, r.2)

/-- The value 2^(c − 127) of an E8M0 scale other than 0xFF (R88). -/
def e8m0Exp (c : Nat) : Int := (c : Int) - 127

/-! ## Little-endian bytes -/

/-- The `n` bytes of a number, lowest first (R6). -/
def bytesOf : Nat → Nat → List Byte
  | 0, _ => []
  | n + 1, x => BitVec.ofNat 8 x :: bytesOf n (x / 256)

/-- The number whose bytes are given lowest first (R6). -/
def ofBytes : List Byte → Nat
  | [] => 0
  | b :: bs => b.toNat + 256 * ofBytes bs

/-- A number taken as a two's complement integer of `w` bits. -/
def toSigned (w x : Nat) : Int := if x % 2 ^ w ≥ 2 ^ (w - 1) then ((x % 2 ^ w : Nat) : Int) - 2 ^ w else (x % 2 ^ w : Nat)

/-- An integer modulo 2^w. -/
def wrap (w : Nat) (i : Int) : Nat := (i % (2 ^ w : Int)).toNat

/-- Bytes `off` to `off + n − 1` of a list. -/
def slice (l : List Byte) (off n : Nat) : List Byte := (l.drop off).take n

/-- The little-endian number at an offset of a list of bytes. -/
def field (l : List Byte) (off n : Nat) : Nat := ofBytes (slice l off n)

/-! ## CRC-32C -/

/-- One byte into the CRC register (R95): reflected polynomial 0x82F63B78. -/
def crcByte (c : Nat) : Nat → Nat
  | 0 => c
  | k + 1 => crcByte (if c % 2 = 1 then (c / 2) ^^^ 0x82F63B78 else c / 2) k

/-- `f n`; an evaluation computes the number first. -/
def computed {α : Type} (f : Nat → α) (n : Nat) : α := Nat.casesOn n (f 0) fun k => f (k + 1)

@[simp] theorem computed_eq {α : Type} (f : Nat → α) (n : Nat) : computed f n = f n := by cases n <;> rfl

/-- The CRC register after a list of bytes, computed byte by byte. -/
def crcRun (c : Nat) : List Byte → Nat
  | [] => c
  | b :: bs => computed (fun r => crcRun r bs) (crcByte (c ^^^ b.toNat) 8)

/-- The register after one more byte in front. -/
theorem crcRun_cons (c : Nat) (b : Byte) (bs : List Byte) : crcRun c (b :: bs) = crcRun (crcByte (c ^^^ b.toNat) 8) bs :=
  computed_eq _ _

/-- CRC-32C (R95). -/
def crc32c (l : List Byte) : Nat := (crcRun 0xFFFFFFFF l) ^^^ 0xFFFFFFFF

end Sys2Proof.Machine
end

