-- ==== Sys2Proof/Machine/Crypto.lean ====
section
/-! DEFINITION. AES-256 (FIPS 197) and its XTS mode (IEEE 1619) on a line of 128 bytes, which R68 names for memory encryption
(assumption 22). -/

namespace Sys2Proof.Machine

/-- S-box of AES, 32 entries of a byte in each row, the first lowest (FIPS 197). -/
def aesSub (x : Nat) : Nat :=
  ([0xC072A49CAFA2D4ADF04759FA7DC982CA76ABD7FE2B670130C56F6BF27B777C63,
    0x75B227EBE28012079A059618C323C7041531D871F1E5A534CCF73F362693FDB7,
    0xCF584C4A39BECB6A5BB1FC20ED00D153842FE329B3D63B52A05A6E1B1A2C8309,
    0xD2F3FF1021DAB6BCF5389D928F40A351A89F3C507F02F94585334D43FBAAEFD0,
    0xDB0B5EDE14B8EE4688902A22DC4F816073195D643D7EA7C41744975FEC130CCD,
    0x08AE7A65EAF4566CA94ED58D6D37C8E779E4959162ACD3C25C2406490A3A32E0,
    0x9E1DC186B95735610EF6034866B53E708A8BBD4B1F74DDE8C6B4A61C2E2578BA,
    0x16BB54B00F2D99416842E6BF0D89A18CDF2855CEE9871E9B948ED9691198F8E1].getD (x / 32 % 8) 0 >>> (8 * (x % 32))) % 256

/-- Inverse S-box of AES. -/
def aesUnsub (x : Nat) : Nat :=
  ([0xCBE9DEC444438E3487FF2F9B8239E37CFBD7F3819EA340BF38A53630D56A0952,
    0x25D18B6D49A25B76B224D92866A12E084EC3FA420B954CEE3D23C2A632947B54,
    0x849D8DA75746155EDAB9EDFD5048706C92B6655DCC5CA4D41698688664F6F872,
    0x6B8A130103BDAFC1020F3FCA8F1E2CD00645B3B80558E4F70AD3BC8C00ABD890,
    0x6EDF751CE837F9E28535ADE72274AC9673E6B4F0CECFF297EADC674F4111913A,
    0xF45ACD78FEC0DB9A2079D2C64B3E56FC1BBE18AA0E62B76F89C5291D711AF147,
    0xEF9CC9939F7AE52D0D4AB519A97F51605FEC8027591012B131C7078833A8DD1F,
    0x7D0C2155631469E126D677BA7E042B17619953833CBBEBC8B0F52AAE4D3BE0A0].getD (x / 32 % 8) 0 >>> (8 * (x % 32))) % 256

/-- A byte times x in the field of AES. -/
def aesTwice (a : Nat) : Nat := if a < 128 then 2 * a else (2 * a) ^^^ 0x11B

/-- A byte times a constant below 16 in the field of AES. -/
def aesTimes (k a : Nat) : Nat :=
  let b := aesTwice a
  let c := aesTwice b
  (if k.testBit 0 then a else 0) ^^^ (if k.testBit 1 then b else 0) ^^^ (if k.testBit 2 then c else 0) ^^^
    (if k.testBit 3 then aesTwice c else 0)

/-- XOR byte by byte. -/
def xorBytes (a b : List Nat) : List Nat := (a.zip b).map fun e => e.1 ^^^ e.2

/-- The next eight words of the key schedule of AES-256 from the eight before them and a round constant. -/
def aesSchedule (rcon : Nat) : List (List Nat) → List (List Nat)
  | [w0, w1, w2, w3, w4, w5, w6, w7] =>
    let t := (w7.drop 1 ++ w7.take 1).map aesSub
    let v0 := xorBytes w0 (xorBytes t [rcon, 0, 0, 0])
    let v1 := xorBytes w1 v0
    let v2 := xorBytes w2 v1
    let v3 := xorBytes w3 v2
    let v4 := xorBytes w4 (v3.map aesSub)
    let v5 := xorBytes w5 v4
    let v6 := xorBytes w6 v5
    [v0, v1, v2, v3, v4, v5, v6, xorBytes w7 v6]
  | w => w

/-- The words of the key schedule, eight at a time. -/
def aesWords : Nat → Nat → List (List Nat) → List (List Nat)
  | 0, _, _ => []
  | n + 1, rcon, w => w ++ aesWords n (aesTwice rcon) (aesSchedule rcon w)

/-- Bytes four by four. -/
def fours : Nat → List Nat → List (List Nat)
  | 0, _ => []
  | n + 1, l => l.take 4 :: fours n (l.drop 4)

/-- The 15 round keys of AES-256 for a key of 32 bytes. -/
def aesKeys (key : List Nat) : List (List Nat) :=
  let w := (aesWords 8 1 (fours 8 key)).flatten
  (List.range 15).map fun i => (w.drop (16 * i)).take 16

/-- Byte `i` of a block after its row has moved by its number, to the left or back. -/
def aesRows (back : Bool) (b : List Nat) : List Nat :=
  (List.range 16).map fun i => b.getD (i % 4 + 4 * ((i / 4 + (if back then 4 - i % 4 else i % 4)) % 4)) 0

/-- Every column of a block times a matrix of the field, given by the first row. -/
def aesColumns (row : List Nat) (b : List Nat) : List Nat :=
  (List.range 16).map fun i =>
    (List.range 4).foldl (fun x j => x ^^^ aesTimes (row.getD ((j + 4 - i % 4) % 4) 0) (b.getD (4 * (i / 4) + j) 0)) 0

/-- AES-256 encryption of a block of 16 bytes. -/
def aesEncrypt (key block : List Nat) : List Nat :=
  let ks := aesKeys key
  let b := (List.range 13).foldl (fun b i => xorBytes (aesColumns [2, 3, 1, 1] (aesRows false (b.map aesSub))) (ks.getD (i + 1) []))
    (xorBytes block (ks.getD 0 []))
  xorBytes (aesRows false (b.map aesSub)) (ks.getD 14 [])

/-- AES-256 decryption of a block of 16 bytes. -/
def aesDecrypt (key block : List Nat) : List Nat :=
  let ks := aesKeys key
  let b := (List.range 13).foldl (fun b i => aesColumns [14, 11, 13, 9]
    (xorBytes ((aesRows true b).map aesUnsub) (ks.getD (13 - i) []))) (xorBytes block (ks.getD 14 []))
  xorBytes ((aesRows true b).map aesUnsub) (ks.getD 0 [])

/-- A number as `n` bytes, lowest first. -/
def natBytes (n x : Nat) : List Nat := (List.range n).map fun i => x / 256 ^ i % 256

/-- The number whose bytes are given lowest first. -/
def bytesNat (l : List Nat) : Nat := l.foldr (fun b x => b + 256 * x) 0

/-- The tweak of the next block of XTS. -/
def xtsNext (t : Nat) : Nat := if t < 2 ^ 127 then 2 * t else (2 * t) ^^^ (2 ^ 128 + 0x87)

/-- The eight blocks of a line under XTS, from block `i` with its tweak on. -/
def xtsBlocks (f : List Nat → List Nat) (x : Nat) : Nat → Nat → Nat → Nat
  | 0, _, _ => 0
  | n + 1, i, t =>
    (bytesNat (f (natBytes 16 (x / 2 ^ (128 * i) % 2 ^ 128 ^^^ t))) ^^^ t) * 2 ^ (128 * i) + xtsBlocks f x n (i + 1) (xtsNext t)

/-- AES-XTS-256 of a line (R68): the low half of the key slot is the data key, the high half the tweak key, byte 0 of each the lowest,
and the tweak is the line index (assumption 22). -/
def xtsLine (f : List Nat → List Nat → List Nat) (key : BitVec 512) (line : Nat) (x : BitVec 1024) : BitVec 1024 :=
  let k := natBytes 64 key.toNat
  BitVec.ofNat 1024 (xtsBlocks (f (k.take 32)) x.toNat 8 0 (bytesNat (aesEncrypt (k.drop 32) (natBytes 16 line))))

/-- The stored form of a plaintext line under a key (R68). -/
def xtsEncrypt (key : BitVec 512) (line : Nat) (x : BitVec 1024) : BitVec 1024 := xtsLine aesEncrypt key line x

/-- The plaintext of a stored line under a key (R68). -/
def xtsDecrypt (key : BitVec 512) (line : Nat) (x : BitVec 1024) : BitVec 1024 := xtsLine aesDecrypt key line x

end Sys2Proof.Machine
end

