-- ==== Sys2Proof/Machine/Flags.lean ====
section
/-! DEFINITION. The precision register and every flag computation: PREC's fields, its write check, the merge of flags, the
compare results and the class bits (R108, R109, R131, R266). -/

namespace Sys2Proof.Machine

/-- P of PREC (R108). -/
def precP (w : Word) : Nat := bits w 0 7

/-- RM of PREC (R108). -/
def precRm (w : Word) : RMode := RMode.ofCode (bits w 7 3)

/-- The sticky flags of PREC (R108). -/
def precFlags (w : Word) : FFlags := w.extractLsb' 11 5

/-- Whether a value may be written to PREC: P in 2..113, RM at most 5, reserved bits zero (R108, R130). -/
def precOk (w : Word) : Bool :=
  2 ≤ precP w && precP w ≤ 113 && bits w 7 3 ≤ 5 && bits w 16 48 == 0 && !bit w 10

/-- Merge raised flags into PREC; nothing is ever cleared (R109). -/
def orFlags (w : Word) (f : FFlags) : Word := w ||| (f.setWidth 64 <<< 11)

/-- Replace the sticky flags of PREC. -/
def setFlags (w : Word) (f : FFlags) : Word := (w &&& ~~~(0xF800#64)) ||| (f.setWidth 64 <<< 11)

/-- Flags that a quiet or signalling comparison raises: NV for a signalling NaN, or for any NaN when it signals (R266). -/
def cmpFlags (a b : FV) (signals : Bool) : FFlags :=
  if a.isSnan || b.isSnan || (signals && (a.isNan || b.isNan)) then FFlags.nv else 0

/-- The result of `fcmp` and its relatives as an ordering test; unordered is false (R266). -/
def cmpHolds (o : Option Ordering) (want : Ordering → Bool) : Bool :=
  match o with
  | none => false
  | some r => want r

end Sys2Proof.Machine
end

