-- ==== Sys2Proof/Config.lean ====
section
/-! DEFINITION. What the manual leaves to the module or leaves open: free values (opaque constants, no body) and the
few values of the module that the model fixes (each named in the assumption log).

Every free value takes the plain counter `ctr` of State (read and advanced by the step) or the operands it depends on,
so that nothing in Lean can evaluate it; a statement about it holds for every value. -/

namespace Sys2Proof.Config

/-- Free value: wafer ticks that pass during one step (R456 gives no count of ticks for an instruction) (assumption 2). -/
opaque elapsed : Nat → Nat

/-- Free choice: whether an L1 still holds a line that it held (an L1 may evict at any time, R61) (assumption 2). -/
opaque l1Hit : Nat → Nat → Bool

/-- Free value: how many stores a write-through buffer holds beyond the first before it is full (R66 gives no number) (assumption 19). -/
opaque wtbRoom : Nat

/-- Free value: how many walkers of a chiplet are busy (R50 gives their number, not how long a walk takes) (assumption 36). -/
opaque busyWalkers : Nat → Nat

/-- Free choice: the moment at which a part of an access is performed, counted in writes (R82, R185) (assumption 57). -/
opaque partMoment : Nat → Nat → Nat

/-- Free choice: whether the parts of a store are performed from the last to the first (R185) (assumption 57). -/
opaque partsBack : Nat → Bool

/-- Free choice: how many parts of a store are performed at once (R185) (assumption 57). -/
opaque partsNow : Nat → Nat

/-- Free choice: the line that a slice or a memory-side cache evicts, if any (R58, R59) (assumption 22). -/
opaque evicted : Nat → Nat

/-- Free choice: which value a fetch returns of a word that was stored since the latest launch boundary (R151) (assumption 15). -/
opaque staleFetch : Nat → Nat → Nat

/-- Free choice: which of the agent events that may happen next does happen (assumption 7). -/
opaque pick : Nat → Nat

/-- Free choice: whether a walk uses a cached entry that memory no longer agrees with (R51, R55) (assumption 36). -/
opaque tlbStale : Nat → Nat → Bool

/-- Free choice: which of two data a read under another key meets, the cached plaintext or the decryption (R69). -/
opaque keyHit : Nat → Nat → Bool

/-- Free choice: which of the columns still to be given data bit `i` of the SEC-DED code takes (R437) (assumption 22). -/
opaque eccPick : Nat → Nat

/-- Free choice: whether a slice that is written back and dropped had already written a line back when it was stored to again (R71)
(assumption 35). -/
opaque lineLost : Nat → Nat → Bool

/-- Free value: hallmark words that count flits, misses, hits, dirty lines and buffer occupancy (R444) (assumption 33). -/
opaque hallmarkCount : Nat → Nat → BitVec 64

/-- Free value: a stale byte that an unordered or torn access may return (R328, R378) (assumption 2). -/
opaque staleByte : Nat → Nat → BitVec 8

/-- Free value: TVAL of a poison fault on a plane row or strip entry, which has no address (R303, R430) (assumption 26). -/
opaque planePoison : Nat → Nat → BitVec 64

/-- Free value: the calibrated skew, in ticks, of a chiplet's counter at a synchronising pulse (R456, R457) (assumption 38). -/
opaque skew : Nat → Nat → Nat

/-- Free value: the calibrated depth of a chiplet in the clock-forwarding tree, in ticks (R456) (assumption 38). -/
opaque depth : Nat → Nat

/-- Free choice: whether a clock stretch makes a packet late for its slot (R403, R455) (assumption 45). -/
opaque stretchLate : Nat → Nat → Bool

/-- Free value: the key of a slot that the DRAM set-up loads (R458, R463) (assumption 3). -/
opaque bootKey : Nat → BitVec 512

/-- Free value: the queue pairs of the module's configuration, as number and path MTU (R460) (assumption 40). -/
opaque queuePairs : List (Nat × Nat)

/-- Free value: the MAC, IPv4 and IPv6 address of an Ethernet port in the module's configuration (R460) (assumption 40). -/
opaque portAddress : Nat → BitVec 48 × BitVec 32 × BitVec 128

/-- Free value: the part number, of which R463 gives no value (assumption 41). -/
opaque partNumber : List (BitVec 8)

/-- Free value: the serial number (R463) (assumption 41). -/
opaque serialNumber : List (BitVec 8)

/-- Free value: the SHA-512 digests of the firmware images (R463) (assumption 41). -/
opaque firmwareDigests : List (BitVec 512)

/-- Free value: the digest of a core map, whose function R463 does not name (assumption 41). -/
opaque mapDigest : List (BitVec 8) → BitVec 512

/-- Free value: the signature of an attestation report under the identity key (R463) (assumption 41). -/
opaque signature : List (BitVec 8) → List (BitVec 8)

/-- Free choice: the kind of storage in which an error arises, if any (R437, R438) (assumption 23). -/
opaque strike : Nat → Nat

/-- Free choice: the place there at which it arises (R437, R438) (assumption 23). -/
opaque strikeAt : Nat → Nat

/-- Free choice: the syndrome that it has (R437, R438) (assumption 23). -/
opaque strikeSyndrome : Nat → BitVec 8

/-- Free value: how many checks of the assay stage, or of the residues of a unit, fail for what comes next (R288, R304, R439). -/
opaque upset : Nat → Nat

/-- Whether reading out the state of a fenced core meets an uncorrectable error, for the model's counter and the core (R424, assumption 34). -/
opaque readOutError : Nat → Nat → Bool

/-- DESIGN CHOICE: the physical addresses firmware gives its tables at bring-up (R458 names the registers only) (assumption 5). -/
def cmapBase : Nat := 0x2000
/-- DESIGN CHOICE: address-space table address written by firmware (R458) (assumption 5). -/
def astabBase : Nat := 0x10000
/-- DESIGN CHOICE: hash-group table address written by firmware (R458) (assumption 5). -/
def hgBase : Nat := 0x1000
/-- DESIGN CHOICE: error log ring address written by firmware (R458). -/
def elBase : Nat := 0x20000
/-- DESIGN CHOICE: trap vector that bring-up firmware writes on every core (R429). -/
def tvec : Nat := 0x8000

/-- DESIGN CHOICE: the module is a W960 with no dead core, and logical core `n` is bound to this curve index at shipment, so that
positions 16j+15 are spares (R1, R21, assumption 4). -/
def shippedIndex (n : Nat) : Nat := 16 * (n / 15) + n % 15

end Sys2Proof.Config
end

