-- ==== Sys2Proof/Machine/Places.lean ====
section
/-! DEFINITION. Numbers of places: chiplets, cores and positions on the Hilbert curve, and the regions of the physical address space
(R16 to R19, R39, R56). -/

namespace Sys2Proof.Machine

/-- The chiplet number of a core: 0..255 for a compute core, 256 + 8·M + k for the channel core (M, k). -/
def chipNum (core : Nat) : Nat := if core < 1024 then core / 4 else core - 1024 + 256

/-- The logical chiplet at which a place's traffic enters the meshes (R19, R60). -/
def netChip (n : Nat) : Nat := if n < 256 then n else 4 * ((n - 256) / 8) + (n - 256) % 8 / 2

/-- One turn of the Hilbert curve (R18): the coordinate of index `t` on the curve of side 2^k, from step `i` on. -/
def hilbertStep : Nat → Nat → Nat → Nat × Nat → Nat × Nat
  | 0, _, _, xy => xy
  | k + 1, i, t, (x, y) =>
    let s := 2 ^ i
    let qx := t / 2 % 2
    let qy := (t % 2) ^^^ qx
    let (x, y) := if qy = 0 then (if qx = 1 then (s - 1 - y, s - 1 - x) else (y, x)) else (x, y)
    hilbertStep k (i + 1) (t / 4) (x + s * qx, y + s * qy)

/-- HilbertXY(d, k) (R18). -/
def hilbertXY (d k : Nat) : Nat × Nat := hilbertStep k 0 d (0, 0)

/-- The position number of curve index `d` (R17, R18). -/
def posOfIndex (d : Nat) : Nat := let p := hilbertXY d 5; 32 * p.2 + p.1

/-- The core number 4·chiplet + index of curve index `d` (R17, R18). -/
def coreOfIndex (d : Nat) : Nat := let p := hilbertXY d 5; 4 * (d / 4) + p.1 % 2 + 2 * (p.2 % 2)

/-- The curve index whose position is `p`, searched downward from `k`. -/
def indexOfPos (p : Nat) : Nat → Nat
  | 0 => 0
  | k + 1 => if posOfIndex k = p then k else indexOfPos p k

/-- The core number at position `p` (R17, R24). -/
def coreOfPos (p : Nat) : Nat := coreOfIndex (indexOfPos p 1024)

/-- The position number of a compute core. -/
def posOfCore (c : Nat) : Nat :=
  let d := 4 * (c / 4)
  match [d, d + 1, d + 2, d + 3].find? (fun i => coreOfIndex i == c) with
  | some i => posOfIndex i
  | none => 0

/-- The core of an agent's step that names a position, or a channel core by its core number. -/
def coreNamed (p : Nat) : Nat := if p < 1024 then coreOfPos p else p

/-- The name of a core in such a step. -/
def nameOfCore (c : Nat) : Nat := if c < 1024 then posOfCore c else c

/-- The DRAM bytes of one memory chiplet: 24 GiB (R16, R39). -/
def dramSize : Nat := 0x600000000

/-- Whether the physical address exists (R39) (assumption 52). -/
def paOk (pa : Nat) : Bool :=
  match pa / 2 ^ 48 with
  | 0 => pa % 2 ^ 48 / 2 ^ 41 == 0 && decide (pa % 2 ^ 35 < dramSize)
  | 1 => pa % 2 ^ 48 / 2 ^ 32 == 0
  | _ => false

/-- Whether the address lies in the DRAM region (R39). -/
def isDram (pa : Nat) : Bool := pa / 2 ^ 48 == 0

/-- Whether the address lies in the scratchpad region (R39). -/
def isPad (pa : Nat) : Bool := pa / 2 ^ 48 == 1

/-- The chiplet whose scratchpad window holds the address (R39). -/
def padChip (pa : Nat) : Nat := pa / 2 ^ 24 % 256

/-- The physical address of a chiplet's scratchpad offset (R39). -/
def padAddr (chip off : Nat) : Nat := 2 ^ 48 + chip * 2 ^ 24 + off

/-- The memory chiplet of a DRAM address (R39). -/
def memChip (pa : Nat) : Nat := pa / 2 ^ 35 % 64

/-- ChannelOf (R56): the channel of a DRAM address. -/
def channelOf (pa : Nat) : Nat := (pa / 2 ^ 12 % 8) ^^^ (pa / 2 ^ 15 % 8)

/-- The core number of the channel core that serves a DRAM address (R19, R56). -/
def channelCore (pa : Nat) : Nat := 1024 + 8 * memChip pa + channelOf pa

end Sys2Proof.Machine
end

