-- ==== Sys2Proof/Syntax.lean ====
section
/-! DEFINITION. The instruction set: one constructor for each row of the opcode table.

Rows with an encoding carry their operand fields exactly as the words hold them (R154 to R170): registers and
immediates are bit vectors of the field's width. A field letter is the one the table or the format gives it:
d, a, b, c are register fields, w is the W bit, z a size code, e the sign-extension bit, i the index field,
m a displacement, o an ordering code, s (1 bit) the spool bit of format V and n its slot count field.
Rows without an encoding are steps of engines, of the dispatcher, of the network and of the outside world;
their arguments say what the step concerns. -/

namespace Sys2Proof

/-- The name of a fibre: its launch identifier, its skein number and its fibre index (R336). -/
structure FibreId where
  lid : Nat
  skn : Nat
  fix : Nat
  deriving DecidableEq, Repr

/-- The steps of the module (opcode_table.json), in the order of the table. -/
inductive Instr where
  /-- ADD (R240). Writes the 64-bit sum of ga and gb to gd. -/
  | add (d a b : BitVec 3)
  /-- SUB (R240). Writes ga minus gb, modulo 2^64, to gd. -/
  | sub (d a b : BitVec 3)
  /-- AND (R240). Writes the bitwise AND of ga and gb to gd. -/
  | and (d a b : BitVec 3)
  /-- OR (R240). Writes the bitwise OR of ga and gb to gd. -/
  | or (d a b : BitVec 3)
  /-- XOR (R240). Writes the bitwise XOR of ga and gb to gd. -/
  | xor (d a b : BitVec 3)
  /-- ANDN (R240). Writes ga AND NOT gb to gd. -/
  | andn (d a b : BitVec 3)
  /-- SLL (R241). Shifts ga left by a register amount or an immediate amount. -/
  | sll (d a b : BitVec 3) (x : BitVec 8)
  /-- SRL (R241). Shifts ga right logically by a register amount or an immediate amount. -/
  | srl (d a b : BitVec 3) (x : BitVec 8)
  /-- SRA (R241). Shifts ga right arithmetically by a register amount or an immediate amount. -/
  | sra (d a b : BitVec 3) (x : BitVec 8)
  /-- SLT (R240). Writes 1 to gd when ga is less than gb as signed values, and 0 otherwise. -/
  | slt (d a b : BitVec 3)
  /-- SLTU (R240). Writes 1 to gd when ga is less than gb as unsigned values, and 0 otherwise. -/
  | sltu (d a b : BitVec 3)
  /-- MIN (R240). Writes the signed minimum of ga and gb to gd. -/
  | min (d a b : BitVec 3)
  /-- MAX (R240). Writes the signed maximum of ga and gb to gd. -/
  | max (d a b : BitVec 3)
  /-- MINU (R240). Writes the unsigned minimum of ga and gb to gd. -/
  | minu (d a b : BitVec 3)
  /-- MAXU (R240). Writes the unsigned maximum of ga and gb to gd. -/
  | maxu (d a b : BitVec 3)
  /-- MOV (R240). Copies ga to gd. -/
  | mov (d a : BitVec 3)
  /-- ADDI (R242). Adds the sign-extended imm19 to ga and writes the result to gd. -/
  | addi (d a : BitVec 3) (i : BitVec 19)
  /-- ANDI (R242). ANDs ga with the sign-extended imm19 and writes the result to gd. -/
  | andi (d a : BitVec 3) (i : BitVec 19)
  /-- ORI (R242). ORs ga with the sign-extended imm19 and writes the result to gd. -/
  | ori (d a : BitVec 3) (i : BitVec 19)
  /-- XORI (R242). XORs ga with the sign-extended imm19 and writes the result to gd. -/
  | xori (d a : BitVec 3) (i : BitVec 19)
  /-- LDI (R242). Loads the sign-extended imm19 into gd. -/
  | ldi (d : BitVec 3) (i : BitVec 19)
  /-- LDI_CAT (R243). Shifts gd left by 19 bits and inserts imm19 into the low bits. -/
  | ldiCat (d : BitVec 3) (i : BitVec 19)
  /-- LEA (R244). Writes ga plus gb times a scale of 1, 2, 4 or 8 to gd. -/
  | lea (d a b : BitVec 3) (s : BitVec 2)
  /-- LEA_F (R244). Writes ga plus gb times n(P) to gd. -/
  | leaF (d a b : BitVec 3)
  /-- BF_EXTU (R245). Extracts a bit field of ga and zero-extends it into gd. -/
  | bfExtu (d a b : BitVec 3)
  /-- BF_EXTS (R245). Extracts a bit field of ga and sign-extends it into gd. -/
  | bfExts (d a b : BitVec 3)
  /-- BF_INS (R245). Inserts the low bits of ga into a bit field of gd. -/
  | bfIns (d a b : BitVec 3)
  /-- POPC (R244). Writes the number of 1 bits in ga to gd. -/
  | popc (d a : BitVec 3)
  /-- CLZ (R244). Writes the count of leading zero bits of ga to gd. -/
  | clz (d a : BitVec 3)
  /-- CTZ (R244). Writes the count of trailing zero bits of ga to gd. -/
  | ctz (d a : BitVec 3)
  /-- MUL (R246). Writes the low 64 bits of the product of ga and gb to gd. -/
  | mul (d a b : BitVec 3)
  /-- MULH (R246). Writes the high 64 bits of the signed product to gd. -/
  | mulh (d a b : BitVec 3)
  /-- MULHU (R246). Writes the high 64 bits of the unsigned product to gd. -/
  | mulhu (d a b : BitVec 3)
  /-- DIV (R246). Writes the signed quotient of ga by gb to gd, with fixed results for zero divisors and overflow. -/
  | div (d a b : BitVec 3)
  /-- DIVU (R246). Writes the unsigned quotient of ga by gb to gd. -/
  | divu (d a b : BitVec 3)
  /-- REM (R246). Writes the signed remainder of ga by gb to gd. -/
  | rem (d a b : BitVec 3)
  /-- REMU (R246). Writes the unsigned remainder of ga by gb to gd. -/
  | remu (d a b : BitVec 3)
  /-- B_EQ (R248). Branches when ga equals gb. -/
  | bEq (a b : BitVec 3) (o : BitVec 15)
  /-- B_NE (R248). Branches when ga differs from gb. -/
  | bNe (a b : BitVec 3) (o : BitVec 15)
  /-- B_LT (R248). Branches when ga is less than gb as signed values. -/
  | bLt (a b : BitVec 3) (o : BitVec 15)
  /-- B_GE (R248). Branches when ga is at least gb as signed values. -/
  | bGe (a b : BitVec 3) (o : BitVec 15)
  /-- B_LTU (R248). Branches when ga is less than gb as unsigned values. -/
  | bLtu (a b : BitVec 3) (o : BitVec 15)
  /-- B_GEU (R248). Branches when ga is at least gb as unsigned values. -/
  | bGeu (a b : BitVec 3) (o : BitVec 15)
  /-- B_Z (R248). Branches when ga is zero. -/
  | bZ (a : BitVec 3) (o : BitVec 15)
  /-- B_NZ (R248). Branches when ga is non-zero. -/
  | bNz (a : BitVec 3) (o : BitVec 15)
  /-- JAL (R249). Writes the return address to the link register and jumps to a PC-relative target. -/
  | jal (l : BitVec 3) (o : BitVec 22)
  /-- JR (R250). Jumps to the address held in ga. -/
  | jr (a : BitVec 3)
  /-- JALR (R250). Writes the return address to gd and jumps to the address held in ga. -/
  | jalr (d a : BitVec 3)
  /-- RET (R250). Returns to the address held in ga. -/
  | ret (a : BitVec 3)
  /-- RPT (R253). Opens a repeat frame that captures the next k instructions and replays them count times with strides. -/
  | rpt (k : BitVec 4) (n : BitVec 8) (d a b c : BitVec 3)
  /-- REPEAT_REPLAY (R254). Replays one captured body instruction of an open repeat frame with its fields advanced, without fetching it. -/
  | repeatReplay
  /-- SPAWN (R336). Adds a fibre to the issuing skein, or returns all ones in gd when there is no room. -/
  | spawn (d a b : BitVec 3)
  /-- EXIT (R337). Ends the fibre once its tokens, updates and pending registers have cleared, and ends the skein when no fibre is left. -/
  | exit
  /-- YIELD (R338). Moves the fibre to the end of the round-robin order. -/
  | yield
  /-- SLEEP (R338). Parks the fibre for at least g[ga] ticks. -/
  | sleep (a : BitVec 3)
  /-- EVRET (R340). Leaves the event handler and returns to the address held in shadow g7. -/
  | evret
  /-- EV_EN (R340). Sets bits of EVMASK.EN. -/
  | evEn (m : BitVec 4)
  /-- EV_DIS (R340). Clears bits of EVMASK.EN. -/
  | evDis (m : BitVec 4)
  /-- EV_WAIT (R340). Parks the event fibre until an enabled event is pending. -/
  | evWait
  /-- RGN_BEGIN (R341). Opens a restart region: records the snapshot and sets RGNPC. -/
  | rgnBegin
  /-- RGN_END (R341). Closes the open restart region. -/
  | rgnEnd
  /-- TOPO_GRID (R346). Returns the exposed core count, the grid width and rows, and the grade. -/
  | topoGrid (d : BitVec 3)
  /-- TOPO_SELF (R346). Returns the fibre's logical core, chiplet, core index, home entry and skein number. -/
  | topoSelf (d : BitVec 3)
  /-- TOPO_CORE (R346). Returns the chiplet and map state of a logical core. -/
  | topoCore (d a : BitVec 3)
  /-- TOPO_DOM (R346). Returns the domain ID and valid bit at a level. -/
  | topoDom (d a : BitVec 3)
  /-- TOPO_STATE (R346). Returns the bring-up state of a chiplet. -/
  | topoState (d a : BitVec 3)
  /-- TOPO_LAUNCH (R346). Returns the launch's skein count and fibres per skein. -/
  | topoLaunch (d : BitVec 3)
  /-- LAUNCH (R427). Copies a launch record into a queue's ring and rings its doorbell, or returns all ones when the ring is full. -/
  | launch (d a b : BitVec 3)
  /-- LCH_STAT (R426). Returns the state and status of a launch of the fibre's ASID. -/
  | lchStat (d a : BitVec 3)
  /-- CKPT (R426). Writes the fibre's own checkpoint. -/
  | ckpt
  /-- LQ_SET (R409). Configures a launch queue from a descriptor, or disables it. -/
  | lqSet (a b : BitVec 3)
  /-- LCH_ABORT (R426). Stops every fibre of a launch without a checkpoint and ends the launch with status 2 or 3. -/
  | lchAbort (a : BitVec 3)
  /-- LCH_RESUME (R425). Places the relocated skeins of a launch. -/
  | lchResume (a : BitVec 3)
  /-- LD (R189). Relaxed integer load of 1, 2, 4 or 8 bytes into a general register. -/
  | ld (z : BitVec 2) (e : BitVec 1) (d b : BitVec 3) (i : BitVec 4) (w : BitVec 1) (m : BitVec 9)
  /-- LD_ACQ (R190). Integer load with acquire at chip scope. -/
  | ldAcq (z : BitVec 2) (e : BitVec 1) (d b : BitVec 3) (i : BitVec 4) (w : BitVec 1) (m : BitVec 9)
  /-- LD_FE (R196). Full/empty-ordered integer load that waits until the word is full. -/
  | ldFe (z : BitVec 2) (e : BitVec 1) (d b : BitVec 3) (i : BitVec 4) (w : BitVec 1) (m : BitVec 9)
  /-- LD_NT (R199). Non-temporal relaxed integer load that bypasses the L1. -/
  | ldNt (z : BitVec 2) (e : BitVec 1) (d b : BitVec 3) (i : BitVec 4) (w : BitVec 1) (m : BitVec 9)
  /-- ST (R189). Relaxed integer store of 1, 2, 4 or 8 bytes. -/
  | st (z : BitVec 2) (g b : BitVec 3) (i : BitVec 4) (w : BitVec 1) (m : BitVec 9)
  /-- ST_REL (R190). Integer store with release at chip scope. -/
  | stRel (z : BitVec 2) (g b : BitVec 3) (i : BitVec 4) (w : BitVec 1) (m : BitVec 9)
  /-- ST_FE (R196). Full/empty-ordered integer store that writes the bytes and sets the word full. -/
  | stFe (z : BitVec 2) (g b : BitVec 3) (i : BitVec 4) (w : BitVec 1) (m : BitVec 9)
  /-- ST_NT (R199). Non-temporal relaxed integer store. -/
  | stNt (z : BitVec 2) (g b : BitVec 3) (i : BitVec 4) (w : BitVec 1) (m : BitVec 9)
  /-- LD_F (R191). Loads one VF value into a float register and rounds it to P. -/
  | ldF (f : BitVec 6) (b : BitVec 3) (i : BitVec 4) (w : BitVec 1) (o : BitVec 2) (m : BitVec 9)
  /-- ST_F (R192). Stores a float register as n(P) bytes. -/
  | stF (f : BitVec 6) (b : BitVec 3) (i : BitVec 4) (w : BitVec 1) (o : BitVec 2) (m : BitVec 9)
  /-- LD_F_ADV (R191). Loads a VF value at the stored length and advances the base register past it. -/
  | ldFAdv (f : BitVec 6) (b : BitVec 3) (w : BitVec 1) (o : BitVec 2)
  /-- VLD (R193). Contiguous integer vector load of 256 bytes. -/
  | vld (z : BitVec 2) (v : BitVec 4) (b : BitVec 3) (i : BitVec 4) (w : BitVec 1) (o : BitVec 2) (m : BitVec 9)
  /-- VLD_GATHER (R194). Integer vector gather through the int32 offsets of a vector register. -/
  | vldGather (z : BitVec 2) (v : BitVec 4) (b j : BitVec 3) (w : BitVec 1) (o : BitVec 2) (m : BitVec 9)
  /-- VST (R193). Contiguous integer vector store of 256 bytes. -/
  | vst (z : BitVec 2) (v : BitVec 4) (b : BitVec 3) (i : BitVec 4) (w : BitVec 1) (o : BitVec 2) (m : BitVec 9)
  /-- VST_SCATTER (R194). Integer vector scatter through the int32 offsets of a vector register. -/
  | vstScatter (z : BitVec 2) (v : BitVec 4) (b j : BitVec 3) (w : BitVec 1) (o : BitVec 2) (m : BitVec 9)
  /-- VLD_F (R195). Contiguous VF vector load, with each lane rounded to P. -/
  | vldF (v : BitVec 4) (b : BitVec 3) (i : BitVec 4) (w : BitVec 1) (o : BitVec 2) (m : BitVec 9)
  /-- VLD_F_GATHER (R194). VF vector gather through the int32 offsets of a vector register. -/
  | vldFGather (v : BitVec 4) (b j : BitVec 3) (w : BitVec 1) (o : BitVec 2) (m : BitVec 9)
  /-- VST_F (R195). Contiguous VF vector store. -/
  | vstF (v : BitVec 4) (b : BitVec 3) (i : BitVec 4) (w : BitVec 1) (o : BitVec 2) (m : BitVec 9)
  /-- VST_F_SCATTER (R194). VF vector scatter through the int32 offsets of a vector register. -/
  | vstFScatter (v : BitVec 4) (b j : BitVec 3) (w : BitVec 1) (o : BitVec 2) (m : BitVec 9)
  /-- LD_FE_TAKE (R197). Waits until the word is full, then reads it and sets it empty as one action. -/
  | ldFeTake (d a : BitVec 3)
  /-- FE_CLR (R197). Sets a word empty. -/
  | feClr (a : BitVec 3)
  /-- FE_SET (R197). Sets a word full and wakes its waiters. -/
  | feSet (a : BitVec 3)
  /-- FE_TEST (R197). Returns a word's full/empty bit without waiting. -/
  | feTest (d a : BitVec 3)
  /-- G_EMPTY (R197). Sets a general register to state empty. -/
  | gEmpty (d : BitVec 3)
  /-- PF_L2 (R200). Prefetches a line into its home L2 slice. -/
  | pfL2 (b : BitVec 3) (i : BitVec 4) (m : BitVec 9)
  /-- PF_MSC (R200). Prefetches a line into its memory-side cache. -/
  | pfMsc (b : BitVec 3) (i : BitVec 4) (m : BitVec 9)
  /-- PF_L1 (R200). Prefetches a line into the issuing core's L1. -/
  | pfL1 (b : BitVec 3) (i : BitVec 4) (m : BitVec 9)
  /-- LD_SCOPED (R190). Integer load with an acquire at a named scope, or a relaxed load with an unscaled displacement. -/
  | ldScoped (d a : BitVec 3) (w : BitVec 1) (z : BitVec 2) (e : BitVec 1) (sc : BitVec 4) (o : BitVec 2) (i : BitVec 4) (m : BitVec 22)
  /-- ST_SCOPED (R190). Integer store with a release at a named scope, or a relaxed store with an unscaled displacement. -/
  | stScoped (g a : BitVec 3) (w : BitVec 1) (z : BitVec 2) (sc : BitVec 4) (o : BitVec 2) (i : BitVec 4) (m : BitVec 22)
  /-- AMO_ADD (R353). Atomic fetch-and-add at the home. -/
  | amoAdd (d a b : BitVec 3) (s : BitVec 1)
  /-- AMO_AND (R353). Atomic fetch-and-AND at the home. -/
  | amoAnd (d a b : BitVec 3) (s : BitVec 1)
  /-- AMO_OR (R353). Atomic fetch-and-OR at the home. -/
  | amoOr (d a b : BitVec 3) (s : BitVec 1)
  /-- AMO_XOR (R353). Atomic fetch-and-XOR at the home. -/
  | amoXor (d a b : BitVec 3) (s : BitVec 1)
  /-- AMO_MIN (R353). Atomic fetch-and-signed-minimum at the home. -/
  | amoMin (d a b : BitVec 3) (s : BitVec 1)
  /-- AMO_MAX (R353). Atomic fetch-and-signed-maximum at the home. -/
  | amoMax (d a b : BitVec 3) (s : BitVec 1)
  /-- AMO_MINU (R353). Atomic fetch-and-unsigned-minimum at the home. -/
  | amoMinu (d a b : BitVec 3) (s : BitVec 1)
  /-- AMO_MAXU (R353). Atomic fetch-and-unsigned-maximum at the home. -/
  | amoMaxu (d a b : BitVec 3) (s : BitVec 1)
  /-- AMO_SWAP (R353). Atomic swap at the home. -/
  | amoSwap (d a b : BitVec 3) (s : BitVec 1)
  /-- AMO_INC (R353). Atomic wrapping increment at the home. -/
  | amoInc (d a b : BitVec 3) (s : BitVec 1)
  /-- AMO_DEC (R353). Atomic wrapping decrement at the home. -/
  | amoDec (d a b : BitVec 3) (s : BitVec 1)
  /-- CAS (R353). Atomic compare-and-swap at the home. -/
  | cas (d a b : BitVec 3) (s : BitVec 1) (c : BitVec 3)
  /-- UPD_ADD (R358). Spawns a remote-update fibre that adds at the home. -/
  | updAdd (a b : BitVec 3) (s : BitVec 1)
  /-- UPD_AND (R358). Spawns a remote-update fibre that ANDs at the home. -/
  | updAnd (a b : BitVec 3) (s : BitVec 1)
  /-- UPD_OR (R358). Spawns a remote-update fibre that ORs at the home. -/
  | updOr (a b : BitVec 3) (s : BitVec 1)
  /-- UPD_XOR (R358). Spawns a remote-update fibre that XORs at the home. -/
  | updXor (a b : BitVec 3) (s : BitVec 1)
  /-- UPD_MIN (R358). Spawns a remote-update fibre that takes the signed minimum at the home. -/
  | updMin (a b : BitVec 3) (s : BitVec 1)
  /-- UPD_MAX (R358). Spawns a remote-update fibre that takes the signed maximum at the home. -/
  | updMax (a b : BitVec 3) (s : BitVec 1)
  /-- UPD_MINU (R358). Spawns a remote-update fibre that takes the unsigned minimum at the home. -/
  | updMinu (a b : BitVec 3) (s : BitVec 1)
  /-- UPD_MAXU (R358). Spawns a remote-update fibre that takes the unsigned maximum at the home. -/
  | updMaxu (a b : BitVec 3) (s : BitVec 1)
  /-- MIGRATE (R357). Moves the fibre to the executing core of an address's home. -/
  | migrate (a : BitVec 3)
  /-- MIGRATE_RET (R357). Sends a guest fibre home. -/
  | migrateRet
  /-- AMO_SCOPED (R354). Fetch-and-op with an acquire, release or both at a named scope and a displacement. -/
  | amoScoped (d a b : BitVec 3) (w : BitVec 1) (op : BitVec 6) (sc : BitVec 4) (o : BitVec 2) (m : BitVec 22)
  /-- CAS_SCOPED (R354). Compare-and-swap with an acquire, release or both at a named scope and a displacement. -/
  | casScoped (d a b c : BitVec 3) (w s : BitVec 1) (sc : BitVec 4) (o : BitVec 2) (m : BitVec 22)
  /-- BAR_ARR (R360). Release arrival at a named barrier, returning the phase. -/
  | barArr (d a : BitVec 3) (n : BitVec 5)
  /-- BAR_ARR_RLX (R360). Relaxed arrival at a named barrier. -/
  | barArrRlx (d a : BitVec 3) (n : BitVec 5)
  /-- BAR_WAIT (R360). Waits until the barrier's phase parity differs from the given one, then acquires. -/
  | barWait (a : BitVec 3) (n : BitVec 5)
  /-- BAR_SYNC (R360). Release arrival at a named barrier, then a wait for that phase. -/
  | barSync (a : BitVec 3) (n : BitVec 5)
  /-- BAR_RMT (R362). Sends an arrival on CTL to a barrier of another skein of the launch. -/
  | barRmt (a b : BitVec 3) (r : BitVec 1) (s : BitVec 3)
  /-- REMOTE_ARRIVAL (R362). A remote barrier arrival reaches its target and is counted, or is refused into the dead-letter log. -/
  | remoteArrival (k : Nat)
  /-- SEM_POST (R363). Release, then adds to a semaphore's count, saturating, and wakes waiters. -/
  | semPost (a : BitVec 3) (s : BitVec 6)
  /-- SEM_WAIT (R363). Waits in arrival order until the count suffices, then subtracts and acquires. -/
  | semWait (a : BitVec 3) (s : BitVec 6)
  /-- SEM_TRY (R363). Subtracts from a semaphore when no request is queued and the count suffices, without parking. -/
  | semTry (d a : BitVec 3) (s : BitVec 6)
  /-- SEM_RD (R363). Reads a semaphore's count. -/
  | semRd (d : BitVec 3) (s : BitVec 6)
  /-- FENCE (R365). Orders the fibre's earlier accesses before its later ones at a scope. -/
  | fence (s : BitVec 3)
  /-- FENCE_ACQ (R365). Orders earlier loads before later accesses at a scope. -/
  | fenceAcq (s : BitVec 3)
  /-- FENCE_REL (R365). Orders earlier accesses before later stores at a scope. -/
  | fenceRel (s : BitVec 3)
  /-- TWAIT (R366). Waits until the selected tokens' counts are zero, then acquires, or raises the token fault. -/
  | twait (t : BitVec 8)
  /-- DBAR_ARR (R368). Release arrival at the launch's domain barrier of a level. -/
  | dbarArr (d a l : BitVec 3)
  /-- DBAR_WAIT (R368). Waits until the domain phase number changes, then acquires. -/
  | dbarWait (a l : BitVec 3)
  /-- DBAR_SYNC (R368). Domain barrier arrival followed by a wait for that phase. -/
  | dbarSync (a l : BitVec 3)
  /-- DPHASE (R368). Returns the current domain phase number. -/
  | dphase (d l : BitVec 3)
  /-- DPHASE_T (R368). Returns the tick TP of the latest completed phase. -/
  | dphaseT (d l : BitVec 3)
  /-- DBAR_CONTRIBUTION (R367). A skein's contribution climbs the CTL combining tree; at the root the last one advances the phase number and stamps TP. -/
  | dbarContribution (k : Nat)
  /-- DBAR_PHASE_FLOOD (R367). The flooded phase number and TP reach a participant core and release its domain-barrier waiters. -/
  | dbarPhaseFlood (k : Nat)
  /-- FADD (R262). VF addition rounded once at P. -/
  | fadd (d a b : BitVec 6)
  /-- FSUB (R262). VF subtraction rounded once at P. -/
  | fsub (d a b : BitVec 6)
  /-- FMUL (R262). VF multiplication rounded once at P. -/
  | fmul (d a b : BitVec 6)
  /-- FDIV (R262). VF division rounded once at P. -/
  | fdiv (d a b : BitVec 6)
  /-- FSQRT (R262). VF square root rounded once at P. -/
  | fsqrt (d a : BitVec 6)
  /-- FMIN (R264). Returns the lesser operand, with the NaN rules of R264. -/
  | fmin (d a b : BitVec 6)
  /-- FMAX (R264). Returns the greater operand, with the NaN rules of R264. -/
  | fmax (d a b : BitVec 6)
  /-- FRINT (R263). Rounds to an integer under RM without setting NX. -/
  | frint (d a : BitVec 6)
  /-- FRINT_X (R263). Rounds to an integer under RM and sets NX when inexact. -/
  | frintX (d a : BitVec 6)
  /-- FMA (R265). Computes a·b + c with one rounding. -/
  | fma (d a b c : BitVec 6)
  /-- FNMA (R265). Computes −(a·b) − c with one rounding. -/
  | fnma (d a b c : BitVec 6)
  /-- FMS (R265). Computes a·b − c with one rounding. -/
  | fms (d a b c : BitVec 6)
  /-- FNMS (R265). Computes −(a·b) + c with one rounding. -/
  | fnms (d a b c : BitVec 6)
  /-- FEQ (R266). Writes 1 to a general register when two float registers are equal. -/
  | feq (d : BitVec 3) (a b : BitVec 6)
  /-- FLT (R266). Signalling less-than compare. -/
  | flt (d : BitVec 3) (a b : BitVec 6)
  /-- FLE (R266). Signalling less-or-equal compare. -/
  | fle (d : BitVec 3) (a b : BitVec 6)
  /-- FLT_Q (R266). Quiet less-than compare. -/
  | fltQ (d : BitVec 3) (a b : BitVec 6)
  /-- FLE_Q (R266). Quiet less-or-equal compare. -/
  | fleQ (d : BitVec 3) (a b : BitVec 6)
  /-- FCMP (R266). Returns equal, less, greater or unordered as 0..3. -/
  | fcmp (d : BitVec 3) (a b : BitVec 6)
  /-- FCLASS (R266). Returns a one-hot class mask of a float register. -/
  | fclass (d : BitVec 3) (a : BitVec 6)
  /-- PREC_SET (R269). Writes PREC from ga through WritePrec. -/
  | precSet (a : BitVec 3)
  /-- PREC_P (R269). Writes P through WritePrec. -/
  | precP (n : BitVec 7)
  /-- PREC_RM (R269). Writes RM through WritePrec. -/
  | precRm (m : BitVec 3)
  /-- PREC_GET (R269). Reads PREC into gd. -/
  | precGet (d : BitVec 3)
  /-- PREC_SWAP (R269). Writes PREC from ga and returns the old value in gd. -/
  | precSwap (d a : BitVec 3)
  /-- FFLAGS_RD (R269). Reads the PREC flags into gd. -/
  | fflagsRd (d : BitVec 3)
  /-- FFLAGS_CLR (R269). Clears the selected PREC flags. -/
  | fflagsClr (m : BitVec 5)
  /-- FWIN_SET (R269). Sets FWIN.SIZE under R128 and discards the window. -/
  | fwinSet (s : BitVec 3)
  /-- FWIN_GET (R269). Reads FWIN into gd. -/
  | fwinGet (d : BitVec 3)
  /-- FMOV (R267). Copies a float register. -/
  | fmov (d a : BitVec 6)
  /-- FNEG (R267). Copies a float register with its sign inverted. -/
  | fneg (d a : BitVec 6)
  /-- FABS (R267). Copies a float register with its sign cleared. -/
  | fabs (d a : BitVec 6)
  /-- FSGN (R267). Copies fa with the sign of fb. -/
  | fsgn (d a b : BitVec 6)
  /-- FSGNN (R267). Copies fa with the inverted sign of fb. -/
  | fsgnn (d a b : BitVec 6)
  /-- FSGNX (R267). Copies fa with the XOR of both signs. -/
  | fsgnx (d a b : BitVec 6)
  /-- FCONST (R268). Writes a listed constant rounded at P. -/
  | fconst (d n : BitVec 6)
  /-- VADD_VF (R277). Lane-wise VF add; vb may be a spool operand. -/
  | vaddVf (d a b : BitVec 4) (s w : BitVec 1) (m : BitVec 3) (n : BitVec 4)
  /-- VSUB_VF (R277). Lane-wise VF subtract. -/
  | vsubVf (d a b : BitVec 4) (s w : BitVec 1) (m : BitVec 3) (n : BitVec 4)
  /-- VMUL_VF (R277). Lane-wise VF multiply. -/
  | vmulVf (d a b : BitVec 4) (s w : BitVec 1) (m : BitVec 3) (n : BitVec 4)
  /-- VDIV_VF (R277). Lane-wise VF divide. -/
  | vdivVf (d a b : BitVec 4) (s w : BitVec 1) (m : BitVec 3) (n : BitVec 4)
  /-- VMIN_VF (R277). Lane-wise VF minimum. -/
  | vminVf (d a b : BitVec 4) (s w : BitVec 1) (m : BitVec 3) (n : BitVec 4)
  /-- VMAX_VF (R277). Lane-wise VF maximum. -/
  | vmaxVf (d a b : BitVec 4) (s w : BitVec 1) (m : BitVec 3) (n : BitVec 4)
  /-- VSQRT_VF (R277). Lane-wise VF square root. -/
  | vsqrtVf (d a : BitVec 4) (w : BitVec 1) (m : BitVec 3)
  /-- VNEG_VF (R277). Lane-wise sign inversion. -/
  | vnegVf (d a : BitVec 4) (w : BitVec 1) (m : BitVec 3)
  /-- VABS_VF (R277). Lane-wise absolute value. -/
  | vabsVf (d a : BitVec 4) (w : BitVec 1) (m : BitVec 3)
  /-- VRINT_VF (R277). Lane-wise round to integer, as frint.x. -/
  | vrintVf (d a : BitVec 4) (w : BitVec 1) (m : BitVec 3)
  /-- VADD_INT (R279). Lane-wise wrapping integer add. -/
  | vaddInt (d a b : BitVec 4) (s w : BitVec 1) (m : BitVec 3) (n : BitVec 4) (z : BitVec 2)
  /-- VSUB_INT (R279). Lane-wise wrapping integer subtract. -/
  | vsubInt (d a b : BitVec 4) (s w : BitVec 1) (m : BitVec 3) (n : BitVec 4) (z : BitVec 2)
  /-- VMUL_INT (R279). Lane-wise integer multiply, low bits. -/
  | vmulInt (d a b : BitVec 4) (s w : BitVec 1) (m : BitVec 3) (n : BitVec 4) (z : BitVec 2)
  /-- VADDS (R279). Lane-wise signed saturating add. -/
  | vadds (d a b : BitVec 4) (s w : BitVec 1) (m : BitVec 3) (n : BitVec 4) (z : BitVec 2)
  /-- VADDUS (R279). Lane-wise unsigned saturating add. -/
  | vaddus (d a b : BitVec 4) (w : BitVec 1) (m : BitVec 3) (z : BitVec 2)
  /-- VSUBS (R279). Lane-wise signed saturating subtract. -/
  | vsubs (d a b : BitVec 4) (w : BitVec 1) (m : BitVec 3) (z : BitVec 2)
  /-- VSUBUS (R279). Lane-wise unsigned saturating subtract. -/
  | vsubus (d a b : BitVec 4) (w : BitVec 1) (m : BitVec 3) (z : BitVec 2)
  /-- VAND (R279). Lane-wise AND. -/
  | vand (d a b : BitVec 4) (w : BitVec 1) (m : BitVec 3) (z : BitVec 2)
  /-- VOR (R279). Lane-wise OR. -/
  | vor (d a b : BitVec 4) (w : BitVec 1) (m : BitVec 3) (z : BitVec 2)
  /-- VXOR (R279). Lane-wise XOR. -/
  | vxor (d a b : BitVec 4) (w : BitVec 1) (m : BitVec 3) (z : BitVec 2)
  /-- VMIN_INT (R279). Lane-wise signed minimum. -/
  | vminInt (d a b : BitVec 4) (w : BitVec 1) (m : BitVec 3) (z : BitVec 2)
  /-- VMAX_INT (R279). Lane-wise signed maximum. -/
  | vmaxInt (d a b : BitVec 4) (w : BitVec 1) (m : BitVec 3) (z : BitVec 2)
  /-- VMINU (R279). Lane-wise unsigned minimum. -/
  | vminu (d a b : BitVec 4) (w : BitVec 1) (m : BitVec 3) (z : BitVec 2)
  /-- VMAXU (R279). Lane-wise unsigned maximum. -/
  | vmaxu (d a b : BitVec 4) (w : BitVec 1) (m : BitVec 3) (z : BitVec 2)
  /-- VSLL (R279). Lane-wise left shift. -/
  | vsll (d a b : BitVec 4) (w : BitVec 1) (m : BitVec 3) (z : BitVec 2)
  /-- VSRL (R279). Lane-wise logical right shift. -/
  | vsrl (d a b : BitVec 4) (w : BitVec 1) (m : BitVec 3) (z : BitVec 2)
  /-- VSRA (R279). Lane-wise arithmetic right shift. -/
  | vsra (d a b : BitVec 4) (w : BitVec 1) (m : BitVec 3) (z : BitVec 2)
  /-- VMULH (R279). Lane-wise high half of the signed product. -/
  | vmulh (d a b : BitVec 4) (w : BitVec 1) (m : BitVec 3) (z : BitVec 2)
  /-- VMULHU (R279). Lane-wise high half of the unsigned product. -/
  | vmulhu (d a b : BitVec 4) (w : BitVec 1) (m : BitVec 3) (z : BitVec 2)
  /-- VFMA_VF (R278). Lane-wise fused a·b + d into vd. -/
  | vfmaVf (d a b : BitVec 4) (s w : BitVec 1) (m : BitVec 3) (n : BitVec 4)
  /-- VFMS_VF (R278). Lane-wise fused a·b − d into vd. -/
  | vfmsVf (d a b : BitVec 4) (s w : BitVec 1) (m : BitVec 3) (n : BitVec 4)
  /-- VFNMA_VF (R278). Lane-wise fused −(a·b) − d into vd. -/
  | vfnmaVf (d a b : BitVec 4) (s w : BitVec 1) (m : BitVec 3) (n : BitVec 4)
  /-- VFNMS_VF (R278). Lane-wise fused −(a·b) + d into vd. -/
  | vfnmsVf (d a b : BitVec 4) (s w : BitVec 1) (m : BitVec 3) (n : BitVec 4)
  /-- VMAC (R278). Lane-wise integer multiply-accumulate into vd. -/
  | vmac (d a b : BitVec 4) (s w : BitVec 1) (m : BitVec 3) (n : BitVec 4) (z : BitVec 2)
  /-- VCMP_EQ_VF (R280). Lane-wise VF equality into a mask. -/
  | vcmpEqVf (d : BitVec 3) (a b : BitVec 4) (s w : BitVec 1) (m : BitVec 3) (n : BitVec 4)
  /-- VCMP_LT_VF (R280). Lane-wise VF less-than into a mask. -/
  | vcmpLtVf (d : BitVec 3) (a b : BitVec 4) (s w : BitVec 1) (m : BitVec 3) (n : BitVec 4)
  /-- VCMP_LE_VF (R280). Lane-wise VF less-or-equal into a mask. -/
  | vcmpLeVf (d : BitVec 3) (a b : BitVec 4) (s w : BitVec 1) (m : BitVec 3) (n : BitVec 4)
  /-- VCMP_UN_VF (R280). Lane-wise unordered test into a mask. -/
  | vcmpUnVf (d : BitVec 3) (a b : BitVec 4) (s w : BitVec 1) (m : BitVec 3) (n : BitVec 4)
  /-- VCMP_EQ_INT (R280). Lane-wise integer equality into a mask. -/
  | vcmpEqInt (d : BitVec 3) (a b : BitVec 4) (s w : BitVec 1) (m : BitVec 3) (n : BitVec 4) (z : BitVec 2)
  /-- VCMP_LT_INT (R280). Lane-wise signed less-than into a mask. -/
  | vcmpLtInt (d : BitVec 3) (a b : BitVec 4) (s w : BitVec 1) (m : BitVec 3) (n : BitVec 4) (z : BitVec 2)
  /-- VCMP_LTU_INT (R280). Lane-wise unsigned less-than into a mask. -/
  | vcmpLtuInt (d : BitVec 3) (a b : BitVec 4) (s w : BitVec 1) (m : BitVec 3) (n : BitVec 4) (z : BitVec 2)
  /-- MAND (R281). Mask AND. -/
  | mand (d a b : BitVec 3) (w : BitVec 1)
  /-- MOR (R281). Mask OR. -/
  | mor (d a b : BitVec 3) (w : BitVec 1)
  /-- MXOR (R281). Mask XOR. -/
  | mxor (d a b : BitVec 3) (w : BitVec 1)
  /-- MANDN (R281). Mask AND NOT. -/
  | mandn (d a b : BitVec 3) (w : BitVec 1)
  /-- MNOT (R281). Mask NOT. -/
  | mnot (d a : BitVec 3) (w : BitVec 1)
  /-- MPOPC (R281). Counts the 1 bits of a mask into a general register. -/
  | mpopc (d a : BitVec 3) (w : BitVec 1)
  /-- MFIRST (R281). Returns the index of a mask's lowest 1 bit. -/
  | mfirst (d a : BitVec 3) (w : BitVec 1)
  /-- MFROMG (R281). Builds a mask from two general registers. -/
  | mfromg (d a b : BitVec 3) (w : BitVec 1)
  /-- MTOG (R281). Copies half of a mask to a general register. -/
  | mtog (d a : BitVec 3) (h w : BitVec 1)
  /-- VRSUM_VF (R282). Pairwise-tree VF sum of the active lanes into lane 0. -/
  | vrsumVf (d a : BitVec 4) (w : BitVec 1) (m : BitVec 3)
  /-- VRMIN_VF (R282). Tree VF minimum of the active lanes. -/
  | vrminVf (d a : BitVec 4) (w : BitVec 1) (m : BitVec 3)
  /-- VRMAX_VF (R282). Tree VF maximum of the active lanes. -/
  | vrmaxVf (d a : BitVec 4) (w : BitVec 1) (m : BitVec 3)
  /-- VSCAN_VF (R283). Sequential VF prefix sum over the active lanes. -/
  | vscanVf (d a : BitVec 4) (w : BitVec 1) (m : BitVec 3)
  /-- VRSUM_INT (R282). Integer sum reduction. -/
  | vrsumInt (d a : BitVec 4) (w : BitVec 1) (m : BitVec 3) (z : BitVec 2)
  /-- VRMIN_INT (R282). Signed minimum reduction. -/
  | vrminInt (d a : BitVec 4) (w : BitVec 1) (m : BitVec 3) (z : BitVec 2)
  /-- VRMAX_INT (R282). Signed maximum reduction. -/
  | vrmaxInt (d a : BitVec 4) (w : BitVec 1) (m : BitVec 3) (z : BitVec 2)
  /-- VRMINU (R282). Unsigned minimum reduction. -/
  | vrminu (d a : BitVec 4) (w : BitVec 1) (m : BitVec 3) (z : BitVec 2)
  /-- VRMAXU (R282). Unsigned maximum reduction. -/
  | vrmaxu (d a : BitVec 4) (w : BitVec 1) (m : BitVec 3) (z : BitVec 2)
  /-- VRAND (R282). AND reduction. -/
  | vrand (d a : BitVec 4) (w : BitVec 1) (m : BitVec 3) (z : BitVec 2)
  /-- VROR (R282). OR reduction. -/
  | vror (d a : BitVec 4) (w : BitVec 1) (m : BitVec 3) (z : BitVec 2)
  /-- VRXOR (R282). XOR reduction. -/
  | vrxor (d a : BitVec 4) (w : BitVec 1) (m : BitVec 3) (z : BitVec 2)
  /-- VSCAN_INT (R283). Integer prefix sum over the active lanes. -/
  | vscanInt (d a : BitVec 4) (w : BitVec 1) (m : BitVec 3) (z : BitVec 2)
  /-- VPERM (R284). Permutes the lanes of va by the indices in vb. -/
  | vperm (d a b : BitVec 4) (s w : BitVec 1) (m : BitVec 3) (n : BitVec 4) (k : BitVec 3)
  /-- VSLIDEUP (R284). Slides the lanes up by g[gb] places. -/
  | vslideup (d a : BitVec 4) (b : BitVec 3) (w : BitVec 1) (m k : BitVec 3)
  /-- VSLIDEDN (R284). Slides the lanes down by g[gb] places. -/
  | vslidedn (d a : BitVec 4) (b : BitVec 3) (w : BitVec 1) (m k : BitVec 3)
  /-- VSPLAT_INT (R284). Broadcasts a general register to every active lane. -/
  | vsplatInt (d : BitVec 4) (a : BitVec 3) (w : BitVec 1) (m : BitVec 3) (z : BitVec 2)
  /-- VSPLAT_VF (R284). Broadcasts a float register to every active lane. -/
  | vsplatVf (d a : BitVec 4) (w : BitVec 1) (m : BitVec 3)
  /-- VEXT_INT (R284). Extracts one integer lane into a general register. -/
  | vextInt (d : BitVec 3) (a : BitVec 4) (b : BitVec 3) (w : BitVec 1) (z : BitVec 2)
  /-- VEXT_VF (R284). Extracts one VF lane into a float register. -/
  | vextVf (d a : BitVec 4) (b : BitVec 3) (w : BitVec 1)
  /-- VINS_INT (R284). Inserts a general register into one lane. -/
  | vinsInt (d : BitVec 4) (a b : BitVec 3) (w : BitVec 1) (m : BitVec 3) (z : BitVec 2)
  /-- VINS_VF (R284). Inserts a float register into one lane. -/
  | vinsVf (d a : BitVec 4) (b : BitVec 3) (w : BitVec 1) (m : BitVec 3)
  /-- VCOMPRESS (R284). Packs the active lanes into the low lanes. -/
  | vcompress (d a : BitVec 4) (w : BitVec 1) (m k : BitVec 3)
  /-- VMOV (R284). Copies all 256 bytes of a vector register. -/
  | vmov (d a : BitVec 4) (w : BitVec 1)
  /-- VCVT_VF_INT (R285). Converts integer lanes of part h to VF. -/
  | vcvtVfInt (d a h : BitVec 4) (w : BitVec 1) (m k : BitVec 3)
  /-- VCVT_INT_VF (R285). Converts VF lanes to integers under PREC.RM. -/
  | vcvtIntVf (d a h : BitVec 4) (w : BitVec 1) (m : BitVec 3) (k : BitVec 2)
  /-- VCVT_INT_VF_RTZ (R285). Converts VF lanes to integers under RTZ. -/
  | vcvtIntVfRtz (d a h : BitVec 4) (w : BitVec 1) (m : BitVec 3) (k : BitVec 2)
  /-- VCVT_VF_IEEE (R285). Converts IEEE lanes to VF. -/
  | vcvtVfIeee (d a h : BitVec 4) (w : BitVec 1) (m : BitVec 3) (k : BitVec 2)
  /-- VCVT_IEEE_VF (R285). Converts VF lanes to an IEEE format. -/
  | vcvtIeeeVf (d a h : BitVec 4) (w : BitVec 1) (m : BitVec 3) (k : BitVec 2)
  /-- SPL_WAIT (R286). Parks until the spool holds at least N filled slots. -/
  | splWait (n h : BitVec 4)
  /-- SPL_REL (R286). Waits for N filled slots, then releases them. -/
  | splRel (n h : BitVec 4)
  /-- SPL_RD (R286). Returns the offset of slot RIX. -/
  | splRd (d : BitVec 3) (h : BitVec 4)
  /-- SPL_WR (R286). Waits for N free slots and returns the offset of slot WIX. -/
  | splWr (d : BitVec 3) (n h : BitVec 4)
  /-- SPL_COMMIT (R286). Waits for N free slots, then counts N slots as filled. -/
  | splCommit (n h : BitVec 4)
  /-- SPL_FILL (R286). Returns FILL without waiting. -/
  | splFill (d : BitVec 3) (h : BitVec 4)
  /-- CVT_VF_INT (R235). Converts an integer in a general register to VF. -/
  | cvtVfInt (a : BitVec 3) (k : BitVec 2) (f : BitVec 6)
  /-- CVT_INT_VF (R236). Converts VF to a saturating integer, optionally under RTZ. -/
  | cvtIntVf (d : BitVec 3) (k : BitVec 2) (r : BitVec 1) (f : BitVec 6)
  /-- CVT_VF_IEEE (R235). Converts an IEEE value to VF. -/
  | cvtVfIeee (a : BitVec 3) (k : BitVec 2) (f : BitVec 6)
  /-- CVT_IEEE_VF (R235). Converts VF to an IEEE bit pattern. -/
  | cvtIeeeVf (d : BitVec 3) (k : BitVec 2) (f : BitVec 6)
  /-- CVT_VF_E8M10 (R235). Converts E8M10 to VF. -/
  | cvtVfE8m10 (a : BitVec 3) (f : BitVec 6)
  /-- CVT_E8M10_VF (R235). Converts VF to E8M10. -/
  | cvtE8m10Vf (d : BitVec 3) (f : BitVec 6)
  /-- TBL_LOAD (R229). Loads and checks a decode-table image into a slot. -/
  | tblLoad (a : BitVec 3) (s : BitVec 2)
  /-- TBL_LOAD_ARR (R229). Loads a decode table for array use, requiring admissibility. -/
  | tblLoadArr (a : BitVec 3) (s : BitVec 2)
  /-- TBL_RD (R228). Reads one entry of a loaded table. -/
  | tblRd (d a : BitVec 3) (s : BitVec 2)
  /-- TBL_INV (R228). Invalidates a decode-table slot. -/
  | tblInv (s : BitVec 2)
  /-- QNT_BF16 (R232). Quantises one block of bfloat16 elements into a tile. -/
  | qntBf16 (d a b : BitVec 3) (s : BitVec 2)
  /-- QNT_F32 (R232). Quantises one block of binary32 elements into a tile. -/
  | qntF32 (d a b : BitVec 3) (s : BitVec 2)
  /-- QNT_VF (R232). Quantises one block of VF elements into a tile. -/
  | qntVf (d a b : BitVec 3) (s : BitVec 2)
  /-- QNT_FIN (R232). Writes a tile's padding, CRC and trailer fields. -/
  | qntFin (d b : BitVec 3) (s : BitVec 2)
  /-- TRIT_PACK (R234). Packs five int8 trits into one byte. -/
  | tritPack (d a : BitVec 3)
  /-- TRIT_UNPACK (R234). Unpacks one byte into five int8 trits. -/
  | tritUnpack (d a : BitVec 3)
  /-- TRIT_PACK_M (R234). Packs 40 trits held as two bit masks. -/
  | tritPackM (d a b : BitVec 3)
  /-- TRIT_UNPACK_M (R234). Unpacks eight bytes into two bit masks. -/
  | tritUnpackM (d a b : BitVec 3)
  /-- BS_SEEK (R226). Sets the bit-stream position and refills BBUF. -/
  | bsSeek (a : BitVec 3)
  /-- BS_GET (R226). Takes w bits, zero-extended. -/
  | bsGet (d : BitVec 3) (w : BitVec 8)
  /-- BS_GETS (R226). Takes w bits, sign-extended. -/
  | bsGets (d : BitVec 3) (w : BitVec 8)
  /-- BS_PEEK (R226). Reads w bits without consuming them. -/
  | bsPeek (d : BitVec 3) (w : BitVec 8)
  /-- BS_SKIP (R226). Discards w bits. -/
  | bsSkip (w : BitVec 8)
  /-- BS_GETR (R226). Takes a register-given number of bits. -/
  | bsGetr (d b : BitVec 3)
  /-- BS_SKIPR (R226). Discards a register-given number of bits. -/
  | bsSkipr (b : BitVec 3)
  /-- BS_RICE (R226). Decodes one Rice code with parameter k. -/
  | bsRice (d : BitVec 3) (k : BitVec 4)
  /-- BS_ALIGN (R226). Drops bits to the next byte boundary. -/
  | bsAlign
  /-- BS_POS (R226). Returns the current stream position. -/
  | bsPos (d : BitVec 3)
  /-- ARR_MV (R296). Array pass of one activation vector into an XACC set. -/
  | arrMv (a b c : BitVec 3) (w : BitVec 1) (acc gm : BitVec 4) (sp : BitVec 1) (sph spn : BitVec 4) (sl : BitVec 2)
  /-- ARR_MM (R296). Array pass of up to 16 activation vectors into consecutive XACC sets. -/
  | arrMm (a b c : BitVec 3) (w : BitVec 1) (acc gm : BitVec 4) (sp : BitVec 1) (sph spn : BitVec 4) (sl : BitVec 2) (nb : BitVec 4)
  /-- ARR_DRAIN (R306). Reads sets out, scales them, rounds them once and writes them to registers, a spool or memory. -/
  | arrDrain (a c : BitVec 3) (w : BitVec 1) (acc : BitVec 4) (dk : BitVec 3) (dst spn ns : BitVec 4)
  /-- ARR_ANCHOR (R308). Sets a set's anchor and resets its output scales to 1.0. -/
  | arrAnchor (a : BitVec 3) (s : BitVec 4)
  /-- ARR_ANCHOR_OS (R307). Sets the anchor and loads 256 output scales. -/
  | arrAnchorOs (a b : BitVec 3) (s : BitVec 4)
  /-- ARR_CLEAR (R307). Clears ACC and XSTAT other than ANCHOR in n sets. -/
  | arrClear (n s : BitVec 4)
  /-- ARR_CLEAR_LD (R309). Loads column entries from XACC partial records. -/
  | arrClearLd (a b : BitVec 3) (s : BitVec 4)
  /-- ARR_STAT (R310). Reports anchor, TC maximum and flags over a column range. -/
  | arrStat (d b : BitVec 3) (s : BitVec 4)
  /-- ARR_STAT_REC (R310). Writes a partial record for each column of a range. -/
  | arrStatRec (a b : BitVec 3) (s : BitVec 4)
  /-- ARR_WSCALE_RD (R307). Reads one scale-strip entry. -/
  | arrWscaleRd (d a : BitVec 3)
  /-- ARR_WSCALE (R307). Writes one scale-strip entry. -/
  | arrWscale (a b : BitVec 3)
  /-- PL_ISECT (R321). Intersects up to eight cursors, scoring and emitting records. -/
  | plIsect (d a b : BitVec 3) (w : BitVec 1) (nc : BitVec 3) (out : BitVec 1) (osp : BitVec 4)
  /-- PL_UNION (R321). Unites up to eight cursors, scoring and emitting records. -/
  | plUnion (d a b : BitVec 3) (w : BitVec 1) (nc : BitVec 3) (out : BitVec 1) (osp : BitVec 4)
  /-- PL_FUSE (R322). Merges lexical records with drained vector scores. -/
  | plFuse (d b : BitVec 3) (w : BitVec 1) (osp isp : BitVec 4)
  /-- PL_TOPK (R323). Keeps the K best records and emits them. -/
  | plTopk (d b : BitVec 3) (w : BitVec 1) (osp isp : BitVec 4)
  /-- PL_OPEN (R315). Opens a cursor on a posting list and captures its descriptor and scoring block. -/
  | plOpen (d a b : BitVec 3)
  /-- PL_CLOSE (R318). Closes a cursor. -/
  | plClose (a : BitVec 3)
  /-- PL_NEXT (R318). Steps a cursor to its next posting. -/
  | plNext (d a : BitVec 3)
  /-- PL_SKIP (R318). Moves a cursor to the first posting at or above a target. -/
  | plSkip (d a b : BitVec 3)
  /-- PL_SCORE (R319). Returns the BM25 term score of the cursor's posting. -/
  | plScore (d a : BitVec 3)
  /-- PL_STAT (R314). Returns a cursor's status word. -/
  | plStat (d a : BitVec 3)
  /-- PL_ENGINE_STEP (R325). One further step of a multi-cursor posting-list instruction, taken in round-robin turn and possibly after a spool wait. -/
  | plEngineStep (f : FibreId)
  /-- CP_PULL (R204). Starts a copy into local scratchpad, a spool or the pricking plane, optionally through the load half-chain. -/
  | cpPull (a b c : BitVec 3) (w : BitVec 1) (fn : BitVec 2) (esz tok lc : BitVec 3) (nt : BitVec 1) (sl : BitVec 2) (fmt : BitVec 3) (tr tc : BitVec 6)
  /-- CP_PUSH (R204). Starts a copy out of local scratchpad, optionally through the store half-chain. -/
  | cpPush (d a b c : BitVec 3) (w : BitVec 1) (fn : BitVec 6) (tok scs : BitVec 3) (nt : BitVec 1) (sl : BitVec 2) (fmt : BitVec 3)
  /-- CP_GATHER (R218). Starts a copy that gathers indexed rows. -/
  | cpGather (d a b c : BitVec 3) (w spl : BitVec 1) (tok : BitVec 3) (nt : BitVec 1) (ixw : BitVec 2) (rblk : BitVec 6)
  /-- COPY_UNIT_DELIVER (R207). The copy engine delivers one delivery unit of a running copy to its destination. -/
  | copyUnitDeliver (ch k : Nat)
  /-- COPY_SPOOL_PIECE (R216). Once a slot is free, the engine writes one piece into a spool slot and counts it. -/
  | copySpoolPiece (ch k : Nat)
  /-- COPY_COMPLETE (R205). A copy completes: flags merge, gd is filled, the token count decrements, the slot frees and notify is raised. -/
  | copyComplete (ch k : Nat)
  /-- MSG_SEND (R387). Sends a message to a skein, optionally expecting a reply or trying with a time limit. -/
  | msgSend (d a b c : BitVec 3) (w tr rpl : BitVec 1) (npl : BitVec 3) (tag : BitVec 8)
  /-- MSG_REPLY (R388). Sends a one-word reply on RPY to the register named by a reply handle. -/
  | msgReply (a b : BitVec 3) (w : BitVec 1)
  /-- MESSAGE_ACCEPT (R392). A waiting send is accepted and delivery is decided from the skein's placement. -/
  | messageAccept (f : FibreId)
  /-- SEND_TRY_TIMEOUT (R387). A msg.send.try that finds no room for 4096 clocks fails with status 0 and makes the send-queue-full event pending. -/
  | sendTryTimeout (f : FibreId)
  /-- SEND_QUEUE_FULL (R394). A blocking send that waits 4096 clocks makes the send-queue-full event pending. -/
  | sendQueueFull (f : FibreId)
  /-- MESSAGE_ARRIVAL (R389). A message enters its core's inbound queue when an entry is free and sets PEND bit 0. -/
  | messageArrival (k : Nat)
  /-- EVENT_ENTRY (R339). An enabled pending event enters the event fibre on the shadow bank. -/
  | eventEntry (f : FibreId)
  /-- REPLY_ARRIVAL (R388). A reply fills the named register of the sending fibre, or is discarded and logged. -/
  | replyArrival (k : Nat)
  /-- REGISTER_FILL (R127). A fill from an agent other than the fibre lands in a general register or in its checkpoint. -/
  | registerFill (f : FibreId) (shadow : Bool) (r : GReg) (v : Word) (nack : Bool)
  /-- STR_SEND (R400). Parks until its frame slot, then injects a 256-byte stream packet. -/
  | strSend (a : BitVec 3) (w : BitVec 1) (lvl : BitVec 3) (mrk mesh : BitVec 1) (vs : BitVec 6) (fs : BitVec 12) (src : BitVec 1) (v : BitVec 4)
  /-- STR_RECV (R404). Receives a stream packet into a vector register, or arms a scratchpad buffer. -/
  | strRecv (a : BitVec 3) (w : BitVec 1) (vs : BitVec 6) (fs : BitVec 12) (src : BitVec 1) (v : BitVec 4)
  /-- STR_BIND (R399). Binds a stream to a spool and sets EXPW. -/
  | strBind (a b : BitVec 3) (n : BitVec 6)
  /-- STR_UNBIND (R399). Unbinds a stream from its spool. -/
  | strUnbind (n : BitVec 6)
  /-- STR_EXP (R399). Sets a stream's expected-contribution word. -/
  | strExp (b : BitVec 3) (n : BitVec 6)
  /-- NET_DRAIN (R405). Parks until every packet that the chiplet injected earlier has been delivered. -/
  | netDrain
  /-- STR_ROUTE (R396). Writes a router stream entry alternative. -/
  | strRoute (a b : BitVec 3)
  /-- STR_RDROUTE (R396). Reads a router stream entry alternative. -/
  | strRdroute (d a : BitVec 3)
  /-- STREAM_SLOT_SEND (R401). At the start tick of its frame slot, a parked stream send injects its packet. -/
  | streamSlotSend (f : FibreId)
  /-- ROUTER_STREAM_PACKET (R396). A stream packet reaches a router and is forwarded, combined or discarded under the current entry. -/
  | routerStreamPacket (k : Nat)
  /-- STREAM_DEFERRED_SEND (R403). A deferred stream packet leaves one frame later. -/
  | streamDeferredSend (k : Nat)
  /-- REDUCTION_LIMIT_EXPIRY (R397). LIM ticks after the first arrival, a reducing entry forwards its partial combination. -/
  | reductionLimitExpiry (k : Nat)
  /-- STREAM_PORT_ARRIVAL (R398). A stream packet reaches a core's port and is combined, fills a bound spool, lands in an armed buffer or is buffered. -/
  | streamPortArrival (k : Nat)
  /-- SRD (R436). Reads a system register into a general register. -/
  | srd (g : BitVec 3) (s : BitVec 12)
  /-- SWR (R436). Writes a general register to a system register. -/
  | swr (g : BitVec 3) (s : BitVec 12)
  /-- SSWP (R436). Swaps a general register with a system register. -/
  | sswp (g : BitVec 3) (s : BitVec 12)
  /-- SSET (R436). ORs a general register into a system register. -/
  | sset (g : BitVec 3) (s : BitVec 12)
  /-- SCLR (R436). Clears the bits of a system register that a general register selects. -/
  | sclr (g : BitVec 3) (s : BitVec 12)
  /-- REGISTER_WRITE (R436). A write of a system register that has no behaviour of its own updates its RW fields. -/
  | registerWrite (reg : BitVec 12) (v : Word)
  /-- PREC_WRITE (R130). A write of PREC checks the new value, re-encodes the live window and merges the flags. -/
  | precWrite (v : Word)
  /-- FWIN_WRITE (R128). A write of FWIN.SIZE checks the size and discards the window. -/
  | fwinWrite (v : Word)
  /-- SKMAP_WRITE (R140). A write of SKMAP sets the skein's ranges, or traps when a range exceeds the core. -/
  | skmapWrite (v : Word)
  /-- SPCFG_WRITE (R141). A write of SPCFGh checks the buffer and clears FILL, WIX and RIX. -/
  | spcfgWrite (h : BitVec 4) (v : Word)
  /-- BBCNT_WRITE (R136). A write of BBCNT clears the data bits at and above the new count. -/
  | bbcntWrite (v : Word)
  /-- BBADDR_WRITE (R136). A write of BBADDR discards the buffered bytes above CNT. -/
  | bbaddrWrite (v : Word)
  /-- NETSEL_WRITE (R35). A write of NETSEL changes the mesh used by later packets, storing 0b11 for 0b10. -/
  | netselWrite (j : BitVec 3) (v : Word)
  /-- SEM_WRITE (R145). A supervisor write of a semaphore replaces its count and wakes no waiter. -/
  | semWrite (k : BitVec 6) (v : Word)
  /-- FREQ_WRITE (R454). A write of FREQ.STEP sets PEND and schedules a step change. -/
  | freqWrite (v : Word)
  /-- DELAYSEL_WRITE (R402). A write of DELAYSEL selects the delay table and slot length, trapping on a bad SLOTL. -/
  | delayselWrite (v : Word)
  /-- ELCTL_WRITE (R440). A write of ELCTL sets logging and ring size and clears DROP bits written as 1. -/
  | elctlWrite (v g : Word)
  /-- HMCTL_WRITE (R442). A write of HMCTL arms triggers or releases a held capture. -/
  | hmctlWrite (v g : Word)
  /-- TRAP (R435). Supervisor call: takes a trap with code 0x20 and the given number. -/
  | trap (a : BitVec 3) (n : BitVec 8)
  /-- TRET (R435). Returns from a trap to TRAPPC and restores the privilege level. -/
  | tret
  /-- TRET_RGN (R435). Returns from a trap through a restart at RGNPC. -/
  | tretRgn
  /-- HALLMARK (R443). Raises the hallmark trigger. -/
  | hallmark
  /-- DIAG_STC (R446). Writes a word with a chosen check byte and full/empty bit. -/
  | diagStc (d a b : BitVec 3) (c r : BitVec 1)
  /-- DIAG_LDC (R445). Reads a word's check byte, syndrome, full/empty bit and poison mark. -/
  | diagLdc (d a : BitVec 3)
  /-- DIAG_LDR (R445). Reads a word as stored, uncorrected. -/
  | diagLdr (d a : BitVec 3)
  /-- DIAG_POISON (R445). Marks a word poisoned. -/
  | diagPoison (a : BitVec 3)
  /-- DIAG_FENCE (R445). Starts hung-core recovery of a logical core. -/
  | diagFence (a : BitVec 3)
  /-- DIAG_HMRD (R444). Reads a hallmark word. -/
  | diagHmrd (d a : BitVec 3)
  /-- L1_INV (R70). Drops every line of the core's L1. -/
  | l1Inv
  /-- L1_DRAIN (R70). Parks until the write-through buffer is empty. -/
  | l1Drain
  /-- L2_WB (R70). Starts writing back a dirty line from its home slice. -/
  | l2Wb (a : BitVec 3)
  /-- L2_WBINV (R70). Writes back and drops a line. -/
  | l2Wbinv (a : BitVec 3)
  /-- L2_INV (R70). Drops a line without writing it back. -/
  | l2Inv (a : BitVec 3)
  /-- L2_WBINV_SLICE (R70). Writes back and drops every line of a slice. -/
  | l2WbinvSlice (a : BitVec 3)
  /-- MSC_WBINV_KEY (R70). Writes back and drops every memory-side cache line of a key. -/
  | mscWbinvKey (a : BitVec 3)
  /-- CM_SYNC (R70). Parks until the fibre's earlier maintenance operations have completed. -/
  | cmSync
  /-- TLB_INV_VA (R53). Starts dropping the translation entries of one VA. -/
  | tlbInvVa (a b : BitVec 3)
  /-- TLB_INV_AS (R53). Starts dropping every entry of an ASID. -/
  | tlbInvAs (a : BitVec 3)
  /-- TLB_INV_ALL (R53). Starts dropping every entry and marks the hash-group table for re-reading. -/
  | tlbInvAll
  /-- TLB_SYNC (R53). Parks until the fibre's earlier invalidations have completed. -/
  | tlbSync
  /-- TLB_PROBE (R53). Translates a VA and returns the result or the failure subcause. -/
  | tlbProbe (d a b : BitVec 3)
  /-- INVALIDATION_COMPLETE (R54). An invalidation completes on a chiplet once no matching entry remains and dependent accesses are performed. -/
  | invalidationComplete (ch k : Nat)
  /-- MAINTENANCE_COMPLETE (R71). A cache maintenance operation completes once every line it covers has been handled. -/
  | maintenanceComplete (k : Nat)
  /-- WALKER_TAKES_MISS (R50). A free walker takes a waiting translation miss and unparks its fibre. -/
  | walkerTakesMiss (f : FibreId)
  /-- DATA_DELIVERED (R66). The data of a DRAM or remote load is delivered and the parked fibre re-enters the ready set. -/
  | dataDelivered (f : FibreId)
  /-- REMOTE_STORE_PERFORMED (R65). A posted remote store is performed at its home bank. -/
  | remoteStorePerformed (p : Nat)
  /-- WRITE_THROUGH_DRAIN (R62). A store leaves the write-through buffer and is performed at its home. -/
  | writeThroughDrain (p k : Nat)
  /-- PATROL_SCRUB (R437). The patrol reads and corrects words within each 2^38-tick period. -/
  | patrolScrub (wd : Nat)
  /-- CHANNEL_RETIRE (R57). Firmware retires a DRAM channel and the spare takes its number, starting poisoned. -/
  | channelRetire (mc k : Nat)
  /-- CHIPLET_LOSS (R28). A compute chiplet loses a resource or its last core and enters FENCED. -/
  | chipletLoss (ch : Nat)
  /-- MIGRATION_ARRIVAL (R343). A migrating fibre takes a guest entry at its target core once one is free. -/
  | migrationArrival (f : FibreId)
  /-- GUEST_INSTRUCTION_LIMIT (R343). A guest that has retired 64 instructions is sent home. -/
  | guestInstructionLimit (f : FibreId)
  /-- GUEST_PARK_LIMIT (R343). A guest parked for 4096 clocks is sent home. -/
  | guestParkLimit (f : FibreId)
  /-- GUEST_RETURN_HOME (R351). A guest arrives home, takes back its entry and acquires at chip scope. -/
  | guestReturnHome (f : FibreId)
  /-- REMOTE_UPDATE_EXECUTE (R358). A remote-update fibre performs its op at the home and decrements UPDOUT. -/
  | remoteUpdateExecute (k : Nat)
  /-- SLEEP_EXPIRY (R338). A sleeping fibre's tick count elapses and the fibre becomes ready. -/
  | sleepExpiry (f : FibreId)
  /-- LAUNCH_DOORBELL (R410). The dispatcher takes a full TAIL and starts accepting records. -/
  | launchDoorbell (q : Nat)
  /-- RECORD_ACCEPT (R410). A record is accepted when a LID is free: copied, given a LID, and HEAD advanced. -/
  | recordAccept (q : Nat)
  /-- LAUNCH_ADMISSION (R415). A ready launch is admitted by priority and its skeins are placed. -/
  | launchAdmission (lid : Nat)
  /-- SKEIN_PLACEMENT (R415). A waiting skein is placed on a core as room appears. -/
  | skeinPlacement (lid skn : Nat)
  /-- PREEMPTION (R417). Lower-priority skeins are pre-empted to make room for a ready launch. -/
  | preemption (lid : Nat)
  /-- LAUNCH_COMPLETION (R416). A launch completes: release, SIGC is signalled and a completion record is written. -/
  | launchCompletion (lid : Nat)
  /-- COMPLETION_RING_RECHECK (R416). At least every 2^20 ticks, the dispatcher re-reads CHEAD to write a held completion record. -/
  | completionRingRecheck (q : Nat)
  /-- GRID_STALL (R348). A grid that retires nothing for 10^6 ticks with unplaced skeins is evicted from or faulted. -/
  | gridStall (lid : Nat)
  /-- HUNG_CORE (R424). A core that retires nothing for 2^20 clocks is fenced, drained, read out, rebound and restored. -/
  | hungCore (p : Nat)
  /-- FREQ_STEP_CHANGE (R454). Every chiplet changes frequency step at tick TF and PEND clears. -/
  | freqStepChange
  /-- CLOCK_STRETCH (R455). A droop detector stretches one clock period of a chiplet. -/
  | clockStretch (ch : Nat)
  /-- SYNC_PULSE (R456). Every 2^20 ticks, a synchronising pulse adjusts each chiplet's tick counter. -/
  | syncPulse
  /-- POWER_ON (R458). Power-on starts the bring-up of every chiplet from OFF. -/
  | powerOn
  /-- BRINGUP_ADVANCE (R458). A chiplet advances to its next bring-up state once its rimward neighbours have. -/
  | bringupAdvance (ch : Nat)
  /-- HALLMARK_LATCH (R443). At tick TL, every block latches its hallmark words and HELD is set. -/
  | hallmarkLatch
  /-- RDMA_WRITE (R382). An RDMA WRITE is checked against its registration and performed block by block, setting TAIL full when it covers it. -/
  | rdmaWrite (qp : Nat) (rkey : BitVec 32) (va : Word) (data : List Byte)
  /-- RDMA_READ (R382). An RDMA READ is checked and performed after the queue pair's earlier writes. -/
  | rdmaRead (qp : Nat) (rkey : BitVec 32) (va : Word) (len : Nat)
  /-- RDMA_INVALID_OPCODE (R460). A RoCEv2 operation other than WRITE or READ is answered with NAK invalid request. -/
  | rdmaInvalidOpcode (qp op : Nat)
  /-- ILLEGAL_INSTRUCTION (R172). A fetched word that is no instruction, such as the all-zero word or an unassigned major or function code, raises the illegal-instruction trap. -/
  | illegalInstruction (base ext : BitVec 32) (sub : Nat)
  /-- INSTRUCTION_FETCH_FAULT (R252). A translation or protection fault in fetching the word at PC is raised on the instruction at that address. -/
  | instructionFetchFault (code sub : Nat) (va : Word)
  /-- VECTOR_INSTRUCTION_COMPLETE (R272). The vector unit reaches a queued instruction in its round-robin turn and finishes step 6, writing destinations, merging flags and releasing the issuing fibre. -/
  | vectorInstructionComplete (ch k : Nat)
  /-- ARRAY_INSTRUCTION_COMPLETE (R299). The array completes a queued pass, drain or maintenance instruction: it releases spool slots, advances a drain spool and lets the fibre and the next queued instruction go on. -/
  | arrayInstructionComplete (ch k : Nat)
  /-- MEMORY_CHIPLET_LOSS (R28). A memory chiplet fails, and its DRAM range, cache and eight channel cores become absent. -/
  | memoryChipletLoss (mc : Nat)
  /-- ROUTER_OR_BOND_LOSS (R28). A router, link or bond fails, and traffic must avoid it while the affected pairs read 0b11. -/
  | routerOrBondLoss (mesh : Bool) (ch dst : Nat)
  /-- EDGE_IO_CHIPLET_LOSS (R28). An edge I/O chiplet fails and its two Ethernet ports become absent. -/
  | edgeIoChipletLoss (e : Nat)
  /-- ATTESTATION_REQUEST (R463). Firmware answers a request with an attestation report signed by the identity key. -/
  | attestationRequest (nonce : List Byte)
  /-- KEY_SLOT_LOAD (R463). A wrapped AES-XTS key arrives, and firmware unwraps it and loads it into a key slot. -/
  | keySlotLoad (slot : Nat) (key : BitVec 512)
  deriving DecidableEq, Repr

end Sys2Proof
end

