-- ==== Sys2Proof/Machine/State.lean ====
section
/-! DEFINITION. The state of the module: everything the manual gives it, as plain data.

One fibre, its skein, the core it runs on and that core's chiplet stand in the fields `fib`, `skein`, `core` and `chip`;
every other one stands in a list. A chiplet or core that no list names holds its reset value. Memory is a list of
(physical address, byte) pairs in one canonical form: addresses strictly rising, no byte equal to the 0 that an
unlisted address reads as (assumption 1). -/

namespace Sys2Proof.Machine

/-- Why the module stops with a fault. -/
inductive Fault where
  /-- Raised by a walker, a reader of a delay table, the dispatcher or firmware that reads or writes a physical address of which
  R39 says that it does not exist. Safe: no register write follows. -/
  | noSuchAddress (pa : Nat)
  deriving DecidableEq, Repr

/-- Why an instruction has no meaning here. -/
inductive Refusal where
  /-- Raised by an arm of `exec` that has no meaning yet. Safe: no state follows. -/
  | notModelled (mnemonic : String)
  deriving DecidableEq, Repr

/-! ## One fibre -/

/-- Fill state of a general register (R126). -/
abbrev Fill := BitVec 2
/-- 0b00 full (R126). -/
abbrev Fill.full : Fill := 0#2
/-- 0b01 empty (R126). -/
abbrev Fill.empty : Fill := 1#2
/-- 0b10 pending: empty with one fill expected (R126). -/
abbrev Fill.pending : Fill := 2#2
/-- 0b11 fault token (R126). -/
abbrev Fill.token : Fill := 3#2

/-- Eight general registers with their fill states (R126, R144). While `acq` of a register is set, its first read is an acquire
(R377, R380). -/
structure Bank where
  val : Vector Word 8
  fill : Vector Fill 8
  acq : Vector Bool 8
  deriving DecidableEq, Repr

/-- Every register 0 and full (R336). -/
def Bank.zero : Bank :=
  { val := Vector.replicate 8 0, fill := Vector.replicate 8 Fill.full, acq := Vector.replicate 8 false }

/-- A restart region: RGNPC and its snapshot (R137, R341, R342). -/
structure Region where
  act : Bool
  pc : Word
  snap : Bank
  prec : Word
  count : Nat
  deriving DecidableEq, Repr

/-- A repeat frame: RPTST and the buffer of captured words (R138, R253 to R258). `words` holds one pair of words for each
captured instruction; the extension word is 0 for a one-word instruction. While `aside`, an open frame waits for a trap
return: the instructions of the handler are none of its body (R257, R432). -/
structure Frame where
  act : Bool
  aside : Bool
  iter : Nat
  pos : Nat
  word : BitVec 32
  start : Word
  words : List (BitVec 32 × BitVec 32)
  deriving DecidableEq, Repr

/-- The completion tokens of a fibre: counts, error bits and token records (R135, R209); `since` counts the writes of the module up to
the latest completion of a copy under each (R379) (assumption 57). -/
structure Tokens where
  count : Vector Nat 8
  err : Vector Bool 8
  record : Vector Word 8
  since : Vector Nat 8
  deriving DecidableEq, Repr

/-- The trap registers of a fibre (R429, R434). -/
structure TrapRegs where
  trappc : Word
  tcause : Word
  tval : Word
  tscr : Word
  deriving DecidableEq, Repr

/-- The bit buffer BBUF (R136). -/
structure BitBuf where
  data : BitVec 128
  cnt : Nat
  addr : Word
  deriving DecidableEq, Repr

/-- A wait of `bar.sync` or `dbar.sync` whose arrival is already counted (R361, R368, WST of R420); `at_` is the address of
its instruction. -/
structure BarWait where
  at_ : Word
  domain : Bool
  bar : Nat
  level : Nat
  parity : Bool
  phase : Nat
  deriving DecidableEq, Repr

/-- The way of a packet through the network (R31): the chiplets where it enters and leaves the meshes, its mesh (false for Renoc X) and
the number of the step that sent it. -/
structure Hop where
  src : Nat
  dst : Nat
  mesh : Bool
  sent : Nat
  deriving DecidableEq, Repr

/-- No way: of a packet that does not travel. -/
def Hop.none_ : Hop := { src := 0, dst := 0, mesh := false, sent := 0 }

/-- A message that waits for acceptance or travels (R386 to R393). -/
structure Msg where
  dstLid : Nat
  dstSkn : Nat
  dest : Word
  srcFib : FibreId
  rreg : GReg
  shadow : Bool
  rpl : Bool
  tag : Nat
  npl : Nat
  pay : List Word
  kind : Nat
  aux : Nat
  srcCore : Nat
  hop : Hop
  deriving DecidableEq, Repr

/-- A stream packet (R395, R397). `src` is the chiplet that injected it, in the step `sent`; `ready` is the tick at which its slot starts
and `reached` that at which it reached this router. `port` says where it stands: 0..7 at an input port of the router of `chip`; 8 + c on
its way to core c there; 16 + 4·i + o, having come through input port i, deferred before output port o. -/
structure Packet where
  src : Nat
  vs : Nat
  fslot : Nat
  phase : Nat
  mrk : Bool
  cnt : Nat
  pbm : Nat
  mesh : Bool
  chip : Nat
  port : Nat
  ready : Nat
  reached : Nat
  slotLen : Nat
  sent : Nat
  data : List Byte
  bad : List Bool
  deriving DecidableEq, Repr

/-- A multi-cursor instruction between its steps (R321 to R325): what it names, the values of its registers, its count so
far, and the previous lexical id and MAP entry. `kind` is fn; `waits` says that its latest step found a spool it has to wait for. -/
structure EngineJob where
  kind : Nat
  d : GReg
  ga : Word
  gb : Word
  nc : Nat
  osp : Option Nat
  isp : Nat
  out : Nat
  first : Bool
  lex : Option Nat
  map : Option Nat
  waits : Bool
  deriving DecidableEq, Repr

/-- The shared units that serve instructions of the four cores in turn (R273, R299, R325). -/
inductive UnitKind where
  | vector
  | array
  | engine
  deriving DecidableEq, Repr

/-- Why a fibre is parked or held at issue (R66, R333, R334). -/
inductive Park where
  /-- Held at issue, and neither parked nor idle: the instruction re-executes at its PC (R127, R334). -/
  | retry
  /-- Parked until a condition holds that the instruction tests again when it re-executes at its PC (R66, R126, R334). -/
  | wait
  /-- The instruction's register effect is done; the fibre waits for DATA_DELIVERED (R66). -/
  | data
  /-- A `tbl.load` that waits for DATA_DELIVERED, when the core's slot takes the checked image (R66, R229, R230). -/
  | table (slot : Nat) (ad : Bool) (image : List Byte)
  /-- Every walker is busy (R50). -/
  | walker
  /-- A full/empty load waits at its word's home (R196). -/
  | fe
  /-- `sleep` until its chiplet's time base reads at least `t`; `seen` are the enabled events already pending at its issue (R338). -/
  | sleep (t : Nat) (seen : BitVec 4)
  /-- A wait at barrier `b` of the core for the phase of a parity to complete (R360, R361). -/
  | barrier (b : Nat) (parity : Bool)
  /-- `net.drain` for the packets that its chiplet sent before step `at_` (R405). -/
  | drain (at_ : Nat)
  /-- `ev.wait` (R340). -/
  | event
  /-- `sem.wait` in the line of a semaphore (R363). -/
  | sem (k n : Nat)
  /-- An instruction in the service queue of a unit: it executes when the unit serves it (R272, R299, R325). -/
  | queued (k : UnitKind)
  /-- A vector instruction not yet complete in the vector unit (R272). -/
  | vector
  /-- An array instruction not yet complete in the array (R299). -/
  | array
  /-- A multi-cursor instruction with steps still to run (R325). -/
  | engine (job : EngineJob)
  /-- A send that waits for acceptance since clock count `since`; `told` counts the 4096-clock notices given (R387, R394). -/
  | send (m : Msg) (status : Option GReg) (since told : Nat)
  /-- A `str.send` of a level that waits for its slot (R401): OFF as read at issue, and the start tick once the phase is open. -/
  | slot (p : Packet) (level : Nat) (off : Int) (start : Option Nat)
  /-- A `str.recv` to a vector register that waits for a packet since step `since` (R404). -/
  | recv (vs fslot v since : Nat)
  deriving DecidableEq, Repr

/-- Why a fibre travels on MIG (R343, R351). -/
inductive Travel where
  /-- Towards core `core`, where its instruction executes as a guest. -/
  | out (core : Nat) (hop : Hop)
  /-- Parked in the MIG buffer of core `core`, where it arrived in step `since`, until a guest entry is granted to it (R334, R343). -/
  | waiting (core since : Nat)
  /-- Homeward, nothing pending. -/
  | home
  /-- Homeward with a trap to take there (R351). -/
  | homeTrap (code sub : Nat) (val : Word) (pa : Bool)
  /-- Homeward with a restart at RGNPC to take there (R351). -/
  | homeRestart
  deriving DecidableEq, Repr

/-- One fibre: its registers (R126 to R139), its place and what it waits for. `walker` says that a walker has taken the miss for which it
parked (R50); `fbad` marks the bytes of each window chunk that stand poisoned (R438); `mark` counts the writes of the module before its
latest step, from which on the parts of its next access may be performed (R82, R185) (assumption 57). -/
structure Fibre where
  id : FibreId
  live : Bool
  asid : Nat
  home : Nat
  homeEntry : Nat
  at_ : Nat
  guestEntry : Nat
  bank : Bank
  pc : Word
  prec : Word
  winSize : Nat
  flive : Nat
  f : Vector (BitVec 128) 64
  fbad : Vector (BitVec 32) 8
  nv : Nat
  v : Vector (BitVec 2048) 16
  vbad : Vector Bool 16
  m : Vector (BitVec 128) 8
  mbad : Vector Bool 8
  tokens : Tokens
  wmask : BitVec 8
  bb : BitBuf
  rgn : Region
  rpt : Frame
  updout : Nat
  guest : Bool
  inev : Bool
  evf : Bool
  sup : Bool
  trap : TrapRegs
  dirty : Vector Bool 48
  bwait : Option BarWait
  park : Option Park
  parkedAt : Nat
  parkedTick : Nat
  travel : Option Travel
  guestCount : Nat
  walker : Bool
  mark : Nat
  deriving DecidableEq, Repr

/-- The dirty-bit index of each unit of R147: g0..g7 at 0, window chunks at 8, v0..v15 at 16, m0..m7 at 32, then BBUF,
region snapshot, repeat frame, shadow bank and trap registers. -/
abbrev Dirty.g (i : Nat) : Nat := i
abbrev Dirty.f (i : Nat) : Nat := 8 + i
abbrev Dirty.v (i : Nat) : Nat := 16 + i
abbrev Dirty.m (i : Nat) : Nat := 32 + i
abbrev Dirty.bbuf : Nat := 40
abbrev Dirty.snap : Nat := 41
abbrev Dirty.rpt : Nat := 42
abbrev Dirty.shadow : Nat := 43
abbrev Dirty.trap : Nat := 44

/-- A fibre with every register zero: the state of no fibre, and the start from which R336 builds one. -/
def Fibre.zero : Fibre where
  id := { lid := 0, skn := 0, fix := 0 }
  live := false
  asid := 0
  home := 0
  homeEntry := 0
  at_ := 0
  guestEntry := 0
  bank := Bank.zero
  pc := 0
  prec := 24
  winSize := 0
  flive := 0
  f := Vector.replicate 64 0
  fbad := Vector.replicate 8 0
  nv := 0
  v := Vector.replicate 16 0
  vbad := Vector.replicate 16 false
  m := Vector.replicate 8 0
  mbad := Vector.replicate 8 false
  tokens := { count := Vector.replicate 8 0, err := Vector.replicate 8 false, record := Vector.replicate 8 0, since := Vector.replicate 8 0 }
  wmask := 0
  bb := { data := 0, cnt := 0, addr := 0 }
  rgn := { act := false, pc := 0, snap := Bank.zero, prec := 0, count := 0 }
  rpt := { act := false, aside := false, iter := 0, pos := 0, word := 0, start := 0, words := [] }
  updout := 0
  guest := false
  inev := false
  evf := false
  sup := false
  trap := { trappc := 0, tcause := 0, tval := 0, tscr := 0 }
  dirty := Vector.replicate 48 false
  bwait := none
  park := none
  parkedAt := 0
  parkedTick := 0
  travel := none
  guestCount := 0
  walker := false
  mark := 0

/-! ## A skein -/

/-- An armed receive of a stream port: stream, frame slot and its buffer (R398, R404): virtual address, physical address, and that of the
page after it, `next`, where the buffer crosses onto one. -/
structure Armed where
  vs : Nat
  fslot : Nat
  pa : Nat
  next : Nat
  va : Word
  deriving DecidableEq, Repr

/-- What a domain-barrier phase holds of one skein: level, its count, its arrivals, and whether it has contributed (R367). -/
structure DbarArr where
  level : Nat
  need : Nat
  arrived : Nat
  sent : Bool
  deriving DecidableEq, Repr

/-- One skein: SKMAP, events, shadow bank, stream ports and domain arrivals (R140 to R144, R398, R367). While `stopping`, the dispatcher
has asked its fibres to stop at an instruction boundary (R418), and none issues but to complete a queued vector instruction (R288).
`copied` says that the region and sets of a relocated skein stand at its new place (R425). -/
structure Skein where
  lid : Nat
  skn : Nat
  core : Nat
  resident : Bool
  stopping : Bool
  skmap : Word
  hpc : Word
  evEn : BitVec 4
  evPend : BitVec 4
  shadow : Bank
  expw : List (Nat × Word)
  port : List Packet
  partials : List Packet
  armed : List Armed
  dbars : List DbarArr
  groups : List Nat
  copied : Bool
  held : List Msg
  exited : Bool
  deriving DecidableEq, Repr

/-- No skein: a place with nothing in it, under the number 4096 that no launch has (R412, R415). -/
def Skein.zero : Skein where
  lid := 4096
  skn := 0
  core := 0
  resident := false
  stopping := false
  skmap := 0
  hpc := 0
  evEn := 0
  evPend := 0
  shadow := Bank.zero
  expw := []
  port := []
  partials := []
  armed := []
  dbars := []
  groups := []
  copied := false
  held := []
  exited := false

/-! ## A core -/

/-- What a core is (R16, R21, R24, R424). -/
inductive CoreStatus where
  | exposed
  | spare
  | dead
  | fenced
  deriving DecidableEq, Repr

/-- One spool handle: SPCFG and SPST (R141). -/
structure Spool where
  cfg : Word
  fill : Nat
  wix : Nat
  rix : Nat
  deriving DecidableEq, Repr

/-- One named barrier (R142), with the widest release scope among the arrivals of the open phase, and of the phase before it, `last`
(R361). -/
structure Barrier where
  ph : Bool
  npart : Nat
  arr : Nat
  scope : Nat
  last : Nat
  deriving DecidableEq, Repr

/-- One decode-table slot (R84 to R87, R143): the captured 1024-byte image and its TBST fields. -/
structure TableSlot where
  valid : Bool
  ad : Bool
  ec : Bool
  hn : Bool
  nanc : Nat
  image : List Byte
  fresh : Bool
  deriving DecidableEq, Repr

/-- An entry of a write-through buffer: bytes that one fibre stored and that are not yet performed at home (R61, R62). Parts of one
instruction share `seq` (R185); `full` says that the store sets its word full (R196). -/
structure Buffered where
  fib : FibreId
  seq : Nat
  key : Nat
  pa : Nat
  data : List Byte
  full : Bool
  deriving DecidableEq, Repr

/-- One core: a compute core 4·chip + index, or the channel core (M, k) with number 1024 + 8·M + k. -/
structure Core where
  num : Nat
  status : CoreStatus
  lcid : Word
  memb : Word
  accmap : Word
  accen : Word
  delaysel : Word
  tvec : Word
  spools : Vector Spool 16
  bars : Vector Barrier 32
  slots : Vector TableSlot 4
  l1 : List (Nat × BitVec 1024)
  wtb : List Buffered
  inbound : List Msg
  rr : Nat
  retired : Nat
  lastRetire : Nat
  issuing : Nat
  fetched : Nat
  deriving DecidableEq, Repr

/-- Spool handle at reset (R141). -/
def Spool.zero : Spool := { cfg := 0, fill := 0, wix := 0, rix := 0 }
/-- Barrier at reset (R142). -/
def Barrier.zero : Barrier := { ph := false, npart := 0, arr := 0, scope := 0, last := 0 }
/-- Table slot at reset (R143). -/
def TableSlot.zero : TableSlot :=
  { valid := false, ad := false, ec := false, hn := false, nanc := 0, image := [], fresh := false }

/-- ACCMAP at reset: GRP(i) = i (R146). -/
def accmapReset : Word := 0xFEDCBA9876543210#64

/-- LCID at reset (R25): own position, chiplet and index, and 0 elsewhere; a channel core has none of them (assumption 4). -/
def lcidReset (n : Nat) : Word :=
  if n < 1024 then BitVec.ofNat 64 (posOfCore n * 2 ^ 28 + n / 4 * 2 ^ 20 + n % 4 * 2 ^ 18) else 0

/-- The core a core number names, at reset: compute cores exposed until the map is loaded (R25, assumption 4). -/
def Core.zero (n : Nat) : Core where
  num := n
  status := .exposed
  lcid := lcidReset n
  memb := BitVec.ofNat 64 (if n < 1024 then n / 4 else 0)
  accmap := accmapReset
  accen := 0
  delaysel := 0
  tvec := 0
  spools := Vector.replicate 16 Spool.zero
  bars := Vector.replicate 32 Barrier.zero
  slots := Vector.replicate 4 TableSlot.zero
  l1 := []
  wtb := []
  inbound := []
  rr := 0
  retired := 0
  lastRetire := 0
  issuing := 0
  fetched := 0

/-! ## A chiplet -/

/-- One column of an XACC set: ACC, XSTAT and OS (R103, R293), with the poison mark of R438. -/
structure XCol where
  acc : BitVec 128
  ur : Bool
  op : Bool
  on : Bool
  tc : Nat
  res : Nat
  anchor : Int
  os : BitVec 128
  bad : Bool
  deriving DecidableEq, Repr

/-- +1.0 held at p = 24 (R79, R293): length code 4, sign 0, exponent field, fraction 0x800000. -/
def oneAt24 : BitVec 128 := 0x7FE4#128

/-- A column of a set at bring-up (R293). -/
def XCol.zero : XCol :=
  { acc := 0, ur := false, op := false, on := false, tc := 0, res := 0, anchor := 0, os := oneAt24, bad := false }

/-- A cursor of the posting-list engine: the image of R313. `known` says that `cnt` and `size`, CNT and the bytes of the current
block, are known; `block` holds its decoded postings as (document, tf), if it is decoded. -/
structure Cursor where
  num : Nat
  lid : Nat
  skn : Nat
  desc : List Byte
  scoring : List Byte
  sc : Bool
  st : Nat
  blk : Nat
  i : Nat
  tf : Nat
  doc : Nat
  cntSum : Nat
  off : Nat
  last : Nat
  prevLast : Nat
  known : Bool
  cnt : Nat
  size : Nat
  block : List (Nat × Nat)
  deriving DecidableEq, Repr

/-- One delivery unit that a copy still has to write: destination offset, bytes, poison marks (R207, R219). -/
structure CopyUnit where
  off : Nat
  data : List Byte
  bad : List Bool
  deriving DecidableEq, Repr

/-- A fault a copy meets: code, subcause, place and offset, in the fields of its token record (R209). -/
structure CopyFault where
  code : Nat
  sub : Nat
  pt : Nat
  off : Nat
  deriving DecidableEq, Repr

/-- What a copy produces: its units in stream order, the fault that ends it, its flags and coded length (R205 to R215); `blocks` are the
coded blocks it expanded, with the offsets of their headers in the source and of their bytes in the stream. -/
structure CopyPlan where
  units : List CopyUnit
  fault : Option CopyFault
  flags : BitVec 5
  coded : Word
  blocks : List (Nat × Nat)
  deriving DecidableEq, Repr

/-- The state of a copy's stages where it was suspended (R220, R419): destination bytes delivered, the coded block from which it reads on
(source and stream offset), whether a tile has passed its checks, and the flags raised so far. -/
structure CopyStage where
  pos : Nat
  src : Nat
  out : Nat
  passed : Bool
  flags : BitVec 5
  deriving DecidableEq, Repr

/-- The stages of a copy that has delivered nothing. -/
def CopyStage.start : CopyStage := { pos := 0, src := 0, out := 0, passed := false, flags := 0 }

/-- An accepted copy (R204): the captured operands and what is left of it. `kind` is the major opcode. -/
structure Copy where
  fib : FibreId
  core : Nat
  asid : Nat
  sup : Bool
  base : BitVec 32
  ext : BitVec 32
  ra : Word
  rb : Word
  rc : Word
  rd : Word
  token : Nat
  prec : Word
  slot : List Byte
  ntf : Bool
  gd : Option (Bool × GReg)
  plan : Option CopyPlan
  done : Nat
  stage : CopyStage
  deriving DecidableEq, Repr

/-- An instruction in a service queue: the index of its core, its fibre, its words, and what it captured at issue of its core: ACCMAP,
ACCEN and the decode-table slots (R131, R143, R272, R301). -/
structure Queued where
  core : Nat
  fib : FibreId
  word : BitVec 32
  ext : BitVec 32
  accmap : Word
  accen : Word
  slots : Vector TableSlot 4
  deriving DecidableEq, Repr

/-- The service queue of a shared unit: its instructions in order of entry, the core served last, and the
instruction that runs (R273, R299, R325). For an array pass that runs: `undo` and `back` restore the columns, the PC and the
repeat frame when it is aborted, and `release` names the slots that it releases at completion (R295, R302). -/
structure Unit_ where
  queue : List Queued
  last : Nat
  busy : Option (Nat × FibreId)
  undo : List (Nat × XCol)
  back : Option (Word × Frame)
  release : Option (Nat × Nat)
  completed : Nat
  deriving DecidableEq, Repr

/-- An idle unit: core 0 is served first, which the manual does not say (assumption 28). -/
def Unit_.idle : Unit_ := { queue := [], last := 3, busy := none, undo := [], back := none, release := none, completed := 0 }

/-- A cached translation entry: ASID, level (0 is the address-space table), VA bits above the level's page, entry (R51). -/
structure TlbEntry where
  asid : Nat
  level : Nat
  va : Nat
  entry : Word
  deriving DecidableEq, Repr

/-- An invalidation started on a chiplet and not complete there (R53, R54). Kind 0 VA, 1 ASID, 2 all. -/
structure Invalidation where
  by_ : FibreId
  kind : Nat
  asid : Nat
  va : Word
  deriving DecidableEq, Repr

/-- A stream entry of a router with four alternatives, and its current index (R396). -/
structure RouteEntry where
  mesh : Bool
  vs : Nat
  alt : Vector Word 4
  cur : Nat
  deriving DecidableEq, Repr

/-- A reduction that a router entry, alternative `alt` of its stream, holds open: its key, the combination so far and the ports that
delivered (R397). -/
structure Reduction where
  mesh : Bool
  vs : Nat
  alt : Nat
  fslot : Nat
  phase : Nat
  since : Nat
  sent : Bool
  pkt : Packet
  deriving DecidableEq, Repr

/-- A semaphore: its count and its line of (fibre, n) requests in order of arrival (R145, R364); `look` says that a request has left the
line unserved, so that the one behind it is looked at (R363). -/
structure Sem where
  count : Nat
  line : List (FibreId × Nat)
  look : Bool
  deriving DecidableEq, Repr

/-- A semaphore at power-on (R145). -/
def Sem.zero : Sem := { count := 0, line := [], look := false }

/-- One compute chiplet (number 0..255), or the place of a channel core (number 256 + 8·M + k). `links` gives the slot starts of
the stream packets that left on each link, under 8·mesh + output port (R403). `skew`, `floor` and `lead` tie its time base to that of the
edge I/O chiplets: ticks by which it is ahead, the least value that it may read, and the hundredths of clocks by which its clock count
is ahead (R454, R456) (assumption 38). -/
structure Chip where
  num : Nat
  state : Nat
  netsel : Vector Word 8
  sems : Vector Sem 64
  xacc : List (Nat × XCol)
  plane : List (Nat × Byte)
  planeBad : List Nat
  strip : List (Nat × Byte)
  stripBad : List Nat
  cursors : List Cursor
  copies : List Copy
  copiesDone : Nat
  vunit : Unit_
  array : Unit_
  engine : Unit_
  tlb : List TlbEntry
  inval : List Invalidation
  groups : Vector (BitVec 256) 16
  regroup : List FibreId
  routes : List RouteEntry
  reds : List Reduction
  links : List (Nat × Nat)
  skew : Nat
  floor : Nat
  lead : Int
  stretched : Nat
  deriving DecidableEq, Repr

/-- A chiplet at power-on: OFF, and the values that SELFTEST and the register maps give (R458, R33, R145, R293) (assumption 3). -/
def Chip.zero (n : Nat) : Chip where
  num := n
  state := 0
  netsel := Vector.replicate 8 0
  sems := Vector.replicate 64 Sem.zero
  xacc := []
  plane := []
  planeBad := []
  strip := []
  stripBad := []
  cursors := []
  copies := []
  copiesDone := 0
  vunit := Unit_.idle
  array := Unit_.idle
  engine := Unit_.idle
  tlb := []
  inval := []
  groups := Vector.replicate 16 0
  regroup := []
  routes := []
  reds := []
  links := []
  skew := 0
  floor := 0
  lead := 0
  stretched := 0

/-! ## The device -/

/-- A launch queue as `lq.set` left it and the dispatcher keeps it (R409, R410, R416); `badHead` is the CHEAD above CTAIL that it has
reported. -/
structure Queue where
  en : Bool
  pa : Nat
  ring : Nat
  rl : Nat
  pmax : Nat
  uen : Bool
  sup : Bool
  cl : Nat
  asid : Nat
  head : Nat
  tail : Nat
  cring : Nat
  ctail : Nat
  badHead : Option Nat
  stopped : Bool
  served : Nat
  deriving DecidableEq, Repr

/-- A disabled queue. -/
def Queue.off : Queue where
  en := false
  pa := 0
  ring := 0
  rl := 0
  pmax := 0
  uen := false
  sup := false
  cl := 0
  asid := 0
  head := 0
  tail := 0
  cring := 0
  ctail := 0
  badHead := none
  stopped := false
  served := 0

/-- Where a launch stands (R426): waiting, placing, running, pre-empted, relocated or ended with a status. -/
inductive LaunchState where
  | waiting
  | placing
  | running
  | preempted
  | relocated
  | ended (status reason : Nat)
  deriving DecidableEq, Repr

/-- The phase number of one domain of a launch and the contributions of the open phase (R367). `tp` is the completion tick
of the latest phase, `tpWas` that of the phase before it, `tpOdd` that of the latest odd one (R401). -/
structure DomPhase where
  level : Nat
  dom : Nat
  phase : Nat
  tp : Nat
  tpWas : Nat
  tpOdd : Nat
  contrib : List Nat
  deriving DecidableEq, Repr

/-- A copy suspended with its skein (R220, R419). -/
structure Suspended where
  skn : Nat
  copy : Copy
  deriving DecidableEq, Repr

/-- A launch the dispatcher holds: its record as copied, its queue and its progress (R410 to R416). Skeins below `next` have been
placed once; `evicted` are pre-empted, `late` evicted from a stalled grid (R423), `moved` relocated (R425). `asides` are its
checkpointed fibres whose frame stands aside, with the start of that frame (R258) (assumption 50). `since` counts the writes of the
module up to the launch boundary from which on its fetches may miss one (R151) (assumption 15), `lastLeft` is the tick at which a
fibre of it last left its core (R348), and `done` the tick and the step of its completion (R416). -/
structure Launch where
  lid : Nat
  q : Nat
  recno : Nat
  asid : Nat
  sup : Bool
  prio : Nat
  record : List Byte
  state : LaunchState
  order : Nat
  next : Nat
  evicted : List Nat
  exited : List Nat
  moved : List Nat
  phases : List DomPhase
  suspended : List Suspended
  asides : List (FibreId × Word)
  since : Nat
  lastLeft : Nat
  done : Option (Nat × Nat)
  late : List Nat
  ready : Bool
  stall : Bool
  held : Bool
  signalled : Bool
  deriving DecidableEq, Repr

/-- A posted store to another chiplet's scratchpad (R65), or a part of a store to the own one that is still to be performed (R185).
Parts of one instruction share `seq`; `core` is the core whose REQ queue it entered. -/
structure Posted where
  fib : FibreId
  core : Nat
  seq : Nat
  src : Nat
  pa : Nat
  data : List Byte
  setFull : Bool
  hop : Hop
  deriving DecidableEq, Repr

/-- A remote update on its way (R358); `asid` and `va` are what its address was translated from (R54). -/
structure Update where
  fib : FibreId
  op : Nat
  size : Nat
  b : Word
  pa : Nat
  key : Nat
  core : Nat
  asid : Nat
  va : Nat
  hop : Hop
  deriving DecidableEq, Repr

/-- A reply or NACK on its way to a register (R127, R388, R392). -/
structure Reply where
  fib : FibreId
  shadow : Bool
  r : GReg
  v : Word
  nack : Bool
  hop : Hop
  deriving DecidableEq, Repr

/-- A contribution of a skein to a domain barrier, or the flood of a completed phase (R367). -/
structure DbarMsg where
  lid : Nat
  skn : Nat
  level : Nat
  dom : Nat
  phase : Nat
  tp : Nat
  scope : Nat
  hop : Hop
  deriving DecidableEq, Repr

/-- A full/empty load waiting at its word's home, in order of arrival (R196); `asid` and `va` are what its address was translated from
(R54). -/
structure FeWait where
  fib : FibreId
  pa : Nat
  len : Nat
  signed : Bool
  take : Bool
  d : GReg
  shadow : Bool
  key : Nat
  asid : Nat
  va : Nat
  deriving DecidableEq, Repr

/-- A cache maintenance operation not yet complete, started in step `since`: kind (fn code), line or chiplet or key (R70, R71). -/
structure Maint where
  by_ : FibreId
  kind : Nat
  arg : Nat
  since : Nat
  deriving DecidableEq, Repr

/-- A line that is dirty in its home slice, and what the memory-side cache holds beneath it (R59, R71): bytes, the words of it that
are empty or poisoned there, and those renewed on a spare channel (R57). `home` is the slice, `hashed` says that a hash group gave
it (R47), `key` is the identifier under which the slice holds the line (R68), and `since` the step in which it became dirty (R71). -/
structure Below where
  line : Nat
  since : Nat
  home : Nat
  hashed : Bool
  key : Nat
  data : List Byte
  empt : List Nat
  pois : List Nat
  renewed : List Nat
  deriving DecidableEq, Repr

/-- A line that the memory-side cache of its memory chiplet holds, in plaintext with its key identifier (R58). -/
structure MscLine where
  line : Nat
  key : Nat
  dirty : Bool
  deriving DecidableEq, Repr

/-- What a write of the module replaced in one word: the number of the write, which the words of one 64-byte block share (R82, R185), the
word, and the value and poison mark that it had before (R151, R371). -/
structure Past where
  at_ : Nat
  word : Nat
  was : BitVec 64
  bad : Bool
  deriving DecidableEq, Repr

/-- The context of a queue pair: its number and its path MTU (R460). -/
structure QueuePair where
  num : Nat
  mtu : Nat
  deriving DecidableEq, Repr

/-- An Ethernet port: its MAC address and its IPv4 and IPv6 addresses (R460). -/
structure Port where
  mac : BitVec 48
  ip4 : BitVec 32
  ip6 : BitVec 128
  deriving DecidableEq, Repr

/-- An attestation report and its signature (R463). -/
structure Report where
  part : List Byte
  grade : Nat
  serial : List Byte
  firmware : List (BitVec 512)
  map : BitVec 512
  epoch : Word
  nonce : List Byte
  signature : List Byte
  deriving DecidableEq, Repr

/-- The steps of R69 that the supervisor has taken: chiplets whose slices are written back, identifiers whose lines then left the
memory-side caches, and those that `cm.sync` then completed. -/
structure Purge where
  slices : List Nat
  keys : List Nat
  complete : List Nat
  deriving DecidableEq, Repr

/-- No step taken. -/
def Purge.none_ : Purge := { slices := [], keys := [], complete := [] }

/-- What the module answers to the host on a queue pair (R460, R462). -/
inductive RdmaAnswer where
  | ack (qp : Nat)
  | data (qp : Nat) (bytes : List Byte)
  | nakAccess (qp : Nat)
  | nakInvalid (qp : Nat)
  deriving DecidableEq, Repr

/-- The hallmark latch that an accepted trigger fixed: latch tick and source, and the chiplets, by LOC, that have latched (R443). -/
structure Latch where
  tick : Nat
  src : Nat
  taken : List Nat
  deriving DecidableEq, Repr

/-- A fenced core that is still to be drained and read out: reason and subcause of its record, and the step in which it was fenced
(R424). -/
structure Recovering where
  core : Nat
  reason : Nat
  sub : Nat
  since : Nat
  deriving DecidableEq, Repr

/-- Everything that belongs to the module as a whole. `clk` counts hundredths of clocks, of which a tick has as many as the step in force
gives it (R453, R454). `spares` names the (memory chiplet, channel) pairs that a spare channel has taken over, and `renewed` the words of
those written whole since (R57). `writes` counts the writes so far, and `past` holds what they replaced, the oldest first (R151, R371)
(assumption 57). `slices` are the lines that home slices may hold, each with its slice, `alts` those of them whose plaintext there was
decrypted under another key than theirs (R69), and `below` those that are dirty (R59); `msc` are the lines that memory-side caches may
hold (R58) (assumption 22). `ecc` are the words stored with a syndrome, and `soft` those in which an error arose that nothing has read
yet, while `mem` has their correct value (R437) (assumption 23). `recover` are the cores in recovery (R424), and `losing` the chiplets
that are fenced and still to be drained, with the step in which they were (R26, R28, R49) (assumption 37). `ticks` counts from the first
synchronising pulse at the edge I/O chiplets, and `pulse` is the tick of the next one (R456). `dramSet` are the memory chiplets whose DRAM
is set up (R458), `qps` and `ports` what firmware gave the Ethernet ports (R460). -/
structure Device where
  powered : Bool
  ticks : Nat
  clk : Nat
  pulse : Option Nat
  mem : List Host.Cell
  empt : List Nat
  pois : List Nat
  ecc : List (Nat × BitVec 8)
  soft : List (Nat × BitVec 8)
  cipher : List (Nat × BitVec 1024)
  writes : Nat
  past : List Past
  lineKey : List (Nat × BitVec 512)
  keys : List (Nat × BitVec 512)
  purge : Purge
  below : List Below
  slices : List (Nat × Nat)
  alts : List (Nat × BitVec 1024)
  msc : List MscLine
  dramSet : List Nat
  absent : List (Nat × Nat)
  spares : List (Nat × Nat)
  renewed : List Nat
  memLost : List Nat
  edgeLost : List Nat
  bondLost : List (Bool × Nat × Nat)
  losing : List (Nat × Nat)
  cmapbase : Word
  cmapepoch : Word
  astabbase : Word
  hgbase : Word
  elbase : Word
  elctl : Word
  eltail : Word
  elhead : Word
  hmctl : Word
  hmmask : Word
  hmtick : Word
  rktbase : Word
  step : Nat
  stepTarget : Nat
  stepAt : Option Nat
  grade : Nat
  latch : Option Latch
  hmwords : List (Nat × List Word)
  queues : Vector Queue 16
  launches : List Launch
  lastLid : Nat
  admitted : Nat
  flight : List Msg
  replies : List Reply
  arrivals : List Msg
  posted : List Posted
  updates : List Update
  contribs : List DbarMsg
  floods : List DbarMsg
  packets : List Packet
  feWait : List FeWait
  recover : List Recovering
  maint : List Maint
  qps : List QueuePair
  ports : List Port
  answers : List RdmaAnswer
  reports : List Report
  deriving DecidableEq, Repr

/-- The device registers at reset (R24, R41, R48, R428, R440, R442, R452), and nothing in flight. Memory lists nothing (assumptions 1 and
3). -/
def Device.zero : Device where
  powered := false
  ticks := 0
  clk := 0
  pulse := none
  mem := []
  empt := []
  pois := []
  ecc := []
  soft := []
  cipher := []
  writes := 0
  past := []
  lineKey := []
  keys := []
  purge := Purge.none_
  below := []
  slices := []
  alts := []
  msc := []
  dramSet := []
  absent := []
  spares := []
  renewed := []
  memLost := []
  edgeLost := []
  bondLost := []
  losing := []
  cmapbase := 0
  cmapepoch := 0
  astabbase := 0
  hgbase := 0
  elbase := 0
  elctl := 0
  eltail := 0
  elhead := 0
  hmctl := 0
  hmmask := 0
  hmtick := 0
  rktbase := 0
  step := 0
  stepTarget := 0
  stepAt := none
  grade := 0
  latch := none
  hmwords := []
  queues := Vector.replicate 16 Queue.off
  launches := []
  lastLid := 4095
  admitted := 0
  flight := []
  replies := []
  arrivals := []
  posted := []
  updates := []
  contribs := []
  floods := []
  packets := []
  feWait := []
  recover := []
  maint := []
  qps := []
  ports := []
  answers := []
  reports := []

/-- What the next step does: the fibre in focus issues, or the rest of the module takes a step. -/
inductive Turn where
  | issue
  | device
  deriving DecidableEq, Repr

/-- The state of the module. `sched` holds steps of the outside world and of agents that come next, oldest first; `ctr`
is the model's own counter for free values (assumption 2); `upset` is how many checks of the assay stage or of the residues of a
unit fail for what comes next (R439, assumption 2); `walkers` is how many walkers of the chiplet are busy for what comes next (R50,
assumption 36). -/
structure State where
  turn : Turn
  sched : List Instr
  ctr : Nat
  upset : Nat
  walkers : Nat
  fib : Fibre
  fibres : List Fibre
  skein : Skein
  skeins : List Skein
  core : Core
  cores : List Core
  chip : Chip
  chips : List Chip
  dev : Device
  deriving DecidableEq, Repr

/-- Right after reset: power is on, every chiplet is OFF, no fibre exists and memory lists nothing (R458) (assumption 3). -/
def State.reset : State where
  turn := .issue
  sched := []
  ctr := 0
  upset := 0
  walkers := 0
  fib := Fibre.zero
  fibres := []
  skein := Skein.zero
  skeins := []
  core := Core.zero 0
  cores := []
  chip := Chip.zero 0
  chips := []
  dev := { Device.zero with powered := true }

end Sys2Proof.Machine
end

