-- ==== Sys2Proof/Machine/Ops.lean ====
section
/-! DEFINITION. The named operations that every meaning shares: finding and updating a fibre, skein, core, chiplet or
launch, bytes at home, the error log, writing PREC, taking a trap, restarting a region, retiring and parking. -/

namespace Sys2Proof.Machine

/-! ## Lists -/

/-- The first element that passes, or the default. -/
def findOr {α : Type} (p : α → Bool) (d : α) : List α → α
  | [] => d
  | x :: xs => if p x then x else findOr p d xs

/-- Update the first element that passes, or append the updated default. -/
def updOr {α : Type} (p : α → Bool) (d : α) (f : α → α) : List α → List α
  | [] => [f d]
  | x :: xs => if p x then f x :: xs else x :: updOr p d f xs

/-- Update every element that passes. -/
def updAll {α : Type} (p : α → Bool) (f : α → α) (l : List α) : List α := l.map fun x => if p x then f x else x

/-- Insert into a strictly rising list. -/
def setIns (x : Nat) : List Nat → List Nat
  | [] => [x]
  | y :: ys => if x < y then x :: y :: ys else if x = y then y :: ys else y :: setIns x ys

/-- Remove from a list without repeats. -/
def setDel (x : Nat) : List Nat → List Nat
  | [] => []
  | y :: ys => if x = y then ys else y :: setDel x ys

/-- Drop the k-th element. -/
def dropAt {α : Type} : List α → Nat → List α
  | [], _ => []
  | _ :: xs, 0 => xs
  | x :: xs, k + 1 => x :: dropAt xs k

/-- The value under a key of an association list, or the default. -/
def assoc {β : Type} (k : Nat) (d : β) : List (Nat × β) → β
  | [] => d
  | (a, b) :: r => if a = k then b else assoc k d r

/-- Put a value under a key of an association list. -/
def assocPut {β : Type} (k : Nat) (v : β) : List (Nat × β) → List (Nat × β)
  | [] => [(k, v)]
  | (a, b) :: r => if a = k then (k, v) :: r else (a, b) :: assocPut k v r

/-- Remove a key of an association list. -/
def assocDel {β : Type} (k : Nat) (l : List (Nat × β)) : List (Nat × β) := l.filter fun e => e.1 != k

/-! ## Memory as a list of cells -/

/-- The byte at an address; an unlisted address reads 0 (assumption 1). -/
def memRead : List Host.Cell → Nat → Byte
  | [], _ => 0
  | (a, b) :: r, x => if a = x then b else if x < a then 0 else memRead r x

/-- Write one byte, keeping addresses strictly rising and listing no 0. -/
def memWrite : List Host.Cell → Nat → Byte → List Host.Cell
  | [], x, v => if v = 0 then [] else [(x, v)]
  | (a, b) :: r, x, v =>
    if x < a then (if v = 0 then (a, b) :: r else (x, v) :: (a, b) :: r)
    else if x = a then (if v = 0 then r else (x, v) :: r)
    else (a, b) :: memWrite r x v

/-- The canonical form: addresses strictly rising above `lo`, no byte 0. -/
def memOk (lo : Option Nat) : List Host.Cell → Bool
  | [] => true
  | (a, b) :: r => (match lo with
      | none => true
      | some l => decide (l < a)) && b != 0 && memOk (some a) r

/-- The canonical form of memory (assumption 1). -/
def Memory.wf (m : List Host.Cell) : Bool := memOk none m

/-- Read consecutive bytes. -/
def memBytes (m : List Host.Cell) (a : Nat) : Nat → List Byte
  | 0 => []
  | n + 1 => memRead m a :: memBytes m (a + 1) n

/-- Write consecutive bytes. -/
def memPut (m : List Host.Cell) (a : Nat) : List Byte → List Host.Cell
  | [] => m
  | b :: bs => memPut (memWrite m a b) (a + 1) bs

/-! ## Finding and updating -/

/-- The chiplet of a number. -/
def State.chipAt (s : State) (n : Nat) : Chip :=
  if s.chip.num = n then s.chip else findOr (fun c => c.num == n) (Chip.zero n) s.chips

/-- Update the chiplet of a number. -/
def State.onChip (s : State) (n : Nat) (f : Chip → Chip) : State :=
  if s.chip.num = n then { s with chip := f s.chip }
  else { s with chips := updOr (fun c => c.num == n) (Chip.zero n) f s.chips }

/-- The core of a number. -/
def State.coreAt (s : State) (n : Nat) : Core :=
  if s.core.num = n then s.core else findOr (fun c => c.num == n) (Core.zero n) s.cores

/-- Update the core of a number. -/
def State.onCore (s : State) (n : Nat) (f : Core → Core) : State :=
  if s.core.num = n then { s with core := f s.core }
  else { s with cores := updOr (fun c => c.num == n) (Core.zero n) f s.cores }

/-- Every live fibre, the one in focus first. -/
def State.allFibres (s : State) : List Fibre := if s.fib.live then s.fib :: s.fibres else s.fibres

/-- The live fibre of a name. -/
def State.fibre? (s : State) (id : FibreId) : Option Fibre := s.allFibres.find? fun f => f.id == id

/-- Update the live fibre of a name; no effect when there is none. -/
def State.onFibre (s : State) (id : FibreId) (f : Fibre → Fibre) : State :=
  if s.fib.live ∧ s.fib.id = id then { s with fib := f s.fib }
  else { s with fibres := updAll (fun x => x.id == id) f s.fibres }

/-- Update the fibre in focus. -/
def State.setFib (s : State) (f : Fibre → Fibre) : State := { s with fib := f s.fib }

/-- Update the device. -/
def State.setDev (s : State) (f : Device → Device) : State := { s with dev := f s.dev }

/-- Update the core in focus. -/
def State.setCore (s : State) (f : Core → Core) : State := { s with core := f s.core }

/-- Update the chiplet in focus. -/
def State.setChip (s : State) (f : Chip → Chip) : State := { s with chip := f s.chip }

/-- Update the skein in focus. -/
def State.setSkein (s : State) (f : Skein → Skein) : State := { s with skein := f s.skein }

/-- Whether a skein has the given name. -/
def Skein.is (k : Skein) (lid skn : Nat) : Bool := k.lid == lid && k.skn == skn

/-- The resident or checkpointed skein of a name. -/
def State.skein? (s : State) (lid skn : Nat) : Option Skein :=
  if s.skein.is lid skn then some s.skein else s.skeins.find? fun k => k.is lid skn

/-- Update the skein of a name; no effect when there is none. -/
def State.onSkein (s : State) (lid skn : Nat) (f : Skein → Skein) : State :=
  if s.skein.is lid skn then { s with skein := f s.skein }
  else { s with skeins := updAll (fun k => k.is lid skn) f s.skeins }

/-- Every skein that the module holds. -/
def State.allSkeins (s : State) : List Skein := s.skein :: s.skeins

/-- The launch of an identifier. -/
def State.launch? (s : State) (lid : Nat) : Option Launch := s.dev.launches.find? fun l => l.lid == lid

/-- Update the launch of an identifier. -/
def State.onLaunch (s : State) (lid : Nat) (f : Launch → Launch) : State :=
  s.setDev fun d => { d with launches := updAll (fun l => l.lid == lid) f d.launches }

/-- Bring a core and its chiplet into focus. -/
def State.focusCore (s : State) (n : Nat) : State :=
  let s := if s.core.num = n then s else
    { s with core := s.coreAt n, cores := s.core :: s.cores.filter fun c => c.num != n }
  if s.chip.num = chipNum n then s else
    { s with chip := s.chipAt (chipNum n), chips := s.chip :: s.chips.filter fun c => c.num != chipNum n }

/-- Bring a skein into focus. -/
def State.focusSkein (s : State) (lid skn : Nat) : State :=
  if s.skein.is lid skn then s else
  match s.skeins.find? fun k => k.is lid skn with
  | none => s
  | some k => { s with skein := k, skeins := s.skein :: s.skeins.filter fun x => !x.is lid skn }

/-- Bring a live fibre, its skein, and the core and chiplet it runs on into focus. -/
def State.focus (s : State) (id : FibreId) : State :=
  if s.fib.live ∧ s.fib.id = id then (s.focusSkein id.lid id.skn).focusCore s.fib.at_ else
  match s.fibres.find? fun f => f.id == id with
  | none => s
  | some f =>
    let rest := s.fibres.filter fun x => x.id != id
    let s := { s with fib := f, fibres := if s.fib.live then s.fib :: rest else rest }
    (s.focusSkein id.lid id.skn).focusCore f.at_

/-- The time base of a chiplet (R456): ticks plus its skew, never below its floor (assumption 38). -/
def State.wtick (s : State) (chip : Nat) : Nat := let c := s.chipAt chip; max c.floor (s.dev.ticks + c.skew)

/-- Hundredths of clocks in one tick at a step (R453). -/
def rateOf (step : Nat) : Nat := 60 + 12 * step

/-- Hundredths of clocks by which a chiplet gets ahead of the device's count through a change of step that its own counter has reached
(R454) (assumption 31). -/
def State.leadNow (s : State) (chip : Nat) : Int :=
  match s.dev.stepAt with
  | none => 0
  | some t => (s.wtick chip - t : Nat) * ((rateOf s.dev.stepTarget : Int) - rateOf s.dev.step)

/-- The clock count of a chiplet, in hundredths (R4, R454) (assumption 31). -/
def State.clkAt (s : State) (chip : Nat) : Nat := ((s.dev.clk : Int) + (s.chipAt chip).lead + s.leadNow chip).toNat

/-- Whether `n` clocks have passed on a chiplet since its count was `start` (R4, R454) (assumption 31). -/
def State.clocksSince (s : State) (chip start n : Nat) : Bool := decide (start + 100 * n ≤ s.clkAt chip)

/-- The time base where the fibre in focus runs (assumption 31). -/
def State.now (s : State) : Nat := s.wtick s.chip.num

/-- The clock count where the fibre in focus runs (assumption 31). -/
def State.clk (s : State) : Nat := s.clkAt s.chip.num

/-! ## Bytes at home -/

/-- Whether the bytes of a DRAM address are absent (R57, R28). -/
def State.absentPa (s : State) (pa : Nat) : Bool :=
  isDram pa && (s.dev.memLost.contains (memChip pa) || s.dev.absent.contains (memChip pa, channelOf pa))

/-- Whether the word of index `w` lies on a spare channel in use (R57). -/
def State.onSpare (s : State) (w : Nat) : Bool := isDram (8 * w) && s.dev.spares.contains (memChip (8 * w), channelOf (8 * w))

/-- Whether the word of index `w` (address / 8) reads as poisoned (R57, R438). -/
def State.poisonedWord (s : State) (w : Nat) : Bool :=
  s.dev.pois.contains w || s.absentPa (8 * w) || (s.onSpare w && !s.dev.renewed.contains w)

/-- Whether the word of index `w` is empty (R67). -/
def State.emptyWord (s : State) (w : Nat) : Bool := s.dev.empt.contains w

/-- Set or clear the full bit of a word (R67). -/
def State.setFull (s : State) (w : Nat) (full : Bool) : State :=
  s.setDev fun d => { d with empt := if full then setDel w d.empt else setIns w d.empt }

/-- Bytes as the home holds them, with no check (assumption 1). -/
def State.homeBytes (s : State) (pa n : Nat) : List Byte := memBytes s.dev.mem pa n

/-- The lowest poisoned byte address of a range, if any. -/
def State.firstPoison (s : State) (pa : Nat) : Nat → Option Nat
  | 0 => none
  | n + 1 => if s.poisonedWord (pa / 8) then some pa else s.firstPoison (pa + 1) n

/-- The write of bytes within one word at its home, which is not absent: a whole word clears its mark and its syndrome (R384, R437). -/
def State.putWord (s : State) (pa : Nat) (bs : List Byte) : State :=
  let w := pa / 8
  let was := BitVec.ofNat 64 (ofBytes (s.homeBytes (8 * w) 8))
  let bad := s.poisonedWord w
  s.setDev fun d => { d with
    mem := memPut d.mem pa bs
    pois := if bs.length = 8 then setDel w d.pois else d.pois
    renewed := if bs.length = 8 ∧ s.onSpare w then setIns w d.renewed else d.renewed
    ecc := if bs.length = 8 then assocDel w d.ecc else d.ecc
    soft := if bs.length = 8 then assocDel w d.soft else d.soft
    past := d.past ++ [{ at_ := d.writes, word := w, was := was, bad := bad }]
    cipher := assocDel (pa / 128) d.cipher }

/-- A write is complete: what follows is a later one (R371). -/
def State.wrote (s : State) : State := s.setDev fun d => { d with writes := d.writes + 1 }

/-- LOC of the chiplet of a core (R441). -/
def coreLoc (n : Nat) : Nat := if n < 1024 then n / 4 else 256 + (n - 1024) / 8

/-- The block number of a core on its chiplet (R444). -/
def coreBlk (n : Nat) : Nat := if n < 1024 then n % 4 else (n - 1024) % 8

/-- The time base of the chiplet that LOC names (R441, R457): a memory chiplet's is that of its channel core 0, and an edge chiplet has
no skew (assumption 38). -/
def State.tickAt (s : State) (loc : Nat) : Nat :=
  if loc < 256 then s.wtick loc else if loc < 320 then s.wtick (256 + 8 * (loc - 256)) else s.dev.ticks

/-- The chiplets, by LOC, that latch their hallmark words: those that are LIVE, and the memory chiplets that are present (R443). -/
def State.liveLocs (s : State) : List Nat :=
  (((s.chip :: s.chips).filter fun c => decide (c.num < 256) && c.state == 5).map Chip.num) ++
    ((List.range 64).filter fun m => !s.dev.memLost.contains m).map fun m => 256 + m

/-- How many of `n` ticks pass before the time base brings something about that comes first: the next synchronising pulse, a change of
step, or the latch of a chiplet (R443, R454, R456). None pass before the first pulse. -/
def State.ticksBefore (s : State) (n : Nat) : Nat :=
  let n := match s.dev.pulse with
    | none => 0
    | some t => min n (t - s.dev.ticks)
  let n := match s.dev.stepAt with
    | none => n
    | some t => min n (t - s.dev.ticks)
  match s.dev.latch with
  | none => n
  | some l => (s.liveLocs.filter fun c => !l.taken.contains c).foldl (fun n c => min n (l.tick - s.tickAt c)) (min n (l.tick - s.dev.ticks))

/-- Wafer ticks pass, `n` or fewer (R453, R456) (assumption 38). -/
def State.pass (s : State) (n : Nat) : State :=
  s.setDev fun d => { d with ticks := d.ticks + s.ticksBefore n, clk := d.clk + s.ticksBefore n * rateOf d.step }

/-- Append one record to the error log ring, or count it as dropped (R440, R441); a record for an absent place of the ring is discarded
there (R57) (assumption 54). -/
def State.logAt (s : State) (kind code sub blk loc lid addr info : Nat) : State :=
  let d := s.dev
  let ll := bits d.elctl 32 5
  if !bit d.elctl 63 || d.eltail - d.elhead == BitVec.ofNat 64 (2 ^ ll) then
    let drop := bits d.elctl 0 32
    if drop = 2 ^ 32 - 1 then s else { s with dev := { d with elctl := d.elctl + 1 } }
  else
    let pa := d.elbase.toNat + 32 * (d.eltail.toNat % 2 ^ ll)
    let head := bytesOf 1 kind ++ bytesOf 1 code ++ bytesOf 1 sub ++ bytesOf 1 blk ++ bytesOf 2 loc ++ bytesOf 2 lid
    let t := if s.absentPa pa then s else
      [(pa, bytesOf 8 (s.tickAt loc)), (pa + 8, head), (pa + 16, bytesOf 8 addr), (pa + 24, bytesOf 8 info)].foldl
        (fun s p => s.putWord p.1 p.2) s
    t.wrote.setDev fun d => { d with eltail := d.eltail + 1 }

/-- A record of the fibre in focus, located at its core and chiplet (assumption 54). -/
def State.log (s : State) (kind code sub addr info : Nat) : State :=
  s.logAt kind code sub (coreBlk s.core.num) (coreLoc s.core.num) s.fib.id.lid addr info

/-- A record of what happens to a word at its home, LOC its chiplet, in DRAM under the memory-side cache (R441, R444) (assumption 54). -/
def State.logWord (s : State) (kind w info : Nat) : State :=
  if isPad (8 * w) then s.logAt kind 0 0 12 (padChip (8 * w)) 0xFFFF (8 * w) info
  else s.logAt kind 0 0 11 (256 + memChip (8 * w)) 0xFFFF (8 * w) info

/-- The columns that a data bit may have: eight bits of odd weight of at least 3 (R437). -/
def oddColumns : List (BitVec 8) := ((List.range 256).map (BitVec.ofNat 8)).filter fun c =>
  let n := ((List.range 8).filter c.getLsbD).length
  n % 2 == 1 && decide (3 ≤ n)

/-- `n` different members of a list that holds as many, the free choices saying which (R437) (assumption 22). -/
def pickColumns : Nat → List (BitVec 8) → List (BitVec 8)
  | 0, _ => []
  | n + 1, l =>
    match l[Config.eccPick n % l.length]? with
    | none => []
    | some c => c :: pickColumns n (l.erase c)

/-- The column of data bit `k`, the full/empty bit being bit 64 (R437). -/
def dataColumn (k : Nat) : BitVec 8 := (pickColumns 65 oddColumns).getD k 0

/-- The check byte of a stored word: the XOR of the columns of its 1 bits, the full/empty bit at place 64 (R437). -/
def checkByte (x : BitVec 65) : Nat → BitVec 8
  | 0 => 0
  | k + 1 => checkByte x k ^^^ (if x.getLsbD k then dataColumn k else 0)

/-- The key in a slot (R68): 0 until the DRAM set-up loads the slots (R458), and then what was loaded last (assumption 3). -/
def State.key (s : State) (id : Nat) : BitVec 512 := assoc id (if s.dev.dramSet.isEmpty then 0 else Config.bootKey id) s.dev.keys

/-- The key under which a DRAM line is stored, or will be when the cache that holds it writes it back (R58, R68); a line never written
is held under the all-zero key (assumption 3). -/
def State.lineKeyOf (s : State) (line : Nat) : BitVec 512 :=
  match s.dev.below.find? fun b => b.line == line with
  | some b => s.key b.key
  | none =>
    match s.dev.msc.find? fun m => m.line == line && m.dirty with
    | some m => s.key m.key
    | none => assoc line 0 s.dev.lineKey

/-- Whether a slice or a memory-side cache may hold a line, in plaintext (R58, R59, R69). -/
def State.lineCached (s : State) (line : Nat) : Bool :=
  (s.dev.slices.any fun e => e.1 == line) || s.dev.msc.any fun m => m.line == line

/-- A memory-side cache takes a line (R58). -/
def State.putMsc (s : State) (line key : Nat) (dirty : Bool) : State :=
  s.setDev fun d => { d with msc := { line := line, key := key, dirty := dirty } :: d.msc.filter fun m => m.line != line }

/-- A line leaves its memory-side cache, and is written to DRAM under the key of its slot where it is dirty (R58, R68). -/
def State.dropMsc (s : State) (m : MscLine) : State :=
  s.setDev fun d => { d with
    msc := d.msc.filter fun x => x.line != m.line
    lineKey := if m.dirty then assocPut m.line (s.key m.key) d.lineKey else d.lineKey }

/-- A slice writes a dirty line back to the memory-side cache (R59, R71). -/
def State.writeBack (s : State) (b : Below) : State :=
  (s.setDev fun d => { d with below := d.below.filter fun x => x.line != b.line }).putMsc b.line b.key true

/-- A slice drops a line that it has written back or that is clean (R59). -/
def State.dropSlice (s : State) (line : Nat) : State :=
  s.setDev fun d => { d with slices := d.slices.filter fun e => e.1 != line }

/-- A slice or a memory-side cache evicts at most one line, written back where it is dirty (R58, R59) (assumption 22). -/
def State.evictLine (s : State) (n : Nat) : State :=
  match s.dev.slices[n % (s.dev.slices.length + s.dev.msc.length + 1)]? with
  | some e =>
    match s.dev.below.find? fun b => b.line == e.1 with
    | some b => (s.writeBack b).dropSlice e.1
    | none => s.dropSlice e.1
  | none =>
    match s.dev.msc[n % (s.dev.slices.length + s.dev.msc.length + 1) - s.dev.slices.length]? with
    | some m => s.dropMsc m
    | none => s

/-- A DRAM line as a 1024-bit plaintext. -/
def State.plainLine (s : State) (line : Nat) : BitVec 1024 := BitVec.ofNat 1024 (ofBytes (s.homeBytes (128 * line) 128))

/-- A DRAM line as it is stored (R68): the raw ciphertext where one was written, else the encryption of the plaintext. -/
def State.storedLine (s : State) (line : Nat) : BitVec 1024 :=
  match s.dev.cipher.find? fun e => e.1 == line with
  | some e => e.2
  | none => xtsEncrypt (s.lineKeyOf line) line (s.plainLine line)

/-- The word as stored: ciphertext for DRAM, plain for scratchpad (R68, R445). -/
def State.storedWord (s : State) (w : Nat) : Word :=
  if isDram (8 * w) then (s.storedLine (w / 16)).extractLsb' (64 * (w % 16)) 64
  else BitVec.ofNat 64 (ofBytes (s.homeBytes (8 * w) 8))

/-- Store a ciphertext word (R446): the plaintext of its 16-byte block becomes the decryption. -/
def State.putStoredWord (s : State) (w : Nat) (v : Word) : State :=
  if isDram (8 * w) then
    let line := w / 16
    let old := s.storedLine line
    let mask : BitVec 1024 := (BitVec.allOnes 64).setWidth 1024 <<< (64 * (w % 16))
    let new := (old &&& ~~~mask) ||| (v.setWidth 1024 <<< (64 * (w % 16)))
    let plain := xtsDecrypt (s.lineKeyOf line) line new
    let blk := w / 2 * 16
    let data := bytesOf 16 ((plain.extractLsb' (128 * (w / 2 % 8)) 128).toNat)
    s.setDev fun d => { d with mem := memPut d.mem blk data, cipher := assocPut line new d.cipher }
  else s.setDev fun d => { d with mem := memPut d.mem (8 * w) (bytesOf 8 v.toNat) }

/-- The data bit whose column equals a syndrome, searched below place `k`. -/
def columnOf (syn : BitVec 8) : Nat → Option Nat
  | 0 => none
  | k + 1 => if dataColumn k = syn then some k else columnOf syn k

/-- Whether a syndrome is the column of a check bit: weight 1 (R437). -/
def isCheckColumn (syn : BitVec 8) : Bool := [1, 2, 4, 8, 16, 32, 64, 128].contains syn.toNat

/-- Whether a syndrome is a column of the code (R437). -/
def correctable (syn : BitVec 8) : Bool := isCheckColumn syn || (columnOf syn 65).isSome

/-- A read of the word meets its syndrome: a correctable one is corrected and logged, any other marks poison (R437, R438). Of an error
that arose by itself the value to restore stands in memory already (assumption 23). -/
def State.detectWord (s : State) (w : Nat) : State :=
  match s.dev.ecc.find? fun e => e.1 == w with
  | some (_, syn) =>
    let s := s.setDev fun d => { d with ecc := assocDel w d.ecc }
    if isCheckColumn syn then s.logWord 0x01 w syn.toNat
    else match columnOf syn 65 with
      | some 64 => (s.setFull w (s.emptyWord w)).logWord 0x01 w syn.toNat
      | some k => (s.putStoredWord w (s.storedWord w ^^^ (1#64 <<< k))).logWord 0x01 w syn.toNat
      | none => (s.setDev fun d => { d with pois := setIns w d.pois }).logWord 0x02 w syn.toNat
  | none =>
    match s.dev.soft.find? fun e => e.1 == w with
    | none => s
    | some (_, syn) =>
      let s := s.setDev fun d => { d with soft := assocDel w d.soft }
      if correctable syn then s.logWord 0x01 w syn.toNat
      else (s.setDev fun d => { d with pois := setIns w d.pois }).logWord 0x02 w syn.toNat

/-- Detection over the words that a range of bytes touches, in DRAM over those of its 16-byte blocks, which are deciphered whole (R68)
(assumption 23). -/
def State.detect (s : State) (pa n : Nat) : State :=
  if s.dev.ecc.isEmpty && s.dev.soft.isEmpty then s else
  let lo := if isDram pa then pa / 16 * 2 else pa / 8
  let hi := if isDram pa then (pa + n + 15) / 16 * 2 else (pa + n + 7) / 8
  (List.range (hi - lo)).foldl (fun s i => s.detectWord (lo + i)) s

/-- Write bytes within one aligned word at home (R57, R384): a partial write of a poisoned or absent word is lost and
logged, a whole word clears the mark. A write in DRAM enciphers its 16-byte block anew, and so reads it first (R68) (assumption 23). -/
def State.writeWord (s : State) (pa : Nat) (bs : List Byte) : State :=
  let w := pa / 8
  if s.absentPa pa then s.logWord 0x03 w bs.length
  else
    let s := if bs.length < 8 ∨ isDram pa then s.detect pa bs.length else s
    if bs.length < 8 ∧ s.poisonedWord w then s.logWord 0x03 w bs.length
    else s.putWord pa bs

/-- Cut bytes at the boundaries of aligned words. -/
def wordPieces : Nat → Nat → List Byte → List (Nat × List Byte)
  | 0, _, _ => []
  | _, _, [] => []
  | fuel + 1, pa, bs =>
    let n := 8 - pa % 8
    (pa, bs.take n) :: wordPieces fuel (pa + n) (bs.drop n)

/-- Cut bytes at the boundaries of aligned 64-byte blocks (R82, R185). -/
def blockPieces : Nat → Nat → List Byte → List (Nat × List Byte)
  | 0, _, _ => []
  | _, _, [] => []
  | fuel + 1, pa, bs =>
    let n := 64 - pa % 64
    (pa, bs.take n) :: blockPieces fuel (pa + n) (bs.drop n)

/-- Write bytes of one 64-byte block at home, word by word, as one write (R82, R185). -/
def State.writeBlock (s : State) (pa : Nat) (bs : List Byte) : State :=
  ((wordPieces bs.length pa bs).foldl (fun s p => s.writeWord p.1 p.2) s).wrote

/-- Write bytes at home, block by block. -/
def State.writeHome (s : State) (pa : Nat) (bs : List Byte) : State :=
  (blockPieces bs.length pa bs).foldl (fun s p => s.writeBlock p.1 p.2) s

/-- Mark a word poisoned (R219, R438) (assumption 23). -/
def State.markPoison (s : State) (w : Nat) : State := s.setDev fun d => { d with pois := setIns w d.pois }

/-! ## Stopping -/

/-- Why an instruction does not complete. -/
inductive Stop where
  /-- A fault of the manual: a trap on the fibre, TVAL a physical address when `pa` (R430, R465). -/
  | trap (code sub : Nat) (val : Word) (pa : Bool)
  /-- Poison is consumed: restart at RGNPC, or the poison fault with this subcause and value (R342, R438). -/
  | poison (sub : Nat) (val : Word) (pa : Bool)
  /-- The fibre parks or is held at issue. -/
  | park (p : Park)
  /-- The fibre ships to a core, where the instruction executes as a guest (R343, R350). -/
  | ship (core : Nat)
  /-- The module stops. -/
  | fault (f : Fault)
  deriving DecidableEq, Repr

/-- A stop with the state in which it happens: what survives it (R12). -/
structure Halt where
  st : State
  why : Stop
  deriving DecidableEq, Repr

/-- A computation that may stop. -/
abbrev Ex (α : Type) := Except Halt α

/-- Raise a fault (R430). -/
def trap {α : Type} (s : State) (code sub : Nat) (val : Word) : Ex α := .error ⟨s, .trap code sub val false⟩

/-- Raise the illegal-instruction trap: TVAL holds the words of the instruction (R173, R430). -/
def illegal {α : Type} (s : State) (sub : Nat) : Ex α := trap s 0x01 sub (BitVec.ofNat 64 s.core.fetched)

/-- The base word of the instruction in issue. -/
def State.baseWord (s : State) : Word := BitVec.ofNat 64 (s.core.fetched % 2 ^ 32)

/-- Park or hold the fibre. -/
def hold {α : Type} (s : State) (p : Park) : Ex α := .error ⟨s, .park p⟩

/-- Stop unless the condition holds. -/
def ensure (c : Bool) (e : Ex Unit) : Ex Unit := if c then .ok () else e

/-- The privileged fault at user level (R14, R172 step 6). -/
def supervisor (s : State) (sub : Nat) : Ex Unit := ensure s.fib.sup (trap s 0x02 sub s.baseWord)

/-- The migration fault for a guest (R343, R344). -/
def notGuest (s : State) : Ex Unit := ensure (!s.fib.guest) (trap s 0x11 0 s.baseWord)

/-! ## The window and PREC -/

/-- Window bytes of FWIN.SIZE (R128). -/
def winBytes (size : Nat) : Nat := if size = 0 then 0 else 16 * 2 ^ size

/-- The number k of f registers at precision p (R129). -/
def winRegs (size p : Nat) : Nat := min (winBytes size / vfBytes p) 64

/-- Mark a unit dirty (R147). -/
def Fibre.touch (f : Fibre) (i : Nat) : Fibre := { f with dirty := f.dirty.set! i true }

/-- Put a value and a fill state into a register of a bank; its next read is no acquire. -/
def Bank.put (b : Bank) (r : GReg) (v : Word) (st : Fill) : Bank where
  val := b.val.set! r.toNat v
  fill := b.fill.set! r.toNat st
  acq := b.acq.set! r.toNat false

/-- Make the first read of a register an acquire, or take that mark away (R377, R380). -/
def Bank.mark (b : Bank) (r : GReg) (on : Bool) : Bank := { b with acq := b.acq.set! r.toNat on }

/-- Put a value and a fill state into a register of the fibre's own bank. -/
def Fibre.setReg (f : Fibre) (r : GReg) (v : Word) (st : Fill) : Fibre :=
  ({ f with bank := f.bank.put r v st : Fibre }).touch
    (Dirty.g r.toNat)

/-- Put a value and a fill state into a register of a skein's shadow bank. -/
def Skein.setReg (k : Skein) (r : GReg) (v : Word) (st : Fill) : Skein :=
  { k with shadow := k.shadow.put r v st }

/-- Mark the window chunks that bytes `lo` to `lo + n − 1` touch. -/
def Fibre.touchWindow (f : Fibre) (lo n : Nat) : Fibre :=
  (List.range 8).foldl (fun f i => if lo < 32 * (i + 1) ∧ 32 * i < lo + n then f.touch (Dirty.f i) else f) f

/-- Re-encode registers 0 to `k − 1` of the window at a new precision, with the flags raised (R130). -/
def reencode (f : Vector (BitVec 128) 64) (p : Nat) (mode : RMode) : Nat → Vector (BitVec 128) 64 × FFlags
  | 0 => (f, 0)
  | k + 1 =>
    let r := reencode f p mode k
    let c := (vfDecode ((f.getD k 0).toNat)).convert (Fmt.vf p) mode
    (r.1.set! k (BitVec.ofNat 128 (vfEncode p c.1)), r.2 ||| c.2)

/-- The bytes of window chunk `c` that lie among `n` bytes of the window from `lo` on. -/
def chunkBytes (c lo n : Nat) : BitVec 32 := BitVec.ofNat 32 (2 ^ min 32 (lo + n - 32 * c) - 2 ^ min 32 (lo - 32 * c))

/-- Whether a window chunk that register `i` of `n` bytes touches is poisoned (R438) (assumption 23). -/
def Fibre.fPoison (f : Fibre) (n i : Nat) : Bool :=
  (List.range 8).any fun c => f.fbad.getD c 0 != 0 && decide (32 * c < i * n + n) && decide (i * n < 32 * (c + 1))

/-- The poison marks of the window after its live registers, of `old` bytes each, were re-encoded at `new` bytes (R130, R438). -/
def Fibre.movedPoison (f : Fibre) (old new : Nat) : Vector (BitVec 32) 8 :=
  Vector.ofFn fun c : Fin 8 => if (List.range f.flive).any fun i => f.fPoison old i && chunkBytes c (i * new) new != 0 then BitVec.allOnes 32 else 0

/-- The checks of WritePrec (R130). -/
def precFits (s : State) (new : Word) : Ex Unit := do
  ensure (precOk new) (illegal s 4)
  ensure (s.fib.flive ≤ winRegs s.fib.winSize (precP new)) (trap s 0x07 0 new)

/-- What WritePrec does (R130), with the closing of an open region of R137. -/
def putPrec (s : State) (new : Word) : State :=
  let old := s.fib.prec
  if precP new = precP old then s.setFib fun f => { f with prec := new }
  else
    let r := reencode s.fib.f (precP new) (precRm new) s.fib.flive
    s.setFib fun f =>
      ({ f with
        prec := orFlags new r.2, f := r.1, rgn := { f.rgn with act := f.rgn.act && f.flive == 0 }
        fbad := if f.flive = 0 then f.fbad else f.movedPoison (vfBytes (precP old)) (vfBytes (precP new)) }).touchWindow 0
        (if f.flive = 0 then 0 else f.flive * vfBytes (precP new))

/-- The first live register in a poisoned chunk: a change of P reads them all (R130, R438). -/
def Fibre.firstFPoison (f : Fibre) (new : Word) : Option Nat :=
  if precP new = precP f.prec then none else (List.range f.flive).find? fun i => f.fPoison (vfBytes (precP f.prec)) i

/-- WritePrec (R130) by an instruction, which consumes the poison that it reads (R438). -/
def writePrec (s : State) (new : Word) : Ex State := do
  precFits s new
  match s.fib.firstFPoison new with
  | some i => .error ⟨s, .poison 1 (BitVec.ofNat 64 i) false⟩
  | none => .ok (putPrec s new)

/-! ## Ending a launch -/

/-- Return a skein's share of its core and chiplet: cursors close, set groups and table slots go back (R337, R415). -/
def State.releaseSkein (s : State) (k : Skein) : State :=
  let s := s.onChip (chipNum k.core) fun c => { c with cursors := c.cursors.filter fun x => !(x.lid == k.lid && x.skn == k.skn) }
  if k.groups.isEmpty then s else s.onCore k.core fun c => { c with accmap := accmapReset, accen := 0 }

/-- A service queue without the entries of some fibres. -/
def Unit_.without (u : Unit_) (gone : FibreId → Bool) : Unit_ := { u with queue := u.queue.filter fun e => !gone e.fib }

/-- A chiplet without the waits of some fibres: semaphore lines and unit queues (R287, R364). -/
def Chip.without (c : Chip) (gone : FibreId → Bool) : Chip :=
  { c with
    sems := c.sems.map fun m => { m with
      line := m.line.filter fun r => !gone r.1, look := m.look || m.line.any fun r => gone r.1 }
    vunit := c.vunit.without gone
    array := c.array.without gone
    engine := c.engine.without gone }

/-- Withdraw the waits of fibres at words, semaphores and unit queues (R198, R337, R364). -/
def State.forgetWaits (s : State) (gone : FibreId → Bool) : State :=
  { s with
    chip := s.chip.without gone
    chips := s.chips.map fun c => c.without gone
    dev := { s.dev with feWait := s.dev.feWait.filter fun w => !gone w.fib } }

/-- The NETSEL entry of a chiplet for a destination (R33, R34): 0b10 never stands there. -/
def State.netselFrom (s : State) (src dst : Nat) : Nat := bits ((s.chipAt src).netsel.getD (dst / 32) 0) (2 * (dst % 32)) 2

/-- The way of a packet that one place sends to another now (R31, R33). -/
def State.hopFrom (s : State) (from_ place : Nat) : Hop :=
  { src := netChip from_, dst := netChip place, mesh := s.netselFrom (netChip from_) (netChip place) == 1, sent := s.ctr }

/-- The NACK to a sender that expects a reply (R392): network unreachable, subcause 3, on the way that NETSEL gives it (R33). -/
def State.nack (s : State) (m : Msg) : State :=
  if m.rpl then s.setDev fun d => { d with
    replies := d.replies ++ [{ fib := m.srcFib, shadow := m.shadow, r := m.rreg, v := 0x30010#64, nack := true
                               hop := s.hopFrom m.hop.dst m.hop.src }] }
  else s

/-- The messages that wait at cores for a launch that ends go, answered by NACKs. -/
def State.purgeInbound (s : State) (lid : Nat) : State :=
  let ms := (s.core :: s.cores).flatMap fun c => c.inbound.filter fun m => m.dstLid == lid
  let drop (c : Core) : Core := { c with inbound := c.inbound.filter fun m => m.dstLid != lid }
  ms.foldl State.nack { s with core := drop s.core, cores := s.cores.map drop }

/-- Stop every fibre of a launch without a checkpoint and let it end with a status and a reason (R416, R426, R432). -/
def State.endLaunch (s : State) (lid status reason : Nat) : State :=
  let s := s.purgeInbound lid
  let gone := s.allSkeins.filter fun k => k.lid == lid && k.resident
  let s := gone.foldl State.releaseSkein s
  let s := s.forgetWaits fun id => id.lid == lid
  let s := { s with
    fib := if s.fib.id.lid = lid then { s.fib with live := false } else s.fib
    fibres := s.fibres.filter fun f => f.id.lid != lid
    skein := if s.skein.lid = lid then Skein.zero else s.skein
    skeins := s.skeins.filter fun k => k.lid != lid }
  s.onLaunch lid fun l => { l with state := .ended status reason }

/-! ## Taking a trap and returning -/

/-- A hallmark trigger (R443): accepted while armed, nothing held and no latch tick pending. -/
def State.trigger (s : State) (src : Nat) : State :=
  if bit s.dev.hmctl 60 && !bit s.dev.hmctl 63 && s.dev.latch.isNone then
    s.setDev fun d => { d with latch := some { tick := 1024 * ((s.now + 1023) / 1024) + 2048, src := src, taken := [] } }
  else s

/-- TCAUSE as trap entry writes it (R429, R432). -/
def tcauseOf (s : State) (code sub : Nat) (pa gst : Bool) : Word :=
  BitVec.ofNat 64 (2 ^ 63 + (if s.fib.sup then 2 ^ 62 else 0) + (if s.fib.rpt.act then 2 ^ 61 else 0) +
    (if gst then 2 ^ 60 else 0) + (if pa then 2 ^ 59 else 0) + sub % 256 * 256 + code % 256)

/-- Close a repeat frame (R255, R257, R258) (assumption 50). -/
def Frame.close (r : Frame) : Frame := { r with act := false, aside := false, iter := 0, pos := 0 }

/-- TakeTrap (R432, R433): the registers saved, supervisor level, PC at the handler; a second trap ends the launch. A token
fault clears the ERR bit of the token its record names (R135). -/
def takeTrap (s : State) (code sub : Nat) (val : Word) (pa gst : Bool) : State :=
  if bit s.fib.trap.tcause 63 then
    (s.log 0x14 code sub s.fib.trap.trappc.toNat (tcauseOf s code sub pa gst).toNat).endLaunch s.fib.id.lid 3 code
  else
    let cause := tcauseOf s code sub pa gst
    let s := s.forgetWaits fun id => id == s.fib.id
    let s := if bit s.dev.hmmask (code % 64) && code < 64 then s.trigger 1 else s
    s.setFib fun f =>
      ({ f with
        trap := { f.trap with trappc := f.pc, tval := val, tcause := cause }
        sup := true
        pc := s.core.tvec &&& 0x01FFFFFFFFFFFFFC#64
        park := none
        rpt := { f.rpt with aside := f.rpt.act }
        tokens := if code = 0x13 then { f.tokens with err := f.tokens.err.set! (bits val 45 3) false } else f.tokens
        : Fibre }).touch Dirty.trap

/-- Raise a trap on the fibre in focus; a guest is sent home first (R351). -/
def raise (s : State) (code sub : Nat) (val : Word) (pa : Bool) : State :=
  if s.fib.guest then s.setFib fun f => { f with park := none, travel := some (.homeTrap code sub val pa) }
  else takeTrap s code sub val pa false

/-- Whether some general register of the fibre's own bank is pending (R342, R337). -/
def Fibre.anyPending (f : Fibre) : Bool := (List.range 8).any fun i => f.bank.fill.getD i 0 == Fill.pending

/-- RGNPC as a register (R137). -/
def Region.word (r : Region) : Word := BitVec.ofNat 64 ((if r.act then 2 ^ 63 else 0) + bits r.pc 2 55 * 4)

/-- The restart of R342, steps 2 to 4 without the count check: snapshot restored, count raised, logged, PC at RGNPC. -/
def restart (s : State) : Ex State := do
  if s.fib.anyPending then hold s .retry
  else
    let pc := s.fib.pc
    precFits s s.fib.rgn.prec
    let s := putPrec s s.fib.rgn.prec
    let s := s.setFib fun f =>
      let f := ((List.range 8).foldl (fun f i => f.touch (Dirty.g i)) f).touch Dirty.rpt
      { f with
        bank := f.rgn.snap
        rgn := { f.rgn with count := f.rgn.count + 1 }
        pc := f.rgn.pc
        rpt := f.rpt.close
        park := none
        bwait := none }
    .ok (s.log 0x04 0 0 s.fib.rgn.word.toNat (pc.toNat + s.fib.rgn.count % 4 * 2 ^ 62))

/-- Poison is consumed (R342, R438): restart the open region at most twice, else the poison fault. -/
def consume (s : State) (sub : Nat) (val : Word) (pa : Bool) : Ex State :=
  if !s.fib.rgn.act || s.fib.inev then .error ⟨s, .trap 0x06 sub val pa⟩
  else if s.fib.anyPending then hold s .retry
  else if s.fib.rgn.count ≥ 2 then .error ⟨s, .trap 0x06 sub val pa⟩
  else if s.fib.guest then .ok (s.setFib fun f => { f with park := none, travel := some .homeRestart })
  else restart s

/-- k of an open frame (R160). -/
def Frame.k (r : Frame) : Nat := bits r.word 21 4 + 1
/-- The iteration count of an open frame; 0 encodes 256 (R160). -/
def Frame.count (r : Frame) : Nat := if bits r.word 13 8 = 0 then 256 else bits r.word 13 8

/-- Words of a captured instruction: 2 when its major is long (R149). -/
def wordsOf (x : BitVec 32) : Nat :=
  if x.extractLsb' 25 7 = 0x68 ∨ x.extractLsb' 25 7 = 0x69 then 2 else 1

/-- Words of the first `n` captured instructions. -/
def Frame.wordsBefore (r : Frame) (n : Nat) : Nat := ((r.words.take n).map fun w => wordsOf w.1).sum

/-- The address of body instruction `n` (R257). -/
def Frame.addr (r : Frame) (n : Nat) : Word := r.start + BitVec.ofNat 64 (4 + 4 * r.wordsBefore n)

/-- A trap return to the address of its body instruction resumes an open frame; any other address closes it (R257) (assumption 50). -/
def Frame.resume (r : Frame) (pc : Word) : Frame :=
  if r.act ∧ r.addr r.pos = pc then { r with aside := false } else r.close

/-- Whether the next instruction is one of an open frame. -/
def Frame.inBody (r : Frame) : Bool := r.act && !r.aside

/-- Return from a trap to TRAPPC (R435), with the frame rule of R257 (assumption 50). -/
def returnTo (s : State) (pc : Word) : State :=
  s.setFib fun f =>
    (({ f with
      sup := bit f.trap.tcause 62
      trap := { f.trap with tcause := f.trap.tcause &&& 0x7FFFFFFFFFFFFFFF#64 }
      pc := pc
      park := none
      rpt := f.rpt.resume pc
      bwait := f.bwait.filter fun b => b.at_ == pc
      : Fibre }).touch Dirty.trap).touch Dirty.rpt

/-! ## Retiring and parking -/

/-- One body instruction of an open frame retires (R253 to R255). -/
def Fibre.frameStep (f : Fibre) : Fibre :=
  let r := f.rpt
  if r.pos + 1 < r.k then { f with rpt := { r with pos := r.pos + 1 }, pc := r.addr (r.pos + 1) }
  else if r.iter + 1 < r.count then { f with rpt := { r with pos := 0, iter := r.iter + 1 }, pc := r.addr 0 }
  else { f with rpt := r.close, pc := r.addr r.words.length }

/-- An instruction retires and control goes to `pc`, or on through an open frame (R254, R333, R343). -/
def retireTo (s : State) (pc : Word) : State :=
  let s := s.setCore fun c => { c with retired := c.retired + 1, lastRetire := s.clk }
  s.setFib fun f =>
    let f := { f with park := none, walker := false, guestCount := if f.guest then f.guestCount + 1 else f.guestCount }
    if f.rpt.inBody then (f.frameStep).touch Dirty.rpt else { f with pc := pc }

/-- An instruction of `n` words retires. -/
def retire (s : State) (n : Nat) : State := retireTo s (s.fib.pc + BitVec.ofNat 64 (4 * n))

/-- Put a value and a fill state into a register of a named fibre, in its own bank or in its skein's shadow bank. -/
def State.putReg (s : State) (id : FibreId) (shadow : Bool) (r : GReg) (v : Word) (st : Fill) : State :=
  if shadow then (s.onSkein id.lid id.skn fun k => k.setReg r v st).onFibre id fun f => f.touch Dirty.shadow
  else s.onFibre id fun f => f.setReg r v st

/-- A parked fibre's instruction of `n` words completes while the fibre need not be in focus (R333, R334). -/
def State.finish (s : State) (id : FibreId) (n : Nat) : State :=
  match s.fibre? id with
  | none => s
  | some f =>
    let s := s.onCore f.at_ fun c => { c with retired := c.retired + 1, lastRetire := s.clkAt (chipNum f.at_) }
    s.onFibre id fun f => { f with
      pc := f.pc + BitVec.ofNat 64 (4 * n)
      park := none
      walker := false
      mark := s.dev.writes
      guestCount := if f.guest then f.guestCount + 1 else f.guestCount }

/-- Park or hold the fibre in focus; one that goes on waiting in the same way keeps the time since when. -/
def parkAs (s : State) (p : Park) : State :=
  s.setFib fun f => if f.park = some p then f else { f with park := some p, parkedAt := s.clk, parkedTick := s.now }

/-- Whether a fibre is parked (R334): held and queued instructions are not, a wait for a guest entry is. -/
def Fibre.parked (f : Fibre) : Bool :=
  match f.park, f.travel with
  | none, some (.waiting _ _) => true
  | none, _ => false
  | some .retry, _ => false
  | some (.queued _), _ => false
  | some _, _ => true

/-- The way of a packet that the chiplet in focus sends to a place now (R31, R33). -/
def State.hop (s : State) (place : Nat) : Hop := s.hopFrom s.chip.num place

/-- Whether one packet comes before another of its virtual network (R31): the same way, and sent earlier. -/
def Hop.before (a b : Hop) : Bool :=
  a.src == b.src && a.dst == b.dst && a.mesh == b.mesh && a.src != a.dst && decide (a.sent < b.sent)

/-- Whether two packets take the same way through the network (R31). -/
def Hop.along (a b : Hop) : Bool := a.src == b.src && a.dst == b.dst && a.mesh == b.mesh && a.src != a.dst

/-- The fibre leaves for a core on MIG (R343, R351) (assumption 56). -/
def shipTo (s : State) (core : Nat) : State :=
  s.setFib fun f => { f with park := none, travel := some (.out core (s.hop (chipNum core))) }

/-- What a stop does to the module. -/
def stopped (h : Halt) : Host.Outcome State Fault Refusal :=
  match h.why with
  | .trap code sub val pa => .next (raise h.st code sub val pa)
  | .park p => .next (parkAs h.st p)
  | .ship core => .next (shipTo h.st core)
  | .fault f => .fault f
  | .poison sub val pa =>
    match consume h.st sub val pa with
    | .ok s => .next s
    | .error g =>
      match g.why with
      | .trap c b v p => .next (raise g.st c b v p)
      | .park p => .next (parkAs g.st p)
      | _ => .next g.st

/-- The outcome of a computation. -/
def conclude (r : Ex State) : Host.Outcome State Fault Refusal :=
  match r with
  | .ok s => .next s
  | .error h => stopped h

/-- The outcome of a step of an agent that is no fibre: one that has to wait does nothing yet. -/
def agentStep (s : State) (r : Ex State) : Host.Outcome State Fault Refusal :=
  match r with
  | .ok t => .next t
  | .error h =>
    match h.why with
    | .fault f => .fault f
    | _ => .next s

/-- Whether an instruction of `n` words ends at the top of the address space outside replay (R251) (assumption 17). -/
def endsSpace (s : State) (n : Nat) : Bool :=
  (s.fib.pc.toNat + 4 * n == 2 ^ 57) && !(s.fib.rpt.inBody && decide (0 < s.fib.rpt.iter))

/-- The stop of a check of steps 6 and 7 of R172, or of the check of a guest that comes before every other one (R344): they come before
every fault of execution (R431). -/
def Stop.early (w : Stop) : Bool :=
  match w with
  | .trap 0x02 _ _ _ => true
  | .trap 0x01 3 _ _ => true
  | .trap 0x11 _ _ _ => true
  | _ => false

/-- Execute what an instruction of `n` words that transfers no control does, unless it ends at the top of the address space: that
fault comes after the checks of R172, which its body makes first (R251, R431) (assumption 17). -/
def ending {α : Type} (s : State) (n : Nat) (body : Ex α) : Ex α :=
  if endsSpace s n then
    match body with
    | .error h => if h.why.early then .error h else trap s 0x04 0 (BitVec.ofNat 64 (2 ^ 57))
    | .ok _ => trap s 0x04 0 (BitVec.ofNat 64 (2 ^ 57))
  else body

/-- Execute an instruction of `n` words that transfers no control (R251) (assumption 17). -/
def run (s : State) (n : Nat) (body : Ex State) : Host.Outcome State Fault Refusal :=
  conclude (ending s n do
    let t ← body
    .ok (retire t n))

/-- Execute an instruction of `n` words that transfers no control; `post` follows its retirement. -/
def runThen (s : State) (n : Nat) (body : Ex State) (post : State → State) : Host.Outcome State Fault Refusal :=
  conclude (ending s n do
    let t ← body
    .ok (post (retire t n)))

end Sys2Proof.Machine
end

