-- ==== Sys2Proof/Machine/Memory.lean ====
section
/-! DEFINITION. Memory as instructions and engines reach it: the walk and its permissions, homes and the network check,
write-through buffer, L1, release and acquire, and loads and stores by virtual address. -/

namespace Sys2Proof.Machine

/-! ## Leaf entries -/

/-- KEYID of a leaf (R43). -/
def leafKey (l : Word) : Nat := bits l 52 12
/-- HOME of a leaf (R43). -/
def leafHome (l : Word) : Nat := bits l 8 8
/-- HK of a leaf: hash group (R43). -/
def leafHk (l : Word) : Bool := bit l 7
/-- BYP of a leaf (R43). -/
def leafByp (l : Word) : Bool := bit l 6

/-- Whether a page of `size` bytes at `frame` lies wholly in existing memory (R39, R40). R40 does not list a scratchpad frame with
PA[47:32] not zero, which does not exist either (assumption 52). -/
def pageExists (frame size : Nat) : Bool :=
  match frame / 2 ^ 48 with
  | 0 => frame % 2 ^ 48 / 2 ^ 41 == 0 && decide (frame % 2 ^ 35 + size ≤ dramSize)
  | 1 => decide (frame % 2 ^ 48 + size ≤ 2 ^ 32)
  | _ => false

/-- Whether a leaf for pages of `size` bytes is well formed (R40, R43, R44). -/
def leafOk (l : Word) (size : Nat) : Bool :=
  let frame := bits l 16 36 * 2 ^ 16
  !(bit l 2 && !bit l 1) && frame % size == 0 && pageExists frame size &&
    (if isDram frame then
      (!(leafHk l) || leafHome l < 16) && (!(leafByp l) || (!(leafHk l) && leafHome l == 0))
    else leafKey l == 0 && leafHome l == 0 && !(leafHk l) && !(leafByp l))

/-- What a walk gives: a leaf with the physical address, a translation subcause, or an entry at no address. -/
inductive Walk where
  | leaf (l : Word) (pa : Nat)
  | fail (sub : Nat)
  | hole (pa : Nat)
  deriving DecidableEq, Repr

/-- The cached entry of a chiplet for an ASID, level and VA part (R51). -/
def Chip.cached (c : Chip) (asid level va : Nat) : Option TlbEntry :=
  c.tlb.find? fun e => e.asid == asid && e.level == level && e.va == va

/-- Put an entry into the translation cache in place of the one it held for the same walk step. -/
def Chip.cache (c : Chip) (e : TlbEntry) : Chip :=
  { c with tlb := e :: c.tlb.filter fun x => !(x.asid == e.asid && x.level == e.level && x.va == e.va) }

/-- A walker has read an entry, which the cache takes in place of the one it held, unless V is 0 (R51). -/
def Chip.walked (c : Chip) (asid level va : Nat) (m : Word) : Chip :=
  if bit m 0 ∨ level = 0 then c.cache { asid := asid, level := level, va := va, entry := m }
  else { c with tlb := c.tlb.filter fun x => !(x.asid == asid && x.level == level && x.va == va) }

/-- A walker reads an entry (R50): memory at dev scope, where it meets the word's syndrome (R437), or a cached entry that memory no longer
agrees with (R51). The plaintext at home is read, whatever key or mark the word has (assumption 52). -/
def State.walkRead (s : State) (asid level va pa : Nat) : Word × State :=
  let s := s.detect pa 8
  let m := BitVec.ofNat 64 (ofBytes (s.homeBytes pa 8))
  match s.chip.cached asid level va with
  | some e =>
    if e.entry = m then (m, s)
    else if Config.tlbStale s.ctr pa then (e.entry, s)
    else (m, s.setChip fun c => c.walked asid level va m)
  | none => (m, s.setChip fun c => c.walked asid level va m)

/-- The levels below: shift and index bits of each (R42). -/
def walkLevels : List (Nat × Nat) := [(35, 22), (30, 5), (21, 9), (16, 5)]

/-- The alignment a table at the next level needs (R42). -/
def tableAlign (bitsBelow : Nat) : Nat := 8 * 2 ^ bitsBelow

/-- Walk the levels that are left from the table at `table` (R42 to R44). -/
def walkFrom (asid va : Nat) : List (Nat × Nat) → Nat → Nat → State → Walk × State
  | [], _, _, s => (.fail 3, s)
  | (sh, bs) :: rest, level, table, s =>
    let pa := table + 8 * (va / 2 ^ sh % 2 ^ bs)
    if !paOk pa then (.hole pa, s) else
    let r := s.walkRead asid level (va / 2 ^ sh) pa
    let e := r.1
    if !bit e 0 then (.fail 2, r.2)
    else if bits e 1 3 = 0 then
      match rest with
      | [] => (.fail 3, r.2)
      | (_, nb) :: _ =>
        let next := bits e 8 44 * 256
        if bits e 1 7 ≠ 0 ∨ bits e 52 12 ≠ 0 ∨ next % tableAlign nb ≠ 0 then (.fail 3, r.2)
        else walkFrom asid va rest (level + 1) next r.2
    else if leafOk e (2 ^ sh) then (.leaf e (bits e 16 36 * 2 ^ 16 + va % 2 ^ sh), r.2)
    else (.fail 3, r.2)

/-- Translate a virtual address below 2^57 under an ASID (R41 to R44) (assumption 36). -/
def walk (s : State) (asid va : Nat) : Walk × State :=
  let apa := s.dev.astabbase.toNat + 8 * asid
  if !paOk apa then (.hole apa, s) else
  let r := s.walkRead asid 0 0 apa
  let a := r.1
  let rb := bits a 0 5
  let root := bits a 8 44 * 256
  if !bit a 63 ∨ bits a 52 11 ≠ 0 ∨ bits a 5 3 ≠ 0 ∨ rb > 22 ∨ root % (8 * 2 ^ rb) ≠ 0 then (.fail 4, r.2)
  else if va / 2 ^ 35 ≥ 2 ^ rb then (.fail 1, r.2)
  else walkFrom asid va walkLevels 1 root r.2

/-! ## Access checks -/

/-- Who accesses and how (R38, R46). -/
structure Acc where
  asid : Nat
  sup : Bool
  load : Bool
  store : Bool
  fetch : Bool
  fe : Bool
  deriving DecidableEq, Repr

/-- A load by the fibre in focus. -/
def State.accLoad (s : State) : Acc :=
  { asid := s.fib.asid, sup := s.fib.sup, load := true, store := false, fetch := false, fe := false }
/-- A store by the fibre in focus. -/
def State.accStore (s : State) : Acc := { s.accLoad with load := false, store := true }
/-- Both halves of an atomic by the fibre in focus. -/
def State.accAtomic (s : State) : Acc := { s.accLoad with store := true }
/-- A fetch by the fibre in focus. -/
def State.accFetch (s : State) : Acc := { s.accLoad with load := false, fetch := true }

/-- The protection subcause of the first check that fails, in the order of the rows of R46. -/
def protSub (a : Acc) (l : Word) (pa : Nat) : Option Nat :=
  if !a.sup && !bit l 4 then some 0
  else if a.load && !bit l 1 then some 1
  else if a.store && !bit l 2 then some 2
  else if a.fetch && !bit l 3 then some 3
  else if a.fe && isDram pa && !bit l 5 then some 4
  else none

/-- Bytes of an access on one page: physical and virtual address, length and leaf. -/
structure Piece where
  pa : Nat
  va : Nat
  len : Nat
  leaf : Word
  deriving DecidableEq, Repr

/-- Whether a walk from `s` read an entry that no translation cache held (R50, R51). -/
def walkMissed (s : State) (r : Walk × State) : Bool := r.1 == .fail 2 || r.2.chip.tlb != s.chip.tlb

/-- Whether a miss of the fibre in focus waits for a walker: all 384 are busy, and none has taken it (R50) (assumption 36). -/
def State.walkersBusy (s : State) : Bool := decide (384 ≤ s.walkers) && !s.fib.walker

/-- Translate and check one address (R183 step 5); a miss that finds every walker busy parks (R50, R66) (assumption 36). -/
def State.check (s : State) (a : Acc) (va : Nat) : Ex (State × Word × Nat) :=
  let r := walk s a.asid va
  if walkMissed s r && s.walkersBusy then hold s .walker else
  match r with
  | (.hole pa, t) => .error ⟨t, .fault (.noSuchAddress pa)⟩
  | (.fail sub, t) => trap t 0x04 sub (BitVec.ofNat 64 va)
  | (.leaf l pa, t) =>
    match protSub a l pa with
    | some sub => trap t 0x05 sub (BitVec.ofNat 64 va)
    | none => .ok (t, l, pa)

/-- Translate and check every page of a range (R52). -/
def State.pages (s : State) (a : Acc) : Nat → Nat → Nat → Ex (State × List Piece)
  | 0, _, _ => .ok (s, [])
  | fuel + 1, va, n =>
    if n = 0 then .ok (s, []) else do
    let m := min n (2 ^ 16 - va % 2 ^ 16)
    let (s, l, pa) ← s.check a va
    let (s, ps) ← State.pages s a fuel (va + m) (n - m)
    .ok (s, { pa := pa, va := va, len := m, leaf := l } :: ps)

/-- Bits 63:57 of every byte's address are zero (R37); the fault names the lowest byte that breaks this. -/
def State.inSpace (s : State) (va : Word) (n : Nat) : Ex Unit :=
  if va.toNat ≥ 2 ^ 57 then trap s 0x04 0 va
  else if va.toNat + n > 2 ^ 57 then trap s 0x04 0 (BitVec.ofNat 64 (2 ^ 57))
  else .ok ()

/-- The home chiplet of a line in a hash group (R47), from the group table as the chiplet read it; none for no member. -/
def hashHome (group : BitVec 256) (line : Nat) : Option Nat :=
  let h := (line % 2 ^ 15) ^^^ (line / 2 ^ 15 % 2 ^ 15) ^^^ (line / 2 ^ 30 % 2 ^ 15)
  let members := (List.range 256).filter fun c => group.getLsbD c
  if members.isEmpty then none else members[h % members.length]?

/-- A hash group as the chiplet in focus read it; a channel core uses the table of the chiplet that it is bonded to (R19, R48). -/
def State.group (s : State) (g : Nat) : BitVec 256 := (s.chipAt (netChip s.chip.num)).groups.getD (g % 16) 0

/-- The home of an address: a compute chiplet, or a channel core's place (R47, R60, R350). -/
def State.homeOf (s : State) (leaf : Word) (pa : Nat) : Option Nat :=
  if isPad pa then some (padChip pa)
  else if leafByp leaf then some (chipNum (channelCore pa))
  else if leafHk leaf then hashHome (s.group (leafHome leaf)) (pa / 128)
  else some (leafHome leaf)

/-- The NETSEL entry of the chiplet in focus for a destination (R33, R34). -/
def State.netselOf (s : State) (dst : Nat) : Nat := s.netselFrom (netChip s.chip.num) dst

/-- The network check of R36 towards a place; the window of a chiplet that is FENCED is out of reach for a guest on a channel core bonded
to it too (R28). -/
def State.reach (s : State) (place : Nat) : Ex Unit :=
  let dst := netChip place
  if dst = netChip s.chip.num then ensure (!(place == dst && (s.chipAt dst).state == 6)) (trap s 0x10 0 (BitVec.ofNat 64 dst))
  else if s.netselOf dst = 3 then trap s 0x10 0 (BitVec.ofNat 64 dst)
  else .ok ()

/-- The home of a piece, with the translation fault of an empty hash group and the network check (R36, R47). -/
def State.pieceHome (s : State) (p : Piece) : Ex Nat :=
  match s.homeOf p.leaf p.pa with
  | none => trap s 0x04 5 (BitVec.ofNat 64 p.va)
  | some h => do
    let _ ← s.reach h
    .ok h

/-- Whether a piece lies in another chiplet's scratchpad window (R65). -/
def State.remote (s : State) (p : Piece) : Bool := isPad p.pa && padChip p.pa != s.chip.num

/-- Homes of the lines of a piece, from its first on (R47, R60). -/
def State.reachLines (s : State) : Nat → Piece → Ex Unit
  | 0, _ => .ok ()
  | n + 1, p => do
    let _ ← s.pieceHome p
    let off := 128 - p.pa % 128
    if p.len ≤ off then .ok ()
    else State.reachLines s n { p with pa := p.pa + off, va := p.va + off, len := p.len - off }

/-- Homes of every line of a list of pieces (R183 step 6); only a hash group or BYP = 1 gives the lines of a page several. -/
def State.reachAll (s : State) : List Piece → Ex Unit
  | [] => .ok ()
  | p :: ps => do
    s.reachLines (if isDram p.pa && (leafHk p.leaf || leafByp p.leaf) then p.len / 128 + 2 else 1) p
    State.reachAll s ps

/-- Steps 3, 5 and 6 of R183 for one access: range, pages, the remote-window rule when `noRemote` asks for it, homes. The homes come after
all pages, so that an empty group of the first page is met after a fault of the second (assumption 53). -/
def State.access (s : State) (a : Acc) (va : Word) (n : Nat) (noRemote : Bool) : Ex (State × List Piece) := do
  s.inSpace va n
  let (s, ps) ← s.pages a (n / 2 ^ 16 + 2) va.toNat n
  match ps.find? fun p => noRemote && s.remote p with
  | some p => trap s 0x05 5 (BitVec.ofNat 64 p.va)
  | none => do
    s.reachAll ps
    .ok (s, ps)

/-! ## Keys -/

/-- The plaintext that a slice holds of a line which it read under another key than the line's (R69). -/
def State.altLine (s : State) (line : Nat) : Option (BitVec 1024) :=
  if s.dev.slices.any fun e => e.1 == line then (s.dev.alts.find? fun e => e.1 == line).map Prod.snd else none

/-- The byte of a DRAM line under a key: its plaintext, or under another key than its own the decryption (R68). -/
def State.deciphered (s : State) (key : BitVec 512) (pa : Nat) : Byte :=
  if s.lineKeyOf (pa / 128) = key then memRead s.dev.mem pa
  else (xtsDecrypt key (pa / 128) (s.storedLine (pa / 128))).extractLsb' (8 * (pa % 128)) 8

/-- The byte that an access under a key finds (R68, R69): what the key gives or, unpredictably, the plaintext that a cache holds of the
line under another one (assumption 22). -/
def State.viewByte (s : State) (key : BitVec 512) (pa : Nat) : Byte :=
  if isDram pa then
    match s.altLine (pa / 128) with
    | some d => if Config.keyHit s.ctr (pa / 128) then d.extractLsb' (8 * (pa % 128)) 8 else s.deciphered key pa
    | none =>
      if s.lineKeyOf (pa / 128) ≠ key && s.lineCached (pa / 128) && Config.keyHit s.ctr (pa / 128) then memRead s.dev.mem pa
      else s.deciphered key pa
  else memRead s.dev.mem pa

/-- Bytes under a key. -/
def State.viewBytes (s : State) (key : BitVec 512) (pa : Nat) : Nat → List Byte
  | 0 => []
  | n + 1 => s.viewByte key pa :: s.viewBytes key (pa + 1) n

/-- The slice of a line whose page `keyArg` describes (R47). -/
def State.sliceOf (s : State) (key line : Nat) : Nat :=
  if key / 8192 < 256 then key / 8192 else (hashHome (s.group (key / 8192)) line).getD 0

/-- A slice comes to hold a line that it read under a key (R59, R69). -/
def State.holdSlice (s : State) (key : BitVec 512) (line home : Nat) : State :=
  if s.dev.slices.any fun e => e.1 == line then s
  else
    let seen := BitVec.ofNat 1024 (ofBytes (s.viewBytes key (128 * line) 128))
    let alts := if s.lineKeyOf line = key ∨ seen = s.plainLine line then assocDel line s.dev.alts else assocPut line seen s.dev.alts
    s.setDev fun d => { d with slices := (line, home) :: d.slices, alts := alts }

/-- A line becomes dirty in its home slice, which remembers what lies beneath it (R59, R71), or for a page with BYP = 1 in the
memory-side cache (R58). -/
def State.dirtyLine (s : State) (key line : Nat) : State :=
  if key.testBit 12 then s.putMsc line (key % 4096) true
  else if s.dev.below.any fun e => e.line == line then
    s.setDev fun d => { d with below := updAll (fun e => e.line == line) (fun e => { e with key := key % 4096 }) d.below }
  else (s.holdSlice (s.key (key % 4096)) line (s.sliceOf key line)).setDev fun d => { d with
    below := { line := line, since := s.ctr, home := s.sliceOf key line, hashed := decide (256 ≤ key / 8192), key := key % 4096
               data := memBytes d.mem (128 * line) 128
               empt := d.empt.filter fun w => w / 16 == line, pois := d.pois.filter fun w => w / 16 == line
               renewed := d.renewed.filter fun w => w / 16 == line } :: d.below }

/-- A DRAM line is taken for a write under the key of its page: the writer's view becomes its content (R68, R69), and it is dirty. -/
def State.takeLine (s : State) (key line : Nat) : State :=
  if s.lineKeyOf line = s.key (key % 4096) ∧ s.altLine line = none then s.dirtyLine key line
  else
    let data := s.viewBytes (s.key (key % 4096)) (128 * line) 128
    (s.dirtyLine key line).setDev fun d => { d with mem := memPut d.mem (128 * line) data, alts := assocDel line d.alts }

/-- A store is performed at its home (R371); `key` names how its page is held, see `keyArg`. -/
def State.perform (s : State) (key pa : Nat) (bs : List Byte) : State :=
  if isDram pa then (s.takeLine key (pa / 128)).writeHome pa bs else s.writeHome pa bs

/-- How the page of a leaf is held: KEYID, plus 4096 for BYP, plus 8192 times HOME and HK. -/
def keyArg (leaf : Word) : Nat :=
  leafKey leaf + (if leafByp leaf then 4096 else 0) + 8192 * (leafHome leaf + if leafHk leaf then 256 else 0)

/-- A full/empty bit of a word changes in its home slice, which makes a DRAM line dirty (R59, R67). -/
def State.touchBit (s : State) (key pa : Nat) : State := if isDram pa then s.takeLine key (pa / 128) else s

/-! ## Write-through buffer, L1, release and acquire -/

/-- Stores of a core have been performed: its fibres load nothing from before them (R186, R374) (assumption 57). -/
def State.remarkCore (s : State) (core : Nat) : State :=
  let f (x : Fibre) : Fibre := if x.at_ = core then { x with mark := s.dev.writes } else x
  { s with fib := f s.fib, fibres := s.fibres.map f }

/-- Extend the low `n` bytes of a loaded number (R189). -/
def extendLoad (n : Nat) (signed : Bool) (x : Nat) : Word :=
  if signed then BitVec.ofInt 64 (toSigned (8 * n) x) else BitVec.ofNat 64 x

/-- An acquire at chip scope by a named fibre (R375). -/
def State.acquireFor (s : State) (id : FibreId) : State :=
  match s.fibre? id with
  | none => s
  | some f => s.onCore f.at_ fun c => { c with l1 := [] }

/-- The newest buffered byte of a core for an address, if any (R372). -/
def bufferedByte (pa : Nat) : List Buffered → Option Byte
  | [] => none
  | b :: bs =>
    match bufferedByte pa bs with
    | some x => some x
    | none => if b.pa ≤ pa ∧ pa < b.pa + b.data.length then b.data[pa - b.pa]? else none

/-- The bytes that a load performed at home returns to a core: its own buffered ones first (R372). -/
def State.coreView (s : State) (core : Nat) (key : BitVec 512) (pa n : Nat) : List Byte :=
  let wtb := (s.coreAt core).wtb
  (List.range n).map fun i => (bufferedByte (pa + i) wtb).getD (s.viewByte key (pa + i))

/-- A waiting full/empty load completes on its full word (R196); one that meets poison executes again (R383). -/
def State.serveWaiter (s : State) (w : FeWait) : State :=
  let s := (s.setDev fun d => { d with feWait := d.feWait.filter fun e => e.fib != w.fib }).detect w.pa w.len
  if s.poisonedWord (w.pa / 8) then s.onFibre w.fib fun f => { f with park := some .retry }
  else
    let core := match s.fibre? w.fib with
      | some f => f.at_
      | none => s.core.num
    let v := extendLoad w.len w.signed (ofBytes (s.coreView core (s.key (w.key % 4096)) w.pa w.len))
    let s := ((s.putReg w.fib w.shadow w.d v Fill.full).acquireFor w.fib).finish w.fib 1
    if w.take then (s.touchBit w.key w.pa).setFull (w.pa / 8) false else s

/-- Serve waiting takes in order until one empties the word (R196, R383). -/
def serveTakes : List FeWait → State → State
  | [], s => s
  | w :: ws, s =>
    let t := s.serveWaiter w
    if t.emptyWord (w.pa / 8) then t else serveTakes ws t

/-- A word becomes full (R196): it is set full, every waiting load completes, then the waiting takes until one empties it. -/
def State.makeFull (s : State) (w : Nat) : State :=
  let s := s.setFull w true
  let mine := s.dev.feWait.filter fun e => e.pa / 8 == w
  if mine.isEmpty then s else
  serveTakes (mine.filter fun e => e.take) ((mine.filter fun e => !e.take).foldl State.serveWaiter s)

/-- Words that became full otherwise than by a store to them wake their waiters (R66, R196). -/
def State.wakeFull (s : State) : State :=
  ((s.dev.feWait.map fun e => e.pa / 8).eraseDups.filter fun w => !s.emptyWord w).foldl State.makeFull s

/-- A buffered store is performed at its home (R62, R196). -/
def State.performEntry (s : State) (b : Buffered) : State :=
  let s := s.perform b.key b.pa b.data
  if b.full then (s.touchBit b.key b.pa).makeFull (b.pa / 8) else s

/-- Perform the entries of a write-through buffer in order (R62) (assumption 19). -/
def State.performAll (s : State) : List Buffered → State
  | [] => s
  | b :: bs => State.performAll (s.performEntry b) bs

/-- Perform one posted remote store (R65) (assumption 19). -/
def State.performPosted (s : State) (p : Posted) : State :=
  let s := s.writeHome p.pa p.data
  let s := s.onFibre p.fib fun f => { f with mark := s.dev.writes }
  if p.setFull then s.makeFull (p.pa / 8) else s

/-- Perform the posted stores that `due` names, in the order in which they were sent. -/
def State.performDue (s : State) (due : Posted → Bool) : State :=
  let l := s.dev.posted.filter due
  if l.isEmpty then s else
  l.foldl State.performPosted (s.setDev fun d => { d with posted := d.posted.filter fun p => !due p })

/-- Perform every posted store that `due` names, and those that were sent before one of them on its way (R31). -/
def State.settleOf (s : State) (due : Posted → Bool) : State :=
  let mine := s.dev.posted.filter due
  if mine.isEmpty then s else s.performDue fun p => due p || mine.any fun m => p.hop.before m.hop

/-- Perform every posted store of the fibre in focus (R375). -/
def State.settle (s : State) : State := s.settleOf fun p => p.fib == s.fib.id

/-- The parts of stores of the fibre in focus to its own chiplet's scratchpad are performed before its next access (R374). -/
def State.settleLocal (s : State) : State := s.performDue fun p => p.fib == s.fib.id && padChip p.pa == p.src

/-- The place where a buffered store is performed (R47, R60). -/
def State.entryHome (s : State) (b : Buffered) : Nat :=
  if b.key.testBit 12 then chipNum (channelCore b.pa) else s.sliceOf b.key (b.pa / 128)

/-- Perform the whole write-through buffer of a core (R61), after the remote stores sent before on the ways of its entries (R31)
(assumption 19). -/
def State.drainCore (s : State) (c : Core) : State :=
  if c.wtb.isEmpty then s else
  let s := s.performDue fun p => c.wtb.any fun b => p.hop.along (s.hopFrom (chipNum c.num) (s.entryHome b))
  ((s.performAll c.wtb).onCore c.num fun x => { x with wtb := [] }).remarkCore c.num

/-- Drain the write-through buffer of the core in focus (R61) (assumption 19). -/
def State.drain (s : State) : State := s.drainCore s.core

/-- Whether a message that a packet sent now on a way would overtake is still on it (R31, R389). -/
def State.blocked (s : State) (h : Hop) : Bool := s.dev.flight.any fun m => m.hop.along h

/-- Whether a message that a buffered store of a core would overtake is on its way (R31). -/
def State.entryBehind (s : State) (core : Nat) (b : Buffered) : Bool := s.blocked (s.hopFrom (chipNum core) (s.entryHome b))

/-- The buffered stores of the core in focus that touch some lines. -/
def State.bufferedTo (s : State) (lines : List Nat) : List Buffered := s.core.wtb.filter fun b => lines.contains (b.pa / 128)

/-- Perform the buffered stores of the core in focus to some lines (R62, R374). -/
def State.drainLines (s : State) (lines : List Nat) : State :=
  let mine := s.bufferedTo lines
  if mine.isEmpty then s else
  (((s.setCore fun c => { c with wtb := c.wtb.filter fun b => !lines.contains (b.pa / 128) }).performAll mine)).remarkCore s.core.num

/-- Before an access is performed at its home: what was sent before it on its ways `out` arrives (R31), the earlier stores of its fibre to
the bytes of the pieces `own` are performed (R186, R374), and so are the buffered stores of its core to the lines `lines` of them. It
waits behind a message on one of these ways (R31, R389). -/
def State.homeFirst (s : State) (out : List Hop) (own : List Piece) (lines : List Nat) : Ex State :=
  let out := out ++ (s.bufferedTo lines).map fun b => s.hopFrom s.chip.num (s.entryHome b)
  let due (p : Posted) : Bool := (out.any fun h => p.hop.along h) ||
    (p.fib == s.fib.id && own.any fun q => decide (p.pa < q.pa + q.len) && decide (q.pa < p.pa + p.data.length))
  if (out.any s.blocked) || s.dev.posted.any fun p => due p && s.dev.flight.any fun m => m.hop.before p.hop then hold s .wait
  else .ok ((s.settleOf due).drainLines lines)

/-- Whether a message sent before a remote store of the fibre in focus, or where `drains` before a store of its core leaves the
write-through buffer, is still on that store's way (R31). -/
def State.behindMessage (s : State) (drains : Bool) : Bool :=
  (s.dev.posted.any fun p => p.fib == s.fib.id && s.dev.flight.any fun m => m.hop.before p.hop) ||
    (drains && s.core.wtb.any fun b => s.entryBehind s.core.num b)

/-- Every earlier store of the fibre in focus is performed, and the write-through buffer of its core drained; held while a message is on
the way of one of them (R31). -/
def State.allFirst (s : State) : Ex State := if s.behindMessage true then hold s .retry else .ok s.settle.drain

/-- A release at a scope code of R163 (R375): earlier remote stores are performed and UPDOUT is 0 from core scope on, the
write-through buffer drains from chip scope on (assumption 18). -/
def State.release (s : State) (scope : Nat) : Ex State :=
  if scope = 0 then .ok s
  else if s.fib.updout ≠ 0 ∨ s.behindMessage (scope != 1) then hold s .retry
  else if scope = 1 then .ok s.settle
  else .ok s.settle.drain

/-- An acquire at a scope code: the L1 of the core is invalidated from chip scope on (R61, R375) (assumption 18). -/
def State.acquire (s : State) (scope : Nat) : State := if scope < 2 then s else s.setCore fun c => { c with l1 := [] }

/-- The scope that an instruction's scope takes on its core: a domain level not defined widens (R345, R373). -/
def widen (memb : Word) (scope : Nat) : Nat :=
  if scope = 3 ∧ bit memb 22 then 3
  else if (scope = 3 ∨ scope = 4) ∧ bit memb 33 then 4
  else if (3 ≤ scope ∧ scope ≤ 5) ∧ bit memb 44 then 5
  else if 3 ≤ scope ∧ scope ≤ 5 then 6
  else scope

/-- The L1 copy of a byte, if the line is present (R61, R372). -/
def State.l1Byte (s : State) (pa : Nat) : Option Byte :=
  (s.core.l1.find? fun e => e.1 == pa / 128).map fun e => e.2.extractLsb' (8 * (pa % 128)) 8

/-- The byte at home now; none where it is poisoned (R187). -/
def State.nowByte (s : State) (key : BitVec 512) (pa : Nat) : Option Byte :=
  if s.poisonedWord (pa / 8) then none else some (s.viewByte key pa)

/-- The byte at home at the moment of `m` writes since power-on (R371, R372); none where it was poisoned then (R187). -/
def State.homeByte (s : State) (m : Nat) (key : BitVec 512) (pa : Nat) : Option Byte :=
  if s.dev.writes ≤ m then s.nowByte key pa else
  match s.dev.past.find? fun e => decide (m ≤ e.at_) && e.word == pa / 8 with
  | some e => if e.bad then none else some (e.was.extractLsb' (8 * (pa % 8)) 8)
  | none => s.nowByte key pa

/-- When a part of an access is performed, counted in writes (R82, R185, R385): now for an access in one part; else at any moment
since the latest step of its fibre, the same for the bytes of one 64-byte block of one lane (assumption 57). -/
def State.moment (s : State) (part : Option Nat) (pa : Nat) : Nat :=
  match part with
  | none => s.dev.writes
  | some lane =>
    if s.dev.writes ≤ s.fib.mark then s.dev.writes
    else s.fib.mark + Config.partMoment s.ctr (2 ^ 64 * lane + pa / 64) % (s.dev.writes + 1 - s.fib.mark)

/-- The byte a load of the core in focus takes (R372); none where the byte is poisoned (R187). -/
def State.loadByte (s : State) (l1 : Bool) (key : BitVec 512) (part : Option Nat) (pa : Nat) : Option Byte :=
  match bufferedByte pa s.core.wtb with
  | some b => some b
  | none =>
    match (if l1 then s.l1Byte pa else none) with
    | some b => some b
    | none => s.homeByte (s.moment part pa) key pa

/-- The bytes of a piece; on poison, the address of the lowest poisoned byte. -/
def State.loadBytes (s : State) (l1 : Bool) (key : BitVec 512) (part : Option Nat) (pa va : Nat) : Nat → Except Nat (List Byte)
  | 0 => .ok []
  | n + 1 =>
    match s.loadByte l1 key part pa with
    | none => .error va
    | some b =>
      match State.loadBytes s l1 key part (pa + 1) (va + 1) n with
      | .ok bs => .ok (b :: bs)
      | .error e => .error e

/-- The lines that a piece touches. -/
def Piece.lines (p : Piece) : List Nat := (List.range ((p.pa % 128 + p.len + 127) / 128)).map fun i => p.pa / 128 + i

/-- The L1 may have evicted a line (R61). -/
def State.evictL1 (s : State) (line : Nat) : State :=
  if (s.core.l1.any fun e => e.1 == line) && !Config.l1Hit s.ctr line then s.setCore fun c => { c with l1 := assocDel line c.l1 }
  else s

/-- Fill the L1 of 512 lines with a line and the core's own buffered stores to it (R61, R186), unless it is there or holds poison; every
word of the line is read, and meets its syndrome (R437). The oldest line goes where the L1 is full (assumption 18). -/
def State.fillL1 (s : State) (key : BitVec 512) (line : Nat) : State :=
  if s.core.l1.any fun e => e.1 == line then s else
  let s := s.detect (128 * line) 128
  if (s.firstPoison (128 * line) 128).isSome then s
  else
    let byte (i : Nat) : Byte := (bufferedByte (128 * line + i) s.core.wtb).getD (s.viewByte key (128 * line + i))
    let v := BitVec.ofNat 1024 (ofBytes ((List.range 128).map byte))
    s.setCore fun c => { c with l1 := (line, v) :: c.l1.take 511 }

/-- The home slice holds the lines that an access reached (R59). -/
def State.reachSlice (s : State) (p : Piece) : State :=
  if isDram p.pa && !leafByp p.leaf then
    p.lines.foldl (fun s l => s.holdSlice (s.key (leafKey p.leaf)) l ((s.homeOf p.leaf (128 * l)).getD 0)) s
  else s

/-- How a load treats the L1 (R61, R199, R351): lookup and allocation. -/
def State.usesL1 (s : State) (p : Piece) (nt : Bool) : Bool :=
  !nt && isDram p.pa && !leafByp p.leaf && !s.fib.guest

/-- Take the bytes of the pieces of one access, in one part or, as lane `part`, in several; poison is consumed (R187). -/
def State.readParts (s : State) (nt : Bool) (part : Option Nat) : List Piece → Ex (State × List Byte)
  | [] => .ok (s, [])
  | p :: ps => do
    let l1 := s.usesL1 p nt
    let s := if l1 then p.lines.foldl State.evictL1 s else s
    let s := s.detect p.pa p.len
    match s.loadBytes l1 (s.key (leafKey p.leaf)) part p.pa p.va p.len with
    | .error va => .error ⟨s, .poison 0 (BitVec.ofNat 64 va) false⟩
    | .ok bs => do
      let (s, r) ← State.readParts s nt part ps
      .ok (s, bs ++ r)

/-- What a load leaves in the caches once all its bytes are taken: the home slices hold its lines, and the L1 where it allocates (R59,
R61). The memory-side cache takes no line from a load (R58) (assumption 22). -/
def State.fillParts (s : State) (nt : Bool) (ps : List Piece) : State :=
  ps.foldl (fun s p =>
    let s := s.reachSlice p
    if s.usesL1 p nt then p.lines.foldl (fun s l => s.fillL1 (s.key (leafKey p.leaf)) l) s else s) s

/-- Load the pieces of one access, in one part or, as lane `part`, in several (R187). -/
def State.loadParts (s : State) (nt : Bool) (part : Option Nat) (ps : List Piece) : Ex (State × List Byte) := do
  let (s, bs) ← s.readParts nt part ps
  .ok (s.fillParts nt ps, bs)

/-- Whether a load of a piece leaves its chiplet's core on REQ: neither the L1 nor the write-through buffer gives all its bytes (R31). -/
def State.goesOut (s : State) (nt : Bool) (p : Piece) : Bool :=
  if isPad p.pa then s.remote p
  else
    !((s.usesL1 p nt && p.lines.all fun l => (s.core.l1.any fun e => e.1 == l) && Config.l1Hit s.ctr l) ||
      (List.range p.len).all fun i => (bufferedByte (p.pa + i) s.core.wtb).isSome)

/-- The place to which a load of a piece goes (R47, R60). -/
def State.pieceWay (s : State) (p : Piece) : Hop := s.hop ((s.homeOf p.leaf p.pa).getD 0)

/-- What comes before a load (R31, R186, R374, R389). -/
def State.ownFirst (s : State) (nt : Bool) (ps : List Piece) : Ex State :=
  s.homeFirst ((ps.filter (s.goesOut nt)).map s.pieceWay) ps []

/-- Whether an access lies within one aligned 64-byte block (R82, R185). -/
def oneBlock : List Piece → Bool
  | [] => true
  | [p] => decide (p.pa % 64 + p.len ≤ 64)
  | _ => false

/-- Load the pieces of one access; one that crosses a 64-byte block is performed in parts (R82, R185, R187). -/
def State.loadPieces (s : State) (nt : Bool) (ps : List Piece) : Ex (State × List Byte) :=
  s.loadParts nt (if oneBlock ps then none else some 0) ps

/-- Update a present L1 copy with stored bytes (R61). -/
def putL1 (pa : Nat) (bs : List Byte) (l : List (Nat × BitVec 1024)) : List (Nat × BitVec 1024) :=
  l.map fun e =>
    if pa / 128 ≤ e.1 ∧ e.1 ≤ (pa + bs.length - 1) / 128 then
      let m := memPut (memPut [] (128 * e.1) (bytesOf 128 e.2.toNat)) pa bs
      (e.1, BitVec.ofNat 1024 (ofBytes (memBytes m (128 * e.1) 128)))
    else e

/-- A part of a store: the leaf of its page, its address and bytes. -/
structure StorePart where
  leaf : Word
  pa : Nat
  data : List Byte
  deriving DecidableEq, Repr

/-- The parts of the store of bytes to the pieces of one access (R185). -/
def storeParts : List Piece → List Byte → List StorePart
  | [], _ => []
  | p :: ps, bs =>
    ((blockPieces p.len p.pa (bs.take p.len)).map fun e => { leaf := p.leaf, pa := e.1, data := e.2 }) ++ storeParts ps (bs.drop p.len)

/-- A part of a store leaves the core in focus (R61, R65, R371): into its chiplet's scratchpad at once where `now`, else posted, as to
another chiplet's, and for DRAM into the write-through buffer. -/
def State.storePart (s : State) (now : Bool) (p : StorePart) : State :=
  if isPad p.pa then
    if now && padChip p.pa == s.chip.num then s.writeHome p.pa p.data
    else s.setDev fun d => { d with
      posted := d.posted ++ [{ fib := s.fib.id, core := s.core.num, seq := s.ctr, src := s.chip.num, pa := p.pa, data := p.data
                               setFull := false, hop := s.hop (padChip p.pa) }] }
  else s.setCore fun c => { c with
    wtb := c.wtb ++ [{ fib := s.fib.id, seq := s.ctr, key := keyArg p.leaf, pa := p.pa, data := p.data, full := false }]
    l1 := putL1 p.pa p.data c.l1 }

/-- The parts of a store leave in the order given, the first `n` of them at once (R82, R185, R385). -/
def State.storeAll (s : State) (n : Nat) (ps : List StorePart) : State :=
  (ps.drop n).foldl (fun s p => s.storePart false p) ((ps.take n).foldl (fun s p => s.storePart true p) s)

/-- Parts of one instruction, whose order is not defined, leave at once if there is but one (R185) (assumption 57). -/
def State.storeParts (s : State) (ps : List StorePart) : State :=
  match ps with
  | [] => s
  | [p] => s.storePart true p
  | _ => s.storeAll (Config.partsNow s.ctr % (ps.length + 1)) (if Config.partsBack s.ctr then ps.reverse else ps)

/-- Store the bytes of an access (R61, R65, R185, R371). -/
def State.storePieces (s : State) (ps : List Piece) (bs : List Byte) : State := s.storeParts (Sys2Proof.Machine.storeParts ps bs)

/-- Packets of a core that wait for their turn on REQ: messages and remote stores (R31, R387). -/
def State.reqQueued (s : State) (core : Nat) : Nat :=
  (s.dev.flight.filter fun m => m.srcCore == core).length +
    (s.dev.posted.filter fun p => p.core == core && padChip p.pa != p.src).length

/-- A store parks while the write-through buffer is full for a store to DRAM, or the REQ queue of 16 for one to another chiplet
(R66, R387) (assumption 19). -/
def State.storeRoom (s : State) (ps : List Piece) : Ex Unit :=
  if (ps.any fun p => isDram p.pa) && decide (Config.wtbRoom < s.core.wtb.length) then hold s .wait
  else if ps.any s.remote && decide (16 ≤ s.reqQueued s.core.num) then hold s .wait
  else .ok ()

/-! ## Loads and stores by virtual address -/

/-- Whether the data of an access comes from DRAM or another chiplet, so that its fibre parks (R66). -/
def State.parksFor (s : State) (ps : List Piece) : Bool := ps.any fun p => isDram p.pa || s.remote p

/-- A plain load of `n` bytes (R183, R189) (assumption 53). -/
def State.loadAt (s : State) (va : Word) (n : Nat) (nt noRemote : Bool) : Ex (State × List Byte × List Piece) := do
  let (s, ps) ← s.access s.accLoad va n noRemote
  let s ← s.ownFirst nt ps
  let (s, bs) ← s.loadPieces nt ps
  .ok (s, bs, ps)

/-- A plain store (R183, R189) (assumption 53). -/
def State.storeAt (s : State) (va : Word) (bs : List Byte) (noRemote : Bool) : Ex State := do
  let (s, ps) ← s.access s.accStore va bs.length noRemote
  s.storeRoom ps
  .ok (s.storePieces ps bs)

end Sys2Proof.Machine
end

