-- ==== Sys2Proof/Machine/Operands.lean ====
section
/-! DEFINITION. Every operand form: general registers with their fill states and shadow bank, the W hold, float-window
registers, vector and mask registers with their lanes, spool, table and barrier names, and effective addresses. -/

namespace Sys2Proof.Machine

/-! ## General registers -/

/-- The bank that an instruction names: the shadow bank while INEV = 1 (R144). -/
def State.bank (s : State) : Bank := if s.fib.inev then s.skein.shadow else s.fib.bank

/-- The code under which R126 reports a register: its number, with bit 3 for the shadow bank. -/
def State.regCode (s : State) (r : GReg) : Word := BitVec.ofNat 64 (r.toNat + if s.fib.inev then 8 else 0)

/-- Take the acquire mark of a register away (R380). -/
def unmark (s : State) (r : GReg) : State :=
  if s.fib.inev then s.setSkein fun k => { k with shadow := k.shadow.mark r false }
  else s.setFib fun f => { f with bank := f.bank.mark r false }

/-- Read a general register (R126): empty or pending parks, a fault token raises its fault, and a token of poison 1
restarts an open region (R438). The first read of a register that a reply or a compressing copy filled is an acquire (R377, R380),
which holds the instruction. -/
def readG (s : State) (r : GReg) : Ex Word :=
  let v := s.bank.val.getD r.toNat 0
  match (s.bank.fill.getD r.toNat 0).toNat with
  | 0 => if s.bank.acq.getD r.toNat false then hold ((unmark s r).setCore fun c => { c with l1 := [] }) .retry else .ok v
  | 3 =>
    if bits v 0 16 = 6 ∧ bits v 16 8 = 1 then .error ⟨s, .poison 1 (s.regCode r) false⟩
    else trap s (bits v 0 16) (bits v 16 8) (s.regCode r)
  | _ => hold s .wait

/-- A destination that is pending holds the instruction at issue (R127). -/
def destG (s : State) (r : GReg) : Ex Unit :=
  if s.bank.fill.getD r.toNat 0 = Fill.pending then hold s .retry else .ok ()

/-- Put a value and a fill state into a register of the bank that instructions name. -/
def setFill (s : State) (r : GReg) (v : Word) (st : Fill) : State :=
  if s.fib.inev then
    (s.setSkein fun k => k.setReg r v st).setFib fun f => f.touch Dirty.shadow
  else s.setFib fun f => f.setReg r v st

/-- Write a general register, which leaves it full (R126). -/
def setG (s : State) (r : GReg) (v : Word) : State := setFill s r v Fill.full

/-- Hold for a pending destination, then write it. -/
def writeG (s : State) (r : GReg) (v : Word) : Ex State := do
  destG s r
  .ok (setG s r v)

/-- Read one source and write a result. -/
def unaryG (s : State) (d a : GReg) (f : Word → Word) : Ex State := do
  let x ← readG s a
  writeG s d (f x)

/-- Read two sources and write a result. -/
def binaryG (s : State) (d a b : GReg) (f : Word → Word → Word) : Ex State := do
  let x ← readG s a
  let y ← readG s b
  writeG s d (f x y)

/-! ## Token waits -/

/-- The lowest token of a selection whose ERR is set. -/
def Tokens.failed (t : Tokens) (sel : BitVec 8) : Option Nat :=
  (List.range 8).find? fun i => sel.getLsbD i && t.err.getD i false

/-- Whether some selected token still counts copies. -/
def Tokens.busy (t : Tokens) (sel : BitVec 8) : Bool :=
  (List.range 8).any fun i => sel.getLsbD i && t.count.getD i 0 != 0

/-- The count of writes at the latest completion of a copy under a selected token (R379). -/
def Tokens.latest (t : Tokens) (sel : BitVec 8) : Nat :=
  (List.range 8).foldl (fun m i => if sel.getLsbD i then max m (t.since.getD i 0) else m) 0

/-- The fibre loads nothing from before the copies of the selected tokens (R376, R379) (assumption 57). -/
def State.afterCopies (s : State) (sel : BitVec 8) : State :=
  s.setFib fun f => { f with mark := max f.mark (f.tokens.latest sel) }

/-- Wait for the selected tokens (R135, R366): park or hold while one counts, the token fault for an error, else an acquire at chip
scope (assumption 24). -/
def waitOn (s : State) (sel : BitVec 8) (p : Park) : Ex State :=
  if s.fib.tokens.busy sel then hold s p
  else match s.fib.tokens.failed sel with
    | some i => trap s 0x13 0 (s.fib.tokens.record.getD i 0)
    | none => .ok (if sel = 0 then s else (s.acquire 2).afterCopies sel)

/-- The W hold of R135 (assumption 24). -/
def waitW (s : State) (w : BitVec 1) : Ex State := if w = 1 then waitOn s s.fib.wmask .retry else .ok s

/-- Copies of the fibre that carry a dequantise or quantise stage have completed (R205, R270), on whatever chiplet they run (R220). -/
def settled (s : State) : Ex Unit :=
  let mine (k : Copy) : Bool := k.fib == s.fib.id && (bit k.ext 30 || bit k.ext 27)
  if (s.chip :: s.chips).any fun c => c.copies.any mine then hold s .retry else .ok ()

/-! ## Precision and the float window -/

/-- P of the fibre in focus. -/
def State.p (s : State) : Nat := precP s.fib.prec
/-- RM of the fibre in focus. -/
def State.rm (s : State) : RMode := precRm s.fib.prec
/-- n(P) of the fibre in focus (R76). -/
def State.n (s : State) : Nat := vfBytes s.p
/-- k of the fibre in focus (R129). -/
def State.k (s : State) : Nat := winRegs s.fib.winSize s.p

/-- Merge raised flags into PREC (R109). -/
def raiseFlags (s : State) (fl : FFlags) : State := s.setFib fun f => { f with prec := orFlags f.prec fl }

/-- An f index at or above k raises the precision-exhausted trap (R129). -/
def needF (s : State) (i : Nat) : Ex Unit := ensure (i < s.k) (trap s 0x07 0 (BitVec.ofNat 64 i))

/-- Check several f indices in the order given, which the manual does not fix among the fields of an instruction: fd, fa, fb, fc (R259)
(assumption 6). -/
def needFs (s : State) : List Nat → Ex Unit
  | [] => .ok ()
  | i :: is => do
    needF s i
    needFs s is

/-- The encoding in a float register; +0 at or above FLIVE (R259). -/
def readV0 (s : State) (i : Nat) : Ex Nat :=
  if i ≥ s.fib.flive then .ok (vfEncode s.p FV.zero)
  else if s.fib.fPoison s.n i then .error ⟨s, .poison 1 (BitVec.ofNat 64 i) false⟩
  else .ok (s.fib.f.getD i 0).toNat

/-- The value of a float register. -/
def readF (s : State) (i : Nat) : Ex FV := do
  let v ← readV0 s i
  .ok (vfDecode v)

/-- Put one encoding into the `k` registers of the window from `lo` on. -/
def fillWindow (f : Vector (BitVec 128) 64) (z : BitVec 128) (lo : Nat) : Nat → Vector (BitVec 128) 64
  | 0 => f
  | k + 1 => (fillWindow f z lo k).set! (lo + k) z

/-- Write an encoding held at P to a float register (R259): registers below it that were never written become live as +0 held at P. A
chunk is no longer poisoned once all its bytes were written (R438). -/
def setV0 (s : State) (i : Nat) (v : Nat) : State :=
  let n := s.n
  let lo := min i s.fib.flive
  let zero := BitVec.ofNat 128 (vfEncode s.p FV.zero)
  s.setFib fun f =>
    ({ f with
      f := (fillWindow f.f zero lo (i - lo)).set! i (BitVec.ofNat 128 v), flive := max f.flive (i + 1)
      fbad := Vector.ofFn fun c : Fin 8 => f.fbad.getD c 0 &&& ~~~chunkBytes c (lo * n) ((i + 1 - lo) * n) }
      : Fibre).touchWindow (lo * n) ((i + 1 - lo) * n)

/-- Write a rounded result with its flags to a float register. -/
def setF (s : State) (i : Nat) (r : FV × FFlags) : State := raiseFlags (setV0 s i (vfEncode s.p r.1)) r.2

/-! ## Vector and mask registers -/

/-- A vector register at or above NV is not allocated (R132) (assumption 6). -/
def needV (s : State) (i : Nat) : Ex Unit := ensure (i < s.fib.nv) (illegal s 3)

/-- Check several vector registers in order. -/
def needVs (s : State) : List Nat → Ex Unit
  | [] => .ok ()
  | i :: is => do
    needV s i
    needVs s is

/-- The 256 bytes of a vector register as a number. -/
def readVec (s : State) (i : Nat) : Ex Nat :=
  if s.fib.vbad.getD i false then .error ⟨s, .poison 1 (BitVec.ofNat 64 i) false⟩ else .ok (s.fib.v.getD i 0).toNat

/-- Write a whole vector register. -/
def setVec (s : State) (i : Nat) (x : Nat) : State :=
  s.setFib fun f =>
    ({ f with v := f.v.set! i (BitVec.ofNat 2048 x), vbad := f.vbad.set! i false } : Fibre).touch (Dirty.v i)

/-- Lane `i` of `n` bytes. -/
def lane (x n i : Nat) : Nat := x / 2 ^ (8 * n * i) % 2 ^ (8 * n)

/-- The lanes of a register. -/
def lanes (x n l : Nat) : List Nat := (List.range l).map fun i => lane x n i

/-- Pack lanes of `n` bytes, the first lowest. -/
def packLanes (n : Nat) : List Nat → Nat
  | [] => 0
  | x :: xs => x % 2 ^ (8 * n) + 2 ^ (8 * n) * packLanes n xs

/-- VF lanes of a register at length n (R133). -/
def vfLanes (n : Nat) : Nat := 256 / n

/-- A mask register; m0 is all ones (R134). -/
def readM (s : State) (m : Nat) : Ex Nat :=
  if m = 0 then .ok (2 ^ 128 - 1)
  else if s.fib.mbad.getD m false then .error ⟨s, .poison 1 (BitVec.ofNat 64 m) false⟩
  else .ok (s.fib.m.getD m 0).toNat

/-- Write a mask register; a write of m0 is discarded (R134). -/
def setM (s : State) (m : Nat) (x : Nat) : State :=
  if m = 0 then s else s.setFib fun f =>
    ({ f with m := f.m.set! m (BitVec.ofNat 128 x), mbad := f.mbad.set! m false } : Fibre).touch (Dirty.m m)

/-- The mask bit that governs lane `i` of `l` (R134). -/
def maskBit (l i : Nat) : Nat := if l ≤ 128 then i else i / 2

/-- Whether lane `i` of `l` is active under a mask. -/
def active (mask l i : Nat) : Bool := mask.testBit (maskBit l i)

/-- Bits that govern `l` lanes. -/
def maskBits (l : Nat) : Nat := if l ≤ 128 then l else 128

/-! ## Names relative to the skein's share -/

/-- The core's spool handle of a skein's name (R140). -/
def spoolNo (s : State) (h : Nat) : Ex Nat :=
  if h < bits s.skein.skmap 5 5 then .ok (bits s.skein.skmap 1 4 + h) else illegal s 3

/-- The core's barrier of a skein's name (R140). -/
def barNo (k : Skein) (b : Nat) : Option Nat :=
  if b < bits k.skmap 15 6 then some (bits k.skmap 10 5 + b) else none

/-- The core's decode-table slot of a skein's name (R140). -/
def slotNo (s : State) (t : Nat) : Ex Nat :=
  if t < bits s.skein.skmap 23 3 then .ok (bits s.skein.skmap 21 2 + t) else illegal s 3

/-- Slot bytes of a handle (R141). -/
def Spool.slotBytes (p : Spool) : Nat := 16 * 2 ^ bits p.cfg 52 4
/-- Slots of a handle; 0 encodes 256 (R141). -/
def Spool.nslot (p : Spool) : Nat := if bits p.cfg 44 8 = 0 then 256 else bits p.cfg 44 8
/-- Whether the handle is in use (R141). -/
def Spool.en (p : Spool) : Bool := bit p.cfg 63
/-- Whether a stream is bound (R141). -/
def Spool.bnd (p : Spool) : Bool := bit p.cfg 62
/-- Scratchpad offset of the buffer (R141). -/
def Spool.base (p : Spool) : Nat := bits p.cfg 4 20 * 16
/-- Scratchpad offset of slot `i` after RIX (R276). -/
def Spool.readOff (p : Spool) (i : Nat) : Nat := p.base + (p.rix + i) % p.nslot * p.slotBytes
/-- Scratchpad offset of slot WIX. -/
def Spool.writeOff (p : Spool) : Nat := p.base + p.wix * p.slotBytes

/-- A handle of the core in focus. -/
def State.spool (s : State) (h : Nat) : Spool := s.core.spools.getD h Spool.zero

/-- Update a handle of the core in focus. -/
def State.onSpool (s : State) (h : Nat) (f : Spool → Spool) : State :=
  s.setCore fun c => { c with spools := c.spools.set! h (f (c.spools.getD h Spool.zero)) }

/-- The spool fault (R141); TVAL is the handle named. -/
def spoolFault {α : Type} (s : State) (h : Nat) : Ex α := trap s 0x12 0 (BitVec.ofNat 64 h)

/-- A spool operand spH:N is usable (R141): enabled, and N within NSLOT. Gives the core's handle. -/
def spoolUse (s : State) (h n : Nat) : Ex Nat := do
  let p ← spoolNo s h
  ensure ((s.spool p).en && n ≤ (s.spool p).nslot) (spoolFault s h)
  .ok p

/-- Release N filled slots (R286). -/
def Spool.release (p : Spool) (n : Nat) : Spool := { p with fill := p.fill - n, rix := (p.rix + n) % p.nslot }

/-- Count N filled slots (R286). -/
def Spool.commit (p : Spool) (n : Nat) : Spool := { p with fill := p.fill + n, wix := (p.wix + n) % p.nslot }

/-! ## Effective addresses -/

/-- The value of the index field (R157): a general register, or 0 for none. -/
def readIx (s : State) (i : BitVec 4) : Ex Word := if i.toNat ≤ 7 then readG s (i.setWidth 3) else .ok 0

/-- The effective address of format M (R157): base + ix·E + imm9·E modulo 2^64. -/
def effAddr (s : State) (b : GReg) (i : BitVec 4) (m : BitVec 9) (e : Nat) : Ex Word := do
  let base ← readG s b
  let ix ← readIx s i
  .ok (base + ix * BitVec.ofNat 64 e + m.signExtend 64 * BitVec.ofNat 64 e)

/-- The address of extension word XO (R190): base + ix·E + imm22. -/
def scopedAddr (s : State) (a : GReg) (i : BitVec 4) (m : BitVec 22) (e : Nat) : Ex Word := do
  let base ← readG s a
  let ix ← readIx s i
  .ok (base + ix * BitVec.ofNat 64 e + m.signExtend 64)

/-- The address of a gather or scatter lane (R194): none where the offset is −2^31. -/
def laneAddr (base : Word) (offs : Nat) (m : BitVec 9) (e i : Nat) : Option Word :=
  let o := BitVec.ofNat 32 (lane offs 4 i)
  if o = 0x80000000#32 then none
  else some (base + o.signExtend 64 * BitVec.ofNat 64 e + m.signExtend 64 * BitVec.ofNat 64 e)

/-! ## Parking for data -/

/-- The instruction has done its effect; its fibre parks until the data is delivered (R66), keeping the advanced PC (assumption 53). -/
def parkData (s : State) : State := parkAs s .data

/-- Execute a load of `n` words: the body says whether the fibre parks for its data. -/
def runLoad (s : State) (n : Nat) (body : Ex (State × Bool)) : Host.Outcome State Fault Refusal :=
  conclude (ending s n do
    let (t, parks) ← body
    .ok (if parks then parkData (retire t n) else retire t n))

end Sys2Proof.Machine
end

