-- ==== Sys2Proof/Machine/Records.lean ====
section
/-! DEFINITION. The fields of a launch record (R411), and the domains of a core (R345, R367). -/

namespace Sys2Proof.Machine

/-- A field of the record's 32-bit word at an offset. -/
def Launch.f32 (l : Launch) (off lo w : Nat) : Nat := field l.record off 4 / 2 ^ lo % 2 ^ w

/-- ENTRY (R411). -/
def Launch.entry (l : Launch) : Nat := field l.record 0 8
/-- ARGS (R411). -/
def Launch.args (l : Launch) : Nat := field l.record 8 8
/-- CKPT (R411). -/
def Launch.ckpt (l : Launch) : Nat := field l.record 16 8
/-- RINGS (R411). -/
def Launch.rings (l : Launch) : Nat := field l.record 24 8 / 64 * 64
/-- RNL (R411). -/
def Launch.rnl (l : Launch) : Nat := field l.record 24 8 % 64
/-- WAITC (R411). -/
def Launch.waitc (l : Launch) : Nat := field l.record 32 8
/-- SIGC (R411). -/
def Launch.sigc (l : Launch) : Nat := field l.record 40 8
/-- NSK (R411). -/
def Launch.nsk (l : Launch) : Nat := l.f32 48 0 20
/-- FM1 (R411). -/
def Launch.fm1 (l : Launch) : Nat := l.f32 48 20 8
/-- COOP (R411). -/
def Launch.coop (l : Launch) : Bool := l.f32 48 28 1 == 1
/-- EVIC (R411). -/
def Launch.evic (l : Launch) : Bool := l.f32 48 29 1 == 1
/-- RSTR (R411). -/
def Launch.rstr (l : Launch) : Bool := l.f32 48 30 1 == 1
/-- WIN (R411). -/
def Launch.win (l : Launch) : Nat := l.f32 52 0 3
/-- Vector registers of a fibre: 0, 4, 8 or 16 (R411). -/
def Launch.nv (l : Launch) : Nat := [0, 4, 8, 16].getD (l.f32 52 3 2) 0
/-- Initial PREC, flags 0 (R336, R411). -/
def Launch.prec (l : Launch) : Word := BitVec.ofNat 64 (l.f32 52 5 7 + 128 * l.f32 52 12 3)
/-- PRI (R411). -/
def Launch.pri (l : Launch) : Nat := l.f32 52 15 3
/-- SPN (R411). -/
def Launch.spn (l : Launch) : Nat := l.f32 52 18 5
/-- BN (R411). -/
def Launch.bn (l : Launch) : Nat := l.f32 52 23 6
/-- TN (R411). -/
def Launch.tn (l : Launch) : Nat := l.f32 52 29 3
/-- PK (R411). -/
def Launch.pk (l : Launch) : Nat := l.f32 56 0 2
/-- FIRST (R411). -/
def Launch.first (l : Launch) : Nat := l.f32 56 2 10
/-- CNM1 (R411). -/
def Launch.cnm1 (l : Launch) : Nat := l.f32 56 12 10
/-- LVM1 (R411). -/
def Launch.lvm1 (l : Launch) : Nat := l.f32 56 22 2
/-- ACCN (R411). -/
def Launch.accn (l : Launch) : Nat := l.f32 56 24 5
/-- SCOFF (R411). -/
def Launch.scoff (l : Launch) : Nat := l.f32 60 0 8
/-- SCLEN (R411). -/
def Launch.sclen (l : Launch) : Nat := l.f32 60 8 8

/-- The record of the launch in focus's fibre, if it still exists. -/
def State.myLaunch (s : State) : Option Launch := s.launch? s.fib.id.lid

/-- The level, after widening (R345, R367), and domain number of a core: level 5 stands for the whole launch. -/
def domOf (memb : Word) (level : Nat) : Nat × Nat :=
  if level = 1 then (1, bits memb 0 8)
  else if level = 2 ∧ bit memb 22 then (2, bits memb 12 10)
  else if level ≤ 3 ∧ bit memb 33 then (3, bits memb 23 10)
  else if level ≤ 4 ∧ bit memb 44 then (4, bits memb 34 10)
  else (5, 0)

/-- The phase record of a domain of a launch; phase 0 and TP 0 before the first completion (R367). -/
def Launch.phaseOf (l : Launch) (level dom : Nat) : DomPhase :=
  match l.phases.find? fun p => p.level == level && p.dom == dom with
  | some p => p
  | none => { level := level, dom := dom, phase := 0, tp := 0, tpWas := 0, tpOdd := 0, contrib := [] }

/-- Replace the phase record of a domain. -/
def Launch.putPhase (l : Launch) (p : DomPhase) : Launch :=
  { l with phases := p :: l.phases.filter fun q => !(q.level == p.level && q.dom == p.dom) }

/-- Whether the flood of the latest completion has yet to reach a skein (R367). -/
def State.floodDue (s : State) (lid skn level dom : Nat) : Bool :=
  s.dev.floods.any fun m => m.lid == lid && m.skn == skn && m.level == level && m.dom == dom

/-- The phase number as a skein sees it: the last one flooded to it (R367). -/
def State.phaseSeen (s : State) (l : Launch) (skn level dom : Nat) : Nat :=
  let p := l.phaseOf level dom
  if s.floodDue l.lid skn level dom then (p.phase + 2 ^ 32 - 1) % 2 ^ 32 else p.phase

/-- TP as a skein sees it. -/
def State.tpSeen (s : State) (l : Launch) (skn level dom : Nat) : Nat :=
  let p := l.phaseOf level dom
  if s.floodDue l.lid skn level dom then p.tpWas else p.tp

/-- The skeins of a launch that have not exited, on cores of a domain (R367); a checkpointed one counts at its last core. -/
def State.participants (s : State) (lid level dom : Nat) : List Skein :=
  s.allSkeins.filter fun k => k.lid == lid && !k.exited &&
    (level == 5 || decide (domOf (s.coreAt k.core).memb level = (level, dom)))

end Sys2Proof.Machine
end

