-- ==== Sys2Proof/Machine/Registers.lean ====
section
/-! DEFINITION. Registers as the words that software and checkpoints see (R126 to R147): how each is put together from State
and taken apart again. -/

namespace Sys2Proof.Machine

/-- A word from fields (lowest bit, width, value). -/
def wordOf : List (Nat × Nat × Nat) → Word
  | [] => 0
  | (lo, w, v) :: r => BitVec.ofNat 64 (v % 2 ^ w * 2 ^ lo) ||| wordOf r

/-- A flag as a number. -/
def ofBool (b : Bool) : Nat := if b then 1 else 0

/-- GSTATE of a bank (R126). -/
def Bank.gstate (b : Bank) : Word := wordOf ((List.range 8).map fun i => (2 * i, 2, (b.fill.getD i 0).toNat))

/-- FWIN (R128). -/
def Fibre.fwin (f : Fibre) : Word := wordOf [(8, 7, f.flive), (0, 3, f.winSize)]

/-- TOKENS (R135). -/
def Tokens.word (t : Tokens) : Word :=
  wordOf ((List.range 8).flatMap fun i => [(8 * i + 7, 1, ofBool (t.err.getD i false)), (8 * i, 5, t.count.getD i 0)])

/-- BBCNT, BBADDR, BBD0 and BBD1 (R136): data bits at and above CNT read 0. -/
def BitBuf.cntWord (b : BitBuf) : Word := BitVec.ofNat 64 (b.cnt % 128)
/-- The data of BBUF below CNT. -/
def BitBuf.masked (b : BitBuf) : Nat := b.data.toNat % 2 ^ b.cnt

/-- RPTST (R138). -/
def Frame.status (r : Frame) : Word :=
  wordOf [(63, 1, ofBool r.act), (44, 8, r.iter), (40, 4, r.pos), (0, 32, r.word.toNat)]

/-- FST (R139). -/
def Fibre.fst (f : Fibre) : Word :=
  wordOf [(48, 16, f.updout), (3, 1, ofBool f.guest), (2, 1, ofBool f.inev), (1, 1, ofBool f.evf), (0, 1, ofBool f.sup)]

/-- SPST of a handle (R141). -/
def Spool.status (p : Spool) : Word := wordOf [(32, 9, p.fill), (16, 8, p.wix), (0, 8, p.rix)]

/-- BST of a barrier (R142). -/
def Barrier.status (b : Barrier) : Word := wordOf [(63, 1, ofBool b.ph), (9, 9, b.npart), (0, 9, b.arr)]

/-- The TBST field of a slot (R143). -/
def TableSlot.status (t : TableSlot) : Nat :=
  ofBool t.valid * 2 ^ 15 + ofBool t.ad * 2 ^ 14 + ofBool t.ec * 2 ^ 13 + ofBool t.hn * 2 ^ 12 + t.nanc % 256

/-- EVEC (R144). -/
def Skein.evec (k : Skein) : Word := k.hpc &&& 0x01FFFFFFFFFFFFFC#64

/-- EVMASK (R144). -/
def Skein.evmask (k : Skein) : Word := wordOf [(8, 4, k.evPend.toNat), (0, 4, k.evEn.toNat)]

/-- First spool handle and count of a skein (R140). -/
def Skein.spb (k : Skein) : Nat := bits k.skmap 1 4
/-- Number of spool handles of a skein (R140). -/
def Skein.spn (k : Skein) : Nat := bits k.skmap 5 5
/-- First barrier of a skein (R140). -/
def Skein.bb (k : Skein) : Nat := bits k.skmap 10 5
/-- Number of barriers of a skein (R140). -/
def Skein.bn (k : Skein) : Nat := bits k.skmap 15 6
/-- First table slot of a skein (R140). -/
def Skein.tb (k : Skein) : Nat := bits k.skmap 21 2
/-- Number of table slots of a skein (R140). -/
def Skein.tn (k : Skein) : Nat := bits k.skmap 23 3

/-- TBST of a skein: slot i of its share at bits 16i + 15 to 16i (R143). -/
def tbstOf (c : Core) (k : Skein) : Word :=
  wordOf ((List.range k.tn).map fun i => (16 * i, 16, (c.slots.getD (k.tb + i) TableSlot.zero).status))

/-- The bits of a word written to SPCFG that it keeps (R141). -/
abbrev spcfgMask : Word := 0xFFFFFFF000FFFFF0#64

/-- A spool state from its word. -/
def Spool.withStatus (p : Spool) (w : Word) : Spool :=
  { p with fill := bits w 32 9, wix := bits w 16 8, rix := bits w 0 8 }

/-- A barrier from its word, which holds no scope: the widest one is taken for the arrivals it counts and for the phase before
(R361) (assumption 51). -/
def Barrier.ofWord (w : Word) : Barrier :=
  { ph := bit w 63, npart := bits w 9 9, arr := bits w 0 9, scope := if bits w 0 9 = 0 then 0 else 6, last := 6 }

/-- Tokens from TOKENS and the records. -/
def Tokens.ofWord (w : Word) (records : List Word) : Tokens where
  count := Vector.ofFn fun i : Fin 8 => bits w (8 * i) 5
  err := Vector.ofFn fun i : Fin 8 => bit w (8 * i + 7)
  record := Vector.ofFn fun i : Fin 8 => records.getD i 0
  since := Vector.replicate 8 0

end Sys2Proof.Machine
end

