-- ==== Sys2Proof/Machine/Float.lean ====
section
/-! DEFINITION. Scalar variable-precision instructions: majors 0x40 to 0x45 (R259 to R271). -/

namespace Sys2Proof.Machine

/-! ## The operations on values -/

/-- A two-operand operation at a precision and rounding mode. -/
abbrev FOp2 := FV → FV → Nat → RMode → FV × FFlags
/-- A one-operand operation. -/
abbrev FOp1 := FV → Nat → RMode → FV × FFlags

/-- a − b; a NaN operand keeps its sign (R114). -/
def FV.sub (a b : FV) (p : Nat) (mode : RMode) : FV × FFlags := a.add (if b.isNan then b else b.neg) p mode

/-- Round to an integer (R263); NX only for the form that sets it. -/
def FV.rint (setNx : Bool) (a : FV) (p : Nat) (mode : RMode) : FV × FFlags :=
  match a with
  | .nan n fr => if a.isSnan then (quietNan n fr p, FFlags.nv) else (a, 0)
  | .inf _ => (a, 0)
  | .fin n m e =>
    let r := roundInt n m e mode
    if r.2 then (.fin n r.1.natAbs 0, if setNx then FFlags.nx else 0) else (a, 0)

/-- The lesser (`least`) or the greater of two operands (R264); −0 lies below +0. -/
def FV.pick (least : Bool) (a b : FV) (p : Nat) (_ : RMode) : FV × FFlags :=
  match a.isNan, b.isNan with
  | true, true => ((firstNan [a, b] p).getD a, snanFlag [a, b])
  | true, false => (b, snanFlag [a])
  | false, true => (a, snanFlag [b])
  | false, false =>
    match a.cmp b with
    | some .lt => (if least then a else b, 0)
    | some .gt => (if least then b else a, 0)
    | _ => (if least then (if a.sign then a else b) else (if a.sign then b else a), 0)

/-- The fused forms (R265): the signs enter before rounding, and a NaN operand keeps its own. -/
def FV.fused (negProd negAdd : Bool) (a b c : FV) (p : Nat) (mode : RMode) : FV × FFlags :=
  if a.isNan || b.isNan || c.isNan then a.fma b c p mode
  else (if negProd then a.neg else a).fma b (if negAdd then c.neg else c) p mode

/-- The class bit of a value (R266). -/
def FV.classBit (a : FV) : Nat :=
  match a with
  | .nan _ _ => if a.isSnan then 8 else 9
  | .inf s => if s then 0 else 7
  | .fin s m e =>
    if m = 0 then (if s then 3 else 4)
    else if (m.log2 : Int) + e ≥ -1022 then (if s then 1 else 6)
    else (if s then 2 else 5)

/-! ## Instruction shapes -/

/-- A two-operand instruction on float registers (R259). -/
def floatOp2 (s : State) (d a b : FReg) (f : FOp2) : Ex State := do
  needFs s [d.toNat, a.toNat, b.toNat]
  let x ← readF s a.toNat
  let y ← readF s b.toNat
  .ok (setF s d.toNat (f x y s.p s.rm))

/-- A one-operand instruction on float registers (R259). -/
def floatOp1 (s : State) (d a : FReg) (f : FOp1) : Ex State := do
  needFs s [d.toNat, a.toNat]
  let x ← readF s a.toNat
  .ok (setF s d.toNat (f x s.p s.rm))

/-- A fused instruction on float registers (R265). -/
def floatOp3 (s : State) (d a b c : FReg) (negProd negAdd : Bool) : Ex State := do
  needFs s [d.toNat, a.toNat, b.toNat, c.toNat]
  let x ← readF s a.toNat
  let y ← readF s b.toNat
  let z ← readF s c.toNat
  .ok (setF s d.toNat (FV.fused negProd negAdd x y z s.p s.rm))

/-- A comparison into a general register (R266). -/
def compareF (s : State) (d : GReg) (a b : FReg) (signals : Bool) (f : Option Ordering → Word) : Ex State := do
  needFs s [a.toNat, b.toNat]
  let x ← readF s a.toNat
  let y ← readF s b.toNat
  destG s d
  .ok (raiseFlags (setG s d (f (x.cmp y))) (cmpFlags x y signals))

/-! ## Arithmetic -/

/-- `fadd` (R262). -/
def execFadd (d a b : FReg) (s : State) : Host.Outcome State Fault Refusal := run s 1 (floatOp2 s d a b FV.add)
/-- `fsub` (R262). -/
def execFsub (d a b : FReg) (s : State) : Host.Outcome State Fault Refusal := run s 1 (floatOp2 s d a b FV.sub)
/-- `fmul` (R262). -/
def execFmul (d a b : FReg) (s : State) : Host.Outcome State Fault Refusal := run s 1 (floatOp2 s d a b FV.mul)
/-- `fdiv` (R262). -/
def execFdiv (d a b : FReg) (s : State) : Host.Outcome State Fault Refusal := run s 1 (floatOp2 s d a b FV.div)
/-- `fsqrt` (R262). -/
def execFsqrt (d a : FReg) (s : State) : Host.Outcome State Fault Refusal := run s 1 (floatOp1 s d a FV.sqrt)
/-- `fmin` (R264). -/
def execFmin (d a b : FReg) (s : State) : Host.Outcome State Fault Refusal := run s 1 (floatOp2 s d a b (FV.pick true))
/-- `fmax` (R264). -/
def execFmax (d a b : FReg) (s : State) : Host.Outcome State Fault Refusal := run s 1 (floatOp2 s d a b (FV.pick false))
/-- `frint` (R263). -/
def execFrint (d a : FReg) (s : State) : Host.Outcome State Fault Refusal := run s 1 (floatOp1 s d a (FV.rint false))
/-- `frint.x` (R263). -/
def execFrintX (d a : FReg) (s : State) : Host.Outcome State Fault Refusal := run s 1 (floatOp1 s d a (FV.rint true))
/-- `fma` (R265). -/
def execFma (d a b c : FReg) (s : State) : Host.Outcome State Fault Refusal := run s 1 (floatOp3 s d a b c false false)
/-- `fnma` (R265). -/
def execFnma (d a b c : FReg) (s : State) : Host.Outcome State Fault Refusal := run s 1 (floatOp3 s d a b c true true)
/-- `fms` (R265). -/
def execFms (d a b c : FReg) (s : State) : Host.Outcome State Fault Refusal := run s 1 (floatOp3 s d a b c false true)
/-- `fnms` (R265). -/
def execFnms (d a b c : FReg) (s : State) : Host.Outcome State Fault Refusal := run s 1 (floatOp3 s d a b c true false)

/-! ## Compare and classify -/

/-- `feq` (R266): quiet. -/
def execFeq (d : GReg) (a b : FReg) (s : State) : Host.Outcome State Fault Refusal :=
  run s 1 (compareF s d a b false fun o => if o = some .eq then 1 else 0)
/-- `flt` (R266): signalling. -/
def execFlt (d : GReg) (a b : FReg) (s : State) : Host.Outcome State Fault Refusal :=
  run s 1 (compareF s d a b true fun o => if o = some .lt then 1 else 0)
/-- `fle` (R266): signalling. -/
def execFle (d : GReg) (a b : FReg) (s : State) : Host.Outcome State Fault Refusal :=
  run s 1 (compareF s d a b true fun o => if o = some .lt ∨ o = some .eq then 1 else 0)
/-- `flt.q` (R266): quiet. -/
def execFltQ (d : GReg) (a b : FReg) (s : State) : Host.Outcome State Fault Refusal :=
  run s 1 (compareF s d a b false fun o => if o = some .lt then 1 else 0)
/-- `fle.q` (R266): quiet. -/
def execFleQ (d : GReg) (a b : FReg) (s : State) : Host.Outcome State Fault Refusal :=
  run s 1 (compareF s d a b false fun o => if o = some .lt ∨ o = some .eq then 1 else 0)
/-- `fcmp` (R266): 0 equal, 1 less, 2 greater, 3 unordered. -/
def execFcmp (d : GReg) (a b : FReg) (s : State) : Host.Outcome State Fault Refusal :=
  run s 1 (compareF s d a b false fun o =>
    match o with
    | some .eq => 0
    | some .lt => 1
    | some .gt => 2
    | none => 3)
/-- `fclass` (R266). -/
def execFclass (d : GReg) (a : FReg) (s : State) : Host.Outcome State Fault Refusal :=
  run s 1 do
    needF s a.toNat
    let x ← readF s a.toNat
    writeG s d (BitVec.ofNat 64 (2 ^ x.classBit))

/-! ## Precision and window -/

/-- `prec.set` (R269). -/
def execPrecSet (a : GReg) (s : State) : Host.Outcome State Fault Refusal :=
  run s 1 do
    settled s
    let v ← readG s a
    writePrec s v
/-- `prec.p` (R269). -/
def execPrecP (n : BitVec 7) (s : State) : Host.Outcome State Fault Refusal :=
  run s 1 do
    settled s
    writePrec s ((s.fib.prec &&& ~~~(0x7F#64)) ||| n.setWidth 64)
/-- `prec.rm` (R269). -/
def execPrecRm (m : BitVec 3) (s : State) : Host.Outcome State Fault Refusal :=
  run s 1 do
    settled s
    writePrec s ((s.fib.prec &&& ~~~(0x380#64)) ||| (m.setWidth 64 <<< 7))
/-- `prec.get` (R269). -/
def execPrecGet (d : GReg) (s : State) : Host.Outcome State Fault Refusal :=
  run s 1 do
    settled s
    writeG s d s.fib.prec
/-- `prec.swap` (R269): both PREC and gd, or neither. -/
def execPrecSwap (d a : GReg) (s : State) : Host.Outcome State Fault Refusal :=
  run s 1 do
    settled s
    let v ← readG s a
    destG s d
    let t ← writePrec s v
    .ok (setG t d s.fib.prec)
/-- `fflags.rd` (R269). -/
def execFflagsRd (d : GReg) (s : State) : Host.Outcome State Fault Refusal :=
  run s 1 do
    settled s
    writeG s d ((precFlags s.fib.prec).setWidth 64)
/-- `fflags.clr` (R269). -/
def execFflagsClr (m : BitVec 5) (s : State) : Host.Outcome State Fault Refusal :=
  run s 1 do
    settled s
    writePrec s (setFlags s.fib.prec (precFlags s.fib.prec &&& ~~~m))

/-- A write of FWIN.SIZE (R128): codes 5..7 are refused, a size above the launch's raises precision exhausted, and every
accepted write discards the window. -/
def writeFwin (s : State) (size : Nat) : Ex State := do
  ensure (size ≤ 4) (illegal s 4)
  let most := match s.myLaunch with
    | some l => winBytes l.win
    | none => 0
  ensure (winBytes size ≤ most) (trap s 0x07 0 (BitVec.ofNat 64 size))
  .ok (s.setFib fun f =>
    ({ f with winSize := size, flive := 0, f := Vector.replicate 64 0, fbad := Vector.replicate 8 0 }
      : Fibre).touchWindow 0 (winBytes size))

/-- `fwin.set` (R269). -/
def execFwinSet (z : BitVec 3) (s : State) : Host.Outcome State Fault Refusal :=
  run s 1 do
    settled s
    writeFwin s z.toNat
/-- `fwin.get` (R269). -/
def execFwinGet (d : GReg) (s : State) : Host.Outcome State Fault Refusal :=
  run s 1 do
    settled s
    writeG s d s.fib.fwin

/-! ## Moves and constants -/

/-- The sign bit of an encoding (R77). -/
def signBit : Nat := 16
/-- An encoding with its sign bit set to a value. -/
def putSign (v : Nat) (sg : Bool) : Nat := if v.testBit 4 = sg then v else v ^^^ signBit

/-- A move that gives the result a sign (R267). -/
def moveF (s : State) (d a : FReg) (f : Bool → Bool) : Ex State := do
  needFs s [d.toNat, a.toNat]
  let v ← readV0 s a.toNat
  .ok (setV0 s d.toNat (putSign v (f (v.testBit 4))))

/-- A move that combines two signs (R267). -/
def moveF2 (s : State) (d a b : FReg) (f : Bool → Bool → Bool) : Ex State := do
  needFs s [d.toNat, a.toNat, b.toNat]
  let v ← readV0 s a.toNat
  let u ← readV0 s b.toNat
  .ok (setV0 s d.toNat (putSign v (f (v.testBit 4) (u.testBit 4))))

/-- `fmov` (R267). -/
def execFmov (d a : FReg) (s : State) : Host.Outcome State Fault Refusal := run s 1 (moveF s d a fun x => x)
/-- `fneg` (R267). -/
def execFneg (d a : FReg) (s : State) : Host.Outcome State Fault Refusal := run s 1 (moveF s d a fun x => !x)
/-- `fabs` (R267). -/
def execFabs (d a : FReg) (s : State) : Host.Outcome State Fault Refusal := run s 1 (moveF s d a fun _ => false)
/-- `fsgn` (R267). -/
def execFsgn (d a b : FReg) (s : State) : Host.Outcome State Fault Refusal := run s 1 (moveF2 s d a b fun _ y => y)
/-- `fsgnn` (R267). -/
def execFsgnn (d a b : FReg) (s : State) : Host.Outcome State Fault Refusal := run s 1 (moveF2 s d a b fun _ y => !y)
/-- `fsgnx` (R267). -/
def execFsgnx (d a b : FReg) (s : State) : Host.Outcome State Fault Refusal := run s 1 (moveF2 s d a b fun x y => x != y)

/-- ⌊c · 2^280⌋ of an irrational constant of R268: π, e, ln 2, log2 e, log2 10, ln 10, √2 for n = 5..11. -/
def irrational (n : Nat) : Nat :=
  match n with
  | 5 => 0x3243f6a8885a308d313198a2e03707344a4093822299f31d0082efa98ec4e6c89452821
  | 6 => 0x2b7e151628aed2a6abf7158809cf4f3c762e7160f38b4da56a784d9045190cfef324e77
  | 7 => 0xb17217f7d1cf79abc9e3b39803f2f6af40f343267298b62d8a0d175b8baafa2be7b876
  | 8 => 0x171547652b82fe1777d0ffda0d23a7d11d6aef551bad2b4b1164a2cd9a342648fbc3887
  | 9 => 0x35269e12f346e2bf924afdbfd36bf6d3365b157f8deceb53a46dab2020b9e167419943f
  | 10 => 0x24d763776aaa2b05ba95b58ae0b4c28a38a3fb3e76977e43a0f187a0807c0b5ca58bc0b
  | _ => 0x16a09e667f3bcc908b2fb1366ea957d3e3adec17512775099da2f590b0667322a95f906

/-- The constants of R268, rounded at P. -/
def constant (n p : Nat) (mode : RMode) : FV × FFlags :=
  match n with
  | 0 => (FV.zero, 0)
  | 1 => roundF false 1 0 (Fmt.vf p) mode
  | 2 => roundF false 2 0 (Fmt.vf p) mode
  | 3 => roundF false 1 (-1) (Fmt.vf p) mode
  | 4 => roundF false 10 0 (Fmt.vf p) mode
  | 12 => (.inf false, 0)
  | 13 => (.dnan, 0)
  | 14 => (.fin false (2 ^ p - 1) (1024 - p), 0)
  | 15 => (.fin false 1 (-1022), 0)
  | 16 => (.fin false 1 (-1021 - p), 0)
  | 17 => roundF true 1 0 (Fmt.vf p) mode
  | _ => roundSticky false (irrational n) (-280) true (Fmt.vf p) mode

/-- `fconst` (R268). -/
def execFconst (d n : FReg) (s : State) : Host.Outcome State Fault Refusal :=
  run s 1 do
    needF s d.toNat
    .ok (setF s d.toNat (constant n.toNat s.p s.rm))

end Sys2Proof.Machine
end

