-- ==== Sys2Proof/Machine/Units.lean ====
section
/-! DEFINITION. The shared units of a chiplet and their service queues (R273, R299, R325), and events of a skein (R144). -/

namespace Sys2Proof.Machine

/-- A unit of a chiplet. -/
def Chip.unit (c : Chip) (k : UnitKind) : Unit_ :=
  match k with
  | .vector => c.vunit
  | .array => c.array
  | .engine => c.engine

/-- Replace a unit of a chiplet. -/
def Chip.putUnit (c : Chip) (k : UnitKind) (u : Unit_) : Chip :=
  match k with
  | .vector => { c with vunit := u }
  | .array => { c with array := u }
  | .engine => { c with engine := u }

/-- The core index under which the core in focus stands in a service queue. -/
def State.coreIndex (s : State) : Nat := if s.core.num < 1024 then s.core.num % 4 else 0

/-- The entry a unit serves next: the head of the first sub-queue after the core served last (R273). -/
def Unit_.next (u : Unit_) : Option Queued :=
  [1, 2, 3, 4].findSome? fun i => u.queue.find? fun e => e.core == (u.last + i) % 4

/-- What an instruction of the fibre in focus captures when it issues (R131, R143, R301). -/
def State.capture (s : State) : Queued :=
  { core := s.coreIndex, fib := s.fib.id, word := BitVec.ofNat 32 s.core.fetched, ext := BitVec.ofNat 32 (s.core.fetched / 2 ^ 32)
    accmap := s.core.accmap, accen := s.core.accen, slots := s.core.slots }

/-- Whether the instruction of the fibre in focus has entered a service queue: its steps before that are done (R272). -/
def State.entered (s : State) (k : UnitKind) : Bool := (s.chip.unit k).queue.any fun e => e.fib == s.fib.id

/-- The words of the instruction with which the fibre in focus stands in a service queue: it is not fetched again (R272). -/
def State.queuedWords (s : State) : Option (BitVec 32 × BitVec 32) :=
  match s.fib.park with
  | some (.queued k) => ((s.chip.unit k).queue.find? fun e => e.fib == s.fib.id).map fun e => (e.word, e.ext)
  | _ => none

/-- A unit has served the fibre in focus without effect: its entry is gone, and the next core has its turn (R273, R299). -/
def State.passTurn (s : State) (k : UnitKind) : State :=
  s.setChip fun c =>
    let u := c.unit k
    c.putUnit k { u with queue := u.queue.filter fun e => e.fib != s.fib.id, last := s.coreIndex }

/-- Enter a service queue and wait for the turn (R273, R299, R325): a full sub-queue holds the instruction at issue, an
instruction whose turn has not come stays queued, and one whose turn it is leaves the queue, with what it captured. -/
def takeTurn (s : State) (k : UnitKind) : Ex (State × Queued) :=
  let u := s.chip.unit k
  let here := u.queue.find? fun e => e.fib == s.fib.id
  if here.isNone && decide (8 ≤ (u.queue.filter fun e => e.core == s.coreIndex).length) then hold s .retry
  else
    let me := here.getD s.capture
    let q := if here.isSome then u.queue else u.queue ++ [me]
    let v := { u with queue := q }
    if u.busy.isNone && (v.next.any fun e => e.fib == s.fib.id) then
      .ok (s.setChip fun c => c.putUnit k { u with queue := q.filter fun e => e.fib != s.fib.id, last := me.core }, me)
    else hold (s.setChip fun c => c.putUnit k v) (.queued k)

/-- Whether the turn of a queued fibre has come (R273, R299, R325). -/
def State.turnOf (s : State) (f : Fibre) (k : UnitKind) : Bool :=
  let u := (s.chipAt (chipNum f.at_)).unit k
  u.busy.isNone && u.next.any fun e => e.fib == f.id

/-- The state with other contents of ACCMAP, ACCEN and the slots of the core in focus. -/
def State.withMaps (s : State) (accmap accen : Word) (slots : Vector TableSlot 4) : State :=
  s.setCore fun c => { c with accmap := accmap, accen := accen, slots := slots }

/-- Run a computation with ACCMAP, ACCEN and the slots as an instruction captured them (R131, R143, R301). -/
def captured (s : State) (q : Queued) (body : State → Ex State) : Ex State :=
  let back (t : State) : State := t.withMaps s.core.accmap s.core.accen s.core.slots
  match body (s.withMaps q.accmap q.accen q.slots) with
  | .ok t => .ok (back t)
  | .error h => .error { h with st := back h.st }

/-- The unit runs the instruction of the fibre in focus, which parks until it completes. -/
def occupy (s : State) (k : UnitKind) (p : Park) : State :=
  let me := (s.coreIndex, s.fib.id)
  parkAs (s.setChip fun c => c.putUnit k { c.unit k with busy := some me, last := me.1 }) p

/-- The instruction that a unit runs completes (R272, R299): the unit is free and the fibre ready. -/
def State.vacate (s : State) (ch : Nat) (k : UnitKind) (core : Nat) (was : Option Park → Bool) : State :=
  let u := (s.chipAt ch).unit k
  match u.busy with
  | none => s
  | some e =>
    if e.1 = core then
      (s.onChip ch fun c => c.putUnit k { u with busy := none, completed := u.completed + 1, undo := [], back := none, release := none }).onFibre e.2
        fun f => if was f.park then { f with park := none } else f
    else s

/-! ## Events and spools -/

/-- An event becomes pending at a skein (R144). -/
def Skein.pend (k : Skein) (kind : Nat) : Skein := { k with evPend := k.evPend ||| (1#4 <<< kind) }

/-- FILL of a core's handle has risen from `old`: the spool-threshold event when it crosses THR (R287). -/
def State.threshold (s : State) (core h old : Nat) : State :=
  let p := (s.coreAt core).spools.getD h Spool.zero
  let thr := bits p.cfg 36 8
  if thr ≠ 0 ∧ old < thr ∧ thr ≤ p.fill then
    match s.allSkeins.find? fun k => k.resident && k.core == core && decide (bits k.skmap 1 4 ≤ h) &&
        decide (h < bits k.skmap 1 4 + bits k.skmap 5 5) with
    | none => s
    | some k => s.onSkein k.lid k.skn fun x => x.pend 3
  else s

/-- Update a handle of a named core. -/
def State.onSpoolOf (s : State) (core h : Nat) (f : Spool → Spool) : State :=
  s.onCore core fun c => { c with spools := c.spools.set! h (f (c.spools.getD h Spool.zero)) }

/-- Count one filled slot of a core's handle (R216, R287). -/
def State.countSlots (s : State) (core h n : Nat) : State :=
  let old := ((s.coreAt core).spools.getD h Spool.zero).fill
  (s.onSpoolOf core h fun p => p.commit n).threshold core h old

/-- The scratchpad address of byte `i` of the slots from RIX on (R276). -/
def spoolByte (chip : Nat) (p : Spool) (i : Nat) : Nat := padAddr chip (p.readOff (i / p.slotBytes) + i % p.slotBytes)

/-- Bytes of the slots from RIX on; a poisoned one is consumed, with its physical address (R276, R465). -/
def spoolBytes (s : State) (p : Spool) (off : Nat) : Nat → Ex (List Byte)
  | 0 => .ok []
  | n + 1 =>
    let pa := spoolByte s.chip.num p off
    if s.poisonedWord (pa / 8) then .error ⟨s, .poison 0 (BitVec.ofNat 64 pa) true⟩
    else do
      let r ← spoolBytes s p (off + 1) n
      .ok (memRead s.dev.mem pa :: r)

/-- Write bytes into the slot `i` places after WIX, padded with zeros, and set its words full (R216). -/
def State.fillSlot (s : State) (core h i : Nat) (bs : List Byte) : State :=
  let p := (s.coreAt core).spools.getD h Spool.zero
  let pa := padAddr (chipNum core) (p.base + (p.wix + i) % p.nslot * p.slotBytes)
  let s := s.writeHome pa (bs ++ List.replicate (p.slotBytes - bs.length) 0)
  (List.range (p.slotBytes / 8)).foldl (fun s j => s.makeFull (pa / 8 + j)) s

/-- Error detection over the slots an operand reads (R437). -/
def detectSlots (s : State) (p : Spool) (n : Nat) : State :=
  (List.range n).foldl (fun s i => s.detect (padAddr s.chip.num (p.readOff i)) p.slotBytes) s

end Sys2Proof.Machine
end

