-- ==== Sys2Proof/Machine/Vector.lean ====
section
/-! DEFINITION. Vector instructions and spool advance: majors 0x50 to 0x57 (R272 to R290). An instruction takes its effect
when the vector unit serves it; its fibre then parks until VECTOR_INSTRUCTION_COMPLETE. -/

namespace Sys2Proof.Machine

/-! ## Operands and lanes -/

/-- Step 6 follows steps 1 to 5 of R272, which an instruction makes once: the body runs when the unit serves it. -/
def vecRun (s : State) (before : Ex State) (body : State → Ex State) : Host.Outcome State Fault Refusal :=
  runThen s 1 (do
    let t ← if s.entered .vector then .ok s else before
    let (t, _) ← takeTurn t .vector
    body t) fun t => occupy t .vector .vector

/-- The checks of a spool operand and its wait (R276); nothing for a register operand. -/
def spoolWaitB (s : State) (sp : BitVec 1) (b : VReg) (n : BitVec 4) : Ex Unit :=
  if sp = 1 then do
    let h ← spoolUse s b.toNat (n.toNat + 1)
    ensure (256 ≤ (n.toNat + 1) * (s.spool h).slotBytes) (spoolFault s b.toNat)
    ensure (n.toNat + 1 ≤ (s.spool h).fill) (hold s .wait)
  else .ok ()

/-- Steps 1 to 4 of R272 for an instruction that may take a spool operand in vb (assumption 6). -/
def vecOpen (s : State) (w : BitVec 1) (regs : List Nat) (sp : BitVec 1) (b : VReg) (n : BitVec 4) : Ex State := do
  if sp = 1 then notGuest s else .ok ()
  let t ← waitW s w
  needVs t regs
  if sp = 1 then do
    let _ ← spoolNo t b.toNat
    .ok ()
  else needV t b.toNat
  spoolWaitB t sp b n
  .ok t

/-- The reads of R126, for the general registers an instruction names as sources. -/
def readsG (s : State) : List GReg → Ex Unit
  | [] => .ok ()
  | g :: gs => do
    let _ ← readG s g
    readsG s gs

/-- Steps 1 to 4 of R272 for an instruction with register operands only (assumption 6). -/
def vecOpenG (s : State) (w : BitVec 1) (gs : List GReg) (regs : List Nat) : Ex State := do
  let t ← waitW s w
  readsG t gs
  needVs t regs
  .ok t

/-- `vecOpenG` for an instruction that reads no general register. -/
def vecOpenV (s : State) (w : BitVec 1) (regs : List Nat) : Ex State := vecOpenG s w [] regs

/-- The second operand: vb, or the first 256 bytes of the spool's slots (R276). -/
def readB (s : State) (sp : BitVec 1) (b : VReg) (n : BitVec 4) : Ex (State × Nat) :=
  if sp = 1 then do
    let h ← spoolNo s b.toNat
    let t := detectSlots s (s.spool h) (n.toNat + 1)
    let bs ← spoolBytes t (t.spool h) 0 256
    .ok (t, ofBytes bs)
  else do
    let x ← readVec s b.toNat
    .ok (s, x)

/-- Every lane that is read carries length code n − 1 (R275); TVAL is the lowest lane that does not. -/
def lanesOk (s : State) (n : Nat) (use : List Nat) (xs : List Nat) : Ex Unit :=
  match use.find? fun i => xs.any fun x => vfLen (lane x n i) + 1 != n with
  | some i => trap s 0x08 0 (BitVec.ofNat 64 i)
  | none => .ok ()

/-- The active lanes of a mask among `l`. -/
def activeLanes (mask l : Nat) : List Nat := (List.range l).filter fun i => active mask l i

/-- Lanes with new values where `f` gives one, and the old bytes elsewhere; the flags are the union (R275). -/
def newLanes (n l old : Nat) (f : Nat → Option (Nat × FFlags)) : Nat × FFlags :=
  (List.range l).foldr (fun i acc =>
    match f i with
    | some r => (r.1 % 2 ^ (8 * n) + 2 ^ (8 * n) * acc.1, r.2 ||| acc.2)
    | none => (lane old n i + 2 ^ (8 * n) * acc.1, acc.2)) (0, 0)

/-- Write lanes of a vector register; a poisoned register stays so unless it is written whole (R438). -/
def putLanes (s : State) (d : Nat) (r : Nat × FFlags) (whole : Bool) : State :=
  let bad := s.fib.vbad.getD d false && !whole
  (raiseFlags (setVec s d r.1) r.2).setFib fun f => { f with vbad := f.vbad.set! d bad }

/-- The old bytes of a destination (R275: inactive lanes keep them). -/
def State.oldVec (s : State) (d : Nat) : Nat := (s.fib.v.getD d 0).toNat

/-- Value of a VF lane. -/
def vfLane (x n i : Nat) : FV := vfDecode (lane x n i)

/-- Encode a result at P with its flags. -/
def encAt (p : Nat) (r : FV × FFlags) : Nat × FFlags := (vfEncode p r.1, r.2)

/-! ## VF and integer arithmetic -/

/-- A VF instruction on va and vb (R277). -/
def vecVf2 (s : State) (d a b : VReg) (sp w : BitVec 1) (m : MReg) (n : BitVec 4) (f : FOp2) :
    Host.Outcome State Fault Refusal :=
  vecRun s (vecOpen s w [d.toNat, a.toNat] sp b n) fun t => do
    let mask ← readM t m.toNat
    let x ← readVec t a.toNat
    let (t, y) ← readB t sp b n
    let l := vfLanes t.n
    lanesOk t t.n (activeLanes mask l) [x, y]
    let r := newLanes t.n l (t.oldVec d.toNat) fun i =>
      if active mask l i then some (encAt t.p (f (vfLane x t.n i) (vfLane y t.n i) t.p t.rm)) else none
    .ok (putLanes t d.toNat r ((activeLanes mask l).length == l))

/-- A VF instruction on va, given on encodings (R277). -/
def vecVf1 (s : State) (d a : VReg) (w : BitVec 1) (m : MReg) (f : Nat → Nat → RMode → Nat × FFlags) :
    Host.Outcome State Fault Refusal :=
  vecRun s (vecOpenV s w [d.toNat, a.toNat]) fun t => do
    let mask ← readM t m.toNat
    let x ← readVec t a.toNat
    let l := vfLanes t.n
    lanesOk t t.n (activeLanes mask l) [x]
    let r := newLanes t.n l (t.oldVec d.toNat) fun i =>
      if active mask l i then some (f (lane x t.n i) t.p t.rm) else none
    .ok (putLanes t d.toNat r ((activeLanes mask l).length == l))

/-- A fused VF instruction with vd as the addend (R278). -/
def vecVf3 (s : State) (d a b : VReg) (sp w : BitVec 1) (m : MReg) (n : BitVec 4) (negProd negAdd : Bool) :
    Host.Outcome State Fault Refusal :=
  vecRun s (vecOpen s w [d.toNat, a.toNat] sp b n) fun t => do
    let mask ← readM t m.toNat
    let x ← readVec t a.toNat
    let (t, y) ← readB t sp b n
    let z ← readVec t d.toNat
    let l := vfLanes t.n
    lanesOk t t.n (activeLanes mask l) [x, y, z]
    let r := newLanes t.n l z fun i =>
      if active mask l i then
        some (encAt t.p (FV.fused negProd negAdd (vfLane x t.n i) (vfLane y t.n i) (vfLane z t.n i) t.p t.rm))
      else none
    .ok (putLanes t d.toNat r ((activeLanes mask l).length == l))

/-- An integer operation on lanes of `w` bits: old destination, a, b. -/
abbrev IntOp := Nat → Nat → Nat → Nat → Nat

/-- An integer instruction on va and vb (R279). -/
def vecInt (s : State) (d a b : VReg) (sp w : BitVec 1) (m : MReg) (n : BitVec 4) (z : BitVec 2) (f : IntOp) :
    Host.Outcome State Fault Refusal :=
  vecRun s (vecOpen s w [d.toNat, a.toNat] sp b n) fun t => do
    let mask ← readM t m.toNat
    let x ← readVec t a.toNat
    let (t, y) ← readB t sp b n
    let e := 2 ^ z.toNat
    let l := 256 / e
    let old := t.oldVec d.toNat
    let r := newLanes e l old fun i =>
      if active mask l i then some (f (8 * e) (lane old e i) (lane x e i) (lane y e i), 0) else none
    .ok (putLanes t d.toNat r ((activeLanes mask l).length == l))

/-- Clamp a signed result (R279). -/
def clampS (w : Nat) (v : Int) : Nat := wrap w (max (-(2 ^ (w - 1) : Int)) (min v (2 ^ (w - 1) - 1)))

/-- The shift amount of a lane (R279): the low log2 w bits. -/
def laneShift (w y : Nat) : Nat := y % w

/-- The integer lane operations in the order of R279. -/
def intOp (op : Nat) : IntOp := fun w _ x y =>
  match op with
  | 0 => (x + y) % 2 ^ w
  | 1 => wrap w ((x : Int) - y)
  | 2 => x * y % 2 ^ w
  | 3 => clampS w (toSigned w x + toSigned w y)
  | 4 => Nat.min (x + y) (2 ^ w - 1)
  | 5 => clampS w (toSigned w x - toSigned w y)
  | 6 => x - y
  | 7 => x &&& y
  | 8 => x ||| y
  | 9 => x ^^^ y
  | 10 => if toSigned w x ≤ toSigned w y then x else y
  | 11 => if toSigned w x ≥ toSigned w y then x else y
  | 12 => Nat.min x y
  | 13 => Nat.max x y
  | 14 => x * 2 ^ laneShift w y % 2 ^ w
  | 15 => x / 2 ^ laneShift w y
  | 16 => wrap w (toSigned w x / 2 ^ laneShift w y)
  | 17 => wrap w (toSigned w x * toSigned w y / 2 ^ w)
  | _ => x * y / 2 ^ w

/-- `vadd.vf` (R277). -/
def execVaddVf (d a b : VReg) (sp w : BitVec 1) (m : MReg) (n : BitVec 4) (s : State) : Host.Outcome State Fault Refusal :=
  vecVf2 s d a b sp w m n FV.add
/-- `vsub.vf` (R277). -/
def execVsubVf (d a b : VReg) (sp w : BitVec 1) (m : MReg) (n : BitVec 4) (s : State) : Host.Outcome State Fault Refusal :=
  vecVf2 s d a b sp w m n FV.sub
/-- `vmul.vf` (R277). -/
def execVmulVf (d a b : VReg) (sp w : BitVec 1) (m : MReg) (n : BitVec 4) (s : State) : Host.Outcome State Fault Refusal :=
  vecVf2 s d a b sp w m n FV.mul
/-- `vdiv.vf` (R277). -/
def execVdivVf (d a b : VReg) (sp w : BitVec 1) (m : MReg) (n : BitVec 4) (s : State) : Host.Outcome State Fault Refusal :=
  vecVf2 s d a b sp w m n FV.div
/-- `vmin.vf` (R277). -/
def execVminVf (d a b : VReg) (sp w : BitVec 1) (m : MReg) (n : BitVec 4) (s : State) : Host.Outcome State Fault Refusal :=
  vecVf2 s d a b sp w m n (FV.pick true)
/-- `vmax.vf` (R277). -/
def execVmaxVf (d a b : VReg) (sp w : BitVec 1) (m : MReg) (n : BitVec 4) (s : State) : Host.Outcome State Fault Refusal :=
  vecVf2 s d a b sp w m n (FV.pick false)
/-- `vsqrt.vf` (R277). -/
def execVsqrtVf (d a : VReg) (w : BitVec 1) (m : MReg) (s : State) : Host.Outcome State Fault Refusal :=
  vecVf1 s d a w m fun x p mode => encAt p ((vfDecode x).sqrt p mode)
/-- `vneg.vf` (R277). -/
def execVnegVf (d a : VReg) (w : BitVec 1) (m : MReg) (s : State) : Host.Outcome State Fault Refusal :=
  vecVf1 s d a w m fun x _ _ => (putSign x !(x.testBit 4), 0)
/-- `vabs.vf` (R277). -/
def execVabsVf (d a : VReg) (w : BitVec 1) (m : MReg) (s : State) : Host.Outcome State Fault Refusal :=
  vecVf1 s d a w m fun x _ _ => (putSign x false, 0)
/-- `vrint.vf` (R277). -/
def execVrintVf (d a : VReg) (w : BitVec 1) (m : MReg) (s : State) : Host.Outcome State Fault Refusal :=
  vecVf1 s d a w m fun x p mode => encAt p (FV.rint true (vfDecode x) p mode)
/-- `vfma.vf` (R278). -/
def execVfmaVf (d a b : VReg) (sp w : BitVec 1) (m : MReg) (n : BitVec 4) (s : State) : Host.Outcome State Fault Refusal :=
  vecVf3 s d a b sp w m n false false
/-- `vfms.vf` (R278). -/
def execVfmsVf (d a b : VReg) (sp w : BitVec 1) (m : MReg) (n : BitVec 4) (s : State) : Host.Outcome State Fault Refusal :=
  vecVf3 s d a b sp w m n false true
/-- `vfnma.vf` (R278). -/
def execVfnmaVf (d a b : VReg) (sp w : BitVec 1) (m : MReg) (n : BitVec 4) (s : State) : Host.Outcome State Fault Refusal :=
  vecVf3 s d a b sp w m n true true
/-- `vfnms.vf` (R278). -/
def execVfnmsVf (d a b : VReg) (sp w : BitVec 1) (m : MReg) (n : BitVec 4) (s : State) : Host.Outcome State Fault Refusal :=
  vecVf3 s d a b sp w m n true false
/-- `vadd` (R279). -/
def execVaddInt (d a b : VReg) (sp w : BitVec 1) (m : MReg) (n : BitVec 4) (z : BitVec 2) (s : State) : Host.Outcome State Fault Refusal :=
  vecInt s d a b sp w m n z (intOp 0)
/-- `vsub` (R279). -/
def execVsubInt (d a b : VReg) (sp w : BitVec 1) (m : MReg) (n : BitVec 4) (z : BitVec 2) (s : State) : Host.Outcome State Fault Refusal :=
  vecInt s d a b sp w m n z (intOp 1)
/-- `vmul` (R279). -/
def execVmulInt (d a b : VReg) (sp w : BitVec 1) (m : MReg) (n : BitVec 4) (z : BitVec 2) (s : State) : Host.Outcome State Fault Refusal :=
  vecInt s d a b sp w m n z (intOp 2)
/-- `vadds` (R279). -/
def execVadds (d a b : VReg) (sp w : BitVec 1) (m : MReg) (n : BitVec 4) (z : BitVec 2) (s : State) : Host.Outcome State Fault Refusal :=
  vecInt s d a b sp w m n z (intOp 3)
/-- `vaddus` (R279). -/
def execVaddus (d a b : VReg) (w : BitVec 1) (m : MReg) (z : BitVec 2) (s : State) : Host.Outcome State Fault Refusal :=
  vecInt s d a b 0 w m 0 z (intOp 4)
/-- `vsubs` (R279). -/
def execVsubs (d a b : VReg) (w : BitVec 1) (m : MReg) (z : BitVec 2) (s : State) : Host.Outcome State Fault Refusal :=
  vecInt s d a b 0 w m 0 z (intOp 5)
/-- `vsubus` (R279). -/
def execVsubus (d a b : VReg) (w : BitVec 1) (m : MReg) (z : BitVec 2) (s : State) : Host.Outcome State Fault Refusal :=
  vecInt s d a b 0 w m 0 z (intOp 6)
/-- `vand` (R279). -/
def execVand (d a b : VReg) (w : BitVec 1) (m : MReg) (z : BitVec 2) (s : State) : Host.Outcome State Fault Refusal :=
  vecInt s d a b 0 w m 0 z (intOp 7)
/-- `vor` (R279). -/
def execVor (d a b : VReg) (w : BitVec 1) (m : MReg) (z : BitVec 2) (s : State) : Host.Outcome State Fault Refusal :=
  vecInt s d a b 0 w m 0 z (intOp 8)
/-- `vxor` (R279). -/
def execVxor (d a b : VReg) (w : BitVec 1) (m : MReg) (z : BitVec 2) (s : State) : Host.Outcome State Fault Refusal :=
  vecInt s d a b 0 w m 0 z (intOp 9)
/-- `vmin` (R279). -/
def execVminInt (d a b : VReg) (w : BitVec 1) (m : MReg) (z : BitVec 2) (s : State) : Host.Outcome State Fault Refusal :=
  vecInt s d a b 0 w m 0 z (intOp 10)
/-- `vmax` (R279). -/
def execVmaxInt (d a b : VReg) (w : BitVec 1) (m : MReg) (z : BitVec 2) (s : State) : Host.Outcome State Fault Refusal :=
  vecInt s d a b 0 w m 0 z (intOp 11)
/-- `vminu` (R279). -/
def execVminu (d a b : VReg) (w : BitVec 1) (m : MReg) (z : BitVec 2) (s : State) : Host.Outcome State Fault Refusal :=
  vecInt s d a b 0 w m 0 z (intOp 12)
/-- `vmaxu` (R279). -/
def execVmaxu (d a b : VReg) (w : BitVec 1) (m : MReg) (z : BitVec 2) (s : State) : Host.Outcome State Fault Refusal :=
  vecInt s d a b 0 w m 0 z (intOp 13)
/-- `vsll` (R279). -/
def execVsll (d a b : VReg) (w : BitVec 1) (m : MReg) (z : BitVec 2) (s : State) : Host.Outcome State Fault Refusal :=
  vecInt s d a b 0 w m 0 z (intOp 14)
/-- `vsrl` (R279). -/
def execVsrl (d a b : VReg) (w : BitVec 1) (m : MReg) (z : BitVec 2) (s : State) : Host.Outcome State Fault Refusal :=
  vecInt s d a b 0 w m 0 z (intOp 15)
/-- `vsra` (R279). -/
def execVsra (d a b : VReg) (w : BitVec 1) (m : MReg) (z : BitVec 2) (s : State) : Host.Outcome State Fault Refusal :=
  vecInt s d a b 0 w m 0 z (intOp 16)
/-- `vmulh` (R279). -/
def execVmulh (d a b : VReg) (w : BitVec 1) (m : MReg) (z : BitVec 2) (s : State) : Host.Outcome State Fault Refusal :=
  vecInt s d a b 0 w m 0 z (intOp 17)
/-- `vmulhu` (R279). -/
def execVmulhu (d a b : VReg) (w : BitVec 1) (m : MReg) (z : BitVec 2) (s : State) : Host.Outcome State Fault Refusal :=
  vecInt s d a b 0 w m 0 z (intOp 18)
/-- `vmac` (R278): vd is the addend, and a source. -/
def execVmac (d a b : VReg) (sp w : BitVec 1) (m : MReg) (n : BitVec 4) (z : BitVec 2) (s : State) : Host.Outcome State Fault Refusal :=
  vecRun s (vecOpen s w [d.toNat, a.toNat] sp b n) fun t => do
    let mask ← readM t m.toNat
    let x ← readVec t a.toNat
    let (t, y) ← readB t sp b n
    let o ← readVec t d.toNat
    let e := 2 ^ z.toNat
    let l := 256 / e
    let r := newLanes e l o fun i =>
      if active mask l i then some ((lane o e i + lane x e i * lane y e i) % 2 ^ (8 * e), 0) else none
    .ok (putLanes t d.toNat r ((activeLanes mask l).length == l))

/-! ## Compares and masks -/

/-- A VF compare into a mask (R280): the relation and its flags. -/
def vecCmpVf (s : State) (d : MReg) (a b : VReg) (sp w : BitVec 1) (m : MReg) (n : BitVec 4)
    (f : FV → FV → Bool × FFlags) : Host.Outcome State Fault Refusal :=
  vecRun s (vecOpen s w [a.toNat] sp b n) fun t => do
    let mask ← readM t m.toNat
    let x ← readVec t a.toNat
    let (t, y) ← readB t sp b n
    let l := vfLanes t.n
    let act := activeLanes mask l
    lanesOk t t.n act [x, y]
    let r := act.foldr (fun i acc =>
      let c := f (vfLane x t.n i) (vfLane y t.n i)
      (acc.1 + (if c.1 then 2 ^ i else 0), c.2 ||| acc.2)) ((0 : Nat), (0 : FFlags))
    .ok (raiseFlags (setM t d.toNat r.1) r.2)

/-- An integer compare into a mask (R280). -/
def vecCmpInt (s : State) (d : MReg) (a b : VReg) (sp w : BitVec 1) (m : MReg) (n : BitVec 4) (z : BitVec 2)
    (f : Nat → Nat → Nat → Bool) : Host.Outcome State Fault Refusal :=
  vecRun s (vecOpen s w [a.toNat] sp b n) fun t => do
    let mask ← readM t m.toNat
    let x ← readVec t a.toNat
    let (t, y) ← readB t sp b n
    let e := 2 ^ z.toNat
    let act := activeLanes mask (256 / e)
    let r := act.foldr (fun i acc => acc + if f (8 * e) (lane x e i) (lane y e i) then 2 ^ i else 0) 0
    .ok (setM t d.toNat r)

/-- `vcmp.eq.vf` (R280). -/
def execVcmpEqVf (d : MReg) (a b : VReg) (sp w : BitVec 1) (m : MReg) (n : BitVec 4) (s : State) :
    Host.Outcome State Fault Refusal :=
  vecCmpVf s d a b sp w m n fun x y => (x.cmp y == some .eq, cmpFlags x y false)
/-- `vcmp.lt.vf` (R280). -/
def execVcmpLtVf (d : MReg) (a b : VReg) (sp w : BitVec 1) (m : MReg) (n : BitVec 4) (s : State) :
    Host.Outcome State Fault Refusal :=
  vecCmpVf s d a b sp w m n fun x y => (x.cmp y == some .lt, cmpFlags x y true)
/-- `vcmp.le.vf` (R280). -/
def execVcmpLeVf (d : MReg) (a b : VReg) (sp w : BitVec 1) (m : MReg) (n : BitVec 4) (s : State) :
    Host.Outcome State Fault Refusal :=
  vecCmpVf s d a b sp w m n fun x y => (x.cmp y == some .lt || x.cmp y == some .eq, cmpFlags x y true)
/-- `vcmp.un.vf` (R280). -/
def execVcmpUnVf (d : MReg) (a b : VReg) (sp w : BitVec 1) (m : MReg) (n : BitVec 4) (s : State) :
    Host.Outcome State Fault Refusal :=
  vecCmpVf s d a b sp w m n fun x y => (x.isNan || y.isNan, cmpFlags x y false)
/-- `vcmp.eq` on integer lanes (R280). -/
def execVcmpEqInt (d : MReg) (a b : VReg) (sp w : BitVec 1) (m : MReg) (n : BitVec 4) (z : BitVec 2) (s : State) :
    Host.Outcome State Fault Refusal := vecCmpInt s d a b sp w m n z fun _ x y => x == y
/-- `vcmp.lt` on integer lanes (R280). -/
def execVcmpLtInt (d : MReg) (a b : VReg) (sp w : BitVec 1) (m : MReg) (n : BitVec 4) (z : BitVec 2) (s : State) :
    Host.Outcome State Fault Refusal :=
  vecCmpInt s d a b sp w m n z fun k x y => decide (toSigned k x < toSigned k y)
/-- `vcmp.ltu` on integer lanes (R280). -/
def execVcmpLtuInt (d : MReg) (a b : VReg) (sp w : BitVec 1) (m : MReg) (n : BitVec 4) (z : BitVec 2) (s : State) :
    Host.Outcome State Fault Refusal := vecCmpInt s d a b sp w m n z fun _ x y => decide (x < y)

/-- A mask operation on two masks (R281). -/
def maskOp2 (s : State) (d a b : MReg) (w : BitVec 1) (f : Nat → Nat → Nat) : Host.Outcome State Fault Refusal :=
  vecRun s (vecOpenV s w []) fun t => do
    let x ← readM t a.toNat
    let y ← readM t b.toNat
    .ok (setM t d.toNat (f x y))

/-- `mand` (R281). -/
def execMand (d a b : MReg) (w : BitVec 1) (s : State) : Host.Outcome State Fault Refusal :=
  maskOp2 s d a b w fun x y => x &&& y
/-- `mor` (R281). -/
def execMor (d a b : MReg) (w : BitVec 1) (s : State) : Host.Outcome State Fault Refusal :=
  maskOp2 s d a b w fun x y => x ||| y
/-- `mxor` (R281). -/
def execMxor (d a b : MReg) (w : BitVec 1) (s : State) : Host.Outcome State Fault Refusal :=
  maskOp2 s d a b w fun x y => x ^^^ y
/-- `mandn` (R281). -/
def execMandn (d a b : MReg) (w : BitVec 1) (s : State) : Host.Outcome State Fault Refusal :=
  maskOp2 s d a b w fun x y => x &&& (y ^^^ (2 ^ 128 - 1))
/-- `mnot` (R281). -/
def execMnot (d a : MReg) (w : BitVec 1) (s : State) : Host.Outcome State Fault Refusal :=
  vecRun s (vecOpenV s w []) fun t => do
    let x ← readM t a.toNat
    .ok (setM t d.toNat (x ^^^ (2 ^ 128 - 1)))

/-- The number of 1 bits of a mask. -/
def maskCount (x : Nat) : Nat := ((List.range 128).filter fun i => x.testBit i).length

/-- The lowest 1 bit of a mask; 128 when there is none. -/
def maskFirst (x : Nat) : Nat := ((List.range 128).find? fun i => x.testBit i).getD 128

/-- A mask read into a general register (R281). -/
def maskToG (s : State) (d : GReg) (a : MReg) (w : BitVec 1) (f : Nat → Nat) : Host.Outcome State Fault Refusal :=
  vecRun s (do
    let t ← vecOpenV s w []
    destG t d
    .ok t) fun t => do
    let x ← readM t a.toNat
    .ok (setG t d (BitVec.ofNat 64 (f x)))

/-- `mpopc` (R281). -/
def execMpopc (d : GReg) (a : MReg) (w : BitVec 1) (s : State) : Host.Outcome State Fault Refusal :=
  maskToG s d a w maskCount
/-- `mfirst` (R281). -/
def execMfirst (d : GReg) (a : MReg) (w : BitVec 1) (s : State) : Host.Outcome State Fault Refusal :=
  maskToG s d a w maskFirst
/-- `mtog` (R281). -/
def execMtog (d : GReg) (a : MReg) (h w : BitVec 1) (s : State) : Host.Outcome State Fault Refusal :=
  maskToG s d a w fun x => x / 2 ^ (64 * h.toNat) % 2 ^ 64
/-- `mfromg` (R281). -/
def execMfromg (d : MReg) (a b : GReg) (w : BitVec 1) (s : State) : Host.Outcome State Fault Refusal :=
  vecRun s (do
    let t ← vecOpenG s w [a, b] []
    .ok t) fun t => do
    let x ← readG t a
    let y ← readG t b
    .ok (setM t d.toNat (x.toNat + 2 ^ 64 * y.toNat))

/-! ## Reductions and scans -/

/-- One level of the tree of R121; an absent lane passes the other on. -/
def pairUp {α : Type} (op : α → α → α × FFlags) : List (Option α) → List (Option α) × FFlags
  | [] => ([], 0)
  | [x] => ([x], 0)
  | x :: y :: rest =>
    let r := pairUp op rest
    match x, y with
    | none, _ => (y :: r.1, r.2)
    | some v, none => (some v :: r.1, r.2)
    | some v, some u =>
      let c := op v u
      (some c.1 :: r.1, c.2 ||| r.2)

/-- PairwiseReduce (R121) by at most `fuel` levels. -/
def treeReduce {α : Type} (op : α → α → α × FFlags) : Nat → List (Option α) → Option α × FFlags
  | 0, l => (l.headD none, 0)
  | fuel + 1, l =>
    if l.length ≤ 1 then (l.headD none, 0)
    else
      let r := pairUp op l
      let q := treeReduce op fuel r.1
      (q.1, r.2 ||| q.2)

/-- The lanes that a mask leaves present. -/
def presentLanes (mask l x n : Nat) : List (Option Nat) :=
  (List.range l).map fun i => if active mask l i then some (lane x n i) else none

/-- A VF operation on encodings. -/
def encOp2 (f : FOp2) (p : Nat) (mode : RMode) : Nat → Nat → Nat × FFlags :=
  fun x y => encAt p (f (vfDecode x) (vfDecode y) p mode)

/-- A VF reduction (R282); `empty` is the result with no active lane. -/
def reduceVf (s : State) (d a : VReg) (w : BitVec 1) (m : MReg) (f : FOp2) (empty : FV) :
    Host.Outcome State Fault Refusal :=
  vecRun s (vecOpenV s w [d.toNat, a.toNat]) fun t => do
    let mask ← readM t m.toNat
    let x ← readVec t a.toNat
    let l := vfLanes t.n
    lanesOk t t.n (activeLanes mask l) [x]
    let r := treeReduce (encOp2 f t.p t.rm) 8 (presentLanes mask l x t.n)
    let head := r.1.getD (vfEncode t.p empty)
    let rest := List.replicate (l - 1) (vfEncode t.p FV.zero)
    .ok (raiseFlags (setVec t d.toNat (packLanes t.n (head :: rest))) r.2)

/-- An integer reduction (R282). -/
def reduceInt (s : State) (d a : VReg) (w : BitVec 1) (m : MReg) (z : BitVec 2) (f : IntOp) (empty : Nat → Nat) :
    Host.Outcome State Fault Refusal :=
  vecRun s (vecOpenV s w [d.toNat, a.toNat]) fun t => do
    let mask ← readM t m.toNat
    let x ← readVec t a.toNat
    let e := 2 ^ z.toNat
    let r := treeReduce (fun u v => (f (8 * e) 0 u v, 0)) 8 (presentLanes mask (256 / e) x e)
    .ok (setVec t d.toNat (r.1.getD (empty (8 * e)) % 2 ^ (8 * e)))

/-- `vrsum.vf` (R282). -/
def execVrsumVf (d a : VReg) (w : BitVec 1) (m : MReg) (s : State) : Host.Outcome State Fault Refusal :=
  reduceVf s d a w m FV.add FV.zero
/-- `vrmin.vf` (R282). -/
def execVrminVf (d a : VReg) (w : BitVec 1) (m : MReg) (s : State) : Host.Outcome State Fault Refusal :=
  reduceVf s d a w m (FV.pick true) (.inf false)
/-- `vrmax.vf` (R282). -/
def execVrmaxVf (d a : VReg) (w : BitVec 1) (m : MReg) (s : State) : Host.Outcome State Fault Refusal :=
  reduceVf s d a w m (FV.pick false) (.inf true)
/-- `vrsum` (R282). -/
def execVrsumInt (d a : VReg) (w : BitVec 1) (m : MReg) (z : BitVec 2) (s : State) : Host.Outcome State Fault Refusal :=
  reduceInt s d a w m z (intOp 0) fun _ => 0
/-- `vrmin` (R282). -/
def execVrminInt (d a : VReg) (w : BitVec 1) (m : MReg) (z : BitVec 2) (s : State) : Host.Outcome State Fault Refusal :=
  reduceInt s d a w m z (intOp 10) fun w => 2 ^ (w - 1) - 1
/-- `vrmax` (R282). -/
def execVrmaxInt (d a : VReg) (w : BitVec 1) (m : MReg) (z : BitVec 2) (s : State) : Host.Outcome State Fault Refusal :=
  reduceInt s d a w m z (intOp 11) fun w => 2 ^ (w - 1)
/-- `vrminu` (R282). -/
def execVrminu (d a : VReg) (w : BitVec 1) (m : MReg) (z : BitVec 2) (s : State) : Host.Outcome State Fault Refusal :=
  reduceInt s d a w m z (intOp 12) fun w => 2 ^ w - 1
/-- `vrmaxu` (R282). -/
def execVrmaxu (d a : VReg) (w : BitVec 1) (m : MReg) (z : BitVec 2) (s : State) : Host.Outcome State Fault Refusal :=
  reduceInt s d a w m z (intOp 13) fun _ => 0
/-- `vrand` (R282). -/
def execVrand (d a : VReg) (w : BitVec 1) (m : MReg) (z : BitVec 2) (s : State) : Host.Outcome State Fault Refusal :=
  reduceInt s d a w m z (intOp 7) fun w => 2 ^ w - 1
/-- `vror` (R282). -/
def execVror (d a : VReg) (w : BitVec 1) (m : MReg) (z : BitVec 2) (s : State) : Host.Outcome State Fault Refusal :=
  reduceInt s d a w m z (intOp 8) fun _ => 0
/-- `vrxor` (R282). -/
def execVrxor (d a : VReg) (w : BitVec 1) (m : MReg) (z : BitVec 2) (s : State) : Host.Outcome State Fault Refusal :=
  reduceInt s d a w m z (intOp 9) fun _ => 0

/-- The running combinations of a scan (R283): for each lane, the combination when it is active. -/
def scanFrom {α : Type} (op : α → α → α × FFlags) : Option α → List (Option α) → List (Option α) × FFlags
  | _, [] => ([], 0)
  | acc, none :: r =>
    let q := scanFrom op acc r
    (none :: q.1, q.2)
  | none, some x :: r =>
    let q := scanFrom op (some x) r
    (some x :: q.1, q.2)
  | some v, some x :: r =>
    let c := op v x
    let q := scanFrom op (some c.1) r
    (some c.1 :: q.1, c.2 ||| q.2)

/-- Write the lanes a scan gives; inactive lanes keep their bytes (R283). -/
def putScan (t : State) (d n l : Nat) (r : List (Option Nat) × FFlags) : State :=
  let q := newLanes n l (t.oldVec d) fun i => (r.1.getD i none).map fun v => (v, 0)
  putLanes t d (q.1, r.2) (r.1.all Option.isSome)

/-- `vscan.vf` (R283). -/
def execVscanVf (d a : VReg) (w : BitVec 1) (m : MReg) (s : State) : Host.Outcome State Fault Refusal :=
  vecRun s (vecOpenV s w [d.toNat, a.toNat]) fun t => do
    let mask ← readM t m.toNat
    let x ← readVec t a.toNat
    let l := vfLanes t.n
    lanesOk t t.n (activeLanes mask l) [x]
    .ok (putScan t d.toNat t.n l (scanFrom (encOp2 FV.add t.p t.rm) none (presentLanes mask l x t.n)))
/-- `vscan` on integer lanes (R283). -/
def execVscanInt (d a : VReg) (w : BitVec 1) (m : MReg) (z : BitVec 2) (s : State) : Host.Outcome State Fault Refusal :=
  vecRun s (vecOpenV s w [d.toNat, a.toNat]) fun t => do
    let mask ← readM t m.toNat
    let x ← readVec t a.toNat
    let e := 2 ^ z.toNat
    .ok (putScan t d.toNat e (256 / e)
      (scanFrom (fun u v => (intOp 0 (8 * e) 0 u v, 0)) none (presentLanes mask (256 / e) x e)))

/-! ## Permutes and lane moves -/

/-- Bytes of a lane of kind k (R284). -/
def kindBytes (t : State) (k : BitVec 3) : Nat := if k = 4 then t.n else 2 ^ k.toNat

/-- The zero of kind k (R284). -/
def kindZero (t : State) (k : BitVec 3) : Nat := if k = 4 then vfEncode t.p FV.zero else 0

/-- Move lanes of va to vd: `src i` names the source lane of destination lane i, none for zero (R284). Of VF lanes, those that an active
destination lane takes are the ones checked (assumption 20). -/
def moveLanes (t : State) (d a : VReg) (m : MReg) (k : BitVec 3) (src : Nat → Nat → Option Nat) : Ex State := do
  let mask ← readM t m.toNat
  let x ← readVec t a.toNat
  let e := kindBytes t k
  let l := 256 / e
  let act := activeLanes mask l
  if k = 4 then lanesOk t e ((List.range l).filter fun j => act.any fun i => src l i == some j) [x] else .ok ()
  let r := newLanes e l (t.oldVec d.toNat) fun i =>
    if active mask l i then
      some (match src l i with
        | some j => lane x e j
        | none => kindZero t k, 0)
    else none
  .ok (putLanes t d.toNat r (act.length == l))

/-- `vperm` (R284): for VF lanes the index is byte i of vb. -/
def execVperm (d a b : VReg) (sp w : BitVec 1) (m : MReg) (n : BitVec 4) (k : BitVec 3) (s : State) :
    Host.Outcome State Fault Refusal :=
  vecRun s (vecOpen s w [d.toNat, a.toNat] sp b n) fun t => do
    let (t, y) ← readB t sp b n
    let ie := if k = 4 then 1 else 2 ^ k.toNat
    moveLanes t d a m k fun l i => if lane y ie i < l then some (lane y ie i) else none

/-- `vslideup` (R284). -/
def execVslideup (d a : VReg) (b : GReg) (w : BitVec 1) (m : MReg) (k : BitVec 3) (s : State) :
    Host.Outcome State Fault Refusal :=
  vecRun s (do
    let t ← vecOpenG s w [b] [d.toNat, a.toNat]
    .ok t) fun t => do
    let g ← readG t b
    moveLanes t d a m k fun _ i => if g.toNat ≤ i then some (i - g.toNat) else none

/-- `vslidedn` (R284). -/
def execVslidedn (d a : VReg) (b : GReg) (w : BitVec 1) (m : MReg) (k : BitVec 3) (s : State) :
    Host.Outcome State Fault Refusal :=
  vecRun s (do
    let t ← vecOpenG s w [b] [d.toNat, a.toNat]
    .ok t) fun t => do
    let g ← readG t b
    moveLanes t d a m k fun l i => if i + g.toNat < l then some (i + g.toNat) else none

/-- Write one value to every active lane. -/
def splat (t : State) (d : VReg) (m : MReg) (e v : Nat) : Ex State := do
  let mask ← readM t m.toNat
  let l := 256 / e
  let r := newLanes e l (t.oldVec d.toNat) fun i => if active mask l i then some (v, 0) else none
  .ok (putLanes t d.toNat r ((activeLanes mask l).length == l))

/-- `vsplat` on integer lanes (R284). -/
def execVsplatInt (d : VReg) (a : GReg) (w : BitVec 1) (m : MReg) (z : BitVec 2) (s : State) :
    Host.Outcome State Fault Refusal :=
  vecRun s (do
    let t ← vecOpenG s w [a] [d.toNat]
    .ok t) fun t => do
    let g ← readG t a
    splat t d m (2 ^ z.toNat) g.toNat

/-- `vsplat.vf` (R284): the value as it is held at P. -/
def execVsplatVf (d a : VReg) (w : BitVec 1) (m : MReg) (s : State) : Host.Outcome State Fault Refusal :=
  vecRun s (do
    let t ← vecOpenV s w [d.toNat]
    needF t a.toNat
    .ok t) fun t => do
    let v ← readV0 t a.toNat
    splat t d m t.n v

/-- `vext` on integer lanes (R284). -/
def execVextInt (d : GReg) (a : VReg) (b : GReg) (w : BitVec 1) (z : BitVec 2) (s : State) :
    Host.Outcome State Fault Refusal :=
  vecRun s (do
    let t ← vecOpenG s w [b] [a.toNat]
    destG t d
    .ok t) fun t => do
    let g ← readG t b
    let x ← readVec t a.toNat
    let e := 2 ^ z.toNat
    .ok (setG t d (if g.toNat < 256 / e then BitVec.ofNat 64 (lane x e g.toNat) else 0))

/-- `vext.vf` (R284): sets no flag. -/
def execVextVf (d a : VReg) (b : GReg) (w : BitVec 1) (s : State) : Host.Outcome State Fault Refusal :=
  vecRun s (do
    let t ← vecOpenG s w [b] [a.toNat]
    needF t d.toNat
    .ok t) fun t => do
    let g ← readG t b
    let x ← readVec t a.toNat
    if g.toNat < vfLanes t.n then do
      lanesOk t t.n [g.toNat] [x]
      .ok (setV0 t d.toNat (lane x t.n g.toNat))
    else .ok (setV0 t d.toNat (vfEncode t.p FV.zero))

/-- Write one lane when it is active; an index at or above L changes nothing (R284). -/
def insertLane (t : State) (d : VReg) (m : MReg) (e j v : Nat) : Ex State := do
  let mask ← readM t m.toNat
  let l := 256 / e
  if j < l ∧ active mask l j then
    let r := newLanes e l (t.oldVec d.toNat) fun i => if i = j then some (v, 0) else none
    .ok (putLanes t d.toNat r false)
  else .ok t

/-- `vins` on integer lanes (R284). -/
def execVinsInt (d : VReg) (a b : GReg) (w : BitVec 1) (m : MReg) (z : BitVec 2) (s : State) :
    Host.Outcome State Fault Refusal :=
  vecRun s (do
    let t ← vecOpenG s w [a, b] [d.toNat]
    .ok t) fun t => do
    let v ← readG t a
    let g ← readG t b
    insertLane t d m (2 ^ z.toNat) g.toNat v.toNat

/-- `vins.vf` (R284). -/
def execVinsVf (d a : VReg) (b : GReg) (w : BitVec 1) (m : MReg) (s : State) : Host.Outcome State Fault Refusal :=
  vecRun s (do
    let t ← vecOpenG s w [b] [d.toNat]
    needF t a.toNat
    .ok t) fun t => do
    let g ← readG t b
    let v ← readV0 t a.toNat
    insertLane t d m t.n g.toNat v

/-- `vcompress` (R284): every lane is written. -/
def execVcompress (d a : VReg) (w : BitVec 1) (m : MReg) (k : BitVec 3) (s : State) : Host.Outcome State Fault Refusal :=
  vecRun s (vecOpenV s w [d.toNat, a.toNat]) fun t => do
    let mask ← readM t m.toNat
    let x ← readVec t a.toNat
    let e := kindBytes t k
    let l := 256 / e
    let act := activeLanes mask l
    if k = 4 then lanesOk t e act [x] else .ok ()
    let vals := act.map fun i => lane x e i
    .ok (setVec t d.toNat (packLanes e (vals ++ List.replicate (l - vals.length) (kindZero t k))))

/-- `vmov` (R284): all 256 bytes. -/
def execVmov (d a : VReg) (w : BitVec 1) (s : State) : Host.Outcome State Fault Refusal :=
  vecRun s (vecOpenV s w [d.toNat, a.toNat]) fun t => do
    let x ← readVec t a.toNat
    .ok (setVec t d.toNat x)

/-! ## Conversion -/

/-- Bytes of the integer kinds i8, i16, i32, n32, i64, n64 (R235). -/
def intKindBytes (k : Nat) : Nat := [1, 2, 4, 4, 8, 8].getD k 8
/-- Whether the integer kind is signed. -/
def intKindSigned (k : Nat) : Bool := k != 3 && k != 5
/-- The value of an integer of a kind. -/
def intKindValue (k x : Nat) : Int :=
  if intKindSigned k then toSigned (8 * intKindBytes k) x else ((x % 2 ^ (8 * intKindBytes k) : Nat) : Int)
/-- Integer to VF at P (R115, R235). -/
def intToVf (k p : Nat) (mode : RMode) (x : Nat) : Nat × FFlags :=
  encAt p ((FV.ofInt (intKindValue k x)).convert (Fmt.vf p) mode)

/-- The lowest and highest integer of the kinds i32, n32, i64, n64 (R236). -/
def intRange (k : Nat) : Int × Int :=
  match k with
  | 0 => (-(2 ^ 31), 2 ^ 31 - 1)
  | 1 => (0, 2 ^ 32 - 1)
  | 2 => (-(2 ^ 63), 2 ^ 63 - 1)
  | _ => (0, 2 ^ 64 - 1)
/-- Bytes of the kinds i32, n32, i64, n64. -/
def outKindBytes (k : Nat) : Nat := if k < 2 then 4 else 8
/-- VF to an integer (R236). -/
def vfToInt (k : Nat) (mode : RMode) (x : Nat) : Int × FFlags :=
  (vfDecode x).toInt (intRange k).1 (intRange k).2 mode

/-- The IEEE formats f16, bf16, f32, f64 (R235). -/
def ieeeKind (k : Nat) : Ieee :=
  match k with
  | 0 => Ieee.f16
  | 1 => Ieee.bf16
  | 2 => Ieee.f32
  | _ => Ieee.f64
/-- Bytes of an IEEE format. -/
def ieeeBytes (k : Nat) : Nat := [2, 2, 4, 8].getD k 8
/-- IEEE to VF at P; a NaN is narrowed (R115, R235). -/
def ieeeToVf (k p : Nat) (mode : RMode) (x : Nat) : Nat × FFlags :=
  encAt p (((ieeeKind k).decode x).convert (Fmt.vf p) mode)

/-- The source lane of destination lane i for part h (R285): none keeps the lane, some none writes zero. -/
def partLane (ls ld h i : Nat) : Option (Option Nat) :=
  if ld ≤ ls then (if h * ld + i < ls then some (some (h * ld + i)) else some none)
  else if h * ls ≤ i ∧ i < h * ls + ls then some (some (i - h * ls)) else none

/-- A lane conversion (R285): source and destination lane bytes, `vf` when the source is VF; the source lanes that an active destination
lane takes are the ones checked (assumption 20). -/
def vecConv (s : State) (d a h : VReg) (w : BitVec 1) (m : MReg) (vf : Bool) (es ed zero : State → Nat)
    (conv : State → Nat → Nat × FFlags) : Host.Outcome State Fault Refusal :=
  vecRun s (vecOpenV s w [d.toNat, a.toNat]) fun t => do
    let mask ← readM t m.toNat
    let x ← readVec t a.toNat
    let ls := 256 / es t
    let ld := 256 / ed t
    let act := activeLanes mask ld
    let src := fun i => if active mask ld i then partLane ls ld h.toNat i else none
    if vf then
      lanesOk t (es t) ((List.range ls).filter fun j => act.any fun i => src i == some (some j)) [x]
    else .ok ()
    let r := newLanes (ed t) ld (t.oldVec d.toNat) fun i =>
      (src i).map fun j => match j with
        | some j => conv t (lane x (es t) j)
        | none => (zero t, 0)
    .ok (putLanes t d.toNat r ((List.range ld).all fun i => (src i).isSome))

/-- `vcvt.vf.i8` and its relatives (R285). -/
def execVcvtVfInt (d a h : VReg) (w : BitVec 1) (m : MReg) (k : BitVec 3) (s : State) :
    Host.Outcome State Fault Refusal :=
  vecConv s d a h w m false (fun _ => intKindBytes k.toNat) State.n (fun t => vfEncode t.p FV.zero) fun t x =>
    intToVf k.toNat t.p t.rm x
/-- `vcvt.i32.vf` and its relatives (R285). -/
def execVcvtIntVf (d a h : VReg) (w : BitVec 1) (m : MReg) (k : BitVec 2) (s : State) : Host.Outcome State Fault Refusal :=
  vecConv s d a h w m true State.n (fun _ => outKindBytes k.toNat) (fun _ => 0) fun t x =>
    let r := vfToInt k.toNat t.rm x
    (wrap 64 r.1, r.2)
/-- `vcvt.i32.vf.rtz` and its relatives (R285). -/
def execVcvtIntVfRtz (d a h : VReg) (w : BitVec 1) (m : MReg) (k : BitVec 2) (s : State) :
    Host.Outcome State Fault Refusal :=
  vecConv s d a h w m true State.n (fun _ => outKindBytes k.toNat) (fun _ => 0) fun _ x =>
    let r := vfToInt k.toNat .rtz x
    (wrap 64 r.1, r.2)
/-- `vcvt.vf.f16` and its relatives (R285). -/
def execVcvtVfIeee (d a h : VReg) (w : BitVec 1) (m : MReg) (k : BitVec 2) (s : State) :
    Host.Outcome State Fault Refusal :=
  vecConv s d a h w m false (fun _ => ieeeBytes k.toNat) State.n (fun t => vfEncode t.p FV.zero) fun t x =>
    ieeeToVf k.toNat t.p t.rm x
/-- `vcvt.f16.vf` and its relatives (R285). -/
def execVcvtIeeeVf (d a h : VReg) (w : BitVec 1) (m : MReg) (k : BitVec 2) (s : State) :
    Host.Outcome State Fault Refusal :=
  vecConv s d a h w m true State.n (fun _ => ieeeBytes k.toNat) (fun _ => 0) fun t x =>
    (ieeeKind k.toNat).of (vfDecode x) t.rm

/-- The vector unit completes the instruction it runs for a core (R272): its fibre is released. -/
def execVectorInstructionComplete (ch k : Nat) (s : State) : Host.Outcome State Fault Refusal :=
  .next (s.vacate ch .vector k fun p => p == some .vector)

/-! ## Spool advance -/

/-- A spool instruction's handle, after the checks of R140 and R141 (R286). -/
def splUse (s : State) (h n : BitVec 4) : Ex Nat := do
  notGuest s
  spoolUse s h.toNat (n.toNat + 1)

/-- Wait until N slots are filled. -/
def needFilled (s : State) (h : Nat) (n : BitVec 4) : Ex Unit :=
  ensure (n.toNat + 1 ≤ (s.spool h).fill) (hold s .wait)

/-- A producer's wait: not on a bound handle, until N slots are free (R286). -/
def needFree (s : State) (name : BitVec 4) (h : Nat) (n : BitVec 4) : Ex Unit := do
  ensure (!(s.spool h).bnd) (spoolFault s name.toNat)
  ensure (n.toNat + 1 + (s.spool h).fill ≤ (s.spool h).nslot) (hold s .wait)

/-- `spl.wait` (R286). -/
def execSplWait (n h : BitVec 4) (s : State) : Host.Outcome State Fault Refusal :=
  run s 1 do
    let p ← splUse s h n
    needFilled s p n
    .ok s
/-- `spl.rel` (R286). -/
def execSplRel (n h : BitVec 4) (s : State) : Host.Outcome State Fault Refusal :=
  run s 1 do
    let p ← splUse s h n
    needFilled s p n
    .ok (s.onSpool p fun q => q.release (n.toNat + 1))
/-- `spl.rd` (R286). -/
def execSplRd (d : GReg) (h : BitVec 4) (s : State) : Host.Outcome State Fault Refusal :=
  run s 1 do
    let p ← splUse s h 0
    writeG s d (BitVec.ofNat 64 ((s.spool p).readOff 0))
/-- `spl.wr` (R286): reserves nothing. -/
def execSplWr (d : GReg) (n h : BitVec 4) (s : State) : Host.Outcome State Fault Refusal :=
  run s 1 do
    let p ← splUse s h n
    destG s d
    needFree s h p n
    .ok (setG s d (BitVec.ofNat 64 (s.spool p).writeOff))
/-- `spl.commit` (R286, R287). -/
def execSplCommit (n h : BitVec 4) (s : State) : Host.Outcome State Fault Refusal :=
  run s 1 do
    let p ← splUse s h n
    needFree s h p n
    .ok (s.countSlots s.core.num p (n.toNat + 1))
/-- `spl.fill` (R286). -/
def execSplFill (d : GReg) (h : BitVec 4) (s : State) : Host.Outcome State Fault Refusal :=
  run s 1 do
    let p ← splUse s h 0
    writeG s d (BitVec.ofNat 64 (s.spool p).fill)

end Sys2Proof.Machine
end

