-- ==== Sys2Proof/Machine/Convert.lean ====
section
/-! DEFINITION. Conversions between general and float registers, and packed trits: majors 0x60 and 0x63 (R234 to R236). -/

namespace Sys2Proof.Machine

/-! ## Conversion -/

/-- A conversion of ga into a float register (R235). -/
def convertIn (s : State) (a : GReg) (f : FReg) (conv : Word → FV) : Ex State := do
  needF s f.toNat
  let x ← readG s a
  .ok (setF s f.toNat ((conv x).convert (Fmt.vf s.p) s.rm))

/-- A conversion of a float register into gd with its flags (R235). -/
def convertOut (s : State) (d : GReg) (f : FReg) (conv : FV → Word × FFlags) : Ex State := do
  needF s f.toNat
  let x ← readF s f.toNat
  destG s d
  let r := conv x
  .ok (raiseFlags (setG s d r.1) r.2)

/-- `cvt.vf.i32`, `.n32`, `.i64`, `.n64` (R235): kinds 0 to 3. -/
def execCvtVfInt (a : GReg) (k : BitVec 2) (f : FReg) (s : State) : Host.Outcome State Fault Refusal :=
  run s 1 (convertIn s a f fun x =>
    let w := 8 * outKindBytes k.toNat
    FV.ofInt (if k.toNat % 2 = 0 then toSigned w x.toNat else ((x.toNat % 2 ^ w : Nat) : Int)))

/-- `cvt.i32.vf`, `.n32`, `.i64`, `.n64`, with `.rtz` where r = 1 (R236). -/
def execCvtIntVf (d : GReg) (k : BitVec 2) (r : BitVec 1) (f : FReg) (s : State) : Host.Outcome State Fault Refusal :=
  run s 1 (convertOut s d f fun x =>
    let v := x.toInt (intRange k.toNat).1 (intRange k.toNat).2 (if r = 1 then .rtz else s.rm)
    (BitVec.ofInt 64 v.1, v.2))

/-- `cvt.vf.f16`, `.bf16`, `.f32`, `.f64` (R235). -/
def execCvtVfIeee (a : GReg) (k : BitVec 2) (f : FReg) (s : State) : Host.Outcome State Fault Refusal :=
  run s 1 (convertIn s a f fun x => (ieeeKind k.toNat).decode (x.toNat % 2 ^ (8 * ieeeBytes k.toNat)))

/-- `cvt.f16.vf`, `.bf16`, `.f32`, `.f64` (R235). -/
def execCvtIeeeVf (d : GReg) (k : BitVec 2) (f : FReg) (s : State) : Host.Outcome State Fault Refusal :=
  run s 1 (convertOut s d f fun x =>
    let v := (ieeeKind k.toNat).of x s.rm
    (BitVec.ofNat 64 v.1, v.2))

/-- `cvt.vf.e8m10` (R235). -/
def execCvtVfE8m10 (a : GReg) (f : FReg) (s : State) : Host.Outcome State Fault Refusal :=
  run s 1 (convertIn s a f fun x => Ieee.e8m10.decode (x.toNat % 2 ^ 19))

/-- `cvt.e8m10.vf` (R235). -/
def execCvtE8m10Vf (d : GReg) (f : FReg) (s : State) : Host.Outcome State Fault Refusal :=
  run s 1 (convertOut s d f fun x =>
    let v := Ieee.e8m10.of x s.rm
    (BitVec.ofNat 64 v.1, v.2))

/-! ## Packed trits -/

/-- Digit `i` of a packed byte (R93). -/
def tritDigit (b i : Nat) : Nat := b / 3 ^ i % 3

/-- A packed byte from its five digits, the lowest first (R93). -/
def packTrits : List Nat → Nat
  | [] => 0
  | d :: ds => d + 3 * packTrits ds

/-- The int8 byte of a digit (R93, R234). -/
def digitByte (d : Nat) : Byte := if d = 1 then 1 else if d = 2 then 0xFF else 0

/-- The digit of an int8 trit, if it is one (R234). -/
def byteDigit (b : Byte) : Option Nat :=
  if b = 0 then some 0 else if b = 1 then some 1 else if b = 0xFF then some 2 else none

/-- The illegal trit byte fault (R94, R234); TVAL is a byte number. -/
def tritFault {α : Type} (s : State) (n : Nat) : Ex α := trap s 0x09 0 (BitVec.ofNat 64 n)

/-- The first index of a list whose element fails. -/
def firstBad {α : Type} (p : α → Bool) : List α → Nat → Option Nat
  | [], _ => none
  | x :: xs, i => if p x then some i else firstBad p xs (i + 1)

/-- `trit.pack` (R234). -/
def execTritPack (d a : GReg) (s : State) : Host.Outcome State Fault Refusal :=
  run s 1 do
    let x ← readG s a
    let bs := bytesOf 5 x.toNat
    match firstBad (fun b => (byteDigit b).isNone) bs 0 with
    | some j => tritFault s j
    | none => writeG s d (BitVec.ofNat 64 (packTrits (bs.map fun b => (byteDigit b).getD 0)))

/-- `trit.unpack` (R234). -/
def execTritUnpack (d a : GReg) (s : State) : Host.Outcome State Fault Refusal :=
  run s 1 do
    let x ← readG s a
    let b := x.toNat % 256
    if 243 ≤ b then tritFault s 0
    else writeG s d (BitVec.ofNat 64 (ofBytes ((List.range 5).map fun i => digitByte (tritDigit b i))))

/-- The digit that a pair of masks gives an element (R234). -/
def maskDigit (pos neg : Word) (i : Nat) : Nat := if bit pos i then 1 else if bit neg i then 2 else 0

/-- `trit.pack.m` (R234). -/
def execTritPackM (d a b : GReg) (s : State) : Host.Outcome State Fault Refusal :=
  run s 1 do
    let x ← readG s a
    let y ← readG s b
    match (List.range 40).find? fun i => bit x i && bit y i with
    | some i => tritFault s (i / 5)
    | none =>
      let byte (j : Nat) : Byte := BitVec.ofNat 8 (packTrits ((List.range 5).map fun i => maskDigit x y (5 * j + i)))
      writeG s d (BitVec.ofNat 64 (ofBytes ((List.range 8).map byte)))

/-- The mask of the elements 0 to 39 of a word of packed bytes that have a digit (R234). -/
def digitMask (x : Word) (d : Nat) : Word :=
  BitVec.ofNat 64 (((List.range 40).filter fun i => tritDigit (bits x (8 * (i / 5)) 8) (i % 5) == d).map fun i => 2 ^ i).sum

/-- `trit.unpack.m` (R234): both destinations or neither. -/
def execTritUnpackM (d a b : GReg) (s : State) : Host.Outcome State Fault Refusal :=
  run s 1 do
    let x ← readG s a
    match (List.range 8).find? fun j => decide (243 ≤ bits x (8 * j) 8) with
    | some j => tritFault s j
    | none => do
      destG s d
      destG s b
      .ok (setG (setG s d (digitMask x 1)) b (digitMask x 2))

end Sys2Proof.Machine
end

