-- ==== Sys2Proof/Machine/Tables.lean ====
section
/-! DEFINITION. Decode tables and quantisation: majors 0x61 and 0x62 (R84 to R92, R228 to R233). -/

namespace Sys2Proof.Machine

/-! ## Table images -/

/-- The entry of a code (R84). -/
def tableEntry (image : List Byte) (code : Nat) : Nat := field image (4 * code) 4

/-- The E8M10 encoding of a code (R84). -/
def tableVal (image : List Byte) (code : Nat) : Nat := tableEntry image code % 2 ^ 19

/-- The value of a code (R83, R84). -/
def tableValue (image : List Byte) (code : Nat) : FV := Ieee.e8m10.decode (tableVal image code)

/-- Whether a code belongs to the encodable subset (R85). -/
def encodable (image : List Byte) (code : Nat) : Bool := (tableEntry image code).testBit 23

/-- The 256 codes. -/
def codes : List Nat := List.range 256

/-- EXP = 255 and FRAC as asked (R83). -/
def e8m10Special (v : Nat) (nan : Bool) : Bool := v / 2 ^ 10 % 256 == 255 && ((v % 2 ^ 10 != 0) == nan)

/-- A key under which finite encodings of equal value agree: both zeros have one value (R85). -/
def valueKey (v : Nat) : Nat := if v % 2 ^ 18 = 0 then 0 else v

/-- The NaN code of a table, if any (R85). -/
def nanCode (image : List Byte) : Option Nat :=
  codes.find? fun c => encodable image c && e8m10Special (tableVal image c) true

/-- Whether a table is encoding-capable (R87). -/
def encodingCapable (image : List Byte) : Bool := tableVal image 0 == 0 && encodable image 0

/-- Whether an entry may be used by the array (R86). -/
def entryAdmissible (v : Nat) : Bool := v % 2 ^ 18 == 0 || (decide (97 ≤ v / 2 ^ 10 % 256) && decide (v / 2 ^ 10 % 256 ≤ 147))

/-- Whether a table is array-admissible (R86). -/
def arrayAdmissible (image : List Byte) : Bool :=
  tableVal image 0 % 2 ^ 18 == 0 && codes.all fun c => entryAdmissible (tableVal image c)

/-- The lowest subcause among the content checks that fail (R85, R229). -/
def contentSub (image : List Byte) : Option Nat :=
  let enc := (codes.filter fun c => encodable image c).map fun c => tableVal image c
  let finite := (enc.filter fun v => v / 2 ^ 10 % 256 != 255).map valueKey
  if codes.any fun c => tableEntry image c / 2 ^ 24 != 0 || tableEntry image c / 2 ^ 19 % 16 != 0 then some 0
  else if !decide finite.Nodup then some 1
  else if 1 < (enc.filter fun v => e8m10Special v true).length then some 2
  else if enc.any fun v => e8m10Special v false then some 3
  else none

/-- The decode table fault (R430) (assumption 26). -/
def tableFault {α : Type} (s : State) (sub : Nat) (val : Word) : Ex α := trap s 0x0C sub val

/-- The slot an image gives (R229) (assumption 27). -/
def slotOf (image : List Byte) (ad : Bool) : TableSlot :=
  { valid := true, ad := ad, ec := encodingCapable image, hn := (nanCode image).isSome, nanc := (nanCode image).getD 0,
    image := image, fresh := true }

/-- Load an image into a slot (R229): the checked image, and whether the fibre parks for it. -/
def loadTable (s : State) (a : GReg) (sl : BitVec 2) (ad : Bool) : Ex (State × Nat × List Byte × Bool) := do
  notGuest s
  let p ← slotNo s sl.toNat
  let va ← readG s a
  ensure (va.toNat % 64 == 0) (tableFault s 5 va)
  let (t, image, ps) ← s.loadAt va 1024 false true
  match contentSub image with
  | some sub => tableFault t sub va
  | none => do
    ensure (!ad || arrayAdmissible image) (tableFault t 4 va)
    .ok (t, p, image, t.parksFor ps)

/-- A slot in use (R143): V = 0 raises subcause 7; TVAL is the slot named (assumption 27). -/
def useSlot (s : State) (sl : Nat) : Ex TableSlot := do
  let p ← slotNo s sl
  let t := s.core.slots.getD p TableSlot.zero
  ensure t.valid (tableFault s 7 (BitVec.ofNat 64 sl))
  .ok t

/-- A table load: the slot takes the image when its data is delivered, at once from the local scratchpad (R66, R230). -/
def tableRun (s : State) (a : GReg) (sl : BitVec 2) (ad : Bool) : Host.Outcome State Fault Refusal :=
  conclude (ending s 1 do
    let (t, p, image, parks) ← loadTable s a sl ad
    .ok (if parks then parkAs (retire t 1) (.table p ad image)
      else retire (t.setCore fun c => { c with slots := c.slots.set! p (slotOf image ad) }) 1))

/-- `tbl.load` (R228, R229). -/
def execTblLoad (a : GReg) (sp : BitVec 2) (s : State) : Host.Outcome State Fault Refusal := tableRun s a sp false
/-- `tbl.load.arr` (R228, R229). -/
def execTblLoadArr (a : GReg) (sp : BitVec 2) (s : State) : Host.Outcome State Fault Refusal := tableRun s a sp true

/-- The data that a parked fibre waits for is delivered (R66, R230). -/
def State.delivered (s : State) (id : FibreId) : State :=
  match s.fibre? id with
  | none => s
  | some f =>
    match f.park with
    | some .data => s.onFibre id fun x => { x with park := none }
    | some (.table p ad image) =>
      (s.onCore f.at_ fun c => { c with slots := c.slots.set! p (slotOf image ad) }).onFibre id fun x => { x with park := none }
    | _ => s

/-- `tbl.rd` (R228). -/
def execTblRd (d a : GReg) (sp : BitVec 2) (s : State) : Host.Outcome State Fault Refusal :=
  run s 1 do
    notGuest s
    let _ ← slotNo s sp.toNat
    let x ← readG s a
    let t ← useSlot s sp.toNat
    writeG s d (BitVec.ofNat 64 (tableEntry t.image (x.toNat % 256)))

/-- `tbl.inv` (R228): every field of the slot's TBST becomes 0. -/
def execTblInv (sp : BitVec 2) (s : State) : Host.Outcome State Fault Refusal :=
  run s 1 do
    notGuest s
    let p ← slotNo s sp.toNat
    .ok (s.setCore fun c => { c with slots := c.slots.set! p TableSlot.zero })

/-! ## Quantising a block -/

/-- The finite encodable codes with their values (R231). -/
def finiteCodes (image : List Byte) : List (Nat × FV) :=
  (codes.filter fun c => encodable image c && tableVal image c / 2 ^ 10 % 256 != 255).map fun c => (c, tableValue image c)

/-- The greater of two values that are no NaN; the first when equal. -/
def FV.maxOf (a b : FV) : FV := if a.cmp b = some .lt then b else a

/-- The greatest magnitude of a list, +0 when empty. -/
def maxMagnitude (l : List FV) : FV := l.foldl (fun m x => m.maxOf (x.withSign false)) FV.zero

/-- A finite value times 2^k, exactly; others stay. -/
def FV.scale (a : FV) (k : Int) : FV :=
  match a with
  | .fin n m e => .fin n m (e + k)
  | x => x

/-- Whether a value is finite. -/
def FV.isFin (a : FV) : Bool :=
  match a with
  | .fin _ _ _ => true
  | _ => false

/-- The magnitude of the difference of two finite values. -/
def FV.dist (a b : FV) : FV :=
  match a, b with
  | .fin n1 m1 e1, .fin n2 m2 e2 =>
    let r := exactSum n1 m1 e1 (!n2) m2 e2 .rne
    .fin false r.2.1 r.2.2
  | _, _ => .inf false

/-- The scale code of a block whose largest finite magnitude is `a` (R231). -/
def blockScale (a tmax : FV) : Nat :=
  match a, tmax with
  | .fin _ ma ea, .fin _ mt et =>
    if ma = 0 ∨ mt = 0 then 0 else
    let d : Int := (ma.log2 : Int) - mt.log2 + ea - et
    let e : Int := if a.cmp (tmax.scale d) = some .gt then d + 1 else d
    (min 254 (max 0 (127 + e))).toNat
  | _, _ => 0

/-- The code nearest to a value within the encodable range (R231): a tie goes to the code whose bit 0 is 0, else to the lower. -/
def nearestCode (y : FV) : List (Nat × FV) → Option (Nat × FV)
  | [] => none
  | (c, v) :: r =>
    match nearestCode y r with
    | none => some (c, v)
    | some (c', v') =>
      match (y.dist v).cmp (y.dist v') with
      | some .lt => some (c, v)
      | some .gt => some (c', v')
      | _ => if c' % 2 = 0 ∧ c % 2 = 1 then some (c', v') else some (c, v)

/-- The code of the greatest or the least encodable value (R231). -/
def extremeCode (greatest : Bool) : List (Nat × FV) → Option (Nat × FV)
  | [] => none
  | (c, v) :: r =>
    match extremeCode greatest r with
    | none => some (c, v)
    | some (c', v') => if v'.cmp v = some (if greatest then .gt else .lt) then some (c', v') else some (c, v)

/-- A quantised block: codes, scale, saturated elements, AMAX pattern, and whether NX is raised. -/
structure QBlock where
  code : List Byte
  scale : Nat
  sat : Nat
  amax : FV
  nx : Bool
  deriving DecidableEq, Repr

/-- One element (R231): its code, whether it saturated, and whether it was inexact; none for a NaN without a NaN code. -/
def quantiseOne (image : List Byte) (fin : List (Nat × FV)) (c : Nat) (x : FV) : Option (Nat × Bool × Bool) :=
  if x.isNan then (nanCode image).map fun k => (k, false, false) else
  let y := x.scale (127 - (c : Int))
  match extremeCode true fin, extremeCode false fin with
  | some hi, some lo =>
    if y.cmp hi.2 = some .gt then some (hi.1, true, true)
    else if y.cmp lo.2 = some .lt then some (lo.1, true, true)
    else (nearestCode y fin).map fun k => (k.1, false, y.cmp k.2 != some .eq)
  | _, _ => some (0, false, false)

/-- The elements of a block in order. -/
def quantiseAll (image : List Byte) (fin : List (Nat × FV)) (c : Nat) : List FV → Option (List (Nat × Bool × Bool))
  | [] => some []
  | x :: xs =>
    match quantiseOne image fin c x, quantiseAll image fin c xs with
    | some a, some r => some (a :: r)
    | _, _ => none

/-- QuantiseBlock (R231); none where a NaN meets a table without a NaN code. -/
def quantiseBlock (image : List Byte) (x : List FV) : Option QBlock :=
  let fin := finiteCodes image
  let c := blockScale (maxMagnitude (x.filter FV.isFin)) (maxMagnitude (fin.map fun p => p.2))
  match quantiseAll image fin c x with
  | none => none
  | some l => some {
      code := l.map fun e => BitVec.ofNat 8 e.1
      scale := c
      sat := (l.filter fun e => e.2.1).length
      amax := ((maxMagnitude (x.filter fun v => !v.isNan)).convert Fmt.f32 .rup).1
      nx := l.any fun e => e.2.2 }

/-! ## Tiles -/

/-- T of a tile of B blocks (R89). -/
def tileBody (b : Nat) : Nat := 16 * ((33 * b + 15) / 16)

/-- The tile checksum fault (R92). -/
def tileFault {α : Type} (s : State) (sub : Nat) (tile : Word) : Ex α := trap s 0x0A sub tile

/-- AMAX of a trailer after a block (R232): a NaN as read is ignored. -/
def mergeAmax (old am : FV) : FV := if old.isNan then am else old.maxOf am

/-- Elements of E bytes each as values; the index of the first VF element with another length code than n(P) − 1. -/
def elementValues (kind : Nat) (n : Nat) (bs : List Byte) : Except Nat (List FV) :=
  let raw := (List.range 32).map fun i => field bs (i * n) n
  match kind with
  | 0 => .ok (raw.map Ieee.bf16.decode)
  | 1 => .ok (raw.map Ieee.f32.decode)
  | _ =>
    match firstBad' raw 0 with
    | some i => .error i
    | none => .ok (raw.map vfDecode)
where
  firstBad' : List Nat → Nat → Option Nat
    | [], _ => none
    | v :: vs, i => if vfLen v + 1 = n then firstBad' vs (i + 1) else some i

/-- Bytes of an element of kind bf16, f32 or VF at P (R232). -/
def elementBytes (s : State) (kind : Nat) : Nat := [2, 4].getD kind s.n

/-- The control word of a quantisation (R232). -/
def controlOk (c : Word) (fin : Bool) : Bool :=
  let b := bits c 16 13
  bits c 29 35 == 0 && decide (1 ≤ b) && decide (b ≤ 4096) &&
    (if fin then bits c 13 3 == 0 && bits c 0 13 == b else bits c 12 4 == 0 && decide (bits c 0 12 < b))

/-- The slot of a quantisation: loaded and encoding-capable (R87, R233) (assumption 27). -/
def quantSlot (s : State) (sl : BitVec 2) : Ex TableSlot := do
  let t ← useSlot s sl.toNat
  ensure t.ec (tableFault s 6 (BitVec.ofNat 64 sl.toNat))
  .ok t

/-- `qnt.<fmt>` (R232, R233): every byte is checked before any is written. -/
def quantise (s : State) (d a b : GReg) (sl : BitVec 2) (kind : Nat) : Ex (State × Bool) := do
  notGuest s
  let _ ← slotNo s sl.toNat
  let tile ← readG s d
  let src ← readG s a
  let cw ← readG s b
  let slot ← quantSlot s sl
  ensure (controlOk cw false) (tileFault s 3 tile)
  let nb := bits cw 16 13
  let j := bits cw 0 12
  let n := elementBytes s kind
  let trailer := tile + BitVec.ofNat 64 (tileBody nb)
  let (t, pe) ← s.access s.accLoad src (32 * n) true
  let (t, pc) ← t.access t.accStore (tile + BitVec.ofNat 64 (32 * j)) 32 true
  let (t, pk) ← t.access t.accStore (tile + BitVec.ofNat 64 (32 * nb + j)) 1 true
  let (t, pt) ← t.access (if j = 0 then t.accStore else t.accAtomic) trailer 8 true
  let (t, raw) ← t.loadPieces false pe
  let (t, old) ← if j = 0 then .ok (t, List.replicate 8 (0 : Byte)) else t.loadPieces false pt
  match elementValues kind n raw with
  | .error i => trap t 0x08 0 (src + BitVec.ofNat 64 (i * n))
  | .ok xs =>
    match quantiseBlock slot.image xs with
    | none => tableFault t 8 (BitVec.ofNat 64 sl.toNat)
    | some q =>
      t.storeRoom (pc ++ pk ++ pt)
      let am := mergeAmax (Ieee.f32.decode (field old 0 4)) q.amax
      let sat := Nat.min (field old 4 4 + q.sat) (2 ^ 32 - 1)
      let t := t.storePieces pc q.code
      let t := t.storePieces pk [BitVec.ofNat 8 q.scale]
      let t := t.storePieces pt (bytesOf 4 (Ieee.f32.encode am) ++ bytesOf 4 sat)
      let t := raiseFlags t (if q.nx then FFlags.nx else 0)
      let next := src + BitVec.ofNat 64 (32 * n)
      let cw := if a = b then next else cw
      let t := setG (setG t a next) b ((cw &&& ~~~0x1FFF#64) ||| BitVec.ofNat 64 (j + 1))
      .ok (t, t.parksFor (pe ++ pt))

/-- `qnt.bf16` (R232). -/
def execQntBf16 (d a b : GReg) (sp : BitVec 2) (s : State) : Host.Outcome State Fault Refusal :=
  runLoad s 1 (quantise s d a b sp 0)
/-- `qnt.f32` (R232). -/
def execQntF32 (d a b : GReg) (sp : BitVec 2) (s : State) : Host.Outcome State Fault Refusal :=
  runLoad s 1 (quantise s d a b sp 1)
/-- `qnt.vf` (R232). -/
def execQntVf (d a b : GReg) (sp : BitVec 2) (s : State) : Host.Outcome State Fault Refusal :=
  runLoad s 1 (quantise s d a b sp 2)

/-- The last 8 bytes of a trailer (R90). -/
def trailerTail (body : List Byte) (nb slot : Nat) : List Byte :=
  bytesOf 4 (crc32c body) ++ bytesOf 2 nb ++ bytesOf 1 slot ++ bytesOf 1 1

/-- `qnt.fin` (R232). -/
def execQntFin (d b : GReg) (sp : BitVec 2) (s : State) : Host.Outcome State Fault Refusal :=
  runLoad s 1 do
    notGuest s
    let _ ← slotNo s sp.toNat
    let tile ← readG s d
    let cw ← readG s b
    let _ ← quantSlot s sp
    ensure (controlOk cw true) (tileFault s 3 tile)
    let nb := bits cw 16 13
    let size := tileBody nb
    let (t, pb) ← s.access s.accLoad tile (33 * nb) true
    let (t, pp) ← t.access t.accStore (tile + BitVec.ofNat 64 (33 * nb)) (size - 33 * nb) true
    let (t, pt) ← t.access t.accStore (tile + BitVec.ofNat 64 (size + 8)) 8 true
    let (t, body) ← t.loadPieces false pb
    t.storeRoom (pp ++ pt)
    let t := t.storePieces pp (List.replicate (size - 33 * nb) 0)
    .ok (t.storePieces pt (trailerTail body nb sp.toNat), t.parksFor pb)

/-- The tile checks of a consumer (R92): the subcause of the first that fails, the CRC before the form and the form before the slot, an
order that the manual does not give (assumption 26). -/
def tileSub (tile : List Byte) (nb slot : Nat) : Option Nat :=
  let t := tileBody nb
  if crc32c (tile.take (33 * nb)) ≠ field tile (t + 8) 4 then some 0
  else if field tile (t + 15) 1 ≠ 1 ∨ field tile (t + 12) 2 ≠ nb ∨ 3 < field tile (t + 14) 1 ∨
      ofBytes (slice tile (33 * nb) (t - 33 * nb)) ≠ 0 then some 1
  else if field tile (t + 14) 1 ≠ slot then some 2
  else none

end Sys2Proof.Machine
end

