-- ==== Sys2Proof/Machine/Array.lean ====
section
/-! DEFINITION. The ternary steering array: majors 0x68 to 0x6A and ARRAY_INSTRUCTION_COMPLETE (R103 to R107, R117, R120,
R291 to R312). An instruction takes its effect when the array serves it; its fibre then parks until the array completes
it. A pass keeps what undoes it until then. -/

namespace Sys2Proof.Machine

/-! ## Plane, strip and sets -/

/-- Byte at a plane offset (R202, R291). -/
def Chip.planeByte (c : Chip) (off : Nat) : Nat := (memRead c.plane off).toNat

/-- Entry at a strip offset (R202, R292); held XOR 0x7F, so that an unlisted entry is the 0x7F of bring-up (R458). -/
def Chip.stripEntry (c : Chip) (off : Nat) : Nat := (memRead c.strip off ^^^ 0x7F#8).toNat

/-- Write a strip entry, which clears its poison mark (R438). -/
def Chip.putStrip (c : Chip) (off : Nat) (v : Byte) : Chip :=
  { c with strip := memWrite c.strip off (v ^^^ 0x7F#8), stripBad := setDel off c.stripBad }

/-- The digit of trit `k` of a beat row of a column (R93, R291). -/
def Chip.planeDigit (c : Chip) (col row k : Nat) : Nat := tritDigit (c.planeByte (col * 2 ^ 18 + row * 2 ^ 7 + k / 5)) (k % 5)

/-- The all-zero flag of a row (R217): whether its 128 bytes are 0. -/
def Chip.rowZero (c : Chip) (col row : Nat) : Bool :=
  !(c.plane.any fun e => e.1 / 2 ^ 7 == col * 2 ^ 11 + row)

/-- A column entry of a set group. -/
def Chip.xcol (c : Chip) (grp col : Nat) : XCol := assoc (256 * grp + col) XCol.zero c.xacc

/-- Replace a column entry. -/
def Chip.putXcol (c : Chip) (grp col : Nat) (x : XCol) : Chip := { c with xacc := assocPut (256 * grp + col) x c.xacc }

/-- Update every column of a set group. -/
def Chip.mapSet (c : Chip) (grp : Nat) (f : XCol → XCol) : Chip :=
  (List.range 256).foldl (fun c i => c.putXcol grp i (f (c.xcol grp i))) c

/-- Whether a set is poisoned (R438). -/
def Chip.setBad (c : Chip) (grp : Nat) : Bool := c.xacc.any fun e => e.1 / 256 == grp && e.2.bad

/-- ACC as a number (R103). -/
def XCol.value (x : XCol) : Int := x.acc.toInt

/-- ACC mod 255 agrees with RES (R106). -/
def XCol.residueOk (x : XCol) : Bool := x.value % 255 == (x.res : Int)

/-- XaccEnter of the term v · 2^e, or of a NaN (R104). -/
def XCol.enter (x : XCol) (term : Option Int) (e : Int) : XCol :=
  let x' := match term with
    | none => { x with op := true, on := true }
    | some v =>
      let beyond : Bool :=
        if x.anchor + 100 ≤ e then v != 0 else decide (2 ^ (x.anchor + 100 - e).toNat ≤ v.natAbs)
      if beyond then (if 0 < v then { x with op := true } else { x with on := true })
      else
        let q : Int := if x.anchor ≤ e then v * 2 ^ (e - x.anchor).toNat else v.tdiv (2 ^ (x.anchor - e).toNat)
        let exact : Bool := x.anchor ≤ e || q * 2 ^ (x.anchor - e).toNat == v
        { x with ur := x.ur || !exact, acc := BitVec.ofInt 128 (x.value + q), res := (((x.res : Int) + q) % 255).toNat }
  { x' with tc := x'.tc + 1 }

/-! ## Faults and operands -/

/-- The array fault (R311). -/
def arrayFault {α : Type} (s : State) (sub : Nat) (val : Word) : Ex α := trap s 0x0E sub val

/-- Set groups of consecutive names (R146, R293); TVAL is the name that is not enabled. -/
def setNames (s : State) (first : Nat) : Nat → Ex (List Nat)
  | 0 => .ok []
  | n + 1 => do
    ensure (bit s.core.accen first) (arrayFault s 0 (BitVec.ofNat 64 first))
    let r ← setNames s (first + 1) n
    .ok (bits s.core.accmap (4 * first) 4 :: r)

/-- A column range (R294): first column and number of columns. -/
def columnRange (s : State) (v : Word) : Ex (Nat × Nat) := do
  ensure (bits v 16 48 == 0 && decide (bits v 0 8 + bits v 8 8 ≤ 255)) (arrayFault s 2 v)
  .ok (bits v 0 8, bits v 8 8 + 1)

/-- A beat range (R294): first row and number of rows. -/
def beatRange (s : State) (v : Word) : Ex (Nat × Nat) := do
  ensure (bits v 27 37 == 0 && bits v 11 5 == 0 && decide (bits v 0 11 + bits v 16 11 ≤ 2047)) (arrayFault s 2 v)
  .ok (bits v 0 11, bits v 16 11 + 1)

/-- Translate an operand that must lie in the issuing chiplet's own window (R295, R306, R307): protection subcause 9. -/
def localAccess (s : State) (a : Acc) (va : Word) (n : Nat) : Ex (State × List Piece) := do
  s.inSpace va n
  let (t, ps) ← s.pages a (n / 2 ^ 16 + 2) va.toNat n
  match ps.find? fun p => !(isPad p.pa && padChip p.pa == t.chip.num) with
  | some p => trap t 0x05 9 (BitVec.ofNat 64 p.va)
  | none => .ok (t, ps)

/-- A poisoned set is consumed (R438). -/
def liveSets (s : State) : List Nat → Ex Unit
  | [] => .ok ()
  | g :: gs =>
    if s.chip.setBad g then .error ⟨s, .poison 2 (BitVec.ofNat 64 g) false⟩ else liveSets s gs

/-- Run an array instruction (R299): `before` once at issue, then the turn, then the effect with what it captured, after every earlier
access of the fibre has been performed (R301) (assumption 28). -/
def arrayRun (s : State) (n : Nat) (before : Ex State) (body : State → Ex State) : Host.Outcome State Fault Refusal :=
  runThen s n (do
    let t ← if s.entered .array then .ok s else before
    notGuest t
    let t ← if s.entered .array then .ok t else t.allFirst
    let (t, q) ← takeTurn t .array
    captured t q body) fun t => occupy t .array .array

/-! ## A pass -/

/-- The operands of a pass as its words and registers give them. -/
structure Pass where
  acc : Nat
  nv : Nat
  g : Nat
  slot : Nat
  spool : Option (Nat × Nat)
  addr : Word
  beats : Word
  cols : Word
  deriving DecidableEq, Repr

/-- Where a pass takes its tiles (R295): local pieces, or a handle with slots per tile. -/
inductive Feed where
  | pad (ps : List Piece)
  | slots (h n : Nat)
  deriving DecidableEq, Repr

/-- What checks 4 to 7 of R298 give: set groups, table image, beat and column ranges, feed. -/
structure PassArgs where
  sets : List Nat
  image : List Byte
  row : Nat
  nb : Nat
  col : Nat
  nc : Nat
  feed : Feed
  deriving DecidableEq, Repr

/-- The operand requirements of R295, with the spool park. -/
def passFeed (s : State) (p : Pass) (tiles : Nat) : Ex (State × Feed) :=
  match p.spool with
  | some (name, n) => do
    let h ← spoolUse s name (n * tiles)
    ensure (688 ≤ n * (s.spool h).slotBytes) (spoolFault s name)
    ensure (n * tiles ≤ (s.spool h).fill) (hold s .wait)
    .ok (s, .slots h n)
  | none => do
    ensure (p.addr.toNat % 16 == 0) (arrayFault s 7 p.addr)
    let (t, ps) ← localAccess s s.accLoad p.addr (688 * tiles)
    .ok (t, .pad ps)

/-- Checks 4 to 7 of R298, made at issue and again at the start; a pass that finds its spool short at its start parks and issues again
(assumption 28). -/
def passChecks (s : State) (p : Pass) : Ex (State × PassArgs) := do
  let sets ← setNames s p.acc p.nv
  let slot ← useSlot s p.slot
  ensure slot.ad (tableFault s 4 (BitVec.ofNat 64 p.slot))
  let (row, nb) ← beatRange s p.beats
  let (col, nc) ← columnRange s p.cols
  ensure (p.nv * nb ≤ 4096) (arrayFault s 2 p.beats)
  let (t, feed) ← passFeed s p (p.nv * nb)
  let groups := (nb + p.g - 1) / p.g
  match (List.range p.nv).find? fun v =>
      (List.range nc).any fun i =>
        decide (2 ^ 27 < (t.chip.xcol (sets.getD v 0) (col + i)).tc + groups * (sets.filter fun x => x == sets.getD v 0).length) with
  | some v => arrayFault t 3 (BitVec.ofNat 64 (p.acc + v))
  | none => .ok (t, { sets := sets, image := slot.image, row := row, nb := nb, col := col, nc := nc, feed := feed })

/-- Bytes of local pieces; the lowest poisoned one is consumed. -/
def localBytes (s : State) : List Piece → Ex (State × List Byte)
  | [] => .ok (s, [])
  | p :: ps => do
    let t := s.detect p.pa p.len
    match t.firstPoison p.pa p.len with
    | some pa => .error ⟨t, .poison 0 (BitVec.ofNat 64 (p.va + pa - p.pa)) false⟩
    | none => do
      let (u, r) ← localBytes t ps
      .ok (u, t.homeBytes p.pa p.len ++ r)

/-- Bytes `off` to `off + n − 1` of a list of pieces, as pieces. -/
def cutPieces (off n : Nat) : List Piece → List Piece
  | [] => []
  | p :: ps =>
    if p.len ≤ off then cutPieces (off - p.len) n ps
    else if n ≤ p.len - off then [{ p with pa := p.pa + off, va := p.va + off, len := n }]
    else { p with pa := p.pa + off, va := p.va + off, len := p.len - off } :: cutPieces 0 (n - (p.len - off)) ps

/-- Tile `t` of a pass with its checks (R92, R295): TVAL is its base address, or the first slot's physical address (R465). -/
def passTile (s : State) (p : Pass) (feed : Feed) (t : Nat) : Ex (State × List Byte) :=
  match feed with
  | .pad ps => do
    let (s, bs) ← localBytes s (cutPieces (688 * t) 688 ps)
    match tileSub bs 20 p.slot with
    | some sub => tileFault s sub (p.addr + BitVec.ofNat 64 (688 * t))
    | none => .ok (s, bs)
  | .slots h n => do
    let q := s.spool h
    let s := detectSlots s { q with rix := (q.rix + n * t) % q.nslot } n
    let bs ← spoolBytes s { q with rix := (q.rix + n * t) % q.nslot } 0 688
    match tileSub bs 20 p.slot with
    | some sub => .error ⟨s, .trap 0x0A sub (BitVec.ofNat 64 (padAddr s.chip.num (q.readOff (n * t)))) true⟩
    | none => .ok (s, bs)

/-- Every tile of a pass in order. -/
def passTiles (s : State) (p : Pass) (feed : Feed) (t : Nat) : Nat → Ex (State × List (List Byte))
  | 0 => .ok (s, [])
  | k + 1 => do
    let (s, b) ← passTile s p feed t
    let (s, r) ← passTiles s p feed (t + 1) k
    .ok (s, b :: r)

/-- The first rows of the groups of a pass, with the rows of each (R296). -/
def passGroups (row nb g : Nat) : List (List Nat) :=
  (List.range ((nb + g - 1) / g)).map fun i => (List.range (min g (nb - i * g))).map fun j => row + i * g + j

/-- The first strip entry that differs within a group (R292, R296). -/
def stripBreak (c : Chip) (cols : List Nat) : List (List Nat) → Option Nat
  | [] => none
  | rows :: rest =>
    match cols.findSome? fun col =>
        (rows.find? fun r => c.stripEntry (col * 2 ^ 11 + r) != c.stripEntry (col * 2 ^ 11 + rows.headD 0)).map
          fun r => col * 2 ^ 11 + r with
    | some off => some off
    | none => stripBreak c cols rest

/-- The plane or strip offset of the first poisoned row or entry that a pass reads (R303). -/
def planeBreak (c : Chip) (cols rows : List Nat) : Option Nat :=
  cols.findSome? fun col => rows.findSome? fun r =>
    if c.planeBad.contains (col * 2 ^ 11 + r) then some ((col * 2 ^ 11 + r) * 2 ^ 7)
    else if c.stripBad.contains (col * 2 ^ 11 + r) then some (col * 2 ^ 11 + r)
    else none

/-- The integer v · 2^40 of a code (R86). -/
def laneValue (image : List Byte) (code : Nat) : Int :=
  match tableValue image code with
  | .fin n m e => scaled n m e (-40)
  | _ => 0

/-- Whether every code of a tile's 20 blocks is 0x00 (R297). -/
def tileZero (tile : List Byte) : Bool := (tile.take 640).all fun b => b == 0

/-- One live position added to a beat's sum; a NaN block scale makes the sum a NaN (R117). -/
def addPosition (c : Chip) (image tile : List Byte) (col row k : Nat) (acc : Option (Int × Bool)) : Option (Int × Bool) :=
  match acc with
  | none => none
  | some (sum, live) =>
    let t := c.planeDigit col row k
    let code := field tile k 1
    if t = 0 ∨ code = 0 then some (sum, live)
    else
      let b := field tile (640 + k / 32) 1
      if b = 255 then none
      else
        let v := laneValue image code * 2 ^ b
        some (if t = 1 then sum + v else sum - v, true)

/-- The term of a group for one column (R117), in units of 2^(s − 294); none for a NaN. -/
def groupTerm (c : Chip) (image : List Byte) (col : Nat) (scale : Nat) (beats : List (Nat × List Byte)) : Option Int :=
  let sum := beats.foldl (fun acc b =>
    (List.range 640).foldl (fun acc k => addPosition c image b.2 col b.1 k acc) acc) (some (0, false))
  match sum with
  | none => none
  | some (v, live) => if live && scale == 255 then none else some v

/-- One group of one vector enters its set (R296, R297): no term when every beat of it is skipped. -/
def passGroup (c : Chip) (a : PassArgs) (v : Nat) (tiles : List (List Byte)) (rows : List Nat) : Chip :=
  let cols := (List.range a.nc).map fun i => a.col + i
  let beats := rows.map fun r => (r, tiles.getD (v * a.nb + (r - a.row)) [])
  let used := beats.filter fun b => !(tileZero b.2) && cols.any fun col => !(c.rowZero col b.1)
  if used.isEmpty then c else
  cols.foldl (fun c col =>
    let scale := c.stripEntry (col * 2 ^ 11 + rows.headD 0)
    let grp := a.sets.getD v 0
    c.putXcol grp col ((c.xcol grp col).enter (groupTerm c a.image col scale used) ((scale : Int) - 294))) c

/-- The sums of a whole pass (R296). -/
def passSums (c : Chip) (p : Pass) (a : PassArgs) (tiles : List (List Byte)) : Chip :=
  (List.range p.nv).foldl (fun c v => (passGroups a.row a.nb p.g).foldl (fun c rows => passGroup c a v tiles rows) c) c

/-- A pass in the array: all or nothing (R296, R303). -/
def passBody (s : State) (p : Pass) : Ex State := do
  let (s, a) ← passChecks s p
  liveSets s a.sets
  let (s, tiles) ← passTiles s p a.feed 0 (p.nv * a.nb)
  let cols := (List.range a.nc).map fun i => a.col + i
  match planeBreak s.chip cols ((List.range a.nb).map fun j => a.row + j) with
  | some off => .error ⟨s, .poison 0 (Config.planePoison s.ctr off) false⟩
  | none =>
    match stripBreak s.chip cols (passGroups a.row a.nb p.g) with
    | some off => arrayFault s 4 (BitVec.ofNat 64 off)
    | none =>
      let undo := (a.sets.eraseDups.map fun g => cols.map fun col => (256 * g + col, s.chip.xcol g col)).flatten
      let release := match a.feed with
        | .slots h n => some (h, n * p.nv * a.nb)
        | .pad _ => none
      let back := some (s.fib.pc, s.fib.rpt)
      .ok (s.setChip fun c =>
        let c := passSums c p a tiles
        { c with array := { c.array with undo := undo, back := back, release := release } })

/-- Issue and run a pass (R298). -/
def passRun (s : State) (a b c : GReg) (w : BitVec 1) (acc gm : BitVec 4) (sp : BitVec 1) (sph spn : BitVec 4)
    (sl : BitVec 2) (nb : Nat) : Host.Outcome State Fault Refusal :=
  let args : State → Ex Pass := fun t => do
    let va ← if sp = 1 then .ok 0 else readG t a
    let beats ← readG t b
    let cols ← readG t c
    .ok { acc := acc.toNat, nv := nb + 1, g := gm.toNat + 1, slot := sl.toNat,
          spool := if sp = 1 then some (sph.toNat, spn.toNat + 1) else none, addr := va, beats := beats, cols := cols }
  arrayRun s 2 (do
    let _ ← slotNo s sl.toNat
    if sp = 1 then do
      let _ ← spoolNo s sph.toNat
      .ok ()
    else .ok ()
    let t ← waitW s w
    let p ← args t
    notGuest t
    let (t, _) ← passChecks t p
    .ok t) fun t => do
      let p ← args t
      passBody t p

/-- `arr.mv` (R296, R305). -/
def execArrMv (a b c : GReg) (w : BitVec 1) (acc gm : BitVec 4) (sp : BitVec 1) (sph spn : BitVec 4) (sl : BitVec 2)
    (s : State) : Host.Outcome State Fault Refusal := passRun s a b c w acc gm sp sph spn sl 0
/-- `arr.mm` (R296, R305). -/
def execArrMm (a b c : GReg) (w : BitVec 1) (acc gm : BitVec 4) (sp : BitVec 1) (sph spn : BitVec 4) (sl : BitVec 2)
    (nb : BitVec 4) (s : State) : Host.Outcome State Fault Refusal := passRun s a b c w acc gm sp sph spn sl nb.toNat

/-! ## Drain -/

/-- A column entry before its output scale (R107). -/
def XCol.drained (x : XCol) : FV :=
  match x.op, x.on with
  | true, true => .dnan
  | true, false => .inf false
  | false, true => .inf true
  | false, false => .fin (decide (x.value < 0)) x.value.natAbs x.anchor

/-- The drained value times the output scale, rounded once (R120). -/
def drainRound (a os : FV) (f : Fmt) (mode : RMode) : FV × FFlags :=
  match a, os with
  | .fin n1 m1 e1, .fin n2 m2 e2 => roundF (n1 != n2) (m1 * m2) (e1 + e2) f mode
  | _, _ => a.mul os f.p mode

/-- Columns of a set that fail the residue check (R304): TVAL holds group and column. -/
def residueCheck (s : State) (grp col nc : Nat) : Ex Unit :=
  match (List.range nc).find? fun i => !(s.chip.xcol grp (col + i)).residueOk with
  | some i => trap s 0x0F 0 (BitVec.ofNat 64 (256 * grp + col + i))
  | none => .ok ()

/-- The residue checks of several sets. -/
def residueChecks (s : State) (col nc : Nat) : List Nat → Ex Unit
  | [] => .ok ()
  | g :: gs => do
    residueCheck s g col nc
    residueChecks s col nc gs

/-- The format of a drain's destination kind (R306). -/
def drainFmt (s : State) (dk : Nat) : Fmt := if dk = 2 then Fmt.f32 else if dk = 3 then Fmt.bf16 else Fmt.vf s.p

/-- A drained value as its destination holds it. -/
def drainCode (s : State) (dk : Nat) (v : FV) : Nat :=
  if dk = 2 then Ieee.f32.encode v else if dk = 3 then Ieee.bf16.encode v else vfEncode s.p v

/-- Bytes of a drained value. -/
def drainBytes (s : State) (dk : Nat) : Nat := if dk = 2 then 4 else if dk = 3 then 2 else s.n

/-- The row of one set: encodings and the union of their flags. -/
def drainRow (s : State) (dk grp col nc : Nat) : List Nat × FFlags :=
  let vs := (List.range nc).map fun i =>
    let x := s.chip.xcol grp (col + i)
    drainRound x.drained (vfDecode x.os.toNat) (drainFmt s dk) s.rm
  (vs.map fun r => drainCode s dk r.1, vs.foldl (fun fl r => fl ||| r.2) 0)

/-- The limits of a drain's destination (R306), at issue. -/
def drainPlace (s : State) (va cols : Word) (nc ns dk dst m : Nat) : Ex (State × List Piece) :=
  match dk with
  | 0 => do
    ensure (nc ≤ vfLanes s.n) (arrayFault s 6 cols)
    .ok (s, [])
  | 1 => do
    let h ← spoolUse s dst (m * ns)
    let q := s.spool h
    ensure (!q.bnd && decide (nc * s.n ≤ m * q.slotBytes)) (spoolFault s dst)
    ensure (q.fill + m * ns ≤ q.nslot) (hold s .wait)
    .ok (s, [])
  | _ => localAccess s s.accStore va (ns * nc * drainBytes s dk)

/-- Write the bytes of pieces at home. -/
def putLocal (s : State) : List Piece → List Byte → State
  | [], _ => s
  | p :: ps, bs => putLocal (s.writeHome p.pa (bs.take p.len)) ps (bs.drop p.len)

/-- Write the rows of a drain (R306). -/
def drainWrite (s : State) (rows : List (List Nat)) (nc dk dst m : Nat) (ps : List Piece) : Ex State :=
  let n := drainBytes s dk
  match dk with
  | 0 =>
    let pad := List.replicate (vfLanes s.n - nc) (vfEncode s.p FV.zero)
    .ok ((rows.zipIdx).foldl (fun t r => setVec t (dst + r.2) (packLanes n (r.1 ++ pad))) s)
  | 1 => do
    let h ← spoolNo s dst
    let t := (rows.zipIdx).foldl (fun t r =>
      let bs := (r.1.map fun v => bytesOf n v).flatten
      (List.range m).foldl (fun t i =>
        t.fillSlot t.core.num h (r.2 * m + i) (slice bs (i * (t.spool h).slotBytes) (t.spool h).slotBytes)) t) s
    .ok (t.countSlots t.core.num h (m * rows.length))
  | _ => .ok (putLocal s ps ((rows.flatten.map fun v => bytesOf n v).flatten))

/-- `arr.drain` (R306). -/
def execArrDrain (a c : GReg) (w : BitVec 1) (acc : BitVec 4) (dk : BitVec 3) (dst spn ns : BitVec 4) (s : State) :
    Host.Outcome State Fault Refusal :=
  let body (t : State) : Ex (State × List Nat × Nat × Nat × List Piece) := do
    let va ← if dk.toNat < 2 then .ok 0 else readG t a
    let cols ← readG t c
    notGuest t
    let sets ← setNames t acc.toNat (ns.toNat + 1)
    let (col, nc) ← columnRange t cols
    let (t, ps) ← drainPlace t va cols nc (ns.toNat + 1) dk.toNat dst.toNat (spn.toNat + 1)
    .ok (t, sets, col, nc, ps)
  arrayRun s 2 (do
    if dk = 0 then needVs s ((List.range (ns.toNat + 1)).map fun j => dst.toNat + j) else .ok ()
    if dk = 1 then do
      let _ ← spoolNo s dst.toNat
      .ok ()
    else .ok ()
    let t ← waitW s w
    let (t, _) ← body t
    .ok t) fun t => do
      let (t, sets, col, nc, ps) ← body t
      liveSets t sets
      residueChecks t col nc sets
      let rows := sets.map fun g => drainRow t dk.toNat g col nc
      let u ← drainWrite t (rows.map fun r => r.1) nc dk.toNat dst.toNat (spn.toNat + 1) ps
      .ok (raiseFlags u (rows.foldl (fun fl r => fl ||| r.2) 0))

/-! ## Set and strip maintenance -/

/-- An array instruction of major 0x6A: register reads, the guest check and the set precede its turn. -/
def setRun (s : State) (reads : State → Ex (List Word)) (n : BitVec 4) (k : Nat) (body : State → List Word → List Nat → Ex State) :
    Host.Outcome State Fault Refusal :=
  arrayRun s 1 (do
    let _ ← reads s
    notGuest s
    let _ ← setNames s n.toNat k
    .ok s) fun t => do
      let v ← reads t
      let sets ← setNames t n.toNat k
      body t v sets

/-- Read a list of general registers in order. -/
def readGs (s : State) : List GReg → Ex (List Word)
  | [] => .ok []
  | r :: rs => do
    let x ← readG s r
    let xs ← readGs s rs
    .ok (x :: xs)

/-- The anchor checks of R308. -/
def anchorOf (s : State) (grp : Nat) (g : Word) : Ex Int := do
  let a := g.toInt
  let held := (List.range 256).any fun i => (s.chip.xcol grp i).tc != 0
  ensure (decide (-400 ≤ a ∧ a ≤ 400) && !(held && a != (s.chip.xcol grp 0).anchor)) (arrayFault s 1 g)
  .ok a

/-- `arr.anchor` (R307, R308): every OS becomes +1.0, held at p = 24 as at bring-up (R293), since R307 names no precision (assumption 27). -/
def execArrAnchor (a : GReg) (sp : BitVec 4) (s : State) : Host.Outcome State Fault Refusal :=
  setRun s (fun t => readGs t [a]) sp 1 fun t v sets => do
    let an ← anchorOf t (sets.headD 0) (v.getD 0 0)
    .ok (t.setChip fun c => c.mapSet (sets.headD 0) fun x => { x with anchor := an, os := oneAt24 })

/-- One output scale (R307): as `ld.f` reads it, from the local window only. -/
def loadScale (s : State) (va : Word) : Ex (State × Nat × FFlags) := do
  let (t, ps) ← localAccess s s.accLoad va 1
  let (t, b) ← localBytes t ps
  let len := ofBytes b % 16
  ensure (2 ≤ len) (trap t 0x08 0 va)
  let (t, ps) ← localAccess t t.accLoad va (len + 1)
  let (t, bs) ← localBytes t ps
  let r := (vfDecode (ofBytes bs)).convert (Fmt.vf t.p) t.rm
  .ok (t, vfEncode t.p r.1, r.2)

/-- Output scales of consecutive columns. -/
def loadScales (s : State) (va : Word) : Nat → Ex (State × List (Nat × FFlags))
  | 0 => .ok (s, [])
  | k + 1 => do
    let (t, v) ← loadScale s va
    let (t, r) ← loadScales t (va + BitVec.ofNat 64 s.n) k
    .ok (t, v :: r)

/-- `arr.anchor.os` (R307, R308). -/
def execArrAnchorOs (a b : GReg) (sp : BitVec 4) (s : State) : Host.Outcome State Fault Refusal :=
  setRun s (fun t => readGs t [a, b]) sp 1 fun t v sets => do
    let g := sets.headD 0
    let an ← anchorOf t g (v.getD 0 0)
    let (t, os) ← loadScales t (v.getD 1 0) 256
    let t := t.setChip fun c => (os.zipIdx).foldl (fun c o =>
      c.putXcol g o.2 { c.xcol g o.2 with anchor := an, os := BitVec.ofNat 128 o.1.1 }) c
    .ok (raiseFlags t (os.foldl (fun fl o => fl ||| o.2) 0))

/-- A cleared column: every field of ACC and XSTAT but ANCHOR 0, its poison mark clear (R307, R438) (assumption 28). -/
def XCol.cleared (x : XCol) : XCol :=
  { x with acc := 0, ur := false, op := false, on := false, tc := 0, res := 0, bad := false }

/-- `arr.clear` (R307): n + 1 sets. -/
def execArrClear (n sp : BitVec 4) (s : State) : Host.Outcome State Fault Refusal :=
  setRun s (fun _ => .ok []) sp (n.toNat + 1) fun t _ sets =>
    .ok (t.setChip fun c => sets.foldl (fun c g => c.mapSet g XCol.cleared) c)

/-- A record of R213 as a column entry: anchor, ACC, flags and TC; whether its zero bytes are zero. -/
def recordCol (r : List Byte) (x : XCol) : XCol :=
  let acc := BitVec.ofNat 128 (field r 0 16)
  { x with acc := acc, ur := bit (BitVec.ofNat 8 (field r 18 1)) 0, op := bit (BitVec.ofNat 8 (field r 18 1)) 1,
           on := bit (BitVec.ofNat 8 (field r 18 1)) 2, tc := field r 20 4, res := (acc.toInt % 255).toNat }

/-- ANCHOR of a record (R213). -/
def recordAnchor (r : List Byte) : Int := toSigned 16 (field r 16 2)

/-- Bytes of a record that must be zero (R213). -/
def recordZero (r : List Byte) : Bool := field r 18 1 < 8 && field r 19 1 == 0 && field r 24 8 == 0

/-- The bound of R105 on ACC and TC. -/
def boundOk (acc : Int) (tc : Nat) : Bool :=
  decide (tc ≤ 2 ^ 27) && (if tc = 0 then acc == 0 else decide (acc.natAbs < tc * 2 ^ 100))

/-- The record of a column entry (R213, R310). -/
def XCol.record (x : XCol) : List Byte :=
  bytesOf 16 x.acc.toNat ++ bytesOf 2 (wrap 16 x.anchor) ++
    bytesOf 1 ((if x.ur then 1 else 0) + (if x.op then 2 else 0) + (if x.on then 4 else 0)) ++ bytesOf 1 0 ++
    bytesOf 4 x.tc ++ bytesOf 8 0

/-- The records checked one after another (R309); TVAL is the address of the failing record. -/
def recordChecks (s : State) (va : Word) (anchor : Int) (bs : List Byte) (i : Nat) : Nat → Ex Unit
  | 0 => .ok ()
  | k + 1 => do
    let r := slice bs (32 * i) 32
    ensure (recordAnchor r == anchor && recordZero r) (arrayFault s 5 (va + BitVec.ofNat 64 (32 * i)))
    ensure (boundOk (BitVec.ofNat 128 (field r 0 16)).toInt (field r 20 4)) (arrayFault s 3 (va + BitVec.ofNat 64 (32 * i)))
    recordChecks s va anchor bs (i + 1) k

/-- Bytes of records; TVAL is the address of the lowest poisoned word (R309). -/
def recordBytes (s : State) (ps : List Piece) : Ex (State × List Byte) :=
  match localBytes s ps with
  | .error ⟨t, .poison sub v pa⟩ => .error ⟨t, .poison sub (v &&& 0xFFFFFFFFFFFFFFF8#64) pa⟩
  | r => r

/-- `arr.clear.ld` (R309). -/
def execArrClearLd (a b : GReg) (sp : BitVec 4) (s : State) : Host.Outcome State Fault Refusal :=
  setRun s (fun t => readGs t [a, b]) sp 1 fun t v sets => do
    let va := v.getD 0 0
    let g := sets.headD 0
    let (col, nc) ← columnRange t (v.getD 1 0)
    ensure (va.toNat % 32 == 0) (arrayFault t 7 va)
    let (t, ps) ← localAccess t t.accLoad va (32 * nc)
    let (t, bs) ← recordBytes t ps
    recordChecks t va (t.chip.xcol g 0).anchor bs 0 nc
    .ok (t.setChip fun c =>
      let c := if c.setBad g then c.mapSet g fun x => { x with bad := false } else c
      (List.range nc).foldl (fun c i =>
        c.putXcol g (col + i) (recordCol (slice bs (32 * i) 32) (c.xcol g (col + i)))) c)

/-- The result of `arr.stat` over columns (R310). -/
def statWord (c : Chip) (g col nc : Nat) : Word :=
  let xs := (List.range nc).map fun i => c.xcol g (col + i)
  BitVec.ofNat 64 (wrap 16 (c.xcol g 0).anchor * 2 ^ 48 + (xs.foldl (fun m x => max m x.tc) 0) * 2 ^ 20 +
    (if xs.any fun x => x.on then 4 else 0) + (if xs.any fun x => x.op then 2 else 0) + (if xs.any fun x => x.ur then 1 else 0))

/-- `arr.stat` (R310). -/
def execArrStat (d b : GReg) (sp : BitVec 4) (s : State) : Host.Outcome State Fault Refusal :=
  setRun s (fun t => readGs t [b]) sp 1 fun t v sets => do
    let (col, nc) ← columnRange t (v.getD 0 0)
    writeG t d (statWord t.chip (sets.headD 0) col nc)

/-- `arr.stat.rec` (R310). -/
def execArrStatRec (a b : GReg) (sp : BitVec 4) (s : State) : Host.Outcome State Fault Refusal :=
  setRun s (fun t => readGs t [a, b]) sp 1 fun t v sets => do
    let va := v.getD 0 0
    let g := sets.headD 0
    let (col, nc) ← columnRange t (v.getD 1 0)
    ensure (va.toNat % 32 == 0) (arrayFault t 7 va)
    let (t, ps) ← localAccess t t.accStore va (32 * nc)
    residueCheck t g col nc
    .ok (putLocal t ps (((List.range nc).map fun i => (t.chip.xcol g (col + i)).record).flatten))

/-- A strip operand (R307): an offset below 2^19. -/
def stripOffset (s : State) (v : Word) : Ex Nat := do
  ensure (bits v 19 45 == 0) (arrayFault s 2 v)
  .ok v.toNat

/-- `arr.wscale.rd` (R307). -/
def execArrWscaleRd (d a : GReg) (s : State) : Host.Outcome State Fault Refusal :=
  setRun s (fun t => readGs t [a]) 0 0 fun t v _ => do
    let off ← stripOffset t (v.getD 0 0)
    if t.chip.stripBad.contains off then .error ⟨t, .poison 0 (Config.planePoison t.ctr off) false⟩
    else writeG t d (BitVec.ofNat 64 (t.chip.stripEntry off))

/-- `arr.wscale` (R307). -/
def execArrWscale (a b : GReg) (s : State) : Host.Outcome State Fault Refusal :=
  setRun s (fun t => readGs t [a, b]) 0 0 fun t v _ => do
    let off ← stripOffset t (v.getD 0 0)
    ensure (bits (v.getD 1 0) 8 56 == 0) (arrayFault t 2 (v.getD 1 0))
    .ok (t.setChip fun c => c.putStrip off ((v.getD 1 0).setWidth 8))

/-! ## Completion and abort -/

/-- Whether a fibre waits for the array. -/
def Park.inArray (p : Option Park) : Bool := p == some .array

/-- The array completes the instruction of core `k` of a chiplet (R295, R299): a spool-fed pass releases its slots. -/
def State.arrayDone (s : State) (ch k : Nat) : State :=
  let u := (s.chipAt ch).array
  match u.busy with
  | none => s
  | some e =>
    if e.1 = k then
      let s := match u.release, s.fibre? e.2 with
        | some (h, n), some f => s.onSpoolOf f.at_ h fun p => p.release n
        | _, _ => s
      s.vacate ch .array k Park.inArray
    else s

/-- ARRAY_INSTRUCTION_COMPLETE (R299). -/
def execArrayInstructionComplete (ch k : Nat) (s : State) : Host.Outcome State Fault Refusal := .next (s.arrayDone ch k)

/-- Abort a running pass (R302): its columns, and the fibre's PC and frame, are as before it. -/
def State.abortPass (s : State) (ch : Nat) : State :=
  let u := (s.chipAt ch).array
  match u.busy, u.back with
  | some e, some (pc, rpt) =>
    let s := s.onChip ch fun c => { c with
      xacc := u.undo.foldl (fun l x => assocPut x.1 x.2 l) c.xacc
      array := { u with busy := none, undo := [], back := none, release := none } }
    s.onFibre e.2 fun f => { f with pc := pc, rpt := rpt, park := none }
  | _, _ => s

end Sys2Proof.Machine
end

