-- ==== Sys2Proof/Machine/Atomics.lean ====
section
/-! DEFINITION. Atomics, remote updates and migration: majors 0x30 to 0x35 (R350 to R359). -/

namespace Sys2Proof.Machine

/-! ## Where an atomic executes -/

/-- Whether a core is alive and not fenced (R350). -/
def State.coreLive (s : State) (n : Nat) : Bool :=
  match (s.coreAt n).status with
  | .exposed => true
  | .spare => true
  | .dead => false
  | .fenced => false

/-- The executing core of R350 for an address whose home is known. -/
def State.execCore (s : State) (home pa : Nat) : Nat :=
  if home ≥ 256 then channelCore pa
  else
    let i := pa / 128 % 4
    let try_ := [i, (i + 1) % 4, (i + 2) % 4, (i + 3) % 4].map fun j => 4 * home + j
    (try_.find? s.coreLive).getD (4 * home + i)

/-- Checks 3 to 5 of R355, and the home. `align` is the alignment, 1 for none. -/
def atomicHome (s : State) (acc : Acc) (ea : Word) (n align : Nat) : Ex (State × Piece × Nat) := do
  s.inSpace ea n
  ensure (ea.toNat % align == 0) (trap s 0x03 0 ea)
  let (t, ps) ← s.access acc ea n false
  match ps with
  | [] => hold t .retry
  | p :: _ => do
    let h ← t.pieceHome p
    .ok (t, p, h)

/-! ## The operations -/

/-- The new value of op from old value o and operand b at `w` bits (R353). -/
def amoValue (op w o b : Nat) : Nat :=
  match op with
  | 0 => (o + b) % 2 ^ w
  | 1 => o &&& b
  | 2 => o ||| b
  | 3 => o ^^^ b
  | 4 => if toSigned w o ≤ toSigned w b then o else b
  | 5 => if toSigned w o ≥ toSigned w b then o else b
  | 6 => Nat.min o b
  | 7 => Nat.max o b
  | 8 => b
  | 9 => if o ≥ b then 0 else o + 1
  | _ => if o = 0 ∨ o > b then b else o - 1

/-- One indivisible read and write at the home (R352): the old value, or none where the read meets poison. -/
def State.rmw (s : State) (key pa n : Nat) (f : Nat → Option Nat) : State × Option Nat :=
  let s := s.detect pa n
  if s.poisonedWord (pa / 8) then (s, none)
  else
    let o := ofBytes (s.viewBytes (s.key (key % 4096)) pa n)
    match f o with
    | none => (s, some o)
    | some v => (s.perform key pa (bytesOf n v), some o)

/-- An atomic at its executing core, or the fibre ships there (R350, R351, R356). -/
def atomic (s : State) (d : GReg) (ea : Word) (n : Nat) (acq rel : Option Nat) (f : Nat → Option Nat) : Ex State := do
  destG s d
  let (t, p, h) ← atomicHome s s.accAtomic ea n n
  let t ← match rel with
    | none => .ok t
    | some k => t.release k
  if h ≠ t.chip.num then do
    let t ← t.release 2
    .error ⟨t, .ship (t.execCore h p.pa)⟩
  else
    let t ← t.settleLocal.homeFirst [] [p] (if isDram p.pa then [p.pa / 128] else [])
    let r := (t.reachSlice p).rmw (keyArg p.leaf) p.pa n f
    match r.2 with
    | none => .error ⟨r.1, .poison 0 ea false⟩
    | some o =>
      let u := match acq with
        | none => r.1
        | some k => r.1.acquire k
      let u := match f o with
        | none => u
        | some v => u.setCore fun c => { c with l1 := putL1 p.pa (bytesOf n v) c.l1 }
      .ok (setG u d (BitVec.ofNat 64 o))

/-- A relaxed fetch-and-op (R353). -/
def amoPlain (s : State) (op : Nat) (d a b : GReg) (z : BitVec 1) : Host.Outcome State Fault Refusal :=
  run s 1 do
    let ea ← readG s a
    let y ← readG s b
    let n := 4 * 2 ^ z.toNat
    atomic s d ea n none none fun o => some (amoValue op (8 * n) o (y.toNat % 2 ^ (8 * n)))

/-- The new value of a compare-and-swap: none where it fails (R353). -/
def casValue (w o b c : Nat) : Option Nat := if o = b % 2 ^ w then some (c % 2 ^ w) else none

/-- `amo.add` (R353). -/
def execAmoAdd (d a b : GReg) (z : BitVec 1) (s : State) : Host.Outcome State Fault Refusal :=
  amoPlain s 0 d a b z

/-- `amo.and` (R353). -/
def execAmoAnd (d a b : GReg) (z : BitVec 1) (s : State) : Host.Outcome State Fault Refusal :=
  amoPlain s 1 d a b z

/-- `amo.or` (R353). -/
def execAmoOr (d a b : GReg) (z : BitVec 1) (s : State) : Host.Outcome State Fault Refusal :=
  amoPlain s 2 d a b z

/-- `amo.xor` (R353). -/
def execAmoXor (d a b : GReg) (z : BitVec 1) (s : State) : Host.Outcome State Fault Refusal :=
  amoPlain s 3 d a b z

/-- `amo.min` (R353). -/
def execAmoMin (d a b : GReg) (z : BitVec 1) (s : State) : Host.Outcome State Fault Refusal :=
  amoPlain s 4 d a b z

/-- `amo.max` (R353). -/
def execAmoMax (d a b : GReg) (z : BitVec 1) (s : State) : Host.Outcome State Fault Refusal :=
  amoPlain s 5 d a b z

/-- `amo.minu` (R353). -/
def execAmoMinu (d a b : GReg) (z : BitVec 1) (s : State) : Host.Outcome State Fault Refusal :=
  amoPlain s 6 d a b z

/-- `amo.maxu` (R353). -/
def execAmoMaxu (d a b : GReg) (z : BitVec 1) (s : State) : Host.Outcome State Fault Refusal :=
  amoPlain s 7 d a b z

/-- `amo.swap` (R353). -/
def execAmoSwap (d a b : GReg) (z : BitVec 1) (s : State) : Host.Outcome State Fault Refusal :=
  amoPlain s 8 d a b z

/-- `amo.inc` (R353). -/
def execAmoInc (d a b : GReg) (z : BitVec 1) (s : State) : Host.Outcome State Fault Refusal :=
  amoPlain s 9 d a b z

/-- `amo.dec` (R353). -/
def execAmoDec (d a b : GReg) (z : BitVec 1) (s : State) : Host.Outcome State Fault Refusal :=
  amoPlain s 10 d a b z

/-- `cas` (R353). -/
def execCas (d a b : GReg) (z : BitVec 1) (c : GReg) (s : State) : Host.Outcome State Fault Refusal :=
  run s 1 do
    let ea ← readG s a
    let y ← readG s b
    let v ← readG s c
    let n := 4 * 2 ^ z.toNat
    atomic s d ea n none none fun o => casValue (8 * n) o y.toNat v.toNat

/-- The acquire scope of an ORD (R354). -/
def ordAcq (o : BitVec 2) (sc : BitVec 4) : Option Nat := if bit o 0 then some sc.toNat else none
/-- The release scope of an ORD (R354). -/
def ordRel (o : BitVec 2) (sc : BitVec 4) : Option Nat := if bit o 1 then some sc.toNat else none

/-- A fetch-and-op with a scope (R354). -/
def execAmoScoped (d a b : GReg) (w : BitVec 1) (op : BitVec 6) (sc : BitVec 4) (o : BitVec 2) (m : BitVec 22) (s : State) :
    Host.Outcome State Fault Refusal :=
  run s 2 do
    let t ← waitW s w
    let base ← readG t a
    let y ← readG t b
    let n := 4 * 2 ^ (op.toNat % 2)
    atomic t d (base + m.signExtend 64) n (ordAcq o sc) (ordRel o sc) fun v =>
      some (amoValue (op.toNat / 2) (8 * n) v (y.toNat % 2 ^ (8 * n)))

/-- A compare-and-swap with a scope (R354). -/
def execCasScoped (d a b c : GReg) (w z : BitVec 1) (sc : BitVec 4) (o : BitVec 2) (m : BitVec 22) (s : State) :
    Host.Outcome State Fault Refusal :=
  run s 2 do
    let t ← waitW s w
    let base ← readG t a
    let y ← readG t b
    let v ← readG t c
    let n := 4 * 2 ^ z.toNat
    atomic t d (base + m.signExtend 64) n (ordAcq o sc) (ordRel o sc) fun u => casValue (8 * n) u y.toNat v.toNat

/-! ## Remote updates -/

/-- Spawn a remote-update fibre (R358); earlier stores of the fibre are performed first (R359). -/
def runUpd (s : State) (op : Nat) (a b : GReg) (z : BitVec 1) : Host.Outcome State Fault Refusal :=
  run s 1 do
    let ea ← readG s a
    let y ← readG s b
    let n := 4 * 2 ^ z.toNat
    let (t, p, h) ← atomicHome s s.accAtomic ea n n
    if t.fib.updout ≥ 65535 then hold t .retry
    else
      let u : Update := { fib := t.fib.id, op := op, size := n, b := BitVec.ofNat 64 (y.toNat % 2 ^ (8 * n)), pa := p.pa
                          key := keyArg p.leaf, core := t.execCore h p.pa, asid := t.fib.asid, va := p.va
                          hop := t.hop (chipNum (t.execCore h p.pa)) }
      let t ← t.homeFirst [] [p] (if isDram p.pa then [p.pa / 128] else [])
      .ok ((t.setDev fun d => { d with updates := d.updates ++ [u] }).setFib fun f =>
        { f with updout := f.updout + 1 })

/-- `upd.add` (R358). -/
def execUpdAdd (a b : GReg) (z : BitVec 1) (s : State) : Host.Outcome State Fault Refusal :=
  runUpd s 0 a b z

/-- `upd.and` (R358). -/
def execUpdAnd (a b : GReg) (z : BitVec 1) (s : State) : Host.Outcome State Fault Refusal :=
  runUpd s 1 a b z

/-- `upd.or` (R358). -/
def execUpdOr (a b : GReg) (z : BitVec 1) (s : State) : Host.Outcome State Fault Refusal :=
  runUpd s 2 a b z

/-- `upd.xor` (R358). -/
def execUpdXor (a b : GReg) (z : BitVec 1) (s : State) : Host.Outcome State Fault Refusal :=
  runUpd s 3 a b z

/-- `upd.min` (R358). -/
def execUpdMin (a b : GReg) (z : BitVec 1) (s : State) : Host.Outcome State Fault Refusal :=
  runUpd s 4 a b z

/-- `upd.max` (R358). -/
def execUpdMax (a b : GReg) (z : BitVec 1) (s : State) : Host.Outcome State Fault Refusal :=
  runUpd s 5 a b z

/-- `upd.minu` (R358). -/
def execUpdMinu (a b : GReg) (z : BitVec 1) (s : State) : Host.Outcome State Fault Refusal :=
  runUpd s 6 a b z

/-- `upd.maxu` (R358). -/
def execUpdMaxu (a b : GReg) (z : BitVec 1) (s : State) : Host.Outcome State Fault Refusal :=
  runUpd s 7 a b z

/-! ## Migration -/

/-- `migrate` (R357): only R = 1 is required and alignment is not checked. -/
def execMigrate (a : GReg) (s : State) : Host.Outcome State Fault Refusal :=
  run s 1 do
    let ea ← readG s a
    let (t, p, h) ← atomicHome s s.accLoad ea 1 1
    if h = t.chip.num then .ok t
    else do
      let t ← t.release 2
      .error ⟨t, .ship (t.execCore h p.pa)⟩

/-- `migrate.ret` (R357): a guest goes home, which the network check allows (R36); a fibre at home is unaffected. -/
def execMigrateRet (s : State) : Host.Outcome State Fault Refusal :=
  if s.fib.guest then
    runThen s 1 (do
      s.reach (chipNum s.fib.home)
      s.release 2) fun t => t.setFib fun f => { f with travel := some .home }
  else run s 1 (.ok s)

/-- Guest entries of a core (R332). -/
def guestRoom (core : Nat) : Nat := if core < 1024 then 16 else 64

/-- Whether a fibre stands in the MIG buffer of a core (R343). -/
def Fibre.waitsAt (f : Fibre) (core : Nat) : Bool :=
  match f.travel with
  | some (.waiting c _) => c == core
  | _ => false

/-- Whether a fibre stands in some MIG buffer (R343). -/
def Fibre.waitsSomewhere (f : Fibre) : Bool :=
  match f.travel with
  | some (.waiting _ _) => true
  | _ => false

/-- Whether a fibre holds a guest entry of a core (R343). -/
def Fibre.holdsEntry (f : Fibre) (core : Nat) : Bool :=
  match f.travel with
  | some (.out _ _) => false
  | some (.waiting _ _) => false
  | _ => f.guest && f.at_ == core

/-- The lowest free guest entry of a core (R332, R343). -/
def State.freeEntry (s : State) (core : Nat) : Option Nat :=
  let used := (s.allFibres.filter fun y => y.holdsEntry core).map Fibre.guestEntry
  (List.range (guestRoom core)).find? fun i => !used.contains i

/-- The ways of all that travels outward on MIG (R31): shipped fibres and remote updates. -/
def State.migHops (s : State) : List Hop :=
  (s.allFibres.filterMap fun y =>
    match y.travel with
    | some (.out _ h) => some h
    | _ => none) ++ s.dev.updates.map Update.hop

/-- The fibre in focus takes guest entry `e` of a core (R343). -/
def takeEntry (s : State) (core e : Nat) : State :=
  let id := s.fib.id
  (s.setFib fun y => { y with at_ := core, guest := true, guestEntry := e, guestCount := 0, travel := none, park := none }).focus id

/-- A travelling fibre reaches the core that it ships to, behind every packet sent before it on its way (R31), and takes a guest entry;
where none is free it waits in the MIG buffer, from which entries are granted in order of arrival (R343) (assumption 56). -/
def execMigrationArrival (f : FibreId) (s : State) : Host.Outcome State Fault Refusal :=
  match s.fibre? f with
  | none => .next s
  | some x =>
    match x.travel with
    | some (.out core h) =>
      if s.migHops.any fun e => e.before h then .next s
      else
        match (if s.allFibres.any fun y => y.waitsAt core then none else s.freeEntry core) with
        | some e => .next (takeEntry (s.focus f) core e)
        | none => .next (s.onFibre f fun y => { y with
            travel := some (.waiting core s.ctr), parkedAt := s.clkAt (chipNum core), parkedTick := s.wtick (chipNum core) })
    | some (.waiting core since) =>
      let before (y : Fibre) : Bool :=
        match y.travel with
        | some (.waiting c t) => c == core && decide (t < since)
        | _ => false
      match (if s.allFibres.any before then none else s.freeEntry core) with
      | some e => .next (takeEntry (s.focus f) core e)
      | none => .next s
    | _ => .next s

/-- Send a guest home with nothing pending; its waits are withdrawn (R343) (assumption 56). -/
def State.sendHome (s : State) (f : FibreId) : State :=
  (s.forgetWaits fun id => id == f).onFibre f fun x => { x with park := none, travel := some .home }

/-- A guest that has retired 64 instructions is sent home (R343). -/
def execGuestInstructionLimit (f : FibreId) (s : State) : Host.Outcome State Fault Refusal :=
  match s.fibre? f with
  | some x => if x.guest && x.travel.isNone && decide (64 ≤ x.guestCount) then .next (s.sendHome f) else .next s
  | none => .next s

/-- A guest that has been parked for 4096 clocks is sent home (R343). -/
def execGuestParkLimit (f : FibreId) (s : State) : Host.Outcome State Fault Refusal :=
  match s.fibre? f with
  | some x =>
    if x.guest && x.travel.isNone && x.parked && s.clocksSince (chipNum x.at_) x.parkedAt 4096 then .next (s.sendHome f)
    else .next s
  | none => .next s

/-- A guest that goes home departs and arrives (R351) (assumption 56): departure, a release at chip scope, waits for UPDOUT = 0, and the
fibre stays behind what travels on its way (R31); arrival is an acquire at chip scope, and the trap or restart that is pending follows. -/
def execGuestReturnHome (f : FibreId) (s : State) : Host.Outcome State Fault Refusal :=
  match s.fibre? f with
  | none => .next s
  | some x =>
    match x.travel with
    | none => .next s
    | some (.out _ _) => .next s
    | some (.waiting _ _) => .next s
    | some why =>
      let t := s.focus f
      if x.updout ≠ 0 ∨ t.behindMessage true ∨ (t.migHops.any fun e => e.along (t.hop (chipNum x.home))) then .next s
      else
        let t := t.settle.drain
        let t := t.setFib fun y => { y with at_ := y.home, guest := false, guestEntry := 0, guestCount := 0, travel := none,
                                            park := none }
        let t := (t.focus f).acquire 2
        match why with
        | .homeTrap code sub val pa => .next (takeTrap t code sub val pa true)
        | .homeRestart => conclude (restart t)
        | _ => .next t

end Sys2Proof.Machine
end

