-- ==== Sys2Proof/Machine/BitStream.lean ====
section
/-! DEFINITION. Reading a bit stream through BBUF: major 0x64 (R136, R223 to R227). -/

namespace Sys2Proof.Machine

/-- The stream byte at an address (R224): from the chiplet's own scratchpad only, as a relaxed load. -/
def streamByte (s : State) (va : Word) : Ex (State × Byte) := do
  let (t, _, pa) ← s.check s.accLoad va.toNat
  ensure (isPad pa && padChip pa == s.chip.num) (trap t 0x05 8 va)
  let t := t.detect pa 1
  if t.poisonedWord (pa / 8) then .error ⟨t, .poison 0 va false⟩ else .ok (t, memRead t.dev.mem pa)

/-- Refill (R223): whole bytes while CNT ≤ 119, up to the first that cannot be taken (assumption 25). -/
def refill : Nat → State → BitBuf → State × BitBuf
  | 0, s, b => (s, b)
  | fuel + 1, s, b =>
    if 119 < b.cnt then (s, b) else
    match streamByte s b.addr with
    | .error _ => (s, b)
    | .ok (t, x) => refill fuel t
        { data := b.data ||| (x.setWidth 128 <<< b.cnt), cnt := b.cnt + 8, addr := (b.addr + 1) &&& 0x01FFFFFFFFFFFFFF#64 }

/-- Refill as an instruction makes it: one that waits for a walker parks the fibre (R50, R224). -/
def refilled (s : State) (b : BitBuf) : Ex (State × BitBuf) :=
  let r := refill 16 s b
  if 119 < r.2.cnt then .ok r else
  match streamByte r.1 r.2.addr with
  | .error ⟨t, .park p⟩ => .error ⟨t, .park p⟩
  | _ => .ok r

/-- Bits below CNT are not enough: the fault of the byte at ADDR (R224) (assumption 25). -/
def needBits (s : State) (b : BitBuf) (w : Nat) : Ex Unit :=
  if w ≤ b.cnt then .ok () else
  match streamByte s b.addr with
  | .error h => .error h
  | .ok _ => .ok ()

/-- Take(w) (R223). -/
def BitBuf.take (b : BitBuf) (w : Nat) : Nat × BitBuf :=
  (b.data.toNat % 2 ^ w, { b with data := b.data >>> w, cnt := b.cnt - w })

/-- Put BBUF back. -/
def setBuf (s : State) (b : BitBuf) : State := s.setFib fun f => ({ f with bb := b } : Fibre).touch Dirty.bbuf

/-- Refill from the buffer of the fibre in focus, and need `w` bits (assumption 25). -/
def need (s : State) (w : Nat) : Ex (State × BitBuf) := do
  let r ← refilled s s.fib.bb
  needBits r.1 r.2 w
  .ok r

/-- Take `w` bits into gd, sign-extended or not (R226). -/
def getBits (s : State) (d : GReg) (w : Nat) (signed : Bool) : Ex State := do
  destG s d
  let (t, b) ← need s w
  let r := b.take w
  .ok (setG (setBuf t r.2) d (if signed then BitVec.ofInt 64 (toSigned w r.1) else BitVec.ofNat 64 r.1))

/-- Drop `w` bits (R226). -/
def skipBits (s : State) (w : Nat) : Ex State := do
  let (t, b) ← need s w
  .ok (setBuf t (b.take w).2)

/-- The stream position (R223). -/
def BitBuf.pos (b : BitBuf) : Word := b.addr * 8 - BitVec.ofNat 64 b.cnt

/-- `bs.seek` (R226): TVAL of its fault is the address of the byte (R430). -/
def execBsSeek (a : GReg) (s : State) : Host.Outcome State Fault Refusal :=
  run s 1 do
    let pos ← readG s a
    ensure (bits pos 60 4 == 0) (trap s 0x04 0 (pos >>> 3))
    let r ← refilled s { data := 0, cnt := 0, addr := BitVec.ofNat 64 (bits pos 3 57) }
    needBits r.1 r.2 (bits pos 0 3)
    .ok (setBuf r.1 (r.2.take (bits pos 0 3)).2)

/-- `bs.get` (R226). -/
def execBsGet (d : GReg) (w : BitVec 8) (s : State) : Host.Outcome State Fault Refusal :=
  run s 1 (getBits s d w.toNat false)
/-- `bs.gets` (R226). -/
def execBsGets (d : GReg) (w : BitVec 8) (s : State) : Host.Outcome State Fault Refusal :=
  run s 1 (getBits s d w.toNat true)

/-- `bs.peek` (R226): nothing consumed. -/
def execBsPeek (d : GReg) (w : BitVec 8) (s : State) : Host.Outcome State Fault Refusal :=
  run s 1 do
    destG s d
    let (t, b) ← need s w.toNat
    .ok (setG (setBuf t b) d (BitVec.ofNat 64 (b.take w.toNat).1))

/-- `bs.skip` (R226). -/
def execBsSkip (w : BitVec 8) (s : State) : Host.Outcome State Fault Refusal := run s 1 (skipBits s w.toNat)

/-- `bs.getr` (R226): with width 0 gd becomes 0 and BBUF stays. -/
def execBsGetr (d b : GReg) (s : State) : Host.Outcome State Fault Refusal :=
  run s 1 do
    let w ← readG s b
    if w = 0 then writeG s d 0 else getBits s d (Nat.min w.toNat 64) false

/-- `bs.skipr` (R226): with width 0 no effect. -/
def execBsSkipr (b : GReg) (s : State) : Host.Outcome State Fault Refusal :=
  run s 1 do
    let w ← readG s b
    if w = 0 then .ok s else skipBits s (Nat.min w.toNat 64)

/-- Consecutive 1 bits from bit 0, at most `limit`. -/
def leadingOnes (x : Nat) : Nat → Nat
  | 0 => 0
  | k + 1 => if x % 2 = 1 then leadingOnes (x / 2) k + 1 else 0

/-- `bs.rice` (R226): 65 ones are the escape, and nothing is consumed. -/
def execBsRice (d : GReg) (k : BitVec 4) (s : State) : Host.Outcome State Fault Refusal :=
  run s 1 do
    destG s d
    let r ← refilled s s.fib.bb
    let q := leadingOnes r.2.data.toNat (Nat.min r.2.cnt 65)
    if q = 65 then .ok (setG (setBuf r.1 r.2) d (BitVec.allOnes 64))
    else do
      needBits r.1 r.2 (q + 1 + k.toNat)
      let x := (r.2.take (q + 1)).2.take k.toNat
      .ok (setG (setBuf r.1 x.2) d (BitVec.ofNat 64 (q * 2 ^ k.toNat + x.1)))

/-- `bs.align` (R226): no refill. -/
def execBsAlign (s : State) : Host.Outcome State Fault Refusal :=
  run s 1 (.ok (setBuf s (s.fib.bb.take (s.fib.bb.cnt % 8)).2))

/-- `bs.pos` (R226). -/
def execBsPos (d : GReg) (s : State) : Host.Outcome State Fault Refusal := run s 1 (writeG s d s.fib.bb.pos)

end Sys2Proof.Machine
end

