-- ==== Sys2Proof/WellFormed.lean ====
section
/-! DEFINITION. Which field values and combinations an instruction may hold (R172 steps 4 and 5).

`fieldOk` fails where a field holds a reserved value or an unused field is not zero: subcause 5. `comboOk` fails where the
fields are a forbidden combination: subcause 6. A step that has no encoding passes both. -/

namespace Sys2Proof

/-- A shift names a register amount (aux zero) or an immediate amount (aux[6] = 1, aux[7] and gb zero) (R241). -/
def shiftOk (b : BitVec 3) (x : BitVec 8) : Bool :=
  if bit x 6 then b == 0 && !bit x 7 else x == 0

/-- The index field of a scalar or contiguous access: g0..g7 or none (R157, R188). -/
def ixOk (i : BitVec 4) : Bool := i.toNat ≤ 7 || i.toNat == 15

/-- Size 8 takes no sign extension (R188). -/
def signOk (z : BitVec 2) (e : BitVec 1) : Bool := !(z == 3 && e == 1)

/-- ord 2 exists only for scalar integer accesses (R188). -/
def plainOrd (o : BitVec 2) : Bool := o != 2

/-- Scope codes 8..15 are reserved, and a relaxed access names no scope (R163, R190, R354). -/
def scopeOk (sc : BitVec 4) (o : BitVec 2) : Bool := sc.toNat < 8 && (o != 0 || sc == 0)

/-- Without a spool operand the slot count is zero (R155). -/
def spoolOk (s : BitVec 1) (n : BitVec 4) : Bool := s == 1 || n == 0

/-- Activation operand of a pass (R166). -/
def passOk (a : BitVec 3) (sp : BitVec 1) (sph spn : BitVec 4) : Bool :=
  if sp == 1 then a == 0 else sph == 0 && spn == 0

/-- Place of a stream packet: SRCM = 1 names no vector register, SRCM = 0 no address (R170). -/
def srcOk (a : BitVec 3) (src : BitVec 1) (v : BitVec 4) : Bool := if src == 1 then v == 0 else a == 0

/-- Domain levels 1..4 (R368, R400). -/
def levelOk (l : BitVec 3) : Bool := 1 ≤ l.toNat && l.toNat ≤ 4

/-- No field holds a reserved value and every unused field is zero (R172 step 4, subcause 5) (assumption 16). -/
def Instr.fieldOk (i : Instr) : Bool :=
  match i with
  | .sll _ _ b x | .srl _ _ b x | .sra _ _ b x => shiftOk b x
  | .ld z e _ _ i _ _ | .ldAcq z e _ _ i _ _ | .ldFe z e _ _ i _ _ | .ldNt z e _ _ i _ _ => signOk z e && ixOk i
  | .st _ _ _ i _ _ | .stRel _ _ _ i _ _ | .stFe _ _ _ i _ _ | .stNt _ _ _ i _ _ => ixOk i
  | .ldF _ _ i _ o _ | .stF _ _ i _ o _ => ixOk i && plainOrd o
  | .ldFAdv _ _ _ o => plainOrd o
  | .vld _ _ _ i _ o _ | .vst _ _ _ i _ o _ => ixOk i && plainOrd o
  | .vldF _ _ i _ o _ | .vstF _ _ i _ o _ => ixOk i && plainOrd o
  | .vldGather _ _ _ j _ o _ | .vstScatter _ _ _ j _ o _ => j != 7 && plainOrd o
  | .vldFGather _ _ j _ o _ | .vstFScatter _ _ j _ o _ => j != 7 && plainOrd o
  | .pfL2 _ i _ | .pfMsc _ i _ | .pfL1 _ i _ => ixOk i
  | .ldScoped _ _ _ z e sc o i _ => scopeOk sc o && signOk z e && ixOk i
  | .stScoped _ _ _ _ sc o i _ => scopeOk sc o && ixOk i
  | .amoScoped _ _ _ _ op sc o _ => op.toNat < 0x16 && scopeOk sc o
  | .casScoped _ _ _ _ _ _ sc o _ => scopeOk sc o
  | .barRmt _ _ r s => r == 1 || s == 0
  | .twait t => t != 0
  | .dbarArr _ _ l => levelOk l
  | .dbarWait _ l | .dbarSync _ l => levelOk l
  | .dphase _ l | .dphaseT _ l => levelOk l
  | .fconst _ n => n.toNat < 18
  | .vaddVf _ _ _ s _ _ n | .vsubVf _ _ _ s _ _ n | .vmulVf _ _ _ s _ _ n | .vdivVf _ _ _ s _ _ n
  | .vminVf _ _ _ s _ _ n | .vmaxVf _ _ _ s _ _ n => spoolOk s n
  | .vaddInt _ _ _ s _ _ n _ | .vsubInt _ _ _ s _ _ n _ | .vmulInt _ _ _ s _ _ n _ | .vadds _ _ _ s _ _ n _ => spoolOk s n
  | .vfmaVf _ _ _ s _ _ n | .vfmsVf _ _ _ s _ _ n | .vfnmaVf _ _ _ s _ _ n | .vfnmsVf _ _ _ s _ _ n => spoolOk s n
  | .vmac _ _ _ s _ _ n _ => spoolOk s n
  | .vcmpEqVf _ _ _ s _ _ n | .vcmpLtVf _ _ _ s _ _ n | .vcmpLeVf _ _ _ s _ _ n | .vcmpUnVf _ _ _ s _ _ n => spoolOk s n
  | .vcmpEqInt _ _ _ s _ _ n z | .vcmpLtInt _ _ _ s _ _ n z | .vcmpLtuInt _ _ _ s _ _ n z => spoolOk s n && z != 0
  | .vperm _ _ _ s _ _ n k => spoolOk s n && k.toNat ≤ 4
  | .vslideup _ _ _ _ _ k | .vslidedn _ _ _ _ _ k => k.toNat ≤ 4
  | .vcompress _ _ _ _ k => k.toNat ≤ 4
  | .vcvtVfInt _ _ _ _ _ k => k.toNat ≤ 5
  | .bsGet _ w | .bsGets _ w | .bsPeek _ w => 1 ≤ w.toNat && w.toNat ≤ 64
  | .bsSkip w => 1 ≤ w.toNat && w.toNat ≤ 64
  | .arrMv a _ _ _ _ _ sp sph spn _ => passOk a sp sph spn
  | .arrMm a _ _ _ _ _ sp sph spn _ _ => passOk a sp sph spn
  | .arrDrain a _ _ _ dk dst spn _ =>
    dk.toNat ≤ 4 && (dk.toNat ≤ 1 || dst == 0) && (dk == 1 || spn == 0) && (2 ≤ dk.toNat || a == 0)
  | .plIsect _ _ _ _ _ out osp | .plUnion _ _ _ _ _ out osp => out == 1 || osp == 0
  | .cpPull _ _ _ _ _ esz _ lc _ _ _ _ _ => esz == 0 || bit lc 0 || bit lc 1
  | .cpPush d _ _ _ _ fn _ scs _ _ _ => fn.toNat < 48 && (bit scs 0 || d == 0)
  | .cpGather _ _ _ _ _ _ _ _ ixw _ => ixw.toNat < 2
  | .msgSend d _ b c _ tr rpl npl _ => (npl != 0 || b == 0) && (tr == 1 || c == 0) && (rpl == 1 || d == 0)
  | .strSend a _ lvl _ _ _ _ src v => levelOk lvl && srcOk a src v
  | .strRecv a _ _ _ src v => srcOk a src v
  | _ => true

/-- The Rice parameter of a compress kind: 0..15, 0..7, or 0 (R97); `fn` is 16·KIND + KPAR (R221). -/
def kparOk (fn : BitVec 6) : Bool :=
  match fn.toNat / 16 with
  | 0 => true
  | 1 => fn.toNat % 16 ≤ 7
  | _ => fn.toNat % 16 == 0

/-- The fields form a permitted combination (R172 step 5, subcause 6) (assumption 16). -/
def Instr.comboOk (i : Instr) : Bool :=
  match i with
  | .vldGather z _ _ _ _ _ _ | .vstScatter z _ _ _ _ _ _ => 2 ≤ z.toNat
  | .ldScoped _ _ _ _ _ _ o _ _ => o.toNat ≤ 1
  | .stScoped _ _ _ _ _ o _ _ => o == 0 || o == 2
  | .tritUnpackM d _ b => d != b
  | .arrMm _ _ _ _ acc _ _ _ _ _ nb => acc.toNat + nb.toNat ≤ 15
  | .arrDrain _ _ _ acc dk dst _ ns => acc.toNat + ns.toNat ≤ 15 && (dk != 0 || dst.toNat + ns.toNat ≤ 15)
  | .arrClear n s => s.toNat + n.toNat ≤ 15
  | .cpPull _ _ _ _ fn esz _ lc _ sl fmt tr tc =>
    let dq := bit lc 1
    (dq || sl == 0) && (dq || fmt == 0) && (!dq || fmt.toNat ≤ 2) && (bit lc 0 || (tr == 0 && tc == 0)) &&
      (!dq || esz == 0) && esz.toNat ≤ 3 && (fn != 2 || lc == 0) && (fn != 1 || !dq)
  | .cpPush _ _ _ _ _ fn _ scs _ sl fmt =>
    let red := bit scs 2
    let q := bit scs 1
    let z := bit scs 0
    !(red && (q || z)) && (q || sl == 0) && (q || red || fmt == 0) && (!(q || red) || fmt.toNat ≤ 2) &&
      (if z then kparOk fn else fn == 0)
  | .cpGather _ _ _ _ _ _ _ _ _ rblk => rblk != 0
  | .msgSend _ _ b _ _ _ _ npl _ => npl != 7 && b.toNat + npl.toNat ≤ 8
  | _ => true

/-- A well-formed instruction (assumption 16). -/
def Instr.wf (i : Instr) : Bool := i.fieldOk && i.comboOk

end Sys2Proof
end

