-- ==== Sys2Proof/Decode.lean ====
section
/-! DEFINITION. Instruction words: the formats of R154 and R163 to R170, a total decoder that refuses by subcause in the
order of R172, and after it the encoder, written from the same tables.

The runtime of Lean cannot build the constructors past the 244th of a type, so the definitions that build an instruction are
marked noncomputable: the kernel evaluates them.

`Fmt.unpack` reads the fields of a word and `Fmt.pack` writes them. A decoder of a major opcode refuses an unassigned
function code with subcause 2 and a non-zero unused field with subcause 5. Reserved field values and forbidden
combinations are the checks of WellFormed. -/

namespace Sys2Proof

/-- Fields of format R: register form. -/
structure FmtR where
  major : BitVec 7
  d : BitVec 3
  a : BitVec 3
  b : BitVec 3
  fn : BitVec 8
  x : BitVec 8
  deriving DecidableEq, Repr

/-- The fields that a word holds. -/
def FmtR.unpack (x : BitVec 32) : FmtR where
  major := x.extractLsb' 25 7
  d := x.extractLsb' 22 3
  a := x.extractLsb' 19 3
  b := x.extractLsb' 16 3
  fn := x.extractLsb' 8 8
  x := x.extractLsb' 0 8

/-- The word that holds the fields. -/
def FmtR.pack (f : FmtR) : BitVec 32 :=
  f.major ++ f.d ++ f.a ++ f.b ++ f.fn ++ f.x

/-- Fields of format I: 19-bit immediate. -/
structure FmtI where
  major : BitVec 7
  d : BitVec 3
  a : BitVec 3
  i : BitVec 19
  deriving DecidableEq, Repr

/-- The fields that a word holds. -/
def FmtI.unpack (x : BitVec 32) : FmtI where
  major := x.extractLsb' 25 7
  d := x.extractLsb' 22 3
  a := x.extractLsb' 19 3
  i := x.extractLsb' 0 19

/-- The word that holds the fields. -/
def FmtI.pack (f : FmtI) : BitVec 32 :=
  f.major ++ f.d ++ f.a ++ f.i

/-- Fields of format B: conditional branch. -/
structure FmtB where
  major : BitVec 7
  cc : BitVec 4
  a : BitVec 3
  b : BitVec 3
  o : BitVec 15
  deriving DecidableEq, Repr

/-- The fields that a word holds. -/
def FmtB.unpack (x : BitVec 32) : FmtB where
  major := x.extractLsb' 25 7
  cc := x.extractLsb' 21 4
  a := x.extractLsb' 18 3
  b := x.extractLsb' 15 3
  o := x.extractLsb' 0 15

/-- The word that holds the fields. -/
def FmtB.pack (f : FmtB) : BitVec 32 :=
  f.major ++ f.cc ++ f.a ++ f.b ++ f.o

/-- Fields of format J: jump and link. -/
structure FmtJ where
  major : BitVec 7
  l : BitVec 3
  o : BitVec 22
  deriving DecidableEq, Repr

/-- The fields that a word holds. -/
def FmtJ.unpack (x : BitVec 32) : FmtJ where
  major := x.extractLsb' 25 7
  l := x.extractLsb' 22 3
  o := x.extractLsb' 0 22

/-- The word that holds the fields. -/
def FmtJ.pack (f : FmtJ) : BitVec 32 :=
  f.major ++ f.l ++ f.o

/-- Fields of format F: float, three registers. -/
structure FmtF where
  major : BitVec 7
  d : BitVec 6
  a : BitVec 6
  b : BitVec 6
  fn : BitVec 7
  deriving DecidableEq, Repr

/-- The fields that a word holds. -/
def FmtF.unpack (x : BitVec 32) : FmtF where
  major := x.extractLsb' 25 7
  d := x.extractLsb' 19 6
  a := x.extractLsb' 13 6
  b := x.extractLsb' 7 6
  fn := x.extractLsb' 0 7

/-- The word that holds the fields. -/
def FmtF.pack (f : FmtF) : BitVec 32 :=
  f.major ++ f.d ++ f.a ++ f.b ++ f.fn

/-- Fields of format F4: float, four registers. -/
structure FmtF4 where
  major : BitVec 7
  d : BitVec 6
  a : BitVec 6
  b : BitVec 6
  c : BitVec 6
  n : BitVec 1
  deriving DecidableEq, Repr

/-- The fields that a word holds. -/
def FmtF4.unpack (x : BitVec 32) : FmtF4 where
  major := x.extractLsb' 25 7
  d := x.extractLsb' 19 6
  a := x.extractLsb' 13 6
  b := x.extractLsb' 7 6
  c := x.extractLsb' 1 6
  n := x.extractLsb' 0 1

/-- The word that holds the fields. -/
def FmtF4.pack (f : FmtF4) : BitVec 32 :=
  f.major ++ f.d ++ f.a ++ f.b ++ f.c ++ f.n

/-- Fields of format V: vector. -/
structure FmtV where
  major : BitVec 7
  d : BitVec 4
  a : BitVec 4
  b : BitVec 4
  s : BitVec 1
  w : BitVec 1
  m : BitVec 3
  fn : BitVec 8
  deriving DecidableEq, Repr

/-- The fields that a word holds. -/
def FmtV.unpack (x : BitVec 32) : FmtV where
  major := x.extractLsb' 25 7
  d := x.extractLsb' 21 4
  a := x.extractLsb' 17 4
  b := x.extractLsb' 13 4
  s := x.extractLsb' 12 1
  w := x.extractLsb' 11 1
  m := x.extractLsb' 8 3
  fn := x.extractLsb' 0 8

/-- The word that holds the fields. -/
def FmtV.pack (f : FmtV) : BitVec 32 :=
  f.major ++ f.d ++ f.a ++ f.b ++ f.s ++ f.w ++ f.m ++ f.fn

/-- Fields of format M: memory. -/
structure FmtM where
  major : BitVec 7
  t : BitVec 6
  b : BitVec 3
  i : BitVec 4
  w : BitVec 1
  o : BitVec 2
  m : BitVec 9
  deriving DecidableEq, Repr

/-- The fields that a word holds. -/
def FmtM.unpack (x : BitVec 32) : FmtM where
  major := x.extractLsb' 25 7
  t := x.extractLsb' 19 6
  b := x.extractLsb' 16 3
  i := x.extractLsb' 12 4
  w := x.extractLsb' 11 1
  o := x.extractLsb' 9 2
  m := x.extractLsb' 0 9

/-- The word that holds the fields. -/
def FmtM.pack (f : FmtM) : BitVec 32 :=
  f.major ++ f.t ++ f.b ++ f.i ++ f.w ++ f.o ++ f.m

/-- Fields of format P: repeat. -/
structure FmtP where
  major : BitVec 7
  k : BitVec 4
  n : BitVec 8
  d : BitVec 3
  a : BitVec 3
  b : BitVec 3
  c : BitVec 3
  z : BitVec 1
  deriving DecidableEq, Repr

/-- The fields that a word holds. -/
def FmtP.unpack (x : BitVec 32) : FmtP where
  major := x.extractLsb' 25 7
  k := x.extractLsb' 21 4
  n := x.extractLsb' 13 8
  d := x.extractLsb' 10 3
  a := x.extractLsb' 7 3
  b := x.extractLsb' 4 3
  c := x.extractLsb' 1 3
  z := x.extractLsb' 0 1

/-- The word that holds the fields. -/
def FmtP.pack (f : FmtP) : BitVec 32 :=
  f.major ++ f.k ++ f.n ++ f.d ++ f.a ++ f.b ++ f.c ++ f.z

/-- Fields of format S: system register. -/
structure FmtS where
  major : BitVec 7
  g : BitVec 3
  r : BitVec 12
  fn : BitVec 10
  deriving DecidableEq, Repr

/-- The fields that a word holds. -/
def FmtS.unpack (x : BitVec 32) : FmtS where
  major := x.extractLsb' 25 7
  g := x.extractLsb' 22 3
  r := x.extractLsb' 10 12
  fn := x.extractLsb' 0 10

/-- The word that holds the fields. -/
def FmtS.pack (f : FmtS) : BitVec 32 :=
  f.major ++ f.g ++ f.r ++ f.fn

/-- Fields of format L: base word of a long instruction. -/
structure FmtL where
  major : BitVec 7
  d : BitVec 3
  a : BitVec 3
  b : BitVec 3
  c : BitVec 3
  w : BitVec 1
  fn : BitVec 6
  x : BitVec 6
  deriving DecidableEq, Repr

/-- The fields that a word holds. -/
def FmtL.unpack (x : BitVec 32) : FmtL where
  major := x.extractLsb' 25 7
  d := x.extractLsb' 22 3
  a := x.extractLsb' 19 3
  b := x.extractLsb' 16 3
  c := x.extractLsb' 13 3
  w := x.extractLsb' 12 1
  fn := x.extractLsb' 6 6
  x := x.extractLsb' 0 6

/-- The word that holds the fields. -/
def FmtL.pack (f : FmtL) : BitVec 32 :=
  f.major ++ f.d ++ f.a ++ f.b ++ f.c ++ f.w ++ f.fn ++ f.x

/-- Fields of extension word XO: ordered access (R164). -/
structure FmtXO where
  sc : BitVec 4
  o : BitVec 2
  i : BitVec 4
  m : BitVec 22
  deriving DecidableEq, Repr

/-- The fields that a word holds. -/
def FmtXO.unpack (x : BitVec 32) : FmtXO where
  sc := x.extractLsb' 28 4
  o := x.extractLsb' 26 2
  i := x.extractLsb' 22 4
  m := x.extractLsb' 0 22

/-- The word that holds the fields. -/
def FmtXO.pack (f : FmtXO) : BitVec 32 :=
  f.sc ++ f.o ++ f.i ++ f.m

/-- Fields of extension word XC: copy (R165). -/
structure FmtXC where
  lc : BitVec 3
  scs : BitVec 3
  nt : BitVec 1
  sl : BitVec 2
  fmt : BitVec 3
  tr : BitVec 6
  tc : BitVec 6
  ixw : BitVec 2
  rblk : BitVec 6
  deriving DecidableEq, Repr

/-- The fields that a word holds. -/
def FmtXC.unpack (x : BitVec 32) : FmtXC where
  lc := x.extractLsb' 29 3
  scs := x.extractLsb' 26 3
  nt := x.extractLsb' 25 1
  sl := x.extractLsb' 23 2
  fmt := x.extractLsb' 20 3
  tr := x.extractLsb' 14 6
  tc := x.extractLsb' 8 6
  ixw := x.extractLsb' 6 2
  rblk := x.extractLsb' 0 6

/-- The word that holds the fields. -/
def FmtXC.pack (f : FmtXC) : BitVec 32 :=
  f.lc ++ f.scs ++ f.nt ++ f.sl ++ f.fmt ++ f.tr ++ f.tc ++ f.ixw ++ f.rblk

/-- Fields of extension word XA: array pass (R166). -/
structure FmtXA where
  acc : BitVec 4
  gm : BitVec 4
  sp : BitVec 1
  sph : BitVec 4
  spn : BitVec 4
  sl : BitVec 2
  nb : BitVec 4
  z : BitVec 9
  deriving DecidableEq, Repr

/-- The fields that a word holds. -/
def FmtXA.unpack (x : BitVec 32) : FmtXA where
  acc := x.extractLsb' 28 4
  gm := x.extractLsb' 24 4
  sp := x.extractLsb' 23 1
  sph := x.extractLsb' 19 4
  spn := x.extractLsb' 15 4
  sl := x.extractLsb' 13 2
  nb := x.extractLsb' 9 4
  z := x.extractLsb' 0 9

/-- The word that holds the fields. -/
def FmtXA.pack (f : FmtXA) : BitVec 32 :=
  f.acc ++ f.gm ++ f.sp ++ f.sph ++ f.spn ++ f.sl ++ f.nb ++ f.z

/-- Fields of extension word XD: array drain (R167). -/
structure FmtXD where
  acc : BitVec 4
  dk : BitVec 3
  dst : BitVec 4
  spn : BitVec 4
  ns : BitVec 4
  z : BitVec 13
  deriving DecidableEq, Repr

/-- The fields that a word holds. -/
def FmtXD.unpack (x : BitVec 32) : FmtXD where
  acc := x.extractLsb' 28 4
  dk := x.extractLsb' 25 3
  dst := x.extractLsb' 21 4
  spn := x.extractLsb' 17 4
  ns := x.extractLsb' 13 4
  z := x.extractLsb' 0 13

/-- The word that holds the fields. -/
def FmtXD.pack (f : FmtXD) : BitVec 32 :=
  f.acc ++ f.dk ++ f.dst ++ f.spn ++ f.ns ++ f.z

/-- Fields of extension word XP: posting list (R168). -/
structure FmtXP where
  nc : BitVec 3
  out : BitVec 1
  osp : BitVec 4
  inp : BitVec 1
  isp : BitVec 4
  isn : BitVec 4
  z : BitVec 15
  deriving DecidableEq, Repr

/-- The fields that a word holds. -/
def FmtXP.unpack (x : BitVec 32) : FmtXP where
  nc := x.extractLsb' 29 3
  out := x.extractLsb' 28 1
  osp := x.extractLsb' 24 4
  inp := x.extractLsb' 23 1
  isp := x.extractLsb' 19 4
  isn := x.extractLsb' 15 4
  z := x.extractLsb' 0 15

/-- The word that holds the fields. -/
def FmtXP.pack (f : FmtXP) : BitVec 32 :=
  f.nc ++ f.out ++ f.osp ++ f.inp ++ f.isp ++ f.isn ++ f.z

/-- Fields of extension word XM: message (R169). -/
structure FmtXM where
  rpl : BitVec 1
  npl : BitVec 3
  tag : BitVec 8
  z : BitVec 20
  deriving DecidableEq, Repr

/-- The fields that a word holds. -/
def FmtXM.unpack (x : BitVec 32) : FmtXM where
  rpl := x.extractLsb' 31 1
  npl := x.extractLsb' 28 3
  tag := x.extractLsb' 20 8
  z := x.extractLsb' 0 20

/-- The word that holds the fields. -/
def FmtXM.pack (f : FmtXM) : BitVec 32 :=
  f.rpl ++ f.npl ++ f.tag ++ f.z

/-- Fields of extension word XS: stream (R170). -/
structure FmtXS where
  vs : BitVec 6
  fs : BitVec 12
  src : BitVec 1
  v : BitVec 4
  z : BitVec 9
  deriving DecidableEq, Repr

/-- The fields that a word holds. -/
def FmtXS.unpack (x : BitVec 32) : FmtXS where
  vs := x.extractLsb' 26 6
  fs := x.extractLsb' 14 12
  src := x.extractLsb' 13 1
  v := x.extractLsb' 9 4
  z := x.extractLsb' 0 9

/-- The word that holds the fields. -/
def FmtXS.pack (f : FmtXS) : BitVec 32 :=
  f.vs ++ f.fs ++ f.src ++ f.v ++ f.z

/-- What a word decodes to: an instruction, or the subcause of the illegal-instruction trap (R173). -/
abbrev Dec := Except Nat Instr

/-- Subcause 5 unless the unused fields are zero (R154, R172 step 4). -/
def need5 (c : Bool) (r : Dec) : Dec := if c then r else .error 5

/-- Subcause 6 unless the combination is permitted (R172 step 5). -/
def need6 (c : Bool) (r : Dec) : Dec := if c then r else .error 6

/-- The function code of a vector word (R155): fn[3:0] with S = 1, fn with S = 0. -/
def FmtV.code (f : FmtV) : BitVec 8 := if f.s = 1 then (f.fn.extractLsb' 0 4).setWidth 8 else f.fn

/-- The slot count field of a vector word: fn[7:4] with S = 1, else zero (R155). -/
def FmtV.slots (f : FmtV) : BitVec 4 := if f.s = 1 then f.fn.extractLsb' 4 4 else 0

/-- Whether the field holds no register of 4 bits: bit 3 is zero. -/
def lowReg (x : BitVec 4) : Bool := x.extractLsb' 3 1 == 0

/-- The 3-bit register number in a 4-bit field. -/
def reg3 (x : BitVec 4) : BitVec 3 := x.extractLsb' 0 3

/-- Major 0x01. -/
def dec01 (f : FmtR) : Dec :=
  match f.fn.toNat with
  | 0x00 => need5 (f.x == 0) (.ok (.add f.d f.a f.b))
  | 0x01 => need5 (f.x == 0) (.ok (.sub f.d f.a f.b))
  | 0x02 => need5 (f.x == 0) (.ok (.and f.d f.a f.b))
  | 0x03 => need5 (f.x == 0) (.ok (.or f.d f.a f.b))
  | 0x04 => need5 (f.x == 0) (.ok (.xor f.d f.a f.b))
  | 0x05 => need5 (f.x == 0) (.ok (.andn f.d f.a f.b))
  | 0x06 => .ok (.sll f.d f.a f.b f.x)
  | 0x07 => .ok (.srl f.d f.a f.b f.x)
  | 0x08 => .ok (.sra f.d f.a f.b f.x)
  | 0x09 => need5 (f.x == 0) (.ok (.slt f.d f.a f.b))
  | 0x0A => need5 (f.x == 0) (.ok (.sltu f.d f.a f.b))
  | 0x0B => need5 (f.x == 0) (.ok (.min f.d f.a f.b))
  | 0x0C => need5 (f.x == 0) (.ok (.max f.d f.a f.b))
  | 0x0D => need5 (f.x == 0) (.ok (.minu f.d f.a f.b))
  | 0x0E => need5 (f.x == 0) (.ok (.maxu f.d f.a f.b))
  | 0x0F => need5 (f.b == 0 && f.x == 0) (.ok (.mov f.d f.a))
  | _ => .error 2

/-- Major 0x02. -/
def dec02 (f : FmtI) : Dec :=
  .ok (.addi f.d f.a f.i)

/-- Major 0x03. -/
def dec03 (f : FmtI) : Dec :=
  .ok (.andi f.d f.a f.i)

/-- Major 0x04. -/
def dec04 (f : FmtI) : Dec :=
  .ok (.ori f.d f.a f.i)

/-- Major 0x05. -/
def dec05 (f : FmtI) : Dec :=
  .ok (.xori f.d f.a f.i)

/-- Major 0x06. -/
def dec06 (f : FmtI) : Dec :=
  need5 (f.a == 0) (.ok (.ldi f.d f.i))

/-- Major 0x07. -/
def dec07 (f : FmtI) : Dec :=
  need5 (f.a == 0) (.ok (.ldiCat f.d f.i))

/-- Major 0x08. -/
def dec08 (f : FmtR) : Dec :=
  match f.fn.toNat with
  | 0x00 => need5 (f.x.extractLsb' 2 6 == 0) (.ok (.lea f.d f.a f.b (f.x.extractLsb' 0 2)))
  | 0x01 => need5 (f.x == 0) (.ok (.leaF f.d f.a f.b))
  | 0x02 => need5 (f.x == 0) (.ok (.bfExtu f.d f.a f.b))
  | 0x03 => need5 (f.x == 0) (.ok (.bfExts f.d f.a f.b))
  | 0x04 => need5 (f.x == 0) (.ok (.bfIns f.d f.a f.b))
  | 0x05 => need5 (f.b == 0 && f.x == 0) (.ok (.popc f.d f.a))
  | 0x06 => need5 (f.b == 0 && f.x == 0) (.ok (.clz f.d f.a))
  | 0x07 => need5 (f.b == 0 && f.x == 0) (.ok (.ctz f.d f.a))
  | _ => .error 2

/-- Major 0x09. -/
def dec09 (f : FmtR) : Dec :=
  match f.fn.toNat with
  | 0x00 => need5 (f.x == 0) (.ok (.mul f.d f.a f.b))
  | 0x01 => need5 (f.x == 0) (.ok (.mulh f.d f.a f.b))
  | 0x02 => need5 (f.x == 0) (.ok (.mulhu f.d f.a f.b))
  | 0x03 => need5 (f.x == 0) (.ok (.div f.d f.a f.b))
  | 0x04 => need5 (f.x == 0) (.ok (.divu f.d f.a f.b))
  | 0x05 => need5 (f.x == 0) (.ok (.rem f.d f.a f.b))
  | 0x06 => need5 (f.x == 0) (.ok (.remu f.d f.a f.b))
  | _ => .error 2

/-- Major 0x10. -/
def dec10 (f : FmtB) : Dec :=
  match f.cc.toNat with
  | 0x00 => .ok (.bEq f.a f.b f.o)
  | 0x01 => .ok (.bNe f.a f.b f.o)
  | 0x02 => .ok (.bLt f.a f.b f.o)
  | 0x03 => .ok (.bGe f.a f.b f.o)
  | 0x04 => .ok (.bLtu f.a f.b f.o)
  | 0x05 => .ok (.bGeu f.a f.b f.o)
  | 0x06 => need5 (f.b == 0) (.ok (.bZ f.a f.o))
  | 0x07 => need5 (f.b == 0) (.ok (.bNz f.a f.o))
  | _ => .error 5

/-- Major 0x11. -/
def dec11 (f : FmtJ) : Dec :=
  .ok (.jal f.l f.o)

/-- Major 0x12. -/
def dec12 (f : FmtR) : Dec :=
  match f.fn.toNat with
  | 0x00 => need5 (f.d == 0 && f.b == 0 && f.x == 0) (.ok (.jr f.a))
  | 0x01 => need5 (f.b == 0 && f.x == 0) (.ok (.jalr f.d f.a))
  | 0x02 => need5 (f.d == 0 && f.b == 0 && f.x == 0) (.ok (.ret f.a))
  | _ => .error 2

/-- Major 0x13. -/
def dec13 (f : FmtP) : Dec :=
  need5 (f.z == 0) (.ok (.rpt f.k f.n f.d f.a f.b f.c))

/-- Major 0x18. -/
def dec18 (f : FmtR) : Dec :=
  match f.fn.toNat with
  | 0x00 => need5 (f.x == 0) (.ok (.spawn f.d f.a f.b))
  | 0x01 => need5 (f.d == 0 && f.a == 0 && f.b == 0 && f.x == 0) (.ok .exit)
  | 0x02 => need5 (f.d == 0 && f.a == 0 && f.b == 0 && f.x == 0) (.ok .yield)
  | 0x03 => need5 (f.d == 0 && f.b == 0 && f.x == 0) (.ok (.sleep f.a))
  | _ => .error 2

/-- Major 0x19. -/
def dec19 (f : FmtR) : Dec :=
  match f.fn.toNat with
  | 0x00 => need5 (f.d == 0 && f.a == 0 && f.b == 0 && f.x == 0) (.ok .evret)
  | 0x01 => need5 (f.d == 0 && f.a == 0 && f.b == 0 && f.x.extractLsb' 4 4 == 0) (.ok (.evEn (f.x.extractLsb' 0 4)))
  | 0x02 => need5 (f.d == 0 && f.a == 0 && f.b == 0 && f.x.extractLsb' 4 4 == 0) (.ok (.evDis (f.x.extractLsb' 0 4)))
  | 0x03 => need5 (f.d == 0 && f.a == 0 && f.b == 0 && f.x == 0) (.ok .evWait)
  | _ => .error 2

/-- Major 0x1A. -/
def dec1A (f : FmtR) : Dec :=
  match f.fn.toNat with
  | 0x00 => need5 (f.d == 0 && f.a == 0 && f.b == 0 && f.x == 0) (.ok .rgnBegin)
  | 0x01 => need5 (f.d == 0 && f.a == 0 && f.b == 0 && f.x == 0) (.ok .rgnEnd)
  | _ => .error 2

/-- Major 0x1B. -/
def dec1B (f : FmtR) : Dec :=
  match f.fn.toNat with
  | 0x00 => need5 (f.a == 0 && f.b == 0 && f.x == 0) (.ok (.topoGrid f.d))
  | 0x01 => need5 (f.a == 0 && f.b == 0 && f.x == 0) (.ok (.topoSelf f.d))
  | 0x02 => need5 (f.b == 0 && f.x == 0) (.ok (.topoCore f.d f.a))
  | 0x03 => need5 (f.b == 0 && f.x == 0) (.ok (.topoDom f.d f.a))
  | 0x04 => need5 (f.b == 0 && f.x == 0) (.ok (.topoState f.d f.a))
  | 0x05 => need5 (f.a == 0 && f.b == 0 && f.x == 0) (.ok (.topoLaunch f.d))
  | _ => .error 2

/-- Major 0x1C. -/
def dec1C (f : FmtR) : Dec :=
  match f.fn.toNat with
  | 0x00 => need5 (f.x == 0) (.ok (.launch f.d f.a f.b))
  | 0x01 => need5 (f.b == 0 && f.x == 0) (.ok (.lchStat f.d f.a))
  | 0x02 => need5 (f.d == 0 && f.a == 0 && f.b == 0 && f.x == 0) (.ok .ckpt)
  | 0x03 => need5 (f.d == 0 && f.x == 0) (.ok (.lqSet f.a f.b))
  | 0x04 => need5 (f.d == 0 && f.b == 0 && f.x == 0) (.ok (.lchAbort f.a))
  | 0x05 => need5 (f.d == 0 && f.b == 0 && f.x == 0) (.ok (.lchResume f.a))
  | _ => .error 2

/-- Major 0x20. -/
def dec20 (f : FmtM) : Dec :=
  match f.o.toNat with
  | 0 => .ok (.ld (f.t.extractLsb' 4 2) (f.t.extractLsb' 3 1) (f.t.extractLsb' 0 3) f.b f.i f.w f.m)
  | 1 => .ok (.ldAcq (f.t.extractLsb' 4 2) (f.t.extractLsb' 3 1) (f.t.extractLsb' 0 3) f.b f.i f.w f.m)
  | 2 => .ok (.ldFe (f.t.extractLsb' 4 2) (f.t.extractLsb' 3 1) (f.t.extractLsb' 0 3) f.b f.i f.w f.m)
  | _ => .ok (.ldNt (f.t.extractLsb' 4 2) (f.t.extractLsb' 3 1) (f.t.extractLsb' 0 3) f.b f.i f.w f.m)

/-- Major 0x21. -/
def dec21 (f : FmtM) : Dec :=
  match f.o.toNat with
  | 0 => need5 (f.t.extractLsb' 3 1 == 0) (.ok (.st (f.t.extractLsb' 4 2) (f.t.extractLsb' 0 3) f.b f.i f.w f.m))
  | 1 => need5 (f.t.extractLsb' 3 1 == 0) (.ok (.stRel (f.t.extractLsb' 4 2) (f.t.extractLsb' 0 3) f.b f.i f.w f.m))
  | 2 => need5 (f.t.extractLsb' 3 1 == 0) (.ok (.stFe (f.t.extractLsb' 4 2) (f.t.extractLsb' 0 3) f.b f.i f.w f.m))
  | _ => need5 (f.t.extractLsb' 3 1 == 0) (.ok (.stNt (f.t.extractLsb' 4 2) (f.t.extractLsb' 0 3) f.b f.i f.w f.m))

/-- Major 0x22. -/
def dec22 (f : FmtM) : Dec :=
  .ok (.ldF f.t f.b f.i f.w f.o f.m)

/-- Major 0x23. -/
def dec23 (f : FmtM) : Dec :=
  .ok (.stF f.t f.b f.i f.w f.o f.m)

/-- Major 0x24. -/
def dec24 (f : FmtM) : Dec :=
  need5 (f.i == 15 && f.m == 0) (.ok (.ldFAdv f.t f.b f.w f.o))

/-- Major 0x25. -/
def dec25 (f : FmtM) : Dec :=
  if 8 ≤ f.i.toNat ∧ f.i.toNat ≤ 14 then .ok (.vldGather (f.t.extractLsb' 4 2) (f.t.extractLsb' 0 4) f.b (f.i.extractLsb' 0 3) f.w f.o f.m)
  else .ok (.vld (f.t.extractLsb' 4 2) (f.t.extractLsb' 0 4) f.b f.i f.w f.o f.m)

/-- Major 0x26. -/
def dec26 (f : FmtM) : Dec :=
  if 8 ≤ f.i.toNat ∧ f.i.toNat ≤ 14 then .ok (.vstScatter (f.t.extractLsb' 4 2) (f.t.extractLsb' 0 4) f.b (f.i.extractLsb' 0 3) f.w f.o f.m)
  else .ok (.vst (f.t.extractLsb' 4 2) (f.t.extractLsb' 0 4) f.b f.i f.w f.o f.m)

/-- Major 0x27. -/
def dec27 (f : FmtM) : Dec :=
  if 8 ≤ f.i.toNat ∧ f.i.toNat ≤ 14 then need5 (f.t.extractLsb' 4 2 == 0) (.ok (.vldFGather (f.t.extractLsb' 0 4) f.b (f.i.extractLsb' 0 3) f.w f.o f.m))
  else need5 (f.t.extractLsb' 4 2 == 0) (.ok (.vldF (f.t.extractLsb' 0 4) f.b f.i f.w f.o f.m))

/-- Major 0x28. -/
def dec28 (f : FmtM) : Dec :=
  if 8 ≤ f.i.toNat ∧ f.i.toNat ≤ 14 then need5 (f.t.extractLsb' 4 2 == 0) (.ok (.vstFScatter (f.t.extractLsb' 0 4) f.b (f.i.extractLsb' 0 3) f.w f.o f.m))
  else need5 (f.t.extractLsb' 4 2 == 0) (.ok (.vstF (f.t.extractLsb' 0 4) f.b f.i f.w f.o f.m))

/-- Major 0x29. -/
def dec29 (f : FmtR) : Dec :=
  match f.fn.toNat with
  | 0x00 => need5 (f.b == 0 && f.x == 0) (.ok (.ldFeTake f.d f.a))
  | 0x01 => need5 (f.d == 0 && f.b == 0 && f.x == 0) (.ok (.feClr f.a))
  | 0x02 => need5 (f.d == 0 && f.b == 0 && f.x == 0) (.ok (.feSet f.a))
  | 0x03 => need5 (f.b == 0 && f.x == 0) (.ok (.feTest f.d f.a))
  | 0x10 => need5 (f.a == 0 && f.b == 0 && f.x == 0) (.ok (.gEmpty f.d))
  | _ => .error 2

/-- Major 0x2A. -/
def dec2A (f : FmtM) : Dec :=
  match f.t.toNat with
  | 0 => need5 (f.w == 0 && f.o == 0) (.ok (.pfL2 f.b f.i f.m))
  | 1 => need5 (f.w == 0 && f.o == 0) (.ok (.pfMsc f.b f.i f.m))
  | 2 => need5 (f.w == 0 && f.o == 0) (.ok (.pfL1 f.b f.i f.m))
  | _ => .error 5

/-- Major 0x30. -/
def dec30 (f : FmtR) : Dec :=
  match f.fn.toNat with
  | 0x00 => need5 (f.x == 0) (.ok (.amoAdd f.d f.a f.b 0))
  | 0x01 => need5 (f.x == 0) (.ok (.amoAdd f.d f.a f.b 1))
  | 0x02 => need5 (f.x == 0) (.ok (.amoAnd f.d f.a f.b 0))
  | 0x03 => need5 (f.x == 0) (.ok (.amoAnd f.d f.a f.b 1))
  | 0x04 => need5 (f.x == 0) (.ok (.amoOr f.d f.a f.b 0))
  | 0x05 => need5 (f.x == 0) (.ok (.amoOr f.d f.a f.b 1))
  | 0x06 => need5 (f.x == 0) (.ok (.amoXor f.d f.a f.b 0))
  | 0x07 => need5 (f.x == 0) (.ok (.amoXor f.d f.a f.b 1))
  | 0x08 => need5 (f.x == 0) (.ok (.amoMin f.d f.a f.b 0))
  | 0x09 => need5 (f.x == 0) (.ok (.amoMin f.d f.a f.b 1))
  | 0x0A => need5 (f.x == 0) (.ok (.amoMax f.d f.a f.b 0))
  | 0x0B => need5 (f.x == 0) (.ok (.amoMax f.d f.a f.b 1))
  | 0x0C => need5 (f.x == 0) (.ok (.amoMinu f.d f.a f.b 0))
  | 0x0D => need5 (f.x == 0) (.ok (.amoMinu f.d f.a f.b 1))
  | 0x0E => need5 (f.x == 0) (.ok (.amoMaxu f.d f.a f.b 0))
  | 0x0F => need5 (f.x == 0) (.ok (.amoMaxu f.d f.a f.b 1))
  | 0x10 => need5 (f.x == 0) (.ok (.amoSwap f.d f.a f.b 0))
  | 0x11 => need5 (f.x == 0) (.ok (.amoSwap f.d f.a f.b 1))
  | 0x12 => need5 (f.x == 0) (.ok (.amoInc f.d f.a f.b 0))
  | 0x13 => need5 (f.x == 0) (.ok (.amoInc f.d f.a f.b 1))
  | 0x14 => need5 (f.x == 0) (.ok (.amoDec f.d f.a f.b 0))
  | 0x15 => need5 (f.x == 0) (.ok (.amoDec f.d f.a f.b 1))
  | _ => .error 2

/-- Major 0x31. -/
def dec31 (f : FmtR) : Dec :=
  match f.fn.toNat with
  | 0x00 => need5 (f.x.extractLsb' 3 5 == 0) (.ok (.cas f.d f.a f.b 0 (f.x.extractLsb' 0 3)))
  | 0x01 => need5 (f.x.extractLsb' 3 5 == 0) (.ok (.cas f.d f.a f.b 1 (f.x.extractLsb' 0 3)))
  | _ => .error 2

/-- Major 0x32. -/
def dec32 (f : FmtR) : Dec :=
  match f.fn.toNat with
  | 0x00 => need5 (f.d == 0 && f.x == 0) (.ok (.updAdd f.a f.b 0))
  | 0x01 => need5 (f.d == 0 && f.x == 0) (.ok (.updAdd f.a f.b 1))
  | 0x02 => need5 (f.d == 0 && f.x == 0) (.ok (.updAnd f.a f.b 0))
  | 0x03 => need5 (f.d == 0 && f.x == 0) (.ok (.updAnd f.a f.b 1))
  | 0x04 => need5 (f.d == 0 && f.x == 0) (.ok (.updOr f.a f.b 0))
  | 0x05 => need5 (f.d == 0 && f.x == 0) (.ok (.updOr f.a f.b 1))
  | 0x06 => need5 (f.d == 0 && f.x == 0) (.ok (.updXor f.a f.b 0))
  | 0x07 => need5 (f.d == 0 && f.x == 0) (.ok (.updXor f.a f.b 1))
  | 0x08 => need5 (f.d == 0 && f.x == 0) (.ok (.updMin f.a f.b 0))
  | 0x09 => need5 (f.d == 0 && f.x == 0) (.ok (.updMin f.a f.b 1))
  | 0x0A => need5 (f.d == 0 && f.x == 0) (.ok (.updMax f.a f.b 0))
  | 0x0B => need5 (f.d == 0 && f.x == 0) (.ok (.updMax f.a f.b 1))
  | 0x0C => need5 (f.d == 0 && f.x == 0) (.ok (.updMinu f.a f.b 0))
  | 0x0D => need5 (f.d == 0 && f.x == 0) (.ok (.updMinu f.a f.b 1))
  | 0x0E => need5 (f.d == 0 && f.x == 0) (.ok (.updMaxu f.a f.b 0))
  | 0x0F => need5 (f.d == 0 && f.x == 0) (.ok (.updMaxu f.a f.b 1))
  | _ => .error 2

/-- Major 0x33. -/
def dec33 (f : FmtR) : Dec :=
  match f.fn.toNat with
  | 0x00 => need5 (f.d == 0 && f.b == 0 && f.x == 0) (.ok (.migrate f.a))
  | 0x01 => need5 (f.d == 0 && f.a == 0 && f.b == 0 && f.x == 0) (.ok .migrateRet)
  | _ => .error 2

/-- Major 0x38. -/
def dec38 (f : FmtR) : Dec :=
  match f.fn.toNat with
  | 0x00 => need5 (f.b == 0 && f.x.extractLsb' 5 3 == 0) (.ok (.barArr f.d f.a (f.x.extractLsb' 0 5)))
  | 0x01 => need5 (f.b == 0 && f.x.extractLsb' 5 3 == 0) (.ok (.barArrRlx f.d f.a (f.x.extractLsb' 0 5)))
  | 0x02 => need5 (f.d == 0 && f.b == 0 && f.x.extractLsb' 5 3 == 0) (.ok (.barWait f.a (f.x.extractLsb' 0 5)))
  | 0x03 => need5 (f.d == 0 && f.b == 0 && f.x.extractLsb' 5 3 == 0) (.ok (.barSync f.a (f.x.extractLsb' 0 5)))
  | 0x04 => need5 (f.d == 0 && f.x.extractLsb' 4 4 == 0) (.ok (.barRmt f.a f.b (f.x.extractLsb' 3 1) (f.x.extractLsb' 0 3)))
  | _ => .error 2

/-- Major 0x39. -/
def dec39 (f : FmtR) : Dec :=
  match f.fn.toNat with
  | 0x00 => need5 (f.d == 0 && f.b == 0 && f.x.extractLsb' 6 2 == 0) (.ok (.semPost f.a (f.x.extractLsb' 0 6)))
  | 0x01 => need5 (f.d == 0 && f.b == 0 && f.x.extractLsb' 6 2 == 0) (.ok (.semWait f.a (f.x.extractLsb' 0 6)))
  | 0x02 => need5 (f.b == 0 && f.x.extractLsb' 6 2 == 0) (.ok (.semTry f.d f.a (f.x.extractLsb' 0 6)))
  | 0x03 => need5 (f.a == 0 && f.b == 0 && f.x.extractLsb' 6 2 == 0) (.ok (.semRd f.d (f.x.extractLsb' 0 6)))
  | _ => .error 2

/-- Major 0x3A. -/
def dec3A (f : FmtR) : Dec :=
  match f.fn.toNat with
  | 0x00 => need5 (f.d == 0 && f.a == 0 && f.b == 0 && f.x.extractLsb' 3 5 == 0) (.ok (.fence (f.x.extractLsb' 0 3)))
  | 0x01 => need5 (f.d == 0 && f.a == 0 && f.b == 0 && f.x.extractLsb' 3 5 == 0) (.ok (.fenceAcq (f.x.extractLsb' 0 3)))
  | 0x02 => need5 (f.d == 0 && f.a == 0 && f.b == 0 && f.x.extractLsb' 3 5 == 0) (.ok (.fenceRel (f.x.extractLsb' 0 3)))
  | _ => .error 2

/-- Major 0x3B. -/
def dec3B (f : FmtR) : Dec :=
  match f.fn.toNat with
  | 0x00 => need5 (f.d == 0 && f.a == 0 && f.b == 0) (.ok (.twait f.x))
  | _ => .error 2

/-- Major 0x3C. -/
def dec3C (f : FmtR) : Dec :=
  match f.fn.toNat with
  | 0x00 => need5 (f.b == 0 && f.x.extractLsb' 3 5 == 0) (.ok (.dbarArr f.d f.a (f.x.extractLsb' 0 3)))
  | 0x01 => need5 (f.d == 0 && f.b == 0 && f.x.extractLsb' 3 5 == 0) (.ok (.dbarWait f.a (f.x.extractLsb' 0 3)))
  | 0x02 => need5 (f.d == 0 && f.b == 0 && f.x.extractLsb' 3 5 == 0) (.ok (.dbarSync f.a (f.x.extractLsb' 0 3)))
  | 0x04 => need5 (f.a == 0 && f.b == 0 && f.x.extractLsb' 3 5 == 0) (.ok (.dphase f.d (f.x.extractLsb' 0 3)))
  | 0x05 => need5 (f.a == 0 && f.b == 0 && f.x.extractLsb' 3 5 == 0) (.ok (.dphaseT f.d (f.x.extractLsb' 0 3)))
  | _ => .error 2

/-- Major 0x40. -/
def dec40 (f : FmtF) : Dec :=
  match f.fn.toNat with
  | 0x00 => .ok (.fadd f.d f.a f.b)
  | 0x01 => .ok (.fsub f.d f.a f.b)
  | 0x02 => .ok (.fmul f.d f.a f.b)
  | 0x03 => .ok (.fdiv f.d f.a f.b)
  | 0x04 => need5 (f.b == 0) (.ok (.fsqrt f.d f.a))
  | 0x05 => .ok (.fmin f.d f.a f.b)
  | 0x06 => .ok (.fmax f.d f.a f.b)
  | 0x07 => need5 (f.b == 0) (.ok (.frint f.d f.a))
  | 0x08 => need5 (f.b == 0) (.ok (.frintX f.d f.a))
  | _ => .error 2

/-- Major 0x41. -/
def dec41 (f : FmtF4) : Dec :=
  match f.n.toNat with
  | 0x00 => .ok (.fma f.d f.a f.b f.c)
  | 0x01 => .ok (.fnma f.d f.a f.b f.c)
  | _ => .error 2

/-- Major 0x42. -/
def dec42 (f : FmtF4) : Dec :=
  match f.n.toNat with
  | 0x00 => .ok (.fms f.d f.a f.b f.c)
  | 0x01 => .ok (.fnms f.d f.a f.b f.c)
  | _ => .error 2

/-- Major 0x43. -/
def dec43 (f : FmtF) : Dec :=
  match f.fn.toNat with
  | 0x00 => need5 (f.d.extractLsb' 3 3 == 0) (.ok (.feq (f.d.extractLsb' 0 3) f.a f.b))
  | 0x01 => need5 (f.d.extractLsb' 3 3 == 0) (.ok (.flt (f.d.extractLsb' 0 3) f.a f.b))
  | 0x02 => need5 (f.d.extractLsb' 3 3 == 0) (.ok (.fle (f.d.extractLsb' 0 3) f.a f.b))
  | 0x03 => need5 (f.d.extractLsb' 3 3 == 0) (.ok (.fltQ (f.d.extractLsb' 0 3) f.a f.b))
  | 0x04 => need5 (f.d.extractLsb' 3 3 == 0) (.ok (.fleQ (f.d.extractLsb' 0 3) f.a f.b))
  | 0x05 => need5 (f.d.extractLsb' 3 3 == 0) (.ok (.fcmp (f.d.extractLsb' 0 3) f.a f.b))
  | 0x08 => need5 (f.d.extractLsb' 3 3 == 0 && f.b == 0) (.ok (.fclass (f.d.extractLsb' 0 3) f.a))
  | _ => .error 2

/-- Major 0x44. -/
def dec44 (f : FmtR) : Dec :=
  match f.fn.toNat with
  | 0x00 => need5 (f.d == 0 && f.b == 0 && f.x == 0) (.ok (.precSet f.a))
  | 0x01 => need5 (f.d == 0 && f.a == 0 && f.b == 0 && f.x.extractLsb' 7 1 == 0) (.ok (.precP (f.x.extractLsb' 0 7)))
  | 0x02 => need5 (f.d == 0 && f.a == 0 && f.b == 0 && f.x.extractLsb' 3 5 == 0) (.ok (.precRm (f.x.extractLsb' 0 3)))
  | 0x03 => need5 (f.a == 0 && f.b == 0 && f.x == 0) (.ok (.precGet f.d))
  | 0x04 => need5 (f.b == 0 && f.x == 0) (.ok (.precSwap f.d f.a))
  | 0x05 => need5 (f.a == 0 && f.b == 0 && f.x == 0) (.ok (.fflagsRd f.d))
  | 0x06 => need5 (f.d == 0 && f.a == 0 && f.b == 0 && f.x.extractLsb' 5 3 == 0) (.ok (.fflagsClr (f.x.extractLsb' 0 5)))
  | 0x08 => need5 (f.d == 0 && f.a == 0 && f.b == 0 && f.x.extractLsb' 3 5 == 0) (.ok (.fwinSet (f.x.extractLsb' 0 3)))
  | 0x09 => need5 (f.a == 0 && f.b == 0 && f.x == 0) (.ok (.fwinGet f.d))
  | _ => .error 2

/-- Major 0x45. -/
def dec45 (f : FmtF) : Dec :=
  match f.fn.toNat with
  | 0x00 => need5 (f.b == 0) (.ok (.fmov f.d f.a))
  | 0x01 => need5 (f.b == 0) (.ok (.fneg f.d f.a))
  | 0x02 => need5 (f.b == 0) (.ok (.fabs f.d f.a))
  | 0x03 => .ok (.fsgn f.d f.a f.b)
  | 0x04 => .ok (.fsgnn f.d f.a f.b)
  | 0x05 => .ok (.fsgnx f.d f.a f.b)
  | 0x08 => need5 (f.a == 0) (.ok (.fconst f.d f.b))
  | _ => .error 2

/-- Major 0x50. -/
def dec50 (f : FmtV) : Dec :=
  match f.code.toNat with
  | 0x00 => .ok (.vaddVf f.d f.a f.b f.s f.w f.m f.slots)
  | 0x01 => .ok (.vsubVf f.d f.a f.b f.s f.w f.m f.slots)
  | 0x02 => .ok (.vmulVf f.d f.a f.b f.s f.w f.m f.slots)
  | 0x03 => .ok (.vdivVf f.d f.a f.b f.s f.w f.m f.slots)
  | 0x04 => .ok (.vminVf f.d f.a f.b f.s f.w f.m f.slots)
  | 0x05 => .ok (.vmaxVf f.d f.a f.b f.s f.w f.m f.slots)
  | 0x10 => need5 (f.b == 0) (need6 (f.s == 0) (.ok (.vsqrtVf f.d f.a f.w f.m)))
  | 0x11 => need5 (f.b == 0) (need6 (f.s == 0) (.ok (.vnegVf f.d f.a f.w f.m)))
  | 0x12 => need5 (f.b == 0) (need6 (f.s == 0) (.ok (.vabsVf f.d f.a f.w f.m)))
  | 0x13 => need5 (f.b == 0) (need6 (f.s == 0) (.ok (.vrintVf f.d f.a f.w f.m)))
  | _ => .error 2

/-- Major 0x51. -/
def dec51 (f : FmtV) : Dec :=
  match f.code.toNat with
  | 0x00 => .ok (.vaddInt f.d f.a f.b f.s f.w f.m f.slots 0)
  | 0x01 => .ok (.vaddInt f.d f.a f.b f.s f.w f.m f.slots 1)
  | 0x02 => .ok (.vaddInt f.d f.a f.b f.s f.w f.m f.slots 2)
  | 0x03 => .ok (.vaddInt f.d f.a f.b f.s f.w f.m f.slots 3)
  | 0x04 => .ok (.vsubInt f.d f.a f.b f.s f.w f.m f.slots 0)
  | 0x05 => .ok (.vsubInt f.d f.a f.b f.s f.w f.m f.slots 1)
  | 0x06 => .ok (.vsubInt f.d f.a f.b f.s f.w f.m f.slots 2)
  | 0x07 => .ok (.vsubInt f.d f.a f.b f.s f.w f.m f.slots 3)
  | 0x08 => .ok (.vmulInt f.d f.a f.b f.s f.w f.m f.slots 0)
  | 0x09 => .ok (.vmulInt f.d f.a f.b f.s f.w f.m f.slots 1)
  | 0x0A => .ok (.vmulInt f.d f.a f.b f.s f.w f.m f.slots 2)
  | 0x0B => .ok (.vmulInt f.d f.a f.b f.s f.w f.m f.slots 3)
  | 0x0C => .ok (.vadds f.d f.a f.b f.s f.w f.m f.slots 0)
  | 0x0D => .ok (.vadds f.d f.a f.b f.s f.w f.m f.slots 1)
  | 0x0E => .ok (.vadds f.d f.a f.b f.s f.w f.m f.slots 2)
  | 0x0F => .ok (.vadds f.d f.a f.b f.s f.w f.m f.slots 3)
  | 0x10 => need6 (f.s == 0) (.ok (.vaddus f.d f.a f.b f.w f.m 0))
  | 0x11 => need6 (f.s == 0) (.ok (.vaddus f.d f.a f.b f.w f.m 1))
  | 0x12 => need6 (f.s == 0) (.ok (.vaddus f.d f.a f.b f.w f.m 2))
  | 0x13 => need6 (f.s == 0) (.ok (.vaddus f.d f.a f.b f.w f.m 3))
  | 0x14 => need6 (f.s == 0) (.ok (.vsubs f.d f.a f.b f.w f.m 0))
  | 0x15 => need6 (f.s == 0) (.ok (.vsubs f.d f.a f.b f.w f.m 1))
  | 0x16 => need6 (f.s == 0) (.ok (.vsubs f.d f.a f.b f.w f.m 2))
  | 0x17 => need6 (f.s == 0) (.ok (.vsubs f.d f.a f.b f.w f.m 3))
  | 0x18 => need6 (f.s == 0) (.ok (.vsubus f.d f.a f.b f.w f.m 0))
  | 0x19 => need6 (f.s == 0) (.ok (.vsubus f.d f.a f.b f.w f.m 1))
  | 0x1A => need6 (f.s == 0) (.ok (.vsubus f.d f.a f.b f.w f.m 2))
  | 0x1B => need6 (f.s == 0) (.ok (.vsubus f.d f.a f.b f.w f.m 3))
  | 0x1C => need6 (f.s == 0) (.ok (.vand f.d f.a f.b f.w f.m 0))
  | 0x1D => need6 (f.s == 0) (.ok (.vand f.d f.a f.b f.w f.m 1))
  | 0x1E => need6 (f.s == 0) (.ok (.vand f.d f.a f.b f.w f.m 2))
  | 0x1F => need6 (f.s == 0) (.ok (.vand f.d f.a f.b f.w f.m 3))
  | 0x20 => need6 (f.s == 0) (.ok (.vor f.d f.a f.b f.w f.m 0))
  | 0x21 => need6 (f.s == 0) (.ok (.vor f.d f.a f.b f.w f.m 1))
  | 0x22 => need6 (f.s == 0) (.ok (.vor f.d f.a f.b f.w f.m 2))
  | 0x23 => need6 (f.s == 0) (.ok (.vor f.d f.a f.b f.w f.m 3))
  | 0x24 => need6 (f.s == 0) (.ok (.vxor f.d f.a f.b f.w f.m 0))
  | 0x25 => need6 (f.s == 0) (.ok (.vxor f.d f.a f.b f.w f.m 1))
  | 0x26 => need6 (f.s == 0) (.ok (.vxor f.d f.a f.b f.w f.m 2))
  | 0x27 => need6 (f.s == 0) (.ok (.vxor f.d f.a f.b f.w f.m 3))
  | 0x28 => need6 (f.s == 0) (.ok (.vminInt f.d f.a f.b f.w f.m 0))
  | 0x29 => need6 (f.s == 0) (.ok (.vminInt f.d f.a f.b f.w f.m 1))
  | 0x2A => need6 (f.s == 0) (.ok (.vminInt f.d f.a f.b f.w f.m 2))
  | 0x2B => need6 (f.s == 0) (.ok (.vminInt f.d f.a f.b f.w f.m 3))
  | 0x2C => need6 (f.s == 0) (.ok (.vmaxInt f.d f.a f.b f.w f.m 0))
  | 0x2D => need6 (f.s == 0) (.ok (.vmaxInt f.d f.a f.b f.w f.m 1))
  | 0x2E => need6 (f.s == 0) (.ok (.vmaxInt f.d f.a f.b f.w f.m 2))
  | 0x2F => need6 (f.s == 0) (.ok (.vmaxInt f.d f.a f.b f.w f.m 3))
  | 0x30 => need6 (f.s == 0) (.ok (.vminu f.d f.a f.b f.w f.m 0))
  | 0x31 => need6 (f.s == 0) (.ok (.vminu f.d f.a f.b f.w f.m 1))
  | 0x32 => need6 (f.s == 0) (.ok (.vminu f.d f.a f.b f.w f.m 2))
  | 0x33 => need6 (f.s == 0) (.ok (.vminu f.d f.a f.b f.w f.m 3))
  | 0x34 => need6 (f.s == 0) (.ok (.vmaxu f.d f.a f.b f.w f.m 0))
  | 0x35 => need6 (f.s == 0) (.ok (.vmaxu f.d f.a f.b f.w f.m 1))
  | 0x36 => need6 (f.s == 0) (.ok (.vmaxu f.d f.a f.b f.w f.m 2))
  | 0x37 => need6 (f.s == 0) (.ok (.vmaxu f.d f.a f.b f.w f.m 3))
  | 0x38 => need6 (f.s == 0) (.ok (.vsll f.d f.a f.b f.w f.m 0))
  | 0x39 => need6 (f.s == 0) (.ok (.vsll f.d f.a f.b f.w f.m 1))
  | 0x3A => need6 (f.s == 0) (.ok (.vsll f.d f.a f.b f.w f.m 2))
  | 0x3B => need6 (f.s == 0) (.ok (.vsll f.d f.a f.b f.w f.m 3))
  | 0x3C => need6 (f.s == 0) (.ok (.vsrl f.d f.a f.b f.w f.m 0))
  | 0x3D => need6 (f.s == 0) (.ok (.vsrl f.d f.a f.b f.w f.m 1))
  | 0x3E => need6 (f.s == 0) (.ok (.vsrl f.d f.a f.b f.w f.m 2))
  | 0x3F => need6 (f.s == 0) (.ok (.vsrl f.d f.a f.b f.w f.m 3))
  | 0x40 => need6 (f.s == 0) (.ok (.vsra f.d f.a f.b f.w f.m 0))
  | 0x41 => need6 (f.s == 0) (.ok (.vsra f.d f.a f.b f.w f.m 1))
  | 0x42 => need6 (f.s == 0) (.ok (.vsra f.d f.a f.b f.w f.m 2))
  | 0x43 => need6 (f.s == 0) (.ok (.vsra f.d f.a f.b f.w f.m 3))
  | 0x44 => need6 (f.s == 0) (.ok (.vmulh f.d f.a f.b f.w f.m 0))
  | 0x45 => need6 (f.s == 0) (.ok (.vmulh f.d f.a f.b f.w f.m 1))
  | 0x46 => need6 (f.s == 0) (.ok (.vmulh f.d f.a f.b f.w f.m 2))
  | 0x47 => need6 (f.s == 0) (.ok (.vmulh f.d f.a f.b f.w f.m 3))
  | 0x48 => need6 (f.s == 0) (.ok (.vmulhu f.d f.a f.b f.w f.m 0))
  | 0x49 => need6 (f.s == 0) (.ok (.vmulhu f.d f.a f.b f.w f.m 1))
  | 0x4A => need6 (f.s == 0) (.ok (.vmulhu f.d f.a f.b f.w f.m 2))
  | 0x4B => need6 (f.s == 0) (.ok (.vmulhu f.d f.a f.b f.w f.m 3))
  | _ => .error 2

/-- Major 0x52. -/
def dec52 (f : FmtV) : Dec :=
  match f.code.toNat with
  | 0x00 => .ok (.vfmaVf f.d f.a f.b f.s f.w f.m f.slots)
  | 0x01 => .ok (.vfmsVf f.d f.a f.b f.s f.w f.m f.slots)
  | 0x02 => .ok (.vfnmaVf f.d f.a f.b f.s f.w f.m f.slots)
  | 0x03 => .ok (.vfnmsVf f.d f.a f.b f.s f.w f.m f.slots)
  | 0x04 => .ok (.vmac f.d f.a f.b f.s f.w f.m f.slots 0)
  | 0x05 => .ok (.vmac f.d f.a f.b f.s f.w f.m f.slots 1)
  | 0x06 => .ok (.vmac f.d f.a f.b f.s f.w f.m f.slots 2)
  | 0x07 => .ok (.vmac f.d f.a f.b f.s f.w f.m f.slots 3)
  | _ => .error 2

/-- Major 0x53. -/
def dec53 (f : FmtV) : Dec :=
  match f.code.toNat with
  | 0x00 => need5 (lowReg f.d) (.ok (.vcmpEqVf (reg3 f.d) f.a f.b f.s f.w f.m f.slots))
  | 0x01 => need5 (lowReg f.d) (.ok (.vcmpLtVf (reg3 f.d) f.a f.b f.s f.w f.m f.slots))
  | 0x02 => need5 (lowReg f.d) (.ok (.vcmpLeVf (reg3 f.d) f.a f.b f.s f.w f.m f.slots))
  | 0x03 => need5 (lowReg f.d) (.ok (.vcmpUnVf (reg3 f.d) f.a f.b f.s f.w f.m f.slots))
  | 0x04 => need5 (lowReg f.d) (.ok (.vcmpEqInt (reg3 f.d) f.a f.b f.s f.w f.m f.slots 0))
  | 0x05 => need5 (lowReg f.d) (.ok (.vcmpEqInt (reg3 f.d) f.a f.b f.s f.w f.m f.slots 1))
  | 0x06 => need5 (lowReg f.d) (.ok (.vcmpEqInt (reg3 f.d) f.a f.b f.s f.w f.m f.slots 2))
  | 0x07 => need5 (lowReg f.d) (.ok (.vcmpEqInt (reg3 f.d) f.a f.b f.s f.w f.m f.slots 3))
  | 0x08 => need5 (lowReg f.d) (.ok (.vcmpLtInt (reg3 f.d) f.a f.b f.s f.w f.m f.slots 0))
  | 0x09 => need5 (lowReg f.d) (.ok (.vcmpLtInt (reg3 f.d) f.a f.b f.s f.w f.m f.slots 1))
  | 0x0A => need5 (lowReg f.d) (.ok (.vcmpLtInt (reg3 f.d) f.a f.b f.s f.w f.m f.slots 2))
  | 0x0B => need5 (lowReg f.d) (.ok (.vcmpLtInt (reg3 f.d) f.a f.b f.s f.w f.m f.slots 3))
  | 0x0C => need5 (lowReg f.d) (.ok (.vcmpLtuInt (reg3 f.d) f.a f.b f.s f.w f.m f.slots 0))
  | 0x0D => need5 (lowReg f.d) (.ok (.vcmpLtuInt (reg3 f.d) f.a f.b f.s f.w f.m f.slots 1))
  | 0x0E => need5 (lowReg f.d) (.ok (.vcmpLtuInt (reg3 f.d) f.a f.b f.s f.w f.m f.slots 2))
  | 0x0F => need5 (lowReg f.d) (.ok (.vcmpLtuInt (reg3 f.d) f.a f.b f.s f.w f.m f.slots 3))
  | 0x10 => need5 (lowReg f.d && lowReg f.a && lowReg f.b && f.m == 0) (need6 (f.s == 0) (.ok (.mand (reg3 f.d) (reg3 f.a) (reg3 f.b) f.w)))
  | 0x11 => need5 (lowReg f.d && lowReg f.a && lowReg f.b && f.m == 0) (need6 (f.s == 0) (.ok (.mor (reg3 f.d) (reg3 f.a) (reg3 f.b) f.w)))
  | 0x12 => need5 (lowReg f.d && lowReg f.a && lowReg f.b && f.m == 0) (need6 (f.s == 0) (.ok (.mxor (reg3 f.d) (reg3 f.a) (reg3 f.b) f.w)))
  | 0x13 => need5 (lowReg f.d && lowReg f.a && lowReg f.b && f.m == 0) (need6 (f.s == 0) (.ok (.mandn (reg3 f.d) (reg3 f.a) (reg3 f.b) f.w)))
  | 0x14 => need5 (lowReg f.d && lowReg f.a && f.b == 0 && f.m == 0) (need6 (f.s == 0) (.ok (.mnot (reg3 f.d) (reg3 f.a) f.w)))
  | 0x15 => need5 (lowReg f.d && lowReg f.a && f.b == 0 && f.m == 0) (need6 (f.s == 0) (.ok (.mpopc (reg3 f.d) (reg3 f.a) f.w)))
  | 0x16 => need5 (lowReg f.d && lowReg f.a && f.b == 0 && f.m == 0) (need6 (f.s == 0) (.ok (.mfirst (reg3 f.d) (reg3 f.a) f.w)))
  | 0x17 => need5 (lowReg f.d && lowReg f.a && lowReg f.b && f.m == 0) (need6 (f.s == 0) (.ok (.mfromg (reg3 f.d) (reg3 f.a) (reg3 f.b) f.w)))
  | 0x18 => need5 (lowReg f.d && lowReg f.a && f.b.extractLsb' 1 3 == 0 && f.m == 0) (need6 (f.s == 0) (.ok (.mtog (reg3 f.d) (reg3 f.a) (f.b.extractLsb' 0 1) f.w)))
  | _ => .error 2

/-- Major 0x54. -/
noncomputable def dec54 (f : FmtV) : Dec :=
  match f.code.toNat with
  | 0x00 => need5 (f.b == 0) (need6 (f.s == 0) (.ok (.vrsumVf f.d f.a f.w f.m)))
  | 0x01 => need5 (f.b == 0) (need6 (f.s == 0) (.ok (.vrminVf f.d f.a f.w f.m)))
  | 0x02 => need5 (f.b == 0) (need6 (f.s == 0) (.ok (.vrmaxVf f.d f.a f.w f.m)))
  | 0x03 => need5 (f.b == 0) (need6 (f.s == 0) (.ok (.vscanVf f.d f.a f.w f.m)))
  | 0x10 => need5 (f.b == 0) (need6 (f.s == 0) (.ok (.vrsumInt f.d f.a f.w f.m 0)))
  | 0x11 => need5 (f.b == 0) (need6 (f.s == 0) (.ok (.vrsumInt f.d f.a f.w f.m 1)))
  | 0x12 => need5 (f.b == 0) (need6 (f.s == 0) (.ok (.vrsumInt f.d f.a f.w f.m 2)))
  | 0x13 => need5 (f.b == 0) (need6 (f.s == 0) (.ok (.vrsumInt f.d f.a f.w f.m 3)))
  | 0x14 => need5 (f.b == 0) (need6 (f.s == 0) (.ok (.vrminInt f.d f.a f.w f.m 0)))
  | 0x15 => need5 (f.b == 0) (need6 (f.s == 0) (.ok (.vrminInt f.d f.a f.w f.m 1)))
  | 0x16 => need5 (f.b == 0) (need6 (f.s == 0) (.ok (.vrminInt f.d f.a f.w f.m 2)))
  | 0x17 => need5 (f.b == 0) (need6 (f.s == 0) (.ok (.vrminInt f.d f.a f.w f.m 3)))
  | 0x18 => need5 (f.b == 0) (need6 (f.s == 0) (.ok (.vrmaxInt f.d f.a f.w f.m 0)))
  | 0x19 => need5 (f.b == 0) (need6 (f.s == 0) (.ok (.vrmaxInt f.d f.a f.w f.m 1)))
  | 0x1A => need5 (f.b == 0) (need6 (f.s == 0) (.ok (.vrmaxInt f.d f.a f.w f.m 2)))
  | 0x1B => need5 (f.b == 0) (need6 (f.s == 0) (.ok (.vrmaxInt f.d f.a f.w f.m 3)))
  | 0x1C => need5 (f.b == 0) (need6 (f.s == 0) (.ok (.vrminu f.d f.a f.w f.m 0)))
  | 0x1D => need5 (f.b == 0) (need6 (f.s == 0) (.ok (.vrminu f.d f.a f.w f.m 1)))
  | 0x1E => need5 (f.b == 0) (need6 (f.s == 0) (.ok (.vrminu f.d f.a f.w f.m 2)))
  | 0x1F => need5 (f.b == 0) (need6 (f.s == 0) (.ok (.vrminu f.d f.a f.w f.m 3)))
  | 0x20 => need5 (f.b == 0) (need6 (f.s == 0) (.ok (.vrmaxu f.d f.a f.w f.m 0)))
  | 0x21 => need5 (f.b == 0) (need6 (f.s == 0) (.ok (.vrmaxu f.d f.a f.w f.m 1)))
  | 0x22 => need5 (f.b == 0) (need6 (f.s == 0) (.ok (.vrmaxu f.d f.a f.w f.m 2)))
  | 0x23 => need5 (f.b == 0) (need6 (f.s == 0) (.ok (.vrmaxu f.d f.a f.w f.m 3)))
  | 0x24 => need5 (f.b == 0) (need6 (f.s == 0) (.ok (.vrand f.d f.a f.w f.m 0)))
  | 0x25 => need5 (f.b == 0) (need6 (f.s == 0) (.ok (.vrand f.d f.a f.w f.m 1)))
  | 0x26 => need5 (f.b == 0) (need6 (f.s == 0) (.ok (.vrand f.d f.a f.w f.m 2)))
  | 0x27 => need5 (f.b == 0) (need6 (f.s == 0) (.ok (.vrand f.d f.a f.w f.m 3)))
  | 0x28 => need5 (f.b == 0) (need6 (f.s == 0) (.ok (.vror f.d f.a f.w f.m 0)))
  | 0x29 => need5 (f.b == 0) (need6 (f.s == 0) (.ok (.vror f.d f.a f.w f.m 1)))
  | 0x2A => need5 (f.b == 0) (need6 (f.s == 0) (.ok (.vror f.d f.a f.w f.m 2)))
  | 0x2B => need5 (f.b == 0) (need6 (f.s == 0) (.ok (.vror f.d f.a f.w f.m 3)))
  | 0x2C => need5 (f.b == 0) (need6 (f.s == 0) (.ok (.vrxor f.d f.a f.w f.m 0)))
  | 0x2D => need5 (f.b == 0) (need6 (f.s == 0) (.ok (.vrxor f.d f.a f.w f.m 1)))
  | 0x2E => need5 (f.b == 0) (need6 (f.s == 0) (.ok (.vrxor f.d f.a f.w f.m 2)))
  | 0x2F => need5 (f.b == 0) (need6 (f.s == 0) (.ok (.vrxor f.d f.a f.w f.m 3)))
  | 0x30 => need5 (f.b == 0) (need6 (f.s == 0) (.ok (.vscanInt f.d f.a f.w f.m 0)))
  | 0x31 => need5 (f.b == 0) (need6 (f.s == 0) (.ok (.vscanInt f.d f.a f.w f.m 1)))
  | 0x32 => need5 (f.b == 0) (need6 (f.s == 0) (.ok (.vscanInt f.d f.a f.w f.m 2)))
  | 0x33 => need5 (f.b == 0) (need6 (f.s == 0) (.ok (.vscanInt f.d f.a f.w f.m 3)))
  | _ => .error 2

/-- Major 0x55. -/
noncomputable def dec55 (f : FmtV) : Dec :=
  match f.code.toNat with
  | 0x00 => .ok (.vperm f.d f.a f.b f.s f.w f.m f.slots 0)
  | 0x01 => .ok (.vperm f.d f.a f.b f.s f.w f.m f.slots 1)
  | 0x02 => .ok (.vperm f.d f.a f.b f.s f.w f.m f.slots 2)
  | 0x03 => .ok (.vperm f.d f.a f.b f.s f.w f.m f.slots 3)
  | 0x04 => .ok (.vperm f.d f.a f.b f.s f.w f.m f.slots 4)
  | 0x08 => need5 (lowReg f.b) (need6 (f.s == 0) (.ok (.vslideup f.d f.a (reg3 f.b) f.w f.m 0)))
  | 0x09 => need5 (lowReg f.b) (need6 (f.s == 0) (.ok (.vslideup f.d f.a (reg3 f.b) f.w f.m 1)))
  | 0x0A => need5 (lowReg f.b) (need6 (f.s == 0) (.ok (.vslideup f.d f.a (reg3 f.b) f.w f.m 2)))
  | 0x0B => need5 (lowReg f.b) (need6 (f.s == 0) (.ok (.vslideup f.d f.a (reg3 f.b) f.w f.m 3)))
  | 0x0C => need5 (lowReg f.b) (need6 (f.s == 0) (.ok (.vslideup f.d f.a (reg3 f.b) f.w f.m 4)))
  | 0x10 => need5 (lowReg f.b) (need6 (f.s == 0) (.ok (.vslidedn f.d f.a (reg3 f.b) f.w f.m 0)))
  | 0x11 => need5 (lowReg f.b) (need6 (f.s == 0) (.ok (.vslidedn f.d f.a (reg3 f.b) f.w f.m 1)))
  | 0x12 => need5 (lowReg f.b) (need6 (f.s == 0) (.ok (.vslidedn f.d f.a (reg3 f.b) f.w f.m 2)))
  | 0x13 => need5 (lowReg f.b) (need6 (f.s == 0) (.ok (.vslidedn f.d f.a (reg3 f.b) f.w f.m 3)))
  | 0x14 => need5 (lowReg f.b) (need6 (f.s == 0) (.ok (.vslidedn f.d f.a (reg3 f.b) f.w f.m 4)))
  | 0x18 => need5 (lowReg f.a && f.b == 0) (need6 (f.s == 0) (.ok (.vsplatInt f.d (reg3 f.a) f.w f.m 0)))
  | 0x19 => need5 (lowReg f.a && f.b == 0) (need6 (f.s == 0) (.ok (.vsplatInt f.d (reg3 f.a) f.w f.m 1)))
  | 0x1A => need5 (lowReg f.a && f.b == 0) (need6 (f.s == 0) (.ok (.vsplatInt f.d (reg3 f.a) f.w f.m 2)))
  | 0x1B => need5 (lowReg f.a && f.b == 0) (need6 (f.s == 0) (.ok (.vsplatInt f.d (reg3 f.a) f.w f.m 3)))
  | 0x1C => need5 (f.b == 0) (need6 (f.s == 0) (.ok (.vsplatVf f.d f.a f.w f.m)))
  | 0x20 => need5 (lowReg f.d && lowReg f.b && f.m == 0) (need6 (f.s == 0) (.ok (.vextInt (reg3 f.d) f.a (reg3 f.b) f.w 0)))
  | 0x21 => need5 (lowReg f.d && lowReg f.b && f.m == 0) (need6 (f.s == 0) (.ok (.vextInt (reg3 f.d) f.a (reg3 f.b) f.w 1)))
  | 0x22 => need5 (lowReg f.d && lowReg f.b && f.m == 0) (need6 (f.s == 0) (.ok (.vextInt (reg3 f.d) f.a (reg3 f.b) f.w 2)))
  | 0x23 => need5 (lowReg f.d && lowReg f.b && f.m == 0) (need6 (f.s == 0) (.ok (.vextInt (reg3 f.d) f.a (reg3 f.b) f.w 3)))
  | 0x24 => need5 (lowReg f.b && f.m == 0) (need6 (f.s == 0) (.ok (.vextVf f.d f.a (reg3 f.b) f.w)))
  | 0x28 => need5 (lowReg f.a && lowReg f.b) (need6 (f.s == 0) (.ok (.vinsInt f.d (reg3 f.a) (reg3 f.b) f.w f.m 0)))
  | 0x29 => need5 (lowReg f.a && lowReg f.b) (need6 (f.s == 0) (.ok (.vinsInt f.d (reg3 f.a) (reg3 f.b) f.w f.m 1)))
  | 0x2A => need5 (lowReg f.a && lowReg f.b) (need6 (f.s == 0) (.ok (.vinsInt f.d (reg3 f.a) (reg3 f.b) f.w f.m 2)))
  | 0x2B => need5 (lowReg f.a && lowReg f.b) (need6 (f.s == 0) (.ok (.vinsInt f.d (reg3 f.a) (reg3 f.b) f.w f.m 3)))
  | 0x2C => need5 (lowReg f.b) (need6 (f.s == 0) (.ok (.vinsVf f.d f.a (reg3 f.b) f.w f.m)))
  | 0x30 => need5 (f.b == 0) (need6 (f.s == 0) (.ok (.vcompress f.d f.a f.w f.m 0)))
  | 0x31 => need5 (f.b == 0) (need6 (f.s == 0) (.ok (.vcompress f.d f.a f.w f.m 1)))
  | 0x32 => need5 (f.b == 0) (need6 (f.s == 0) (.ok (.vcompress f.d f.a f.w f.m 2)))
  | 0x33 => need5 (f.b == 0) (need6 (f.s == 0) (.ok (.vcompress f.d f.a f.w f.m 3)))
  | 0x34 => need5 (f.b == 0) (need6 (f.s == 0) (.ok (.vcompress f.d f.a f.w f.m 4)))
  | 0x38 => need5 (f.b == 0 && f.m == 0) (need6 (f.s == 0) (.ok (.vmov f.d f.a f.w)))
  | _ => .error 2

/-- Major 0x56. -/
noncomputable def dec56 (f : FmtV) : Dec :=
  match f.code.toNat with
  | 0x00 => need6 (f.s == 0) (.ok (.vcvtVfInt f.d f.a f.b f.w f.m 0))
  | 0x01 => need6 (f.s == 0) (.ok (.vcvtVfInt f.d f.a f.b f.w f.m 1))
  | 0x02 => need6 (f.s == 0) (.ok (.vcvtVfInt f.d f.a f.b f.w f.m 2))
  | 0x03 => need6 (f.s == 0) (.ok (.vcvtVfInt f.d f.a f.b f.w f.m 3))
  | 0x04 => need6 (f.s == 0) (.ok (.vcvtVfInt f.d f.a f.b f.w f.m 4))
  | 0x05 => need6 (f.s == 0) (.ok (.vcvtVfInt f.d f.a f.b f.w f.m 5))
  | 0x08 => need6 (f.s == 0) (.ok (.vcvtIntVf f.d f.a f.b f.w f.m 0))
  | 0x09 => need6 (f.s == 0) (.ok (.vcvtIntVf f.d f.a f.b f.w f.m 1))
  | 0x0A => need6 (f.s == 0) (.ok (.vcvtIntVf f.d f.a f.b f.w f.m 2))
  | 0x0B => need6 (f.s == 0) (.ok (.vcvtIntVf f.d f.a f.b f.w f.m 3))
  | 0x0C => need6 (f.s == 0) (.ok (.vcvtIntVfRtz f.d f.a f.b f.w f.m 0))
  | 0x0D => need6 (f.s == 0) (.ok (.vcvtIntVfRtz f.d f.a f.b f.w f.m 1))
  | 0x0E => need6 (f.s == 0) (.ok (.vcvtIntVfRtz f.d f.a f.b f.w f.m 2))
  | 0x0F => need6 (f.s == 0) (.ok (.vcvtIntVfRtz f.d f.a f.b f.w f.m 3))
  | 0x10 => need6 (f.s == 0) (.ok (.vcvtVfIeee f.d f.a f.b f.w f.m 0))
  | 0x11 => need6 (f.s == 0) (.ok (.vcvtVfIeee f.d f.a f.b f.w f.m 1))
  | 0x12 => need6 (f.s == 0) (.ok (.vcvtVfIeee f.d f.a f.b f.w f.m 2))
  | 0x13 => need6 (f.s == 0) (.ok (.vcvtVfIeee f.d f.a f.b f.w f.m 3))
  | 0x14 => need6 (f.s == 0) (.ok (.vcvtIeeeVf f.d f.a f.b f.w f.m 0))
  | 0x15 => need6 (f.s == 0) (.ok (.vcvtIeeeVf f.d f.a f.b f.w f.m 1))
  | 0x16 => need6 (f.s == 0) (.ok (.vcvtIeeeVf f.d f.a f.b f.w f.m 2))
  | 0x17 => need6 (f.s == 0) (.ok (.vcvtIeeeVf f.d f.a f.b f.w f.m 3))
  | _ => .error 2

/-- Major 0x57. -/
noncomputable def dec57 (f : FmtR) : Dec :=
  match f.fn.toNat with
  | 0x00 => need5 (f.d == 0 && f.a == 0 && f.b == 0) (.ok (.splWait (f.x.extractLsb' 4 4) (f.x.extractLsb' 0 4)))
  | 0x01 => need5 (f.d == 0 && f.a == 0 && f.b == 0) (.ok (.splRel (f.x.extractLsb' 4 4) (f.x.extractLsb' 0 4)))
  | 0x02 => need5 (f.a == 0 && f.b == 0 && f.x.extractLsb' 4 4 == 0) (.ok (.splRd f.d (f.x.extractLsb' 0 4)))
  | 0x03 => need5 (f.a == 0 && f.b == 0) (.ok (.splWr f.d (f.x.extractLsb' 4 4) (f.x.extractLsb' 0 4)))
  | 0x04 => need5 (f.d == 0 && f.a == 0 && f.b == 0) (.ok (.splCommit (f.x.extractLsb' 4 4) (f.x.extractLsb' 0 4)))
  | 0x05 => need5 (f.a == 0 && f.b == 0 && f.x.extractLsb' 4 4 == 0) (.ok (.splFill f.d (f.x.extractLsb' 0 4)))
  | _ => .error 2

/-- Major 0x60. -/
noncomputable def dec60 (f : FmtR) : Dec :=
  match f.fn.toNat with
  | 0x00 => need5 (f.d == 0 && f.b == 0 && f.x.extractLsb' 6 2 == 0) (.ok (.cvtVfInt f.a 0 (f.x.extractLsb' 0 6)))
  | 0x01 => need5 (f.d == 0 && f.b == 0 && f.x.extractLsb' 6 2 == 0) (.ok (.cvtVfInt f.a 1 (f.x.extractLsb' 0 6)))
  | 0x02 => need5 (f.d == 0 && f.b == 0 && f.x.extractLsb' 6 2 == 0) (.ok (.cvtVfInt f.a 2 (f.x.extractLsb' 0 6)))
  | 0x03 => need5 (f.d == 0 && f.b == 0 && f.x.extractLsb' 6 2 == 0) (.ok (.cvtVfInt f.a 3 (f.x.extractLsb' 0 6)))
  | 0x04 => need5 (f.a == 0 && f.b == 0 && f.x.extractLsb' 7 1 == 0) (.ok (.cvtIntVf f.d 0 (f.x.extractLsb' 6 1) (f.x.extractLsb' 0 6)))
  | 0x05 => need5 (f.a == 0 && f.b == 0 && f.x.extractLsb' 7 1 == 0) (.ok (.cvtIntVf f.d 1 (f.x.extractLsb' 6 1) (f.x.extractLsb' 0 6)))
  | 0x06 => need5 (f.a == 0 && f.b == 0 && f.x.extractLsb' 7 1 == 0) (.ok (.cvtIntVf f.d 2 (f.x.extractLsb' 6 1) (f.x.extractLsb' 0 6)))
  | 0x07 => need5 (f.a == 0 && f.b == 0 && f.x.extractLsb' 7 1 == 0) (.ok (.cvtIntVf f.d 3 (f.x.extractLsb' 6 1) (f.x.extractLsb' 0 6)))
  | 0x08 => need5 (f.d == 0 && f.b == 0 && f.x.extractLsb' 6 2 == 0) (.ok (.cvtVfIeee f.a 0 (f.x.extractLsb' 0 6)))
  | 0x09 => need5 (f.d == 0 && f.b == 0 && f.x.extractLsb' 6 2 == 0) (.ok (.cvtVfIeee f.a 1 (f.x.extractLsb' 0 6)))
  | 0x0A => need5 (f.d == 0 && f.b == 0 && f.x.extractLsb' 6 2 == 0) (.ok (.cvtVfIeee f.a 2 (f.x.extractLsb' 0 6)))
  | 0x0B => need5 (f.d == 0 && f.b == 0 && f.x.extractLsb' 6 2 == 0) (.ok (.cvtVfIeee f.a 3 (f.x.extractLsb' 0 6)))
  | 0x0C => need5 (f.a == 0 && f.b == 0 && f.x.extractLsb' 6 2 == 0) (.ok (.cvtIeeeVf f.d 0 (f.x.extractLsb' 0 6)))
  | 0x0D => need5 (f.a == 0 && f.b == 0 && f.x.extractLsb' 6 2 == 0) (.ok (.cvtIeeeVf f.d 1 (f.x.extractLsb' 0 6)))
  | 0x0E => need5 (f.a == 0 && f.b == 0 && f.x.extractLsb' 6 2 == 0) (.ok (.cvtIeeeVf f.d 2 (f.x.extractLsb' 0 6)))
  | 0x0F => need5 (f.a == 0 && f.b == 0 && f.x.extractLsb' 6 2 == 0) (.ok (.cvtIeeeVf f.d 3 (f.x.extractLsb' 0 6)))
  | 0x10 => need5 (f.d == 0 && f.b == 0 && f.x.extractLsb' 6 2 == 0) (.ok (.cvtVfE8m10 f.a (f.x.extractLsb' 0 6)))
  | 0x11 => need5 (f.a == 0 && f.b == 0 && f.x.extractLsb' 6 2 == 0) (.ok (.cvtE8m10Vf f.d (f.x.extractLsb' 0 6)))
  | _ => .error 2

/-- Major 0x61. -/
noncomputable def dec61 (f : FmtR) : Dec :=
  match f.fn.toNat with
  | 0x00 => need5 (f.d == 0 && f.b == 0 && f.x.extractLsb' 2 6 == 0) (.ok (.tblLoad f.a (f.x.extractLsb' 0 2)))
  | 0x01 => need5 (f.d == 0 && f.b == 0 && f.x.extractLsb' 2 6 == 0) (.ok (.tblLoadArr f.a (f.x.extractLsb' 0 2)))
  | 0x02 => need5 (f.b == 0 && f.x.extractLsb' 2 6 == 0) (.ok (.tblRd f.d f.a (f.x.extractLsb' 0 2)))
  | 0x03 => need5 (f.d == 0 && f.a == 0 && f.b == 0 && f.x.extractLsb' 2 6 == 0) (.ok (.tblInv (f.x.extractLsb' 0 2)))
  | _ => .error 2

/-- Major 0x62. -/
noncomputable def dec62 (f : FmtR) : Dec :=
  match f.fn.toNat with
  | 0x00 => need5 (f.x.extractLsb' 2 6 == 0) (.ok (.qntBf16 f.d f.a f.b (f.x.extractLsb' 0 2)))
  | 0x01 => need5 (f.x.extractLsb' 2 6 == 0) (.ok (.qntF32 f.d f.a f.b (f.x.extractLsb' 0 2)))
  | 0x02 => need5 (f.x.extractLsb' 2 6 == 0) (.ok (.qntVf f.d f.a f.b (f.x.extractLsb' 0 2)))
  | 0x08 => need5 (f.a == 0 && f.x.extractLsb' 2 6 == 0) (.ok (.qntFin f.d f.b (f.x.extractLsb' 0 2)))
  | _ => .error 2

/-- Major 0x63. -/
noncomputable def dec63 (f : FmtR) : Dec :=
  match f.fn.toNat with
  | 0x00 => need5 (f.b == 0 && f.x == 0) (.ok (.tritPack f.d f.a))
  | 0x01 => need5 (f.b == 0 && f.x == 0) (.ok (.tritUnpack f.d f.a))
  | 0x02 => need5 (f.x == 0) (.ok (.tritPackM f.d f.a f.b))
  | 0x03 => need5 (f.x == 0) (.ok (.tritUnpackM f.d f.a f.b))
  | _ => .error 2

/-- Major 0x64. -/
noncomputable def dec64 (f : FmtR) : Dec :=
  match f.fn.toNat with
  | 0x00 => need5 (f.d == 0 && f.b == 0 && f.x == 0) (.ok (.bsSeek f.a))
  | 0x01 => need5 (f.a == 0 && f.b == 0) (.ok (.bsGet f.d f.x))
  | 0x02 => need5 (f.a == 0 && f.b == 0) (.ok (.bsGets f.d f.x))
  | 0x03 => need5 (f.a == 0 && f.b == 0) (.ok (.bsPeek f.d f.x))
  | 0x04 => need5 (f.d == 0 && f.a == 0 && f.b == 0) (.ok (.bsSkip f.x))
  | 0x05 => need5 (f.a == 0 && f.x == 0) (.ok (.bsGetr f.d f.b))
  | 0x06 => need5 (f.d == 0 && f.a == 0 && f.x == 0) (.ok (.bsSkipr f.b))
  | 0x07 => need5 (f.a == 0 && f.b == 0 && f.x.extractLsb' 4 4 == 0) (.ok (.bsRice f.d (f.x.extractLsb' 0 4)))
  | 0x08 => need5 (f.d == 0 && f.a == 0 && f.b == 0 && f.x == 0) (.ok .bsAlign)
  | 0x09 => need5 (f.a == 0 && f.b == 0 && f.x == 0) (.ok (.bsPos f.d))
  | _ => .error 2

/-- Major 0x6A. -/
noncomputable def dec6A (f : FmtR) : Dec :=
  match f.fn.toNat with
  | 0x00 => need5 (f.d == 0 && f.b == 0 && f.x.extractLsb' 4 4 == 0) (.ok (.arrAnchor f.a (f.x.extractLsb' 0 4)))
  | 0x01 => need5 (f.d == 0 && f.x.extractLsb' 4 4 == 0) (.ok (.arrAnchorOs f.a f.b (f.x.extractLsb' 0 4)))
  | 0x02 => need5 (f.d == 0 && f.a == 0 && f.b == 0) (.ok (.arrClear (f.x.extractLsb' 4 4) (f.x.extractLsb' 0 4)))
  | 0x03 => need5 (f.d == 0 && f.x.extractLsb' 4 4 == 0) (.ok (.arrClearLd f.a f.b (f.x.extractLsb' 0 4)))
  | 0x04 => need5 (f.a == 0 && f.x.extractLsb' 4 4 == 0) (.ok (.arrStat f.d f.b (f.x.extractLsb' 0 4)))
  | 0x05 => need5 (f.d == 0 && f.x.extractLsb' 4 4 == 0) (.ok (.arrStatRec f.a f.b (f.x.extractLsb' 0 4)))
  | 0x06 => need5 (f.b == 0 && f.x == 0) (.ok (.arrWscaleRd f.d f.a))
  | 0x07 => need5 (f.d == 0 && f.x == 0) (.ok (.arrWscale f.a f.b))
  | _ => .error 2

/-- Major 0x6D. -/
noncomputable def dec6D (f : FmtR) : Dec :=
  match f.fn.toNat with
  | 0x00 => need5 (f.x == 0) (.ok (.plOpen f.d f.a f.b))
  | 0x01 => need5 (f.d == 0 && f.b == 0 && f.x == 0) (.ok (.plClose f.a))
  | 0x02 => need5 (f.b == 0 && f.x == 0) (.ok (.plNext f.d f.a))
  | 0x03 => need5 (f.x == 0) (.ok (.plSkip f.d f.a f.b))
  | 0x04 => need5 (f.b == 0 && f.x == 0) (.ok (.plScore f.d f.a))
  | 0x05 => need5 (f.b == 0 && f.x == 0) (.ok (.plStat f.d f.a))
  | _ => .error 2

/-- Major 0x76. -/
noncomputable def dec76 (f : FmtR) : Dec :=
  match f.fn.toNat with
  | 0x00 => need5 (f.d == 0 && f.x.extractLsb' 6 2 == 0) (.ok (.strBind f.a f.b (f.x.extractLsb' 0 6)))
  | 0x01 => need5 (f.d == 0 && f.a == 0 && f.b == 0 && f.x.extractLsb' 6 2 == 0) (.ok (.strUnbind (f.x.extractLsb' 0 6)))
  | 0x02 => need5 (f.d == 0 && f.a == 0 && f.x.extractLsb' 6 2 == 0) (.ok (.strExp f.b (f.x.extractLsb' 0 6)))
  | 0x03 => need5 (f.d == 0 && f.a == 0 && f.b == 0 && f.x == 0) (.ok .netDrain)
  | 0x04 => need5 (f.d == 0 && f.x == 0) (.ok (.strRoute f.a f.b))
  | 0x05 => need5 (f.b == 0 && f.x == 0) (.ok (.strRdroute f.d f.a))
  | _ => .error 2

/-- Major 0x78. -/
noncomputable def dec78 (f : FmtS) : Dec :=
  match f.fn.toNat with
  | 0x00 => .ok (.srd f.g f.r)
  | 0x01 => .ok (.swr f.g f.r)
  | 0x02 => .ok (.sswp f.g f.r)
  | 0x03 => .ok (.sset f.g f.r)
  | 0x04 => .ok (.sclr f.g f.r)
  | _ => .error 2

/-- Major 0x79. -/
noncomputable def dec79 (f : FmtR) : Dec :=
  match f.fn.toNat with
  | 0x00 => need5 (f.d == 0 && f.b == 0) (.ok (.trap f.a f.x))
  | 0x01 => need5 (f.d == 0 && f.a == 0 && f.b == 0 && f.x == 0) (.ok .tret)
  | 0x02 => need5 (f.d == 0 && f.a == 0 && f.b == 0 && f.x == 0) (.ok .tretRgn)
  | 0x03 => need5 (f.d == 0 && f.a == 0 && f.b == 0 && f.x == 0) (.ok .hallmark)
  | _ => .error 2

/-- Major 0x7A. -/
noncomputable def dec7A (f : FmtR) : Dec :=
  match f.fn.toNat with
  | 0x00 => need5 (f.x.extractLsb' 2 6 == 0) (.ok (.diagStc f.d f.a f.b (f.x.extractLsb' 1 1) (f.x.extractLsb' 0 1)))
  | 0x01 => need5 (f.b == 0 && f.x == 0) (.ok (.diagLdc f.d f.a))
  | 0x02 => need5 (f.b == 0 && f.x == 0) (.ok (.diagLdr f.d f.a))
  | 0x03 => need5 (f.d == 0 && f.b == 0 && f.x == 0) (.ok (.diagPoison f.a))
  | 0x04 => need5 (f.d == 0 && f.b == 0 && f.x == 0) (.ok (.diagFence f.a))
  | 0x05 => need5 (f.b == 0 && f.x == 0) (.ok (.diagHmrd f.d f.a))
  | _ => .error 2

/-- Major 0x7B. -/
noncomputable def dec7B (f : FmtR) : Dec :=
  match f.fn.toNat with
  | 0x30 => need5 (f.d == 0 && f.a == 0 && f.b == 0 && f.x == 0) (.ok .l1Inv)
  | 0x31 => need5 (f.d == 0 && f.a == 0 && f.b == 0 && f.x == 0) (.ok .l1Drain)
  | 0x32 => need5 (f.d == 0 && f.b == 0 && f.x == 0) (.ok (.l2Wb f.a))
  | 0x33 => need5 (f.d == 0 && f.b == 0 && f.x == 0) (.ok (.l2Wbinv f.a))
  | 0x34 => need5 (f.d == 0 && f.b == 0 && f.x == 0) (.ok (.l2Inv f.a))
  | 0x35 => need5 (f.d == 0 && f.b == 0 && f.x == 0) (.ok (.l2WbinvSlice f.a))
  | 0x36 => need5 (f.d == 0 && f.b == 0 && f.x == 0) (.ok (.mscWbinvKey f.a))
  | 0x37 => need5 (f.d == 0 && f.a == 0 && f.b == 0 && f.x == 0) (.ok .cmSync)
  | 0x40 => need5 (f.d == 0 && f.x == 0) (.ok (.tlbInvVa f.a f.b))
  | 0x41 => need5 (f.d == 0 && f.b == 0 && f.x == 0) (.ok (.tlbInvAs f.a))
  | 0x42 => need5 (f.d == 0 && f.a == 0 && f.b == 0 && f.x == 0) (.ok .tlbInvAll)
  | 0x43 => need5 (f.d == 0 && f.a == 0 && f.b == 0 && f.x == 0) (.ok .tlbSync)
  | 0x44 => need5 (f.x == 0) (.ok (.tlbProbe f.d f.a f.b))
  | _ => .error 2

/-- Major 0x2B with XO: integer access with a scope (R164, R190). -/
def dec2B (f : FmtL) (e : FmtXO) : Dec :=
  need5 (f.b == 0 && f.c == 0 && f.x == 0 && f.fn.extractLsb' 0 2 == 0)
    (if f.fn.extractLsb' 5 1 = 0 then
      .ok (.ldScoped f.d f.a f.w (f.fn.extractLsb' 3 2) (f.fn.extractLsb' 2 1) e.sc e.o e.i e.m)
    else need5 (f.fn.extractLsb' 2 1 == 0) (.ok (.stScoped f.d f.a f.w (f.fn.extractLsb' 3 2) e.sc e.o e.i e.m)))

/-- Major 0x34 with XO: fetch-and-op with a scope (R354). -/
def dec34 (f : FmtL) (e : FmtXO) : Dec :=
  if f.fn.toNat < 0x16 then
    need5 (f.c == 0 && f.x == 0 && e.i == 15) (.ok (.amoScoped f.d f.a f.b f.w f.fn e.sc e.o e.m))
  else .error 2

/-- Major 0x35 with XO: compare-and-swap with a scope (R354). -/
def dec35 (f : FmtL) (e : FmtXO) : Dec :=
  if f.fn.toNat < 2 then
    need5 (f.x == 0 && e.i == 15) (.ok (.casScoped f.d f.a f.b f.c f.w (f.fn.extractLsb' 0 1) e.sc e.o e.m))
  else .error 2

/-- Major 0x68 with XA: array passes (R166, R305). -/
noncomputable def dec68 (f : FmtL) (e : FmtXA) : Dec :=
  match f.fn.toNat with
  | 0 => need5 (f.d == 0 && f.x == 0 && e.z == 0 && e.nb == 0)
      (.ok (.arrMv f.a f.b f.c f.w e.acc e.gm e.sp e.sph e.spn e.sl))
  | 1 => need5 (f.d == 0 && f.x == 0 && e.z == 0)
      (.ok (.arrMm f.a f.b f.c f.w e.acc e.gm e.sp e.sph e.spn e.sl e.nb))
  | _ => .error 2

/-- Major 0x69 with XD: drain (R167, R306). -/
noncomputable def dec69 (f : FmtL) (e : FmtXD) : Dec :=
  match f.fn.toNat with
  | 0 => need5 (f.d == 0 && f.b == 0 && f.x == 0 && e.z == 0) (.ok (.arrDrain f.a f.c f.w e.acc e.dk e.dst e.spn e.ns))
  | _ => .error 2

/-- Major 0x6C with XP: multi-cursor posting-list instructions (R168, R324). -/
noncomputable def dec6C (f : FmtL) (e : FmtXP) : Dec :=
  let unused := f.c == 0 && f.x == 0 && e.z == 0 && e.isn == 0
  match f.fn.toNat with
  | 0 => need5 (unused && (e.inp != 0 || e.isp == 0) && (e.out != 0 || e.osp == 0))
      (need6 (e.inp == 0) (.ok (.plIsect f.d f.a f.b f.w e.nc e.out e.osp)))
  | 1 => need5 (unused && (e.inp != 0 || e.isp == 0) && (e.out != 0 || e.osp == 0))
      (need6 (e.inp == 0) (.ok (.plUnion f.d f.a f.b f.w e.nc e.out e.osp)))
  | 2 => need5 (unused && (e.inp != 0 || e.isp == 0) && (e.out != 0 || e.osp == 0))
      (need6 (f.a == 0 && e.nc == 0 && e.out == 1 && e.inp == 1) (.ok (.plFuse f.d f.b f.w e.osp e.isp)))
  | 3 => need5 (unused && (e.inp != 0 || e.isp == 0) && (e.out != 0 || e.osp == 0))
      (need6 (f.a == 0 && e.nc == 0 && e.out == 1 && e.inp == 1) (.ok (.plTopk f.d f.b f.w e.osp e.isp)))
  | _ => .error 2

/-- Major 0x70 with XC: `cp.pull` (R165, R221). ESZ without transpose and without dequantise is an unused field. -/
noncomputable def dec70 (f : FmtL) (e : FmtXC) : Dec :=
  if f.fn.toNat < 4 then
    need5 (f.d == 0 && (f.x.extractLsb' 3 3 == 0 || bit e.lc 0 || bit e.lc 1))
      (need6 (e.scs == 0 && e.ixw == 0 && e.rblk == 0)
        (.ok (.cpPull f.a f.b f.c f.w (f.fn.extractLsb' 0 2) (f.x.extractLsb' 3 3) (f.x.extractLsb' 0 3) e.lc e.nt e.sl
          e.fmt e.tr e.tc)))
  else .error 2

/-- Major 0x71 with XC: `cp.push` (R165, R221). -/
noncomputable def dec71 (f : FmtL) (e : FmtXC) : Dec :=
  if f.fn.toNat < 48 then
    need5 (f.x.extractLsb' 3 3 == 0 && (bit e.scs 0 || f.d == 0))
      (need6 (e.lc == 0 && e.ixw == 0 && e.rblk == 0 && e.tr == 0 && e.tc == 0)
        (.ok (.cpPush f.d f.a f.b f.c f.w f.fn (f.x.extractLsb' 0 3) e.scs e.nt e.sl e.fmt)))
  else .error 2

/-- Major 0x72 with XC: `cp.gather` (R165, R221). -/
noncomputable def dec72 (f : FmtL) (e : FmtXC) : Dec :=
  if f.fn = 0 ∨ f.fn = 3 then
    need5 (f.x.extractLsb' 3 3 == 0 && e.ixw.toNat < 2)
      (need6 (e.lc == 0 && e.scs == 0 && e.sl == 0 && e.fmt == 0 && e.tr == 0 && e.tc == 0)
        (.ok (.cpGather f.d f.a f.b f.c f.w (f.fn.extractLsb' 0 1) (f.x.extractLsb' 0 3) e.nt e.ixw e.rblk)))
  else .error 2

/-- Major 0x74 with XM: messages (R169, R387, R388). -/
noncomputable def dec74 (f : FmtL) (e : FmtXM) : Dec :=
  match f.fn.toNat with
  | 0 => need5 (f.x.extractLsb' 1 5 == 0 && e.z == 0)
      (.ok (.msgSend f.d f.a f.b f.c f.w (f.x.extractLsb' 0 1) e.rpl e.npl e.tag))
  | 1 => need5 (e.tag == 0 && f.d == 0 && f.c == 0 && f.x == 0 && e.z == 0)
      (need6 (e.npl == 1 && e.rpl == 0) (.ok (.msgReply f.a f.b f.w)))
  | _ => .error 2

/-- Major 0x75 with XS: streams (R170, R400, R404). -/
noncomputable def dec75 (f : FmtL) (e : FmtXS) : Dec :=
  match f.fn.toNat with
  | 0 => need5 (f.d == 0 && f.b == 0 && f.c == 0 && e.z == 0 && f.x.extractLsb' 5 1 == 0)
      (.ok (.strSend f.a f.w (f.x.extractLsb' 0 3) (f.x.extractLsb' 3 1) (f.x.extractLsb' 4 1) e.vs e.fs e.src e.v))
  | 1 => need5 (f.d == 0 && f.b == 0 && f.c == 0 && e.z == 0 && f.x == 0)
      (.ok (.strRecv f.a f.w e.vs e.fs e.src e.v))
  | _ => .error 2

/-- Whether a base word of this major is followed by an extension word (R149, R171). -/
def isLong (major : Nat) : Bool :=
  match major with
  | 0x2B | 0x34 | 0x35 | 0x68 | 0x69 | 0x6C | 0x70 | 0x71 | 0x72 | 0x74 | 0x75 => true
  | _ => false

/-- The fields of a base word and extension word as an instruction, before the checks of field values (R171). -/
noncomputable def shape (x e : BitVec 32) : Dec :=
  match (x.extractLsb' 25 7).toNat with
  | 0x01 => dec01 (.unpack x)
  | 0x02 => dec02 (.unpack x)
  | 0x03 => dec03 (.unpack x)
  | 0x04 => dec04 (.unpack x)
  | 0x05 => dec05 (.unpack x)
  | 0x06 => dec06 (.unpack x)
  | 0x07 => dec07 (.unpack x)
  | 0x08 => dec08 (.unpack x)
  | 0x09 => dec09 (.unpack x)
  | 0x10 => dec10 (.unpack x)
  | 0x11 => dec11 (.unpack x)
  | 0x12 => dec12 (.unpack x)
  | 0x13 => dec13 (.unpack x)
  | 0x18 => dec18 (.unpack x)
  | 0x19 => dec19 (.unpack x)
  | 0x1A => dec1A (.unpack x)
  | 0x1B => dec1B (.unpack x)
  | 0x1C => dec1C (.unpack x)
  | 0x20 => dec20 (.unpack x)
  | 0x21 => dec21 (.unpack x)
  | 0x22 => dec22 (.unpack x)
  | 0x23 => dec23 (.unpack x)
  | 0x24 => dec24 (.unpack x)
  | 0x25 => dec25 (.unpack x)
  | 0x26 => dec26 (.unpack x)
  | 0x27 => dec27 (.unpack x)
  | 0x28 => dec28 (.unpack x)
  | 0x29 => dec29 (.unpack x)
  | 0x2A => dec2A (.unpack x)
  | 0x2B => dec2B (.unpack x) (.unpack e)
  | 0x30 => dec30 (.unpack x)
  | 0x31 => dec31 (.unpack x)
  | 0x32 => dec32 (.unpack x)
  | 0x33 => dec33 (.unpack x)
  | 0x34 => dec34 (.unpack x) (.unpack e)
  | 0x35 => dec35 (.unpack x) (.unpack e)
  | 0x38 => dec38 (.unpack x)
  | 0x39 => dec39 (.unpack x)
  | 0x3A => dec3A (.unpack x)
  | 0x3B => dec3B (.unpack x)
  | 0x3C => dec3C (.unpack x)
  | 0x40 => dec40 (.unpack x)
  | 0x41 => dec41 (.unpack x)
  | 0x42 => dec42 (.unpack x)
  | 0x43 => dec43 (.unpack x)
  | 0x44 => dec44 (.unpack x)
  | 0x45 => dec45 (.unpack x)
  | 0x50 => dec50 (.unpack x)
  | 0x51 => dec51 (.unpack x)
  | 0x52 => dec52 (.unpack x)
  | 0x53 => dec53 (.unpack x)
  | 0x54 => dec54 (.unpack x)
  | 0x55 => dec55 (.unpack x)
  | 0x56 => dec56 (.unpack x)
  | 0x57 => dec57 (.unpack x)
  | 0x60 => dec60 (.unpack x)
  | 0x61 => dec61 (.unpack x)
  | 0x62 => dec62 (.unpack x)
  | 0x63 => dec63 (.unpack x)
  | 0x64 => dec64 (.unpack x)
  | 0x68 => dec68 (.unpack x) (.unpack e)
  | 0x69 => dec69 (.unpack x) (.unpack e)
  | 0x6A => dec6A (.unpack x)
  | 0x6C => dec6C (.unpack x) (.unpack e)
  | 0x6D => dec6D (.unpack x)
  | 0x70 => dec70 (.unpack x) (.unpack e)
  | 0x71 => dec71 (.unpack x) (.unpack e)
  | 0x72 => dec72 (.unpack x) (.unpack e)
  | 0x74 => dec74 (.unpack x) (.unpack e)
  | 0x75 => dec75 (.unpack x) (.unpack e)
  | 0x76 => dec76 (.unpack x)
  | 0x78 => dec78 (.unpack x)
  | 0x79 => dec79 (.unpack x)
  | 0x7A => dec7A (.unpack x)
  | 0x7B => dec7B (.unpack x)
  | _ => .error 1

/-- Decoding, steps 1 to 5 of R172: an instruction, or the subcause. The extension word counts only for a long major. -/
noncomputable def decode (x e : BitVec 32) : Dec :=
  if x = 0 then .error 0 else
  match shape x e with
  | .error c => .error c
  | .ok i => if i.fieldOk then (if i.comboOk then .ok i else .error 6) else .error 5

/-- Bytes of an instruction in memory: 8 for a long major, else 4 (R149). -/
def wordBytes (x : BitVec 32) : Nat := if isLong (x.extractLsb' 25 7).toNat then 8 else 4

/-- The instruction whose bits are `w`, bit 0 the least significant bit of the first word; bits at `nbits` and above are 0. -/
noncomputable def decodeTableWord (nbits w : Nat) : Option Instr :=
  let v := w % 2 ^ nbits
  match decode (BitVec.ofNat 32 v) (BitVec.ofNat 32 (v / 2 ^ 32)) with
  | .ok i => some i
  | .error _ => none

/-! ## The encoder -/

/-- Function field of a vector word: the slot count and the low code with S = 1, the code with S = 0 (R155). -/
def vcode (s : BitVec 1) (n : BitVec 4) (code : BitVec 8) : BitVec 8 :=
  if s = 1 then n ++ code.extractLsb' 0 4 else code

/-- The base word and, for a long instruction, the extension word; none for a step that has no encoding. -/
def encode (i : Instr) : Option (BitVec 32 × Option (BitVec 32)) :=
  match i with
  | .add d a b => some (FmtR.pack { major := 1, d := d, a := a, b := b, fn := 0, x := 0 }, none)
  | .sub d a b => some (FmtR.pack { major := 1, d := d, a := a, b := b, fn := 1, x := 0 }, none)
  | .and d a b => some (FmtR.pack { major := 1, d := d, a := a, b := b, fn := 2, x := 0 }, none)
  | .or d a b => some (FmtR.pack { major := 1, d := d, a := a, b := b, fn := 3, x := 0 }, none)
  | .xor d a b => some (FmtR.pack { major := 1, d := d, a := a, b := b, fn := 4, x := 0 }, none)
  | .andn d a b => some (FmtR.pack { major := 1, d := d, a := a, b := b, fn := 5, x := 0 }, none)
  | .sll d a b x => some (FmtR.pack { major := 1, d := d, a := a, b := b, fn := 6, x := x }, none)
  | .srl d a b x => some (FmtR.pack { major := 1, d := d, a := a, b := b, fn := 7, x := x }, none)
  | .sra d a b x => some (FmtR.pack { major := 1, d := d, a := a, b := b, fn := 8, x := x }, none)
  | .slt d a b => some (FmtR.pack { major := 1, d := d, a := a, b := b, fn := 9, x := 0 }, none)
  | .sltu d a b => some (FmtR.pack { major := 1, d := d, a := a, b := b, fn := 10, x := 0 }, none)
  | .min d a b => some (FmtR.pack { major := 1, d := d, a := a, b := b, fn := 11, x := 0 }, none)
  | .max d a b => some (FmtR.pack { major := 1, d := d, a := a, b := b, fn := 12, x := 0 }, none)
  | .minu d a b => some (FmtR.pack { major := 1, d := d, a := a, b := b, fn := 13, x := 0 }, none)
  | .maxu d a b => some (FmtR.pack { major := 1, d := d, a := a, b := b, fn := 14, x := 0 }, none)
  | .mov d a => some (FmtR.pack { major := 1, d := d, a := a, b := 0, fn := 15, x := 0 }, none)
  | .addi d a i => some (FmtI.pack { major := 2, d := d, a := a, i := i }, none)
  | .andi d a i => some (FmtI.pack { major := 3, d := d, a := a, i := i }, none)
  | .ori d a i => some (FmtI.pack { major := 4, d := d, a := a, i := i }, none)
  | .xori d a i => some (FmtI.pack { major := 5, d := d, a := a, i := i }, none)
  | .ldi d i => some (FmtI.pack { major := 6, d := d, a := 0, i := i }, none)
  | .ldiCat d i => some (FmtI.pack { major := 7, d := d, a := 0, i := i }, none)
  | .lea d a b s => some (FmtR.pack { major := 8, d := d, a := a, b := b, fn := 0, x := 0#6 ++ s }, none)
  | .leaF d a b => some (FmtR.pack { major := 8, d := d, a := a, b := b, fn := 1, x := 0 }, none)
  | .bfExtu d a b => some (FmtR.pack { major := 8, d := d, a := a, b := b, fn := 2, x := 0 }, none)
  | .bfExts d a b => some (FmtR.pack { major := 8, d := d, a := a, b := b, fn := 3, x := 0 }, none)
  | .bfIns d a b => some (FmtR.pack { major := 8, d := d, a := a, b := b, fn := 4, x := 0 }, none)
  | .popc d a => some (FmtR.pack { major := 8, d := d, a := a, b := 0, fn := 5, x := 0 }, none)
  | .clz d a => some (FmtR.pack { major := 8, d := d, a := a, b := 0, fn := 6, x := 0 }, none)
  | .ctz d a => some (FmtR.pack { major := 8, d := d, a := a, b := 0, fn := 7, x := 0 }, none)
  | .mul d a b => some (FmtR.pack { major := 9, d := d, a := a, b := b, fn := 0, x := 0 }, none)
  | .mulh d a b => some (FmtR.pack { major := 9, d := d, a := a, b := b, fn := 1, x := 0 }, none)
  | .mulhu d a b => some (FmtR.pack { major := 9, d := d, a := a, b := b, fn := 2, x := 0 }, none)
  | .div d a b => some (FmtR.pack { major := 9, d := d, a := a, b := b, fn := 3, x := 0 }, none)
  | .divu d a b => some (FmtR.pack { major := 9, d := d, a := a, b := b, fn := 4, x := 0 }, none)
  | .rem d a b => some (FmtR.pack { major := 9, d := d, a := a, b := b, fn := 5, x := 0 }, none)
  | .remu d a b => some (FmtR.pack { major := 9, d := d, a := a, b := b, fn := 6, x := 0 }, none)
  | .bEq a b o => some (FmtB.pack { major := 16, cc := 0, a := a, b := b, o := o }, none)
  | .bNe a b o => some (FmtB.pack { major := 16, cc := 1, a := a, b := b, o := o }, none)
  | .bLt a b o => some (FmtB.pack { major := 16, cc := 2, a := a, b := b, o := o }, none)
  | .bGe a b o => some (FmtB.pack { major := 16, cc := 3, a := a, b := b, o := o }, none)
  | .bLtu a b o => some (FmtB.pack { major := 16, cc := 4, a := a, b := b, o := o }, none)
  | .bGeu a b o => some (FmtB.pack { major := 16, cc := 5, a := a, b := b, o := o }, none)
  | .bZ a o => some (FmtB.pack { major := 16, cc := 6, a := a, b := 0, o := o }, none)
  | .bNz a o => some (FmtB.pack { major := 16, cc := 7, a := a, b := 0, o := o }, none)
  | .jal l o => some (FmtJ.pack { major := 17, l := l, o := o }, none)
  | .jr a => some (FmtR.pack { major := 18, d := 0, a := a, b := 0, fn := 0, x := 0 }, none)
  | .jalr d a => some (FmtR.pack { major := 18, d := d, a := a, b := 0, fn := 1, x := 0 }, none)
  | .ret a => some (FmtR.pack { major := 18, d := 0, a := a, b := 0, fn := 2, x := 0 }, none)
  | .rpt k n d a b c => some (FmtP.pack { major := 19, k := k, n := n, d := d, a := a, b := b, c := c, z := 0 }, none)
  | .spawn d a b => some (FmtR.pack { major := 24, d := d, a := a, b := b, fn := 0, x := 0 }, none)
  | .exit => some (FmtR.pack { major := 24, d := 0, a := 0, b := 0, fn := 1, x := 0 }, none)
  | .yield => some (FmtR.pack { major := 24, d := 0, a := 0, b := 0, fn := 2, x := 0 }, none)
  | .sleep a => some (FmtR.pack { major := 24, d := 0, a := a, b := 0, fn := 3, x := 0 }, none)
  | .evret => some (FmtR.pack { major := 25, d := 0, a := 0, b := 0, fn := 0, x := 0 }, none)
  | .evEn m => some (FmtR.pack { major := 25, d := 0, a := 0, b := 0, fn := 1, x := 0#4 ++ m }, none)
  | .evDis m => some (FmtR.pack { major := 25, d := 0, a := 0, b := 0, fn := 2, x := 0#4 ++ m }, none)
  | .evWait => some (FmtR.pack { major := 25, d := 0, a := 0, b := 0, fn := 3, x := 0 }, none)
  | .rgnBegin => some (FmtR.pack { major := 26, d := 0, a := 0, b := 0, fn := 0, x := 0 }, none)
  | .rgnEnd => some (FmtR.pack { major := 26, d := 0, a := 0, b := 0, fn := 1, x := 0 }, none)
  | .topoGrid d => some (FmtR.pack { major := 27, d := d, a := 0, b := 0, fn := 0, x := 0 }, none)
  | .topoSelf d => some (FmtR.pack { major := 27, d := d, a := 0, b := 0, fn := 1, x := 0 }, none)
  | .topoCore d a => some (FmtR.pack { major := 27, d := d, a := a, b := 0, fn := 2, x := 0 }, none)
  | .topoDom d a => some (FmtR.pack { major := 27, d := d, a := a, b := 0, fn := 3, x := 0 }, none)
  | .topoState d a => some (FmtR.pack { major := 27, d := d, a := a, b := 0, fn := 4, x := 0 }, none)
  | .topoLaunch d => some (FmtR.pack { major := 27, d := d, a := 0, b := 0, fn := 5, x := 0 }, none)
  | .launch d a b => some (FmtR.pack { major := 28, d := d, a := a, b := b, fn := 0, x := 0 }, none)
  | .lchStat d a => some (FmtR.pack { major := 28, d := d, a := a, b := 0, fn := 1, x := 0 }, none)
  | .ckpt => some (FmtR.pack { major := 28, d := 0, a := 0, b := 0, fn := 2, x := 0 }, none)
  | .lqSet a b => some (FmtR.pack { major := 28, d := 0, a := a, b := b, fn := 3, x := 0 }, none)
  | .lchAbort a => some (FmtR.pack { major := 28, d := 0, a := a, b := 0, fn := 4, x := 0 }, none)
  | .lchResume a => some (FmtR.pack { major := 28, d := 0, a := a, b := 0, fn := 5, x := 0 }, none)
  | .ld z e d b i w m => some (FmtM.pack { major := 32, t := z ++ e ++ d, b := b, i := i, w := w, o := 0, m := m }, none)
  | .ldAcq z e d b i w m => some (FmtM.pack { major := 32, t := z ++ e ++ d, b := b, i := i, w := w, o := 1, m := m }, none)
  | .ldFe z e d b i w m => some (FmtM.pack { major := 32, t := z ++ e ++ d, b := b, i := i, w := w, o := 2, m := m }, none)
  | .ldNt z e d b i w m => some (FmtM.pack { major := 32, t := z ++ e ++ d, b := b, i := i, w := w, o := 3, m := m }, none)
  | .st z g b i w m => some (FmtM.pack { major := 33, t := z ++ 0#1 ++ g, b := b, i := i, w := w, o := 0, m := m }, none)
  | .stRel z g b i w m => some (FmtM.pack { major := 33, t := z ++ 0#1 ++ g, b := b, i := i, w := w, o := 1, m := m }, none)
  | .stFe z g b i w m => some (FmtM.pack { major := 33, t := z ++ 0#1 ++ g, b := b, i := i, w := w, o := 2, m := m }, none)
  | .stNt z g b i w m => some (FmtM.pack { major := 33, t := z ++ 0#1 ++ g, b := b, i := i, w := w, o := 3, m := m }, none)
  | .ldF f b i w o m => some (FmtM.pack { major := 34, t := f, b := b, i := i, w := w, o := o, m := m }, none)
  | .stF f b i w o m => some (FmtM.pack { major := 35, t := f, b := b, i := i, w := w, o := o, m := m }, none)
  | .ldFAdv f b w o => some (FmtM.pack { major := 36, t := f, b := b, i := 15, w := w, o := o, m := 0 }, none)
  | .vld z v b i w o m => some (FmtM.pack { major := 37, t := z ++ v, b := b, i := i, w := w, o := o, m := m }, none)
  | .vldGather z v b j w o m => some (FmtM.pack { major := 37, t := z ++ v, b := b, i := 1#1 ++ j, w := w, o := o, m := m }, none)
  | .vst z v b i w o m => some (FmtM.pack { major := 38, t := z ++ v, b := b, i := i, w := w, o := o, m := m }, none)
  | .vstScatter z v b j w o m => some (FmtM.pack { major := 38, t := z ++ v, b := b, i := 1#1 ++ j, w := w, o := o, m := m }, none)
  | .vldF v b i w o m => some (FmtM.pack { major := 39, t := 0#2 ++ v, b := b, i := i, w := w, o := o, m := m }, none)
  | .vldFGather v b j w o m => some (FmtM.pack { major := 39, t := 0#2 ++ v, b := b, i := 1#1 ++ j, w := w, o := o, m := m }, none)
  | .vstF v b i w o m => some (FmtM.pack { major := 40, t := 0#2 ++ v, b := b, i := i, w := w, o := o, m := m }, none)
  | .vstFScatter v b j w o m => some (FmtM.pack { major := 40, t := 0#2 ++ v, b := b, i := 1#1 ++ j, w := w, o := o, m := m }, none)
  | .ldFeTake d a => some (FmtR.pack { major := 41, d := d, a := a, b := 0, fn := 0, x := 0 }, none)
  | .feClr a => some (FmtR.pack { major := 41, d := 0, a := a, b := 0, fn := 1, x := 0 }, none)
  | .feSet a => some (FmtR.pack { major := 41, d := 0, a := a, b := 0, fn := 2, x := 0 }, none)
  | .feTest d a => some (FmtR.pack { major := 41, d := d, a := a, b := 0, fn := 3, x := 0 }, none)
  | .gEmpty d => some (FmtR.pack { major := 41, d := d, a := 0, b := 0, fn := 16, x := 0 }, none)
  | .pfL2 b i m => some (FmtM.pack { major := 42, t := 0, b := b, i := i, w := 0, o := 0, m := m }, none)
  | .pfMsc b i m => some (FmtM.pack { major := 42, t := 1, b := b, i := i, w := 0, o := 0, m := m }, none)
  | .pfL1 b i m => some (FmtM.pack { major := 42, t := 2, b := b, i := i, w := 0, o := 0, m := m }, none)
  | .ldScoped d a w z e sc o i m => some (FmtL.pack { major := 0x2B, d := d, a := a, b := 0, c := 0, w := w, fn := 0#1 ++ z ++ e ++ 0#2, x := 0 }, some (FmtXO.pack { sc := sc, o := o, i := i, m := m }))
  | .stScoped g a w z sc o i m => some (FmtL.pack { major := 0x2B, d := g, a := a, b := 0, c := 0, w := w, fn := 1#1 ++ z ++ 0#3, x := 0 }, some (FmtXO.pack { sc := sc, o := o, i := i, m := m }))
  | .amoAdd d a b s => some (FmtR.pack { major := 48, d := d, a := a, b := b, fn := 0#8 + s.setWidth 8, x := 0 }, none)
  | .amoAnd d a b s => some (FmtR.pack { major := 48, d := d, a := a, b := b, fn := 2#8 + s.setWidth 8, x := 0 }, none)
  | .amoOr d a b s => some (FmtR.pack { major := 48, d := d, a := a, b := b, fn := 4#8 + s.setWidth 8, x := 0 }, none)
  | .amoXor d a b s => some (FmtR.pack { major := 48, d := d, a := a, b := b, fn := 6#8 + s.setWidth 8, x := 0 }, none)
  | .amoMin d a b s => some (FmtR.pack { major := 48, d := d, a := a, b := b, fn := 8#8 + s.setWidth 8, x := 0 }, none)
  | .amoMax d a b s => some (FmtR.pack { major := 48, d := d, a := a, b := b, fn := 10#8 + s.setWidth 8, x := 0 }, none)
  | .amoMinu d a b s => some (FmtR.pack { major := 48, d := d, a := a, b := b, fn := 12#8 + s.setWidth 8, x := 0 }, none)
  | .amoMaxu d a b s => some (FmtR.pack { major := 48, d := d, a := a, b := b, fn := 14#8 + s.setWidth 8, x := 0 }, none)
  | .amoSwap d a b s => some (FmtR.pack { major := 48, d := d, a := a, b := b, fn := 16#8 + s.setWidth 8, x := 0 }, none)
  | .amoInc d a b s => some (FmtR.pack { major := 48, d := d, a := a, b := b, fn := 18#8 + s.setWidth 8, x := 0 }, none)
  | .amoDec d a b s => some (FmtR.pack { major := 48, d := d, a := a, b := b, fn := 20#8 + s.setWidth 8, x := 0 }, none)
  | .cas d a b s c => some (FmtR.pack { major := 49, d := d, a := a, b := b, fn := 0#8 + s.setWidth 8, x := 0#5 ++ c }, none)
  | .updAdd a b s => some (FmtR.pack { major := 50, d := 0, a := a, b := b, fn := 0#8 + s.setWidth 8, x := 0 }, none)
  | .updAnd a b s => some (FmtR.pack { major := 50, d := 0, a := a, b := b, fn := 2#8 + s.setWidth 8, x := 0 }, none)
  | .updOr a b s => some (FmtR.pack { major := 50, d := 0, a := a, b := b, fn := 4#8 + s.setWidth 8, x := 0 }, none)
  | .updXor a b s => some (FmtR.pack { major := 50, d := 0, a := a, b := b, fn := 6#8 + s.setWidth 8, x := 0 }, none)
  | .updMin a b s => some (FmtR.pack { major := 50, d := 0, a := a, b := b, fn := 8#8 + s.setWidth 8, x := 0 }, none)
  | .updMax a b s => some (FmtR.pack { major := 50, d := 0, a := a, b := b, fn := 10#8 + s.setWidth 8, x := 0 }, none)
  | .updMinu a b s => some (FmtR.pack { major := 50, d := 0, a := a, b := b, fn := 12#8 + s.setWidth 8, x := 0 }, none)
  | .updMaxu a b s => some (FmtR.pack { major := 50, d := 0, a := a, b := b, fn := 14#8 + s.setWidth 8, x := 0 }, none)
  | .migrate a => some (FmtR.pack { major := 51, d := 0, a := a, b := 0, fn := 0, x := 0 }, none)
  | .migrateRet => some (FmtR.pack { major := 51, d := 0, a := 0, b := 0, fn := 1, x := 0 }, none)
  | .amoScoped d a b w op sc o m => some (FmtL.pack { major := 0x34, d := d, a := a, b := b, c := 0, w := w, fn := op, x := 0 }, some (FmtXO.pack { sc := sc, o := o, i := 15, m := m }))
  | .casScoped d a b c w s sc o m => some (FmtL.pack { major := 0x35, d := d, a := a, b := b, c := c, w := w, fn := 0#5 ++ s, x := 0 }, some (FmtXO.pack { sc := sc, o := o, i := 15, m := m }))
  | .barArr d a n => some (FmtR.pack { major := 56, d := d, a := a, b := 0, fn := 0, x := 0#3 ++ n }, none)
  | .barArrRlx d a n => some (FmtR.pack { major := 56, d := d, a := a, b := 0, fn := 1, x := 0#3 ++ n }, none)
  | .barWait a n => some (FmtR.pack { major := 56, d := 0, a := a, b := 0, fn := 2, x := 0#3 ++ n }, none)
  | .barSync a n => some (FmtR.pack { major := 56, d := 0, a := a, b := 0, fn := 3, x := 0#3 ++ n }, none)
  | .barRmt a b r s => some (FmtR.pack { major := 56, d := 0, a := a, b := b, fn := 4, x := 0#4 ++ r ++ s }, none)
  | .semPost a s => some (FmtR.pack { major := 57, d := 0, a := a, b := 0, fn := 0, x := 0#2 ++ s }, none)
  | .semWait a s => some (FmtR.pack { major := 57, d := 0, a := a, b := 0, fn := 1, x := 0#2 ++ s }, none)
  | .semTry d a s => some (FmtR.pack { major := 57, d := d, a := a, b := 0, fn := 2, x := 0#2 ++ s }, none)
  | .semRd d s => some (FmtR.pack { major := 57, d := d, a := 0, b := 0, fn := 3, x := 0#2 ++ s }, none)
  | .fence s => some (FmtR.pack { major := 58, d := 0, a := 0, b := 0, fn := 0, x := 0#5 ++ s }, none)
  | .fenceAcq s => some (FmtR.pack { major := 58, d := 0, a := 0, b := 0, fn := 1, x := 0#5 ++ s }, none)
  | .fenceRel s => some (FmtR.pack { major := 58, d := 0, a := 0, b := 0, fn := 2, x := 0#5 ++ s }, none)
  | .twait t => some (FmtR.pack { major := 59, d := 0, a := 0, b := 0, fn := 0, x := t }, none)
  | .dbarArr d a l => some (FmtR.pack { major := 60, d := d, a := a, b := 0, fn := 0, x := 0#5 ++ l }, none)
  | .dbarWait a l => some (FmtR.pack { major := 60, d := 0, a := a, b := 0, fn := 1, x := 0#5 ++ l }, none)
  | .dbarSync a l => some (FmtR.pack { major := 60, d := 0, a := a, b := 0, fn := 2, x := 0#5 ++ l }, none)
  | .dphase d l => some (FmtR.pack { major := 60, d := d, a := 0, b := 0, fn := 4, x := 0#5 ++ l }, none)
  | .dphaseT d l => some (FmtR.pack { major := 60, d := d, a := 0, b := 0, fn := 5, x := 0#5 ++ l }, none)
  | .fadd d a b => some (FmtF.pack { major := 64, d := d, a := a, b := b, fn := 0 }, none)
  | .fsub d a b => some (FmtF.pack { major := 64, d := d, a := a, b := b, fn := 1 }, none)
  | .fmul d a b => some (FmtF.pack { major := 64, d := d, a := a, b := b, fn := 2 }, none)
  | .fdiv d a b => some (FmtF.pack { major := 64, d := d, a := a, b := b, fn := 3 }, none)
  | .fsqrt d a => some (FmtF.pack { major := 64, d := d, a := a, b := 0, fn := 4 }, none)
  | .fmin d a b => some (FmtF.pack { major := 64, d := d, a := a, b := b, fn := 5 }, none)
  | .fmax d a b => some (FmtF.pack { major := 64, d := d, a := a, b := b, fn := 6 }, none)
  | .frint d a => some (FmtF.pack { major := 64, d := d, a := a, b := 0, fn := 7 }, none)
  | .frintX d a => some (FmtF.pack { major := 64, d := d, a := a, b := 0, fn := 8 }, none)
  | .fma d a b c => some (FmtF4.pack { major := 65, d := d, a := a, b := b, c := c, n := 0 }, none)
  | .fnma d a b c => some (FmtF4.pack { major := 65, d := d, a := a, b := b, c := c, n := 1 }, none)
  | .fms d a b c => some (FmtF4.pack { major := 66, d := d, a := a, b := b, c := c, n := 0 }, none)
  | .fnms d a b c => some (FmtF4.pack { major := 66, d := d, a := a, b := b, c := c, n := 1 }, none)
  | .feq d a b => some (FmtF.pack { major := 67, d := 0#3 ++ d, a := a, b := b, fn := 0 }, none)
  | .flt d a b => some (FmtF.pack { major := 67, d := 0#3 ++ d, a := a, b := b, fn := 1 }, none)
  | .fle d a b => some (FmtF.pack { major := 67, d := 0#3 ++ d, a := a, b := b, fn := 2 }, none)
  | .fltQ d a b => some (FmtF.pack { major := 67, d := 0#3 ++ d, a := a, b := b, fn := 3 }, none)
  | .fleQ d a b => some (FmtF.pack { major := 67, d := 0#3 ++ d, a := a, b := b, fn := 4 }, none)
  | .fcmp d a b => some (FmtF.pack { major := 67, d := 0#3 ++ d, a := a, b := b, fn := 5 }, none)
  | .fclass d a => some (FmtF.pack { major := 67, d := 0#3 ++ d, a := a, b := 0, fn := 8 }, none)
  | .precSet a => some (FmtR.pack { major := 68, d := 0, a := a, b := 0, fn := 0, x := 0 }, none)
  | .precP n => some (FmtR.pack { major := 68, d := 0, a := 0, b := 0, fn := 1, x := 0#1 ++ n }, none)
  | .precRm m => some (FmtR.pack { major := 68, d := 0, a := 0, b := 0, fn := 2, x := 0#5 ++ m }, none)
  | .precGet d => some (FmtR.pack { major := 68, d := d, a := 0, b := 0, fn := 3, x := 0 }, none)
  | .precSwap d a => some (FmtR.pack { major := 68, d := d, a := a, b := 0, fn := 4, x := 0 }, none)
  | .fflagsRd d => some (FmtR.pack { major := 68, d := d, a := 0, b := 0, fn := 5, x := 0 }, none)
  | .fflagsClr m => some (FmtR.pack { major := 68, d := 0, a := 0, b := 0, fn := 6, x := 0#3 ++ m }, none)
  | .fwinSet s => some (FmtR.pack { major := 68, d := 0, a := 0, b := 0, fn := 8, x := 0#5 ++ s }, none)
  | .fwinGet d => some (FmtR.pack { major := 68, d := d, a := 0, b := 0, fn := 9, x := 0 }, none)
  | .fmov d a => some (FmtF.pack { major := 69, d := d, a := a, b := 0, fn := 0 }, none)
  | .fneg d a => some (FmtF.pack { major := 69, d := d, a := a, b := 0, fn := 1 }, none)
  | .fabs d a => some (FmtF.pack { major := 69, d := d, a := a, b := 0, fn := 2 }, none)
  | .fsgn d a b => some (FmtF.pack { major := 69, d := d, a := a, b := b, fn := 3 }, none)
  | .fsgnn d a b => some (FmtF.pack { major := 69, d := d, a := a, b := b, fn := 4 }, none)
  | .fsgnx d a b => some (FmtF.pack { major := 69, d := d, a := a, b := b, fn := 5 }, none)
  | .fconst d n => some (FmtF.pack { major := 69, d := d, a := 0, b := n, fn := 8 }, none)
  | .vaddVf d a b s w m n => some (FmtV.pack { major := 80, d := d, a := a, b := b, s := s, w := w, m := m, fn := vcode s n (0) }, none)
  | .vsubVf d a b s w m n => some (FmtV.pack { major := 80, d := d, a := a, b := b, s := s, w := w, m := m, fn := vcode s n (1) }, none)
  | .vmulVf d a b s w m n => some (FmtV.pack { major := 80, d := d, a := a, b := b, s := s, w := w, m := m, fn := vcode s n (2) }, none)
  | .vdivVf d a b s w m n => some (FmtV.pack { major := 80, d := d, a := a, b := b, s := s, w := w, m := m, fn := vcode s n (3) }, none)
  | .vminVf d a b s w m n => some (FmtV.pack { major := 80, d := d, a := a, b := b, s := s, w := w, m := m, fn := vcode s n (4) }, none)
  | .vmaxVf d a b s w m n => some (FmtV.pack { major := 80, d := d, a := a, b := b, s := s, w := w, m := m, fn := vcode s n (5) }, none)
  | .vsqrtVf d a w m => some (FmtV.pack { major := 80, d := d, a := a, b := 0, s := 0, w := w, m := m, fn := 16 }, none)
  | .vnegVf d a w m => some (FmtV.pack { major := 80, d := d, a := a, b := 0, s := 0, w := w, m := m, fn := 17 }, none)
  | .vabsVf d a w m => some (FmtV.pack { major := 80, d := d, a := a, b := 0, s := 0, w := w, m := m, fn := 18 }, none)
  | .vrintVf d a w m => some (FmtV.pack { major := 80, d := d, a := a, b := 0, s := 0, w := w, m := m, fn := 19 }, none)
  | .vaddInt d a b s w m n z => some (FmtV.pack { major := 81, d := d, a := a, b := b, s := s, w := w, m := m, fn := vcode s n (0#8 + z.setWidth 8) }, none)
  | .vsubInt d a b s w m n z => some (FmtV.pack { major := 81, d := d, a := a, b := b, s := s, w := w, m := m, fn := vcode s n (4#8 + z.setWidth 8) }, none)
  | .vmulInt d a b s w m n z => some (FmtV.pack { major := 81, d := d, a := a, b := b, s := s, w := w, m := m, fn := vcode s n (8#8 + z.setWidth 8) }, none)
  | .vadds d a b s w m n z => some (FmtV.pack { major := 81, d := d, a := a, b := b, s := s, w := w, m := m, fn := vcode s n (12#8 + z.setWidth 8) }, none)
  | .vaddus d a b w m z => some (FmtV.pack { major := 81, d := d, a := a, b := b, s := 0, w := w, m := m, fn := 16#8 + z.setWidth 8 }, none)
  | .vsubs d a b w m z => some (FmtV.pack { major := 81, d := d, a := a, b := b, s := 0, w := w, m := m, fn := 20#8 + z.setWidth 8 }, none)
  | .vsubus d a b w m z => some (FmtV.pack { major := 81, d := d, a := a, b := b, s := 0, w := w, m := m, fn := 24#8 + z.setWidth 8 }, none)
  | .vand d a b w m z => some (FmtV.pack { major := 81, d := d, a := a, b := b, s := 0, w := w, m := m, fn := 28#8 + z.setWidth 8 }, none)
  | .vor d a b w m z => some (FmtV.pack { major := 81, d := d, a := a, b := b, s := 0, w := w, m := m, fn := 32#8 + z.setWidth 8 }, none)
  | .vxor d a b w m z => some (FmtV.pack { major := 81, d := d, a := a, b := b, s := 0, w := w, m := m, fn := 36#8 + z.setWidth 8 }, none)
  | .vminInt d a b w m z => some (FmtV.pack { major := 81, d := d, a := a, b := b, s := 0, w := w, m := m, fn := 40#8 + z.setWidth 8 }, none)
  | .vmaxInt d a b w m z => some (FmtV.pack { major := 81, d := d, a := a, b := b, s := 0, w := w, m := m, fn := 44#8 + z.setWidth 8 }, none)
  | .vminu d a b w m z => some (FmtV.pack { major := 81, d := d, a := a, b := b, s := 0, w := w, m := m, fn := 48#8 + z.setWidth 8 }, none)
  | .vmaxu d a b w m z => some (FmtV.pack { major := 81, d := d, a := a, b := b, s := 0, w := w, m := m, fn := 52#8 + z.setWidth 8 }, none)
  | .vsll d a b w m z => some (FmtV.pack { major := 81, d := d, a := a, b := b, s := 0, w := w, m := m, fn := 56#8 + z.setWidth 8 }, none)
  | .vsrl d a b w m z => some (FmtV.pack { major := 81, d := d, a := a, b := b, s := 0, w := w, m := m, fn := 60#8 + z.setWidth 8 }, none)
  | .vsra d a b w m z => some (FmtV.pack { major := 81, d := d, a := a, b := b, s := 0, w := w, m := m, fn := 64#8 + z.setWidth 8 }, none)
  | .vmulh d a b w m z => some (FmtV.pack { major := 81, d := d, a := a, b := b, s := 0, w := w, m := m, fn := 68#8 + z.setWidth 8 }, none)
  | .vmulhu d a b w m z => some (FmtV.pack { major := 81, d := d, a := a, b := b, s := 0, w := w, m := m, fn := 72#8 + z.setWidth 8 }, none)
  | .vfmaVf d a b s w m n => some (FmtV.pack { major := 82, d := d, a := a, b := b, s := s, w := w, m := m, fn := vcode s n (0) }, none)
  | .vfmsVf d a b s w m n => some (FmtV.pack { major := 82, d := d, a := a, b := b, s := s, w := w, m := m, fn := vcode s n (1) }, none)
  | .vfnmaVf d a b s w m n => some (FmtV.pack { major := 82, d := d, a := a, b := b, s := s, w := w, m := m, fn := vcode s n (2) }, none)
  | .vfnmsVf d a b s w m n => some (FmtV.pack { major := 82, d := d, a := a, b := b, s := s, w := w, m := m, fn := vcode s n (3) }, none)
  | .vmac d a b s w m n z => some (FmtV.pack { major := 82, d := d, a := a, b := b, s := s, w := w, m := m, fn := vcode s n (4#8 + z.setWidth 8) }, none)
  | .vcmpEqVf d a b s w m n => some (FmtV.pack { major := 83, d := 0#1 ++ d, a := a, b := b, s := s, w := w, m := m, fn := vcode s n (0) }, none)
  | .vcmpLtVf d a b s w m n => some (FmtV.pack { major := 83, d := 0#1 ++ d, a := a, b := b, s := s, w := w, m := m, fn := vcode s n (1) }, none)
  | .vcmpLeVf d a b s w m n => some (FmtV.pack { major := 83, d := 0#1 ++ d, a := a, b := b, s := s, w := w, m := m, fn := vcode s n (2) }, none)
  | .vcmpUnVf d a b s w m n => some (FmtV.pack { major := 83, d := 0#1 ++ d, a := a, b := b, s := s, w := w, m := m, fn := vcode s n (3) }, none)
  | .vcmpEqInt d a b s w m n z => some (FmtV.pack { major := 83, d := 0#1 ++ d, a := a, b := b, s := s, w := w, m := m, fn := vcode s n (4#8 + z.setWidth 8) }, none)
  | .vcmpLtInt d a b s w m n z => some (FmtV.pack { major := 83, d := 0#1 ++ d, a := a, b := b, s := s, w := w, m := m, fn := vcode s n (8#8 + z.setWidth 8) }, none)
  | .vcmpLtuInt d a b s w m n z => some (FmtV.pack { major := 83, d := 0#1 ++ d, a := a, b := b, s := s, w := w, m := m, fn := vcode s n (12#8 + z.setWidth 8) }, none)
  | .mand d a b w => some (FmtV.pack { major := 83, d := 0#1 ++ d, a := 0#1 ++ a, b := 0#1 ++ b, s := 0, w := w, m := 0, fn := 16 }, none)
  | .mor d a b w => some (FmtV.pack { major := 83, d := 0#1 ++ d, a := 0#1 ++ a, b := 0#1 ++ b, s := 0, w := w, m := 0, fn := 17 }, none)
  | .mxor d a b w => some (FmtV.pack { major := 83, d := 0#1 ++ d, a := 0#1 ++ a, b := 0#1 ++ b, s := 0, w := w, m := 0, fn := 18 }, none)
  | .mandn d a b w => some (FmtV.pack { major := 83, d := 0#1 ++ d, a := 0#1 ++ a, b := 0#1 ++ b, s := 0, w := w, m := 0, fn := 19 }, none)
  | .mnot d a w => some (FmtV.pack { major := 83, d := 0#1 ++ d, a := 0#1 ++ a, b := 0, s := 0, w := w, m := 0, fn := 20 }, none)
  | .mpopc d a w => some (FmtV.pack { major := 83, d := 0#1 ++ d, a := 0#1 ++ a, b := 0, s := 0, w := w, m := 0, fn := 21 }, none)
  | .mfirst d a w => some (FmtV.pack { major := 83, d := 0#1 ++ d, a := 0#1 ++ a, b := 0, s := 0, w := w, m := 0, fn := 22 }, none)
  | .mfromg d a b w => some (FmtV.pack { major := 83, d := 0#1 ++ d, a := 0#1 ++ a, b := 0#1 ++ b, s := 0, w := w, m := 0, fn := 23 }, none)
  | .mtog d a h w => some (FmtV.pack { major := 83, d := 0#1 ++ d, a := 0#1 ++ a, b := 0#3 ++ h, s := 0, w := w, m := 0, fn := 24 }, none)
  | .vrsumVf d a w m => some (FmtV.pack { major := 84, d := d, a := a, b := 0, s := 0, w := w, m := m, fn := 0 }, none)
  | .vrminVf d a w m => some (FmtV.pack { major := 84, d := d, a := a, b := 0, s := 0, w := w, m := m, fn := 1 }, none)
  | .vrmaxVf d a w m => some (FmtV.pack { major := 84, d := d, a := a, b := 0, s := 0, w := w, m := m, fn := 2 }, none)
  | .vscanVf d a w m => some (FmtV.pack { major := 84, d := d, a := a, b := 0, s := 0, w := w, m := m, fn := 3 }, none)
  | .vrsumInt d a w m z => some (FmtV.pack { major := 84, d := d, a := a, b := 0, s := 0, w := w, m := m, fn := 16#8 + z.setWidth 8 }, none)
  | .vrminInt d a w m z => some (FmtV.pack { major := 84, d := d, a := a, b := 0, s := 0, w := w, m := m, fn := 20#8 + z.setWidth 8 }, none)
  | .vrmaxInt d a w m z => some (FmtV.pack { major := 84, d := d, a := a, b := 0, s := 0, w := w, m := m, fn := 24#8 + z.setWidth 8 }, none)
  | .vrminu d a w m z => some (FmtV.pack { major := 84, d := d, a := a, b := 0, s := 0, w := w, m := m, fn := 28#8 + z.setWidth 8 }, none)
  | .vrmaxu d a w m z => some (FmtV.pack { major := 84, d := d, a := a, b := 0, s := 0, w := w, m := m, fn := 32#8 + z.setWidth 8 }, none)
  | .vrand d a w m z => some (FmtV.pack { major := 84, d := d, a := a, b := 0, s := 0, w := w, m := m, fn := 36#8 + z.setWidth 8 }, none)
  | .vror d a w m z => some (FmtV.pack { major := 84, d := d, a := a, b := 0, s := 0, w := w, m := m, fn := 40#8 + z.setWidth 8 }, none)
  | .vrxor d a w m z => some (FmtV.pack { major := 84, d := d, a := a, b := 0, s := 0, w := w, m := m, fn := 44#8 + z.setWidth 8 }, none)
  | .vscanInt d a w m z => some (FmtV.pack { major := 84, d := d, a := a, b := 0, s := 0, w := w, m := m, fn := 48#8 + z.setWidth 8 }, none)
  | .vperm d a b s w m n k => some (FmtV.pack { major := 85, d := d, a := a, b := b, s := s, w := w, m := m, fn := vcode s n (0#8 + k.setWidth 8) }, none)
  | .vslideup d a b w m k => some (FmtV.pack { major := 85, d := d, a := a, b := 0#1 ++ b, s := 0, w := w, m := m, fn := 8#8 + k.setWidth 8 }, none)
  | .vslidedn d a b w m k => some (FmtV.pack { major := 85, d := d, a := a, b := 0#1 ++ b, s := 0, w := w, m := m, fn := 16#8 + k.setWidth 8 }, none)
  | .vsplatInt d a w m z => some (FmtV.pack { major := 85, d := d, a := 0#1 ++ a, b := 0, s := 0, w := w, m := m, fn := 24#8 + z.setWidth 8 }, none)
  | .vsplatVf d a w m => some (FmtV.pack { major := 85, d := d, a := a, b := 0, s := 0, w := w, m := m, fn := 28 }, none)
  | .vextInt d a b w z => some (FmtV.pack { major := 85, d := 0#1 ++ d, a := a, b := 0#1 ++ b, s := 0, w := w, m := 0, fn := 32#8 + z.setWidth 8 }, none)
  | .vextVf d a b w => some (FmtV.pack { major := 85, d := d, a := a, b := 0#1 ++ b, s := 0, w := w, m := 0, fn := 36 }, none)
  | .vinsInt d a b w m z => some (FmtV.pack { major := 85, d := d, a := 0#1 ++ a, b := 0#1 ++ b, s := 0, w := w, m := m, fn := 40#8 + z.setWidth 8 }, none)
  | .vinsVf d a b w m => some (FmtV.pack { major := 85, d := d, a := a, b := 0#1 ++ b, s := 0, w := w, m := m, fn := 44 }, none)
  | .vcompress d a w m k => some (FmtV.pack { major := 85, d := d, a := a, b := 0, s := 0, w := w, m := m, fn := 48#8 + k.setWidth 8 }, none)
  | .vmov d a w => some (FmtV.pack { major := 85, d := d, a := a, b := 0, s := 0, w := w, m := 0, fn := 56 }, none)
  | .vcvtVfInt d a h w m k => some (FmtV.pack { major := 86, d := d, a := a, b := h, s := 0, w := w, m := m, fn := 0#8 + k.setWidth 8 }, none)
  | .vcvtIntVf d a h w m k => some (FmtV.pack { major := 86, d := d, a := a, b := h, s := 0, w := w, m := m, fn := 8#8 + k.setWidth 8 }, none)
  | .vcvtIntVfRtz d a h w m k => some (FmtV.pack { major := 86, d := d, a := a, b := h, s := 0, w := w, m := m, fn := 12#8 + k.setWidth 8 }, none)
  | .vcvtVfIeee d a h w m k => some (FmtV.pack { major := 86, d := d, a := a, b := h, s := 0, w := w, m := m, fn := 16#8 + k.setWidth 8 }, none)
  | .vcvtIeeeVf d a h w m k => some (FmtV.pack { major := 86, d := d, a := a, b := h, s := 0, w := w, m := m, fn := 20#8 + k.setWidth 8 }, none)
  | .splWait n h => some (FmtR.pack { major := 87, d := 0, a := 0, b := 0, fn := 0, x := n ++ h }, none)
  | .splRel n h => some (FmtR.pack { major := 87, d := 0, a := 0, b := 0, fn := 1, x := n ++ h }, none)
  | .splRd d h => some (FmtR.pack { major := 87, d := d, a := 0, b := 0, fn := 2, x := 0#4 ++ h }, none)
  | .splWr d n h => some (FmtR.pack { major := 87, d := d, a := 0, b := 0, fn := 3, x := n ++ h }, none)
  | .splCommit n h => some (FmtR.pack { major := 87, d := 0, a := 0, b := 0, fn := 4, x := n ++ h }, none)
  | .splFill d h => some (FmtR.pack { major := 87, d := d, a := 0, b := 0, fn := 5, x := 0#4 ++ h }, none)
  | .cvtVfInt a k f => some (FmtR.pack { major := 96, d := 0, a := a, b := 0, fn := 0#8 + k.setWidth 8, x := 0#2 ++ f }, none)
  | .cvtIntVf d k r f => some (FmtR.pack { major := 96, d := d, a := 0, b := 0, fn := 4#8 + k.setWidth 8, x := 0#1 ++ r ++ f }, none)
  | .cvtVfIeee a k f => some (FmtR.pack { major := 96, d := 0, a := a, b := 0, fn := 8#8 + k.setWidth 8, x := 0#2 ++ f }, none)
  | .cvtIeeeVf d k f => some (FmtR.pack { major := 96, d := d, a := 0, b := 0, fn := 12#8 + k.setWidth 8, x := 0#2 ++ f }, none)
  | .cvtVfE8m10 a f => some (FmtR.pack { major := 96, d := 0, a := a, b := 0, fn := 16, x := 0#2 ++ f }, none)
  | .cvtE8m10Vf d f => some (FmtR.pack { major := 96, d := d, a := 0, b := 0, fn := 17, x := 0#2 ++ f }, none)
  | .tblLoad a s => some (FmtR.pack { major := 97, d := 0, a := a, b := 0, fn := 0, x := 0#6 ++ s }, none)
  | .tblLoadArr a s => some (FmtR.pack { major := 97, d := 0, a := a, b := 0, fn := 1, x := 0#6 ++ s }, none)
  | .tblRd d a s => some (FmtR.pack { major := 97, d := d, a := a, b := 0, fn := 2, x := 0#6 ++ s }, none)
  | .tblInv s => some (FmtR.pack { major := 97, d := 0, a := 0, b := 0, fn := 3, x := 0#6 ++ s }, none)
  | .qntBf16 d a b s => some (FmtR.pack { major := 98, d := d, a := a, b := b, fn := 0, x := 0#6 ++ s }, none)
  | .qntF32 d a b s => some (FmtR.pack { major := 98, d := d, a := a, b := b, fn := 1, x := 0#6 ++ s }, none)
  | .qntVf d a b s => some (FmtR.pack { major := 98, d := d, a := a, b := b, fn := 2, x := 0#6 ++ s }, none)
  | .qntFin d b s => some (FmtR.pack { major := 98, d := d, a := 0, b := b, fn := 8, x := 0#6 ++ s }, none)
  | .tritPack d a => some (FmtR.pack { major := 99, d := d, a := a, b := 0, fn := 0, x := 0 }, none)
  | .tritUnpack d a => some (FmtR.pack { major := 99, d := d, a := a, b := 0, fn := 1, x := 0 }, none)
  | .tritPackM d a b => some (FmtR.pack { major := 99, d := d, a := a, b := b, fn := 2, x := 0 }, none)
  | .tritUnpackM d a b => some (FmtR.pack { major := 99, d := d, a := a, b := b, fn := 3, x := 0 }, none)
  | .bsSeek a => some (FmtR.pack { major := 100, d := 0, a := a, b := 0, fn := 0, x := 0 }, none)
  | .bsGet d w => some (FmtR.pack { major := 100, d := d, a := 0, b := 0, fn := 1, x := w }, none)
  | .bsGets d w => some (FmtR.pack { major := 100, d := d, a := 0, b := 0, fn := 2, x := w }, none)
  | .bsPeek d w => some (FmtR.pack { major := 100, d := d, a := 0, b := 0, fn := 3, x := w }, none)
  | .bsSkip w => some (FmtR.pack { major := 100, d := 0, a := 0, b := 0, fn := 4, x := w }, none)
  | .bsGetr d b => some (FmtR.pack { major := 100, d := d, a := 0, b := b, fn := 5, x := 0 }, none)
  | .bsSkipr b => some (FmtR.pack { major := 100, d := 0, a := 0, b := b, fn := 6, x := 0 }, none)
  | .bsRice d k => some (FmtR.pack { major := 100, d := d, a := 0, b := 0, fn := 7, x := 0#4 ++ k }, none)
  | .bsAlign => some (FmtR.pack { major := 100, d := 0, a := 0, b := 0, fn := 8, x := 0 }, none)
  | .bsPos d => some (FmtR.pack { major := 100, d := d, a := 0, b := 0, fn := 9, x := 0 }, none)
  | .arrMv a b c w acc gm sp sph spn sl => some (FmtL.pack { major := 0x68, d := 0, a := a, b := b, c := c, w := w, fn := 0, x := 0 }, some (FmtXA.pack { acc := acc, gm := gm, sp := sp, sph := sph, spn := spn, sl := sl, nb := 0, z := 0 }))
  | .arrMm a b c w acc gm sp sph spn sl nb => some (FmtL.pack { major := 0x68, d := 0, a := a, b := b, c := c, w := w, fn := 1, x := 0 }, some (FmtXA.pack { acc := acc, gm := gm, sp := sp, sph := sph, spn := spn, sl := sl, nb := nb, z := 0 }))
  | .arrDrain a c w acc dk dst spn ns => some (FmtL.pack { major := 0x69, d := 0, a := a, b := 0, c := c, w := w, fn := 0, x := 0 }, some (FmtXD.pack { acc := acc, dk := dk, dst := dst, spn := spn, ns := ns, z := 0 }))
  | .arrAnchor a s => some (FmtR.pack { major := 106, d := 0, a := a, b := 0, fn := 0, x := 0#4 ++ s }, none)
  | .arrAnchorOs a b s => some (FmtR.pack { major := 106, d := 0, a := a, b := b, fn := 1, x := 0#4 ++ s }, none)
  | .arrClear n s => some (FmtR.pack { major := 106, d := 0, a := 0, b := 0, fn := 2, x := n ++ s }, none)
  | .arrClearLd a b s => some (FmtR.pack { major := 106, d := 0, a := a, b := b, fn := 3, x := 0#4 ++ s }, none)
  | .arrStat d b s => some (FmtR.pack { major := 106, d := d, a := 0, b := b, fn := 4, x := 0#4 ++ s }, none)
  | .arrStatRec a b s => some (FmtR.pack { major := 106, d := 0, a := a, b := b, fn := 5, x := 0#4 ++ s }, none)
  | .arrWscaleRd d a => some (FmtR.pack { major := 106, d := d, a := a, b := 0, fn := 6, x := 0 }, none)
  | .arrWscale a b => some (FmtR.pack { major := 106, d := 0, a := a, b := b, fn := 7, x := 0 }, none)
  | .plIsect d a b w nc out osp => some (FmtL.pack { major := 0x6C, d := d, a := a, b := b, c := 0, w := w, fn := 0, x := 0 }, some (FmtXP.pack { nc := nc, out := out, osp := osp, inp := 0, isp := 0, isn := 0, z := 0 }))
  | .plUnion d a b w nc out osp => some (FmtL.pack { major := 0x6C, d := d, a := a, b := b, c := 0, w := w, fn := 1, x := 0 }, some (FmtXP.pack { nc := nc, out := out, osp := osp, inp := 0, isp := 0, isn := 0, z := 0 }))
  | .plFuse d b w osp isp => some (FmtL.pack { major := 0x6C, d := d, a := 0, b := b, c := 0, w := w, fn := 2, x := 0 }, some (FmtXP.pack { nc := 0, out := 1, osp := osp, inp := 1, isp := isp, isn := 0, z := 0 }))
  | .plTopk d b w osp isp => some (FmtL.pack { major := 0x6C, d := d, a := 0, b := b, c := 0, w := w, fn := 3, x := 0 }, some (FmtXP.pack { nc := 0, out := 1, osp := osp, inp := 1, isp := isp, isn := 0, z := 0 }))
  | .plOpen d a b => some (FmtR.pack { major := 109, d := d, a := a, b := b, fn := 0, x := 0 }, none)
  | .plClose a => some (FmtR.pack { major := 109, d := 0, a := a, b := 0, fn := 1, x := 0 }, none)
  | .plNext d a => some (FmtR.pack { major := 109, d := d, a := a, b := 0, fn := 2, x := 0 }, none)
  | .plSkip d a b => some (FmtR.pack { major := 109, d := d, a := a, b := b, fn := 3, x := 0 }, none)
  | .plScore d a => some (FmtR.pack { major := 109, d := d, a := a, b := 0, fn := 4, x := 0 }, none)
  | .plStat d a => some (FmtR.pack { major := 109, d := d, a := a, b := 0, fn := 5, x := 0 }, none)
  | .cpPull a b c w fn esz tok lc nt sl fmt tr tc => some (FmtL.pack { major := 0x70, d := 0, a := a, b := b, c := c, w := w, fn := 0#4 ++ fn, x := esz ++ tok }, some (FmtXC.pack { lc := lc, scs := 0, nt := nt, sl := sl, fmt := fmt, tr := tr, tc := tc, ixw := 0, rblk := 0 }))
  | .cpPush d a b c w fn tok scs nt sl fmt => some (FmtL.pack { major := 0x71, d := d, a := a, b := b, c := c, w := w, fn := fn, x := 0#3 ++ tok }, some (FmtXC.pack { lc := 0, scs := scs, nt := nt, sl := sl, fmt := fmt, tr := 0, tc := 0, ixw := 0, rblk := 0 }))
  | .cpGather d a b c w spl tok nt ixw rblk => some (FmtL.pack { major := 0x72, d := d, a := a, b := b, c := c, w := w, fn := if spl = 1 then 3 else 0, x := 0#3 ++ tok }, some (FmtXC.pack { lc := 0, scs := 0, nt := nt, sl := 0, fmt := 0, tr := 0, tc := 0, ixw := ixw, rblk := rblk }))
  | .msgSend d a b c w tr rpl npl tag => some (FmtL.pack { major := 0x74, d := d, a := a, b := b, c := c, w := w, fn := 0, x := 0#5 ++ tr }, some (FmtXM.pack { rpl := rpl, npl := npl, tag := tag, z := 0 }))
  | .msgReply a b w => some (FmtL.pack { major := 0x74, d := 0, a := a, b := b, c := 0, w := w, fn := 1, x := 0 }, some (FmtXM.pack { rpl := 0, npl := 1, tag := 0, z := 0 }))
  | .strSend a w lvl mrk mesh vs fs src v => some (FmtL.pack { major := 0x75, d := 0, a := a, b := 0, c := 0, w := w, fn := 0, x := 0#1 ++ mesh ++ mrk ++ lvl }, some (FmtXS.pack { vs := vs, fs := fs, src := src, v := v, z := 0 }))
  | .strRecv a w vs fs src v => some (FmtL.pack { major := 0x75, d := 0, a := a, b := 0, c := 0, w := w, fn := 1, x := 0 }, some (FmtXS.pack { vs := vs, fs := fs, src := src, v := v, z := 0 }))
  | .strBind a b n => some (FmtR.pack { major := 118, d := 0, a := a, b := b, fn := 0, x := 0#2 ++ n }, none)
  | .strUnbind n => some (FmtR.pack { major := 118, d := 0, a := 0, b := 0, fn := 1, x := 0#2 ++ n }, none)
  | .strExp b n => some (FmtR.pack { major := 118, d := 0, a := 0, b := b, fn := 2, x := 0#2 ++ n }, none)
  | .netDrain => some (FmtR.pack { major := 118, d := 0, a := 0, b := 0, fn := 3, x := 0 }, none)
  | .strRoute a b => some (FmtR.pack { major := 118, d := 0, a := a, b := b, fn := 4, x := 0 }, none)
  | .strRdroute d a => some (FmtR.pack { major := 118, d := d, a := a, b := 0, fn := 5, x := 0 }, none)
  | .srd g s => some (FmtS.pack { major := 120, g := g, r := s, fn := 0 }, none)
  | .swr g s => some (FmtS.pack { major := 120, g := g, r := s, fn := 1 }, none)
  | .sswp g s => some (FmtS.pack { major := 120, g := g, r := s, fn := 2 }, none)
  | .sset g s => some (FmtS.pack { major := 120, g := g, r := s, fn := 3 }, none)
  | .sclr g s => some (FmtS.pack { major := 120, g := g, r := s, fn := 4 }, none)
  | .trap a n => some (FmtR.pack { major := 121, d := 0, a := a, b := 0, fn := 0, x := n }, none)
  | .tret => some (FmtR.pack { major := 121, d := 0, a := 0, b := 0, fn := 1, x := 0 }, none)
  | .tretRgn => some (FmtR.pack { major := 121, d := 0, a := 0, b := 0, fn := 2, x := 0 }, none)
  | .hallmark => some (FmtR.pack { major := 121, d := 0, a := 0, b := 0, fn := 3, x := 0 }, none)
  | .diagStc d a b c r => some (FmtR.pack { major := 122, d := d, a := a, b := b, fn := 0, x := 0#6 ++ c ++ r }, none)
  | .diagLdc d a => some (FmtR.pack { major := 122, d := d, a := a, b := 0, fn := 1, x := 0 }, none)
  | .diagLdr d a => some (FmtR.pack { major := 122, d := d, a := a, b := 0, fn := 2, x := 0 }, none)
  | .diagPoison a => some (FmtR.pack { major := 122, d := 0, a := a, b := 0, fn := 3, x := 0 }, none)
  | .diagFence a => some (FmtR.pack { major := 122, d := 0, a := a, b := 0, fn := 4, x := 0 }, none)
  | .diagHmrd d a => some (FmtR.pack { major := 122, d := d, a := a, b := 0, fn := 5, x := 0 }, none)
  | .l1Inv => some (FmtR.pack { major := 123, d := 0, a := 0, b := 0, fn := 48, x := 0 }, none)
  | .l1Drain => some (FmtR.pack { major := 123, d := 0, a := 0, b := 0, fn := 49, x := 0 }, none)
  | .l2Wb a => some (FmtR.pack { major := 123, d := 0, a := a, b := 0, fn := 50, x := 0 }, none)
  | .l2Wbinv a => some (FmtR.pack { major := 123, d := 0, a := a, b := 0, fn := 51, x := 0 }, none)
  | .l2Inv a => some (FmtR.pack { major := 123, d := 0, a := a, b := 0, fn := 52, x := 0 }, none)
  | .l2WbinvSlice a => some (FmtR.pack { major := 123, d := 0, a := a, b := 0, fn := 53, x := 0 }, none)
  | .mscWbinvKey a => some (FmtR.pack { major := 123, d := 0, a := a, b := 0, fn := 54, x := 0 }, none)
  | .cmSync => some (FmtR.pack { major := 123, d := 0, a := 0, b := 0, fn := 55, x := 0 }, none)
  | .tlbInvVa a b => some (FmtR.pack { major := 123, d := 0, a := a, b := b, fn := 64, x := 0 }, none)
  | .tlbInvAs a => some (FmtR.pack { major := 123, d := 0, a := a, b := 0, fn := 65, x := 0 }, none)
  | .tlbInvAll => some (FmtR.pack { major := 123, d := 0, a := 0, b := 0, fn := 66, x := 0 }, none)
  | .tlbSync => some (FmtR.pack { major := 123, d := 0, a := 0, b := 0, fn := 67, x := 0 }, none)
  | .tlbProbe d a b => some (FmtR.pack { major := 123, d := d, a := a, b := b, fn := 68, x := 0 }, none)
  | .repeatReplay => none
  | .remoteArrival _ => none
  | .dbarContribution _ => none
  | .dbarPhaseFlood _ => none
  | .plEngineStep _ => none
  | .copyUnitDeliver _ _ => none
  | .copySpoolPiece _ _ => none
  | .copyComplete _ _ => none
  | .messageAccept _ => none
  | .sendTryTimeout _ => none
  | .sendQueueFull _ => none
  | .messageArrival _ => none
  | .eventEntry _ => none
  | .replyArrival _ => none
  | .registerFill _ _ _ _ _ => none
  | .streamSlotSend _ => none
  | .routerStreamPacket _ => none
  | .streamDeferredSend _ => none
  | .reductionLimitExpiry _ => none
  | .streamPortArrival _ => none
  | .registerWrite _ _ => none
  | .precWrite _ => none
  | .fwinWrite _ => none
  | .skmapWrite _ => none
  | .spcfgWrite _ _ => none
  | .bbcntWrite _ => none
  | .bbaddrWrite _ => none
  | .netselWrite _ _ => none
  | .semWrite _ _ => none
  | .freqWrite _ => none
  | .delayselWrite _ => none
  | .elctlWrite _ _ => none
  | .hmctlWrite _ _ => none
  | .invalidationComplete _ _ => none
  | .maintenanceComplete _ => none
  | .walkerTakesMiss _ => none
  | .dataDelivered _ => none
  | .remoteStorePerformed _ => none
  | .writeThroughDrain _ _ => none
  | .patrolScrub _ => none
  | .channelRetire _ _ => none
  | .chipletLoss _ => none
  | .migrationArrival _ => none
  | .guestInstructionLimit _ => none
  | .guestParkLimit _ => none
  | .guestReturnHome _ => none
  | .remoteUpdateExecute _ => none
  | .sleepExpiry _ => none
  | .launchDoorbell _ => none
  | .recordAccept _ => none
  | .launchAdmission _ => none
  | .skeinPlacement _ _ => none
  | .preemption _ => none
  | .launchCompletion _ => none
  | .completionRingRecheck _ => none
  | .gridStall _ => none
  | .hungCore _ => none
  | .freqStepChange => none
  | .clockStretch _ => none
  | .syncPulse => none
  | .powerOn => none
  | .bringupAdvance _ => none
  | .hallmarkLatch => none
  | .rdmaWrite _ _ _ _ => none
  | .rdmaRead _ _ _ _ => none
  | .rdmaInvalidOpcode _ _ => none
  | .illegalInstruction _ _ _ => none
  | .instructionFetchFault _ _ _ => none
  | .vectorInstructionComplete _ _ => none
  | .arrayInstructionComplete _ _ => none
  | .memoryChipletLoss _ => none
  | .routerOrBondLoss _ _ _ => none
  | .edgeIoChipletLoss _ => none
  | .attestationRequest _ => none
  | .keySlotLoad _ _ => none

end Sys2Proof
end

