-- ==== Sys2Proof/Machine/Body.lean ====
section
/-! DEFINITION. The replay of a repeat frame (R161, R254): a captured body instruction runs with its fields advanced, without
fetching it. Each `replay` below reads one major opcode that a body may hold (R162) as the decoder does, with every field that
names an f, v or a register advanced; a part number or a mask, general-register, spool or constant field keeps its value. -/

namespace Sys2Proof.Machine

/-- How far the fields of an iteration are advanced: iteration times stride (R161). -/
structure Steps where
  d : Nat
  a : Nat
  b : Nat
  c : Nat
  deriving DecidableEq, Repr

/-- An advanced field (R161). -/
def adv {n : Nat} (x : BitVec n) (k : Nat) : BitVec n := x + BitVec.ofNat n k

/-- The vb field, which is not advanced while it names a spool operand (R161). -/
def advB (f : FmtV) (k : Nat) : BitVec 4 := if f.s = 1 then f.b else adv f.b k

/-- Refuse a replayed word with a subcause (R173). -/
def refuse (s : State) (sub : Nat) : Host.Outcome State Fault Refusal := conclude (illegal s sub)

/-- Run unless a decode check fails. -/
def check5 (c : Bool) (s : State) (r : Host.Outcome State Fault Refusal) : Host.Outcome State Fault Refusal :=
  if c then r else refuse s 5

/-- Run unless the combination is forbidden. -/
def check6 (c : Bool) (s : State) (r : Host.Outcome State Fault Refusal) : Host.Outcome State Fault Refusal :=
  if c then r else refuse s 6

/-- Major 0x40. -/
def replay40 (f : FmtF) (k : Steps) (s : State) : Host.Outcome State Fault Refusal :=
  match f.fn.toNat with
  | 0x00 => execFadd (adv f.d k.d) (adv f.a k.a) (adv f.b k.b) s
  | 0x01 => execFsub (adv f.d k.d) (adv f.a k.a) (adv f.b k.b) s
  | 0x02 => execFmul (adv f.d k.d) (adv f.a k.a) (adv f.b k.b) s
  | 0x03 => execFdiv (adv f.d k.d) (adv f.a k.a) (adv f.b k.b) s
  | 0x04 => check5 (f.b == 0) s (execFsqrt (adv f.d k.d) (adv f.a k.a) s)
  | 0x05 => execFmin (adv f.d k.d) (adv f.a k.a) (adv f.b k.b) s
  | 0x06 => execFmax (adv f.d k.d) (adv f.a k.a) (adv f.b k.b) s
  | 0x07 => check5 (f.b == 0) s (execFrint (adv f.d k.d) (adv f.a k.a) s)
  | 0x08 => check5 (f.b == 0) s (execFrintX (adv f.d k.d) (adv f.a k.a) s)
  | _ => refuse s 2

/-- Major 0x41. -/
def replay41 (f : FmtF4) (k : Steps) (s : State) : Host.Outcome State Fault Refusal :=
  match f.n.toNat with
  | 0x00 => execFma (adv f.d k.d) (adv f.a k.a) (adv f.b k.b) (adv f.c k.c) s
  | 0x01 => execFnma (adv f.d k.d) (adv f.a k.a) (adv f.b k.b) (adv f.c k.c) s
  | _ => refuse s 2

/-- Major 0x42. -/
def replay42 (f : FmtF4) (k : Steps) (s : State) : Host.Outcome State Fault Refusal :=
  match f.n.toNat with
  | 0x00 => execFms (adv f.d k.d) (adv f.a k.a) (adv f.b k.b) (adv f.c k.c) s
  | 0x01 => execFnms (adv f.d k.d) (adv f.a k.a) (adv f.b k.b) (adv f.c k.c) s
  | _ => refuse s 2

/-- Major 0x45. -/
def replay45 (f : FmtF) (k : Steps) (s : State) : Host.Outcome State Fault Refusal :=
  match f.fn.toNat with
  | 0x00 => check5 (f.b == 0) s (execFmov (adv f.d k.d) (adv f.a k.a) s)
  | 0x01 => check5 (f.b == 0) s (execFneg (adv f.d k.d) (adv f.a k.a) s)
  | 0x02 => check5 (f.b == 0) s (execFabs (adv f.d k.d) (adv f.a k.a) s)
  | 0x03 => execFsgn (adv f.d k.d) (adv f.a k.a) (adv f.b k.b) s
  | 0x04 => execFsgnn (adv f.d k.d) (adv f.a k.a) (adv f.b k.b) s
  | 0x05 => execFsgnx (adv f.d k.d) (adv f.a k.a) (adv f.b k.b) s
  | 0x08 => check5 (f.a == 0) s (check5 (f.b.toNat < 18) s (execFconst (adv f.d k.d) f.b s))
  | _ => refuse s 2

/-- Major 0x50. -/
def replay50 (f : FmtV) (k : Steps) (s : State) : Host.Outcome State Fault Refusal :=
  match f.code.toNat with
  | 0x00 => execVaddVf (adv f.d k.d) (adv f.a k.a) (advB f k.b) f.s f.w f.m f.slots s
  | 0x01 => execVsubVf (adv f.d k.d) (adv f.a k.a) (advB f k.b) f.s f.w f.m f.slots s
  | 0x02 => execVmulVf (adv f.d k.d) (adv f.a k.a) (advB f k.b) f.s f.w f.m f.slots s
  | 0x03 => execVdivVf (adv f.d k.d) (adv f.a k.a) (advB f k.b) f.s f.w f.m f.slots s
  | 0x04 => execVminVf (adv f.d k.d) (adv f.a k.a) (advB f k.b) f.s f.w f.m f.slots s
  | 0x05 => execVmaxVf (adv f.d k.d) (adv f.a k.a) (advB f k.b) f.s f.w f.m f.slots s
  | 0x10 => check5 (f.b == 0) s (check6 (f.s == 0) s (execVsqrtVf (adv f.d k.d) (adv f.a k.a) f.w f.m s))
  | 0x11 => check5 (f.b == 0) s (check6 (f.s == 0) s (execVnegVf (adv f.d k.d) (adv f.a k.a) f.w f.m s))
  | 0x12 => check5 (f.b == 0) s (check6 (f.s == 0) s (execVabsVf (adv f.d k.d) (adv f.a k.a) f.w f.m s))
  | 0x13 => check5 (f.b == 0) s (check6 (f.s == 0) s (execVrintVf (adv f.d k.d) (adv f.a k.a) f.w f.m s))
  | _ => refuse s 2

/-- Major 0x51. -/
def replay51 (f : FmtV) (k : Steps) (s : State) : Host.Outcome State Fault Refusal :=
  match f.code.toNat with
  | 0x00 => execVaddInt (adv f.d k.d) (adv f.a k.a) (advB f k.b) f.s f.w f.m f.slots 0 s
  | 0x01 => execVaddInt (adv f.d k.d) (adv f.a k.a) (advB f k.b) f.s f.w f.m f.slots 1 s
  | 0x02 => execVaddInt (adv f.d k.d) (adv f.a k.a) (advB f k.b) f.s f.w f.m f.slots 2 s
  | 0x03 => execVaddInt (adv f.d k.d) (adv f.a k.a) (advB f k.b) f.s f.w f.m f.slots 3 s
  | 0x04 => execVsubInt (adv f.d k.d) (adv f.a k.a) (advB f k.b) f.s f.w f.m f.slots 0 s
  | 0x05 => execVsubInt (adv f.d k.d) (adv f.a k.a) (advB f k.b) f.s f.w f.m f.slots 1 s
  | 0x06 => execVsubInt (adv f.d k.d) (adv f.a k.a) (advB f k.b) f.s f.w f.m f.slots 2 s
  | 0x07 => execVsubInt (adv f.d k.d) (adv f.a k.a) (advB f k.b) f.s f.w f.m f.slots 3 s
  | 0x08 => execVmulInt (adv f.d k.d) (adv f.a k.a) (advB f k.b) f.s f.w f.m f.slots 0 s
  | 0x09 => execVmulInt (adv f.d k.d) (adv f.a k.a) (advB f k.b) f.s f.w f.m f.slots 1 s
  | 0x0A => execVmulInt (adv f.d k.d) (adv f.a k.a) (advB f k.b) f.s f.w f.m f.slots 2 s
  | 0x0B => execVmulInt (adv f.d k.d) (adv f.a k.a) (advB f k.b) f.s f.w f.m f.slots 3 s
  | 0x0C => execVadds (adv f.d k.d) (adv f.a k.a) (advB f k.b) f.s f.w f.m f.slots 0 s
  | 0x0D => execVadds (adv f.d k.d) (adv f.a k.a) (advB f k.b) f.s f.w f.m f.slots 1 s
  | 0x0E => execVadds (adv f.d k.d) (adv f.a k.a) (advB f k.b) f.s f.w f.m f.slots 2 s
  | 0x0F => execVadds (adv f.d k.d) (adv f.a k.a) (advB f k.b) f.s f.w f.m f.slots 3 s
  | 0x10 => check6 (f.s == 0) s (execVaddus (adv f.d k.d) (adv f.a k.a) (advB f k.b) f.w f.m 0 s)
  | 0x11 => check6 (f.s == 0) s (execVaddus (adv f.d k.d) (adv f.a k.a) (advB f k.b) f.w f.m 1 s)
  | 0x12 => check6 (f.s == 0) s (execVaddus (adv f.d k.d) (adv f.a k.a) (advB f k.b) f.w f.m 2 s)
  | 0x13 => check6 (f.s == 0) s (execVaddus (adv f.d k.d) (adv f.a k.a) (advB f k.b) f.w f.m 3 s)
  | 0x14 => check6 (f.s == 0) s (execVsubs (adv f.d k.d) (adv f.a k.a) (advB f k.b) f.w f.m 0 s)
  | 0x15 => check6 (f.s == 0) s (execVsubs (adv f.d k.d) (adv f.a k.a) (advB f k.b) f.w f.m 1 s)
  | 0x16 => check6 (f.s == 0) s (execVsubs (adv f.d k.d) (adv f.a k.a) (advB f k.b) f.w f.m 2 s)
  | 0x17 => check6 (f.s == 0) s (execVsubs (adv f.d k.d) (adv f.a k.a) (advB f k.b) f.w f.m 3 s)
  | 0x18 => check6 (f.s == 0) s (execVsubus (adv f.d k.d) (adv f.a k.a) (advB f k.b) f.w f.m 0 s)
  | 0x19 => check6 (f.s == 0) s (execVsubus (adv f.d k.d) (adv f.a k.a) (advB f k.b) f.w f.m 1 s)
  | 0x1A => check6 (f.s == 0) s (execVsubus (adv f.d k.d) (adv f.a k.a) (advB f k.b) f.w f.m 2 s)
  | 0x1B => check6 (f.s == 0) s (execVsubus (adv f.d k.d) (adv f.a k.a) (advB f k.b) f.w f.m 3 s)
  | 0x1C => check6 (f.s == 0) s (execVand (adv f.d k.d) (adv f.a k.a) (advB f k.b) f.w f.m 0 s)
  | 0x1D => check6 (f.s == 0) s (execVand (adv f.d k.d) (adv f.a k.a) (advB f k.b) f.w f.m 1 s)
  | 0x1E => check6 (f.s == 0) s (execVand (adv f.d k.d) (adv f.a k.a) (advB f k.b) f.w f.m 2 s)
  | 0x1F => check6 (f.s == 0) s (execVand (adv f.d k.d) (adv f.a k.a) (advB f k.b) f.w f.m 3 s)
  | 0x20 => check6 (f.s == 0) s (execVor (adv f.d k.d) (adv f.a k.a) (advB f k.b) f.w f.m 0 s)
  | 0x21 => check6 (f.s == 0) s (execVor (adv f.d k.d) (adv f.a k.a) (advB f k.b) f.w f.m 1 s)
  | 0x22 => check6 (f.s == 0) s (execVor (adv f.d k.d) (adv f.a k.a) (advB f k.b) f.w f.m 2 s)
  | 0x23 => check6 (f.s == 0) s (execVor (adv f.d k.d) (adv f.a k.a) (advB f k.b) f.w f.m 3 s)
  | 0x24 => check6 (f.s == 0) s (execVxor (adv f.d k.d) (adv f.a k.a) (advB f k.b) f.w f.m 0 s)
  | 0x25 => check6 (f.s == 0) s (execVxor (adv f.d k.d) (adv f.a k.a) (advB f k.b) f.w f.m 1 s)
  | 0x26 => check6 (f.s == 0) s (execVxor (adv f.d k.d) (adv f.a k.a) (advB f k.b) f.w f.m 2 s)
  | 0x27 => check6 (f.s == 0) s (execVxor (adv f.d k.d) (adv f.a k.a) (advB f k.b) f.w f.m 3 s)
  | 0x28 => check6 (f.s == 0) s (execVminInt (adv f.d k.d) (adv f.a k.a) (advB f k.b) f.w f.m 0 s)
  | 0x29 => check6 (f.s == 0) s (execVminInt (adv f.d k.d) (adv f.a k.a) (advB f k.b) f.w f.m 1 s)
  | 0x2A => check6 (f.s == 0) s (execVminInt (adv f.d k.d) (adv f.a k.a) (advB f k.b) f.w f.m 2 s)
  | 0x2B => check6 (f.s == 0) s (execVminInt (adv f.d k.d) (adv f.a k.a) (advB f k.b) f.w f.m 3 s)
  | 0x2C => check6 (f.s == 0) s (execVmaxInt (adv f.d k.d) (adv f.a k.a) (advB f k.b) f.w f.m 0 s)
  | 0x2D => check6 (f.s == 0) s (execVmaxInt (adv f.d k.d) (adv f.a k.a) (advB f k.b) f.w f.m 1 s)
  | 0x2E => check6 (f.s == 0) s (execVmaxInt (adv f.d k.d) (adv f.a k.a) (advB f k.b) f.w f.m 2 s)
  | 0x2F => check6 (f.s == 0) s (execVmaxInt (adv f.d k.d) (adv f.a k.a) (advB f k.b) f.w f.m 3 s)
  | 0x30 => check6 (f.s == 0) s (execVminu (adv f.d k.d) (adv f.a k.a) (advB f k.b) f.w f.m 0 s)
  | 0x31 => check6 (f.s == 0) s (execVminu (adv f.d k.d) (adv f.a k.a) (advB f k.b) f.w f.m 1 s)
  | 0x32 => check6 (f.s == 0) s (execVminu (adv f.d k.d) (adv f.a k.a) (advB f k.b) f.w f.m 2 s)
  | 0x33 => check6 (f.s == 0) s (execVminu (adv f.d k.d) (adv f.a k.a) (advB f k.b) f.w f.m 3 s)
  | 0x34 => check6 (f.s == 0) s (execVmaxu (adv f.d k.d) (adv f.a k.a) (advB f k.b) f.w f.m 0 s)
  | 0x35 => check6 (f.s == 0) s (execVmaxu (adv f.d k.d) (adv f.a k.a) (advB f k.b) f.w f.m 1 s)
  | 0x36 => check6 (f.s == 0) s (execVmaxu (adv f.d k.d) (adv f.a k.a) (advB f k.b) f.w f.m 2 s)
  | 0x37 => check6 (f.s == 0) s (execVmaxu (adv f.d k.d) (adv f.a k.a) (advB f k.b) f.w f.m 3 s)
  | 0x38 => check6 (f.s == 0) s (execVsll (adv f.d k.d) (adv f.a k.a) (advB f k.b) f.w f.m 0 s)
  | 0x39 => check6 (f.s == 0) s (execVsll (adv f.d k.d) (adv f.a k.a) (advB f k.b) f.w f.m 1 s)
  | 0x3A => check6 (f.s == 0) s (execVsll (adv f.d k.d) (adv f.a k.a) (advB f k.b) f.w f.m 2 s)
  | 0x3B => check6 (f.s == 0) s (execVsll (adv f.d k.d) (adv f.a k.a) (advB f k.b) f.w f.m 3 s)
  | 0x3C => check6 (f.s == 0) s (execVsrl (adv f.d k.d) (adv f.a k.a) (advB f k.b) f.w f.m 0 s)
  | 0x3D => check6 (f.s == 0) s (execVsrl (adv f.d k.d) (adv f.a k.a) (advB f k.b) f.w f.m 1 s)
  | 0x3E => check6 (f.s == 0) s (execVsrl (adv f.d k.d) (adv f.a k.a) (advB f k.b) f.w f.m 2 s)
  | 0x3F => check6 (f.s == 0) s (execVsrl (adv f.d k.d) (adv f.a k.a) (advB f k.b) f.w f.m 3 s)
  | 0x40 => check6 (f.s == 0) s (execVsra (adv f.d k.d) (adv f.a k.a) (advB f k.b) f.w f.m 0 s)
  | 0x41 => check6 (f.s == 0) s (execVsra (adv f.d k.d) (adv f.a k.a) (advB f k.b) f.w f.m 1 s)
  | 0x42 => check6 (f.s == 0) s (execVsra (adv f.d k.d) (adv f.a k.a) (advB f k.b) f.w f.m 2 s)
  | 0x43 => check6 (f.s == 0) s (execVsra (adv f.d k.d) (adv f.a k.a) (advB f k.b) f.w f.m 3 s)
  | 0x44 => check6 (f.s == 0) s (execVmulh (adv f.d k.d) (adv f.a k.a) (advB f k.b) f.w f.m 0 s)
  | 0x45 => check6 (f.s == 0) s (execVmulh (adv f.d k.d) (adv f.a k.a) (advB f k.b) f.w f.m 1 s)
  | 0x46 => check6 (f.s == 0) s (execVmulh (adv f.d k.d) (adv f.a k.a) (advB f k.b) f.w f.m 2 s)
  | 0x47 => check6 (f.s == 0) s (execVmulh (adv f.d k.d) (adv f.a k.a) (advB f k.b) f.w f.m 3 s)
  | 0x48 => check6 (f.s == 0) s (execVmulhu (adv f.d k.d) (adv f.a k.a) (advB f k.b) f.w f.m 0 s)
  | 0x49 => check6 (f.s == 0) s (execVmulhu (adv f.d k.d) (adv f.a k.a) (advB f k.b) f.w f.m 1 s)
  | 0x4A => check6 (f.s == 0) s (execVmulhu (adv f.d k.d) (adv f.a k.a) (advB f k.b) f.w f.m 2 s)
  | 0x4B => check6 (f.s == 0) s (execVmulhu (adv f.d k.d) (adv f.a k.a) (advB f k.b) f.w f.m 3 s)
  | _ => refuse s 2

/-- Major 0x52. -/
def replay52 (f : FmtV) (k : Steps) (s : State) : Host.Outcome State Fault Refusal :=
  match f.code.toNat with
  | 0x00 => execVfmaVf (adv f.d k.d) (adv f.a k.a) (advB f k.b) f.s f.w f.m f.slots s
  | 0x01 => execVfmsVf (adv f.d k.d) (adv f.a k.a) (advB f k.b) f.s f.w f.m f.slots s
  | 0x02 => execVfnmaVf (adv f.d k.d) (adv f.a k.a) (advB f k.b) f.s f.w f.m f.slots s
  | 0x03 => execVfnmsVf (adv f.d k.d) (adv f.a k.a) (advB f k.b) f.s f.w f.m f.slots s
  | 0x04 => execVmac (adv f.d k.d) (adv f.a k.a) (advB f k.b) f.s f.w f.m f.slots 0 s
  | 0x05 => execVmac (adv f.d k.d) (adv f.a k.a) (advB f k.b) f.s f.w f.m f.slots 1 s
  | 0x06 => execVmac (adv f.d k.d) (adv f.a k.a) (advB f k.b) f.s f.w f.m f.slots 2 s
  | 0x07 => execVmac (adv f.d k.d) (adv f.a k.a) (advB f k.b) f.s f.w f.m f.slots 3 s
  | _ => refuse s 2

/-- Major 0x53. -/
def replay53 (f : FmtV) (k : Steps) (s : State) : Host.Outcome State Fault Refusal :=
  match f.code.toNat with
  | 0x00 => check5 (lowReg f.d) s (execVcmpEqVf (reg3 f.d) (adv f.a k.a) (advB f k.b) f.s f.w f.m f.slots s)
  | 0x01 => check5 (lowReg f.d) s (execVcmpLtVf (reg3 f.d) (adv f.a k.a) (advB f k.b) f.s f.w f.m f.slots s)
  | 0x02 => check5 (lowReg f.d) s (execVcmpLeVf (reg3 f.d) (adv f.a k.a) (advB f k.b) f.s f.w f.m f.slots s)
  | 0x03 => check5 (lowReg f.d) s (execVcmpUnVf (reg3 f.d) (adv f.a k.a) (advB f k.b) f.s f.w f.m f.slots s)
  | 0x04 => check5 (lowReg f.d) s (refuse s 5)
  | 0x05 => check5 (lowReg f.d) s (execVcmpEqInt (reg3 f.d) (adv f.a k.a) (advB f k.b) f.s f.w f.m f.slots 1 s)
  | 0x06 => check5 (lowReg f.d) s (execVcmpEqInt (reg3 f.d) (adv f.a k.a) (advB f k.b) f.s f.w f.m f.slots 2 s)
  | 0x07 => check5 (lowReg f.d) s (execVcmpEqInt (reg3 f.d) (adv f.a k.a) (advB f k.b) f.s f.w f.m f.slots 3 s)
  | 0x08 => check5 (lowReg f.d) s (refuse s 5)
  | 0x09 => check5 (lowReg f.d) s (execVcmpLtInt (reg3 f.d) (adv f.a k.a) (advB f k.b) f.s f.w f.m f.slots 1 s)
  | 0x0A => check5 (lowReg f.d) s (execVcmpLtInt (reg3 f.d) (adv f.a k.a) (advB f k.b) f.s f.w f.m f.slots 2 s)
  | 0x0B => check5 (lowReg f.d) s (execVcmpLtInt (reg3 f.d) (adv f.a k.a) (advB f k.b) f.s f.w f.m f.slots 3 s)
  | 0x0C => check5 (lowReg f.d) s (refuse s 5)
  | 0x0D => check5 (lowReg f.d) s (execVcmpLtuInt (reg3 f.d) (adv f.a k.a) (advB f k.b) f.s f.w f.m f.slots 1 s)
  | 0x0E => check5 (lowReg f.d) s (execVcmpLtuInt (reg3 f.d) (adv f.a k.a) (advB f k.b) f.s f.w f.m f.slots 2 s)
  | 0x0F => check5 (lowReg f.d) s (execVcmpLtuInt (reg3 f.d) (adv f.a k.a) (advB f k.b) f.s f.w f.m f.slots 3 s)
  | 0x10 => check5 (lowReg f.d && lowReg f.a && lowReg f.b && f.m == 0) s (check6 (f.s == 0) s (execMand (reg3 f.d) (reg3 f.a) (reg3 f.b) f.w s))
  | 0x11 => check5 (lowReg f.d && lowReg f.a && lowReg f.b && f.m == 0) s (check6 (f.s == 0) s (execMor (reg3 f.d) (reg3 f.a) (reg3 f.b) f.w s))
  | 0x12 => check5 (lowReg f.d && lowReg f.a && lowReg f.b && f.m == 0) s (check6 (f.s == 0) s (execMxor (reg3 f.d) (reg3 f.a) (reg3 f.b) f.w s))
  | 0x13 => check5 (lowReg f.d && lowReg f.a && lowReg f.b && f.m == 0) s (check6 (f.s == 0) s (execMandn (reg3 f.d) (reg3 f.a) (reg3 f.b) f.w s))
  | 0x14 => check5 (lowReg f.d && lowReg f.a && f.b == 0 && f.m == 0) s (check6 (f.s == 0) s (execMnot (reg3 f.d) (reg3 f.a) f.w s))
  | 0x15 => check5 (lowReg f.d && lowReg f.a && f.b == 0 && f.m == 0) s (check6 (f.s == 0) s (execMpopc (reg3 f.d) (reg3 f.a) f.w s))
  | 0x16 => check5 (lowReg f.d && lowReg f.a && f.b == 0 && f.m == 0) s (check6 (f.s == 0) s (execMfirst (reg3 f.d) (reg3 f.a) f.w s))
  | 0x17 => check5 (lowReg f.d && lowReg f.a && lowReg f.b && f.m == 0) s (check6 (f.s == 0) s (execMfromg (reg3 f.d) (reg3 f.a) (reg3 f.b) f.w s))
  | 0x18 => check5 (lowReg f.d && lowReg f.a && f.b.extractLsb' 1 3 == 0 && f.m == 0) s (check6 (f.s == 0) s (execMtog (reg3 f.d) (reg3 f.a) (f.b.extractLsb' 0 1) f.w s))
  | _ => refuse s 2

/-- Major 0x54. -/
def replay54 (f : FmtV) (k : Steps) (s : State) : Host.Outcome State Fault Refusal :=
  match f.code.toNat with
  | 0x00 => check5 (f.b == 0) s (check6 (f.s == 0) s (execVrsumVf (adv f.d k.d) (adv f.a k.a) f.w f.m s))
  | 0x01 => check5 (f.b == 0) s (check6 (f.s == 0) s (execVrminVf (adv f.d k.d) (adv f.a k.a) f.w f.m s))
  | 0x02 => check5 (f.b == 0) s (check6 (f.s == 0) s (execVrmaxVf (adv f.d k.d) (adv f.a k.a) f.w f.m s))
  | 0x03 => check5 (f.b == 0) s (check6 (f.s == 0) s (execVscanVf (adv f.d k.d) (adv f.a k.a) f.w f.m s))
  | 0x10 => check5 (f.b == 0) s (check6 (f.s == 0) s (execVrsumInt (adv f.d k.d) (adv f.a k.a) f.w f.m 0 s))
  | 0x11 => check5 (f.b == 0) s (check6 (f.s == 0) s (execVrsumInt (adv f.d k.d) (adv f.a k.a) f.w f.m 1 s))
  | 0x12 => check5 (f.b == 0) s (check6 (f.s == 0) s (execVrsumInt (adv f.d k.d) (adv f.a k.a) f.w f.m 2 s))
  | 0x13 => check5 (f.b == 0) s (check6 (f.s == 0) s (execVrsumInt (adv f.d k.d) (adv f.a k.a) f.w f.m 3 s))
  | 0x14 => check5 (f.b == 0) s (check6 (f.s == 0) s (execVrminInt (adv f.d k.d) (adv f.a k.a) f.w f.m 0 s))
  | 0x15 => check5 (f.b == 0) s (check6 (f.s == 0) s (execVrminInt (adv f.d k.d) (adv f.a k.a) f.w f.m 1 s))
  | 0x16 => check5 (f.b == 0) s (check6 (f.s == 0) s (execVrminInt (adv f.d k.d) (adv f.a k.a) f.w f.m 2 s))
  | 0x17 => check5 (f.b == 0) s (check6 (f.s == 0) s (execVrminInt (adv f.d k.d) (adv f.a k.a) f.w f.m 3 s))
  | 0x18 => check5 (f.b == 0) s (check6 (f.s == 0) s (execVrmaxInt (adv f.d k.d) (adv f.a k.a) f.w f.m 0 s))
  | 0x19 => check5 (f.b == 0) s (check6 (f.s == 0) s (execVrmaxInt (adv f.d k.d) (adv f.a k.a) f.w f.m 1 s))
  | 0x1A => check5 (f.b == 0) s (check6 (f.s == 0) s (execVrmaxInt (adv f.d k.d) (adv f.a k.a) f.w f.m 2 s))
  | 0x1B => check5 (f.b == 0) s (check6 (f.s == 0) s (execVrmaxInt (adv f.d k.d) (adv f.a k.a) f.w f.m 3 s))
  | 0x1C => check5 (f.b == 0) s (check6 (f.s == 0) s (execVrminu (adv f.d k.d) (adv f.a k.a) f.w f.m 0 s))
  | 0x1D => check5 (f.b == 0) s (check6 (f.s == 0) s (execVrminu (adv f.d k.d) (adv f.a k.a) f.w f.m 1 s))
  | 0x1E => check5 (f.b == 0) s (check6 (f.s == 0) s (execVrminu (adv f.d k.d) (adv f.a k.a) f.w f.m 2 s))
  | 0x1F => check5 (f.b == 0) s (check6 (f.s == 0) s (execVrminu (adv f.d k.d) (adv f.a k.a) f.w f.m 3 s))
  | 0x20 => check5 (f.b == 0) s (check6 (f.s == 0) s (execVrmaxu (adv f.d k.d) (adv f.a k.a) f.w f.m 0 s))
  | 0x21 => check5 (f.b == 0) s (check6 (f.s == 0) s (execVrmaxu (adv f.d k.d) (adv f.a k.a) f.w f.m 1 s))
  | 0x22 => check5 (f.b == 0) s (check6 (f.s == 0) s (execVrmaxu (adv f.d k.d) (adv f.a k.a) f.w f.m 2 s))
  | 0x23 => check5 (f.b == 0) s (check6 (f.s == 0) s (execVrmaxu (adv f.d k.d) (adv f.a k.a) f.w f.m 3 s))
  | 0x24 => check5 (f.b == 0) s (check6 (f.s == 0) s (execVrand (adv f.d k.d) (adv f.a k.a) f.w f.m 0 s))
  | 0x25 => check5 (f.b == 0) s (check6 (f.s == 0) s (execVrand (adv f.d k.d) (adv f.a k.a) f.w f.m 1 s))
  | 0x26 => check5 (f.b == 0) s (check6 (f.s == 0) s (execVrand (adv f.d k.d) (adv f.a k.a) f.w f.m 2 s))
  | 0x27 => check5 (f.b == 0) s (check6 (f.s == 0) s (execVrand (adv f.d k.d) (adv f.a k.a) f.w f.m 3 s))
  | 0x28 => check5 (f.b == 0) s (check6 (f.s == 0) s (execVror (adv f.d k.d) (adv f.a k.a) f.w f.m 0 s))
  | 0x29 => check5 (f.b == 0) s (check6 (f.s == 0) s (execVror (adv f.d k.d) (adv f.a k.a) f.w f.m 1 s))
  | 0x2A => check5 (f.b == 0) s (check6 (f.s == 0) s (execVror (adv f.d k.d) (adv f.a k.a) f.w f.m 2 s))
  | 0x2B => check5 (f.b == 0) s (check6 (f.s == 0) s (execVror (adv f.d k.d) (adv f.a k.a) f.w f.m 3 s))
  | 0x2C => check5 (f.b == 0) s (check6 (f.s == 0) s (execVrxor (adv f.d k.d) (adv f.a k.a) f.w f.m 0 s))
  | 0x2D => check5 (f.b == 0) s (check6 (f.s == 0) s (execVrxor (adv f.d k.d) (adv f.a k.a) f.w f.m 1 s))
  | 0x2E => check5 (f.b == 0) s (check6 (f.s == 0) s (execVrxor (adv f.d k.d) (adv f.a k.a) f.w f.m 2 s))
  | 0x2F => check5 (f.b == 0) s (check6 (f.s == 0) s (execVrxor (adv f.d k.d) (adv f.a k.a) f.w f.m 3 s))
  | 0x30 => check5 (f.b == 0) s (check6 (f.s == 0) s (execVscanInt (adv f.d k.d) (adv f.a k.a) f.w f.m 0 s))
  | 0x31 => check5 (f.b == 0) s (check6 (f.s == 0) s (execVscanInt (adv f.d k.d) (adv f.a k.a) f.w f.m 1 s))
  | 0x32 => check5 (f.b == 0) s (check6 (f.s == 0) s (execVscanInt (adv f.d k.d) (adv f.a k.a) f.w f.m 2 s))
  | 0x33 => check5 (f.b == 0) s (check6 (f.s == 0) s (execVscanInt (adv f.d k.d) (adv f.a k.a) f.w f.m 3 s))
  | _ => refuse s 2

/-- Major 0x55. -/
def replay55 (f : FmtV) (k : Steps) (s : State) : Host.Outcome State Fault Refusal :=
  match f.code.toNat with
  | 0x00 => execVperm (adv f.d k.d) (adv f.a k.a) (advB f k.b) f.s f.w f.m f.slots 0 s
  | 0x01 => execVperm (adv f.d k.d) (adv f.a k.a) (advB f k.b) f.s f.w f.m f.slots 1 s
  | 0x02 => execVperm (adv f.d k.d) (adv f.a k.a) (advB f k.b) f.s f.w f.m f.slots 2 s
  | 0x03 => execVperm (adv f.d k.d) (adv f.a k.a) (advB f k.b) f.s f.w f.m f.slots 3 s
  | 0x04 => execVperm (adv f.d k.d) (adv f.a k.a) (advB f k.b) f.s f.w f.m f.slots 4 s
  | 0x08 => check5 (lowReg f.b) s (check6 (f.s == 0) s (execVslideup (adv f.d k.d) (adv f.a k.a) (reg3 f.b) f.w f.m 0 s))
  | 0x09 => check5 (lowReg f.b) s (check6 (f.s == 0) s (execVslideup (adv f.d k.d) (adv f.a k.a) (reg3 f.b) f.w f.m 1 s))
  | 0x0A => check5 (lowReg f.b) s (check6 (f.s == 0) s (execVslideup (adv f.d k.d) (adv f.a k.a) (reg3 f.b) f.w f.m 2 s))
  | 0x0B => check5 (lowReg f.b) s (check6 (f.s == 0) s (execVslideup (adv f.d k.d) (adv f.a k.a) (reg3 f.b) f.w f.m 3 s))
  | 0x0C => check5 (lowReg f.b) s (check6 (f.s == 0) s (execVslideup (adv f.d k.d) (adv f.a k.a) (reg3 f.b) f.w f.m 4 s))
  | 0x10 => check5 (lowReg f.b) s (check6 (f.s == 0) s (execVslidedn (adv f.d k.d) (adv f.a k.a) (reg3 f.b) f.w f.m 0 s))
  | 0x11 => check5 (lowReg f.b) s (check6 (f.s == 0) s (execVslidedn (adv f.d k.d) (adv f.a k.a) (reg3 f.b) f.w f.m 1 s))
  | 0x12 => check5 (lowReg f.b) s (check6 (f.s == 0) s (execVslidedn (adv f.d k.d) (adv f.a k.a) (reg3 f.b) f.w f.m 2 s))
  | 0x13 => check5 (lowReg f.b) s (check6 (f.s == 0) s (execVslidedn (adv f.d k.d) (adv f.a k.a) (reg3 f.b) f.w f.m 3 s))
  | 0x14 => check5 (lowReg f.b) s (check6 (f.s == 0) s (execVslidedn (adv f.d k.d) (adv f.a k.a) (reg3 f.b) f.w f.m 4 s))
  | 0x18 => check5 (lowReg f.a && f.b == 0) s (check6 (f.s == 0) s (execVsplatInt (adv f.d k.d) (reg3 f.a) f.w f.m 0 s))
  | 0x19 => check5 (lowReg f.a && f.b == 0) s (check6 (f.s == 0) s (execVsplatInt (adv f.d k.d) (reg3 f.a) f.w f.m 1 s))
  | 0x1A => check5 (lowReg f.a && f.b == 0) s (check6 (f.s == 0) s (execVsplatInt (adv f.d k.d) (reg3 f.a) f.w f.m 2 s))
  | 0x1B => check5 (lowReg f.a && f.b == 0) s (check6 (f.s == 0) s (execVsplatInt (adv f.d k.d) (reg3 f.a) f.w f.m 3 s))
  | 0x1C => check5 (f.b == 0) s (check6 (f.s == 0) s (execVsplatVf (adv f.d k.d) (adv f.a k.a) f.w f.m s))
  | 0x20 => check5 (lowReg f.d && lowReg f.b && f.m == 0) s (check6 (f.s == 0) s (execVextInt (reg3 f.d) (adv f.a k.a) (reg3 f.b) f.w 0 s))
  | 0x21 => check5 (lowReg f.d && lowReg f.b && f.m == 0) s (check6 (f.s == 0) s (execVextInt (reg3 f.d) (adv f.a k.a) (reg3 f.b) f.w 1 s))
  | 0x22 => check5 (lowReg f.d && lowReg f.b && f.m == 0) s (check6 (f.s == 0) s (execVextInt (reg3 f.d) (adv f.a k.a) (reg3 f.b) f.w 2 s))
  | 0x23 => check5 (lowReg f.d && lowReg f.b && f.m == 0) s (check6 (f.s == 0) s (execVextInt (reg3 f.d) (adv f.a k.a) (reg3 f.b) f.w 3 s))
  | 0x24 => check5 (lowReg f.b && f.m == 0) s (check6 (f.s == 0) s (execVextVf (adv f.d k.d) (adv f.a k.a) (reg3 f.b) f.w s))
  | 0x28 => check5 (lowReg f.a && lowReg f.b) s (check6 (f.s == 0) s (execVinsInt (adv f.d k.d) (reg3 f.a) (reg3 f.b) f.w f.m 0 s))
  | 0x29 => check5 (lowReg f.a && lowReg f.b) s (check6 (f.s == 0) s (execVinsInt (adv f.d k.d) (reg3 f.a) (reg3 f.b) f.w f.m 1 s))
  | 0x2A => check5 (lowReg f.a && lowReg f.b) s (check6 (f.s == 0) s (execVinsInt (adv f.d k.d) (reg3 f.a) (reg3 f.b) f.w f.m 2 s))
  | 0x2B => check5 (lowReg f.a && lowReg f.b) s (check6 (f.s == 0) s (execVinsInt (adv f.d k.d) (reg3 f.a) (reg3 f.b) f.w f.m 3 s))
  | 0x2C => check5 (lowReg f.b) s (check6 (f.s == 0) s (execVinsVf (adv f.d k.d) (adv f.a k.a) (reg3 f.b) f.w f.m s))
  | 0x30 => check5 (f.b == 0) s (check6 (f.s == 0) s (execVcompress (adv f.d k.d) (adv f.a k.a) f.w f.m 0 s))
  | 0x31 => check5 (f.b == 0) s (check6 (f.s == 0) s (execVcompress (adv f.d k.d) (adv f.a k.a) f.w f.m 1 s))
  | 0x32 => check5 (f.b == 0) s (check6 (f.s == 0) s (execVcompress (adv f.d k.d) (adv f.a k.a) f.w f.m 2 s))
  | 0x33 => check5 (f.b == 0) s (check6 (f.s == 0) s (execVcompress (adv f.d k.d) (adv f.a k.a) f.w f.m 3 s))
  | 0x34 => check5 (f.b == 0) s (check6 (f.s == 0) s (execVcompress (adv f.d k.d) (adv f.a k.a) f.w f.m 4 s))
  | 0x38 => check5 (f.b == 0 && f.m == 0) s (check6 (f.s == 0) s (execVmov (adv f.d k.d) (adv f.a k.a) f.w s))
  | _ => refuse s 2

/-- Major 0x56. -/
def replay56 (f : FmtV) (k : Steps) (s : State) : Host.Outcome State Fault Refusal :=
  match f.code.toNat with
  | 0x00 => check6 (f.s == 0) s (execVcvtVfInt (adv f.d k.d) (adv f.a k.a) f.b f.w f.m 0 s)
  | 0x01 => check6 (f.s == 0) s (execVcvtVfInt (adv f.d k.d) (adv f.a k.a) f.b f.w f.m 1 s)
  | 0x02 => check6 (f.s == 0) s (execVcvtVfInt (adv f.d k.d) (adv f.a k.a) f.b f.w f.m 2 s)
  | 0x03 => check6 (f.s == 0) s (execVcvtVfInt (adv f.d k.d) (adv f.a k.a) f.b f.w f.m 3 s)
  | 0x04 => check6 (f.s == 0) s (execVcvtVfInt (adv f.d k.d) (adv f.a k.a) f.b f.w f.m 4 s)
  | 0x05 => check6 (f.s == 0) s (execVcvtVfInt (adv f.d k.d) (adv f.a k.a) f.b f.w f.m 5 s)
  | 0x08 => check6 (f.s == 0) s (execVcvtIntVf (adv f.d k.d) (adv f.a k.a) f.b f.w f.m 0 s)
  | 0x09 => check6 (f.s == 0) s (execVcvtIntVf (adv f.d k.d) (adv f.a k.a) f.b f.w f.m 1 s)
  | 0x0A => check6 (f.s == 0) s (execVcvtIntVf (adv f.d k.d) (adv f.a k.a) f.b f.w f.m 2 s)
  | 0x0B => check6 (f.s == 0) s (execVcvtIntVf (adv f.d k.d) (adv f.a k.a) f.b f.w f.m 3 s)
  | 0x0C => check6 (f.s == 0) s (execVcvtIntVfRtz (adv f.d k.d) (adv f.a k.a) f.b f.w f.m 0 s)
  | 0x0D => check6 (f.s == 0) s (execVcvtIntVfRtz (adv f.d k.d) (adv f.a k.a) f.b f.w f.m 1 s)
  | 0x0E => check6 (f.s == 0) s (execVcvtIntVfRtz (adv f.d k.d) (adv f.a k.a) f.b f.w f.m 2 s)
  | 0x0F => check6 (f.s == 0) s (execVcvtIntVfRtz (adv f.d k.d) (adv f.a k.a) f.b f.w f.m 3 s)
  | 0x10 => check6 (f.s == 0) s (execVcvtVfIeee (adv f.d k.d) (adv f.a k.a) f.b f.w f.m 0 s)
  | 0x11 => check6 (f.s == 0) s (execVcvtVfIeee (adv f.d k.d) (adv f.a k.a) f.b f.w f.m 1 s)
  | 0x12 => check6 (f.s == 0) s (execVcvtVfIeee (adv f.d k.d) (adv f.a k.a) f.b f.w f.m 2 s)
  | 0x13 => check6 (f.s == 0) s (execVcvtVfIeee (adv f.d k.d) (adv f.a k.a) f.b f.w f.m 3 s)
  | 0x14 => check6 (f.s == 0) s (execVcvtIeeeVf (adv f.d k.d) (adv f.a k.a) f.b f.w f.m 0 s)
  | 0x15 => check6 (f.s == 0) s (execVcvtIeeeVf (adv f.d k.d) (adv f.a k.a) f.b f.w f.m 1 s)
  | 0x16 => check6 (f.s == 0) s (execVcvtIeeeVf (adv f.d k.d) (adv f.a k.a) f.b f.w f.m 2 s)
  | 0x17 => check6 (f.s == 0) s (execVcvtIeeeVf (adv f.d k.d) (adv f.a k.a) f.b f.w f.m 3 s)
  | _ => refuse s 2

/-- Major 0x68: array passes; ACC is advanced (R161, R166). -/
def replay68 (f : FmtL) (e : FmtXA) (k : Steps) (s : State) : Host.Outcome State Fault Refusal :=
  let acc := adv e.acc k.d
  match f.fn.toNat with
  | 0 => check5 (f.d == 0 && f.x == 0 && e.z == 0 && e.nb == 0 && passOk f.a e.sp e.sph e.spn) s
      (execArrMv f.a f.b f.c f.w acc e.gm e.sp e.sph e.spn e.sl s)
  | 1 => check5 (f.d == 0 && f.x == 0 && e.z == 0 && passOk f.a e.sp e.sph e.spn) s
      (check6 (acc.toNat + e.nb.toNat ≤ 15) s (execArrMm f.a f.b f.c f.w acc e.gm e.sp e.sph e.spn e.sl e.nb s))
  | _ => refuse s 2

/-- Major 0x69: drain; ACC is advanced (R161, R167). -/
def replay69 (f : FmtL) (e : FmtXD) (k : Steps) (s : State) : Host.Outcome State Fault Refusal :=
  let acc := adv e.acc k.d
  match f.fn.toNat with
  | 0 => check5 (f.d == 0 && f.b == 0 && f.x == 0 && e.z == 0 && e.dk.toNat ≤ 4 && (e.dk.toNat ≤ 1 || e.dst == 0) &&
        (e.dk == 1 || e.spn == 0) && (2 ≤ e.dk.toNat || f.a == 0)) s
      (check6 (acc.toNat + e.ns.toNat ≤ 15 && (e.dk != 0 || e.dst.toNat + e.ns.toNat ≤ 15)) s
        (execArrDrain f.a f.c f.w acc e.dk e.dst e.spn e.ns s))
  | _ => refuse s 2

/-- Run a captured pair of words with its fields advanced. -/
def replayWords (x e : BitVec 32) (k : Steps) (s : State) : Host.Outcome State Fault Refusal :=
  match (x.extractLsb' 25 7).toNat with
  | 0x40 => replay40 (.unpack x) k s
  | 0x41 => replay41 (.unpack x) k s
  | 0x42 => replay42 (.unpack x) k s
  | 0x45 => replay45 (.unpack x) k s
  | 0x50 => replay50 (.unpack x) k s
  | 0x51 => replay51 (.unpack x) k s
  | 0x52 => replay52 (.unpack x) k s
  | 0x53 => replay53 (.unpack x) k s
  | 0x54 => replay54 (.unpack x) k s
  | 0x55 => replay55 (.unpack x) k s
  | 0x56 => replay56 (.unpack x) k s
  | 0x68 => replay68 (.unpack x) (.unpack e) k s
  | 0x69 => replay69 (.unpack x) (.unpack e) k s
  | _ => refuse s 6

/-- REPEAT_REPLAY (R254): the body instruction at POS of iteration ITER. -/
def execRepeatReplay (s : State) : Host.Outcome State Fault Refusal :=
  let r := s.fib.rpt
  if !r.inBody || r.iter == 0 then .next s
  else match r.words[r.pos]? with
    | none => .next s
    | some (x, e) =>
      let k : Steps := { d := r.iter * bits r.word 10 3, a := r.iter * bits r.word 7 3
                         b := r.iter * bits r.word 4 3, c := r.iter * bits r.word 1 3 }
      let words := x.toNat + if wordsOf x = 2 then e.toNat * 2 ^ 32 else 0
      replayWords x e k (s.setCore fun c => { c with fetched := words })

end Sys2Proof.Machine
end

