-- ==== Sys2Proof/Machine/Posting.lean ====
section
/-! DEFINITION. The posting-list engine: majors 0x6C and 0x6D and PL_ENGINE_STEP (R99 to R102, R313 to R329). A single-cursor
instruction is one step; a multi-cursor instruction runs its first step when the engine serves it and parks between steps. -/

namespace Sys2Proof.Machine

/-- The posting block fault (R101, R329) (assumption 29). -/
def postFault {α : Type} (s : State) (sub : Nat) (val : Nat) : Ex α := trap s 0x0D sub (BitVec.ofNat 64 val)

/-- An engine read (R317): no byte in a remote window, and past the L1. -/
def engineRead (s : State) (va n : Nat) : Ex (State × List Byte) := do
  let (t, ps) ← s.access s.accLoad (BitVec.ofNat 64 va) n true
  t.loadPieces true ps

/-! ## Cursors -/

/-- ADDR of the captured descriptor (R102). -/
def Cursor.addr (c : Cursor) : Nat := field c.desc 0 8
/-- NBLK (R102). -/
def Cursor.nblk (c : Cursor) : Nat := field c.desc 8 4
/-- DF (R102). -/
def Cursor.df (c : Cursor) : Nat := field c.desc 12 4
/-- IDF (R102). -/
def Cursor.idf (c : Cursor) : Nat := field c.desc 16 4
/-- LEN (R102). -/
def Cursor.len (c : Cursor) : Nat := field c.desc 24 4

/-- State codes of a cursor (R314). -/
abbrev Cursor.before : Nat := 1
/-- On a posting. -/
abbrev Cursor.at_ : Nat := 2
/-- Past the last posting. -/
abbrev Cursor.ended : Nat := 3

/-- The status word (R314). -/
def Cursor.status (c : Cursor) : Nat :=
  c.st * 2 ^ 62 + (if c.sc then 2 ^ 61 else 0) + c.blk * 2 ^ 41 + c.tf * 2 ^ 32 + c.doc

/-- Past the end: BLK is NBLK, DOC and TF are 0 (R314). -/
def Cursor.toEnd (c : Cursor) : Cursor := { c with st := Cursor.ended, blk := c.nblk, doc := 0, tf := 0 }

/-- On posting `i` of the decoded block. -/
def Cursor.toPosting (c : Cursor) (i : Nat) : Cursor :=
  let p := c.block.getD i (0, 0)
  { c with st := Cursor.at_, i := i, doc := p.1, tf := p.2 }

/-- Bytes of a block (R100). -/
def blockSize (cnt dw tw : Nat) : Nat := 16 + ((((cnt - 1) * dw + 7) / 8 + (cnt * tw + 7) / 8 + 15) / 16) * 16

/-- Enter block `b` at a byte offset by header (R317): `sum` gives the sum of CNT with this block's. -/
def Cursor.enter (s : State) (c : Cursor) (b off prev : Nat) (sum : Nat → Nat) : Ex (State × Cursor) := do
  let va := c.addr + off
  let (t, h) ← engineRead s va 16
  let cnt := field h 1 1
  let size := blockSize cnt (field h 2 1) (field h 3 1)
  ensure (field h 0 1 == 0xD5 && decide (1 ≤ cnt) && decide (cnt ≤ 128) && decide (field h 2 1 ≤ 32) && decide (field h 3 1 ≤ 8))
    (postFault t 1 va)
  ensure (b == 0 || decide (prev < field h 4 4)) (postFault t 3 va)
  ensure (off + size ≤ c.len) (postFault t 5 va)
  ensure (b + 1 != c.nblk || (sum cnt == c.df && off + size == c.len)) (postFault t 5 va)
  .ok (t, { c with blk := b, off := off, prevLast := if b = 0 then 0 else prev, last := field h 8 4, cntSum := sum cnt,
                   known := true, cnt := cnt, size := size, block := [] })

/-- The header of the current block, read again where a restore left it unknown (R313). -/
def Cursor.renew (s : State) (c : Cursor) : Ex (State × Cursor) :=
  if c.known then .ok (s, c) else Cursor.enter s c c.blk c.off c.prevLast fun _ => c.cntSum

/-- A field of `w` bits at a stream position of bytes (R96). -/
def streamField (bs : List Byte) (pos w : Nat) : Nat := ofBytes (slice bs (pos / 8) ((w + 14) / 8)) / 2 ^ (pos % 8) % 2 ^ w

/-- Document ids from BASE and the deltas (R100). -/
def docIds (payload : List Byte) (dw : Nat) (doc : Nat) (i : Nat) : Nat → List Nat
  | 0 => [doc]
  | k + 1 => doc :: docIds payload dw (doc + streamField payload (i * dw) dw + 1) (i + 1) k

/-- Decode the current block with every check of R101 (R317). -/
def Cursor.decode (s : State) (c : Cursor) : Ex (State × Cursor) := do
  let (t, c) ← Cursor.enter s c c.blk c.off c.prevLast fun n => if c.known then c.cntSum - c.cnt + n else c.cntSum
  let va := c.addr + c.off
  let (t, bs) ← engineRead t va c.size
  let dw := field bs 2 1
  let tw := field bs 3 1
  let pay := bs.drop 16
  let dbytes := ((c.cnt - 1) * dw + 7) / 8
  let tbytes := (c.cnt * tw + 7) / 8
  ensure (crc32c pay == field bs 12 4) (postFault t 0 va)
  ensure (ofBytes (pay.take dbytes) / 2 ^ ((c.cnt - 1) * dw) == 0 &&
    ofBytes (slice pay dbytes tbytes) / 2 ^ (c.cnt * tw) == 0 && ofBytes (pay.drop (dbytes + tbytes)) == 0) (postFault t 1 va)
  let docs := docIds pay dw (field bs 4 4) 0 (c.cnt - 1)
  ensure (docs.getLastD 0 == field bs 8 4) (postFault t 2 va)
  let tfs := (List.range c.cnt).map fun i => streamField (pay.drop dbytes) (i * tw) tw + 1
  .ok (t, { c with block := docs.zip tfs })

/-- Decode unless the block is decoded already. -/
def Cursor.ready (s : State) (c : Cursor) : Ex (State × Cursor) := if c.block.isEmpty then Cursor.decode s c else .ok (s, c)

/-- Next(c) (R318). -/
def Cursor.next (s : State) (c : Cursor) : Ex (State × Cursor) :=
  if c.st = Cursor.before then
    if c.nblk = 0 then .ok (s, c.toEnd) else do
    let (t, x) ← Cursor.enter s c 0 0 0 fun n => n
    let (t, x) ← Cursor.decode t x
    .ok (t, x.toPosting 0)
  else if c.st = Cursor.at_ then do
    let (t, x) ← Cursor.renew s c
    if x.i + 1 < x.cnt then do
      let (t, x) ← Cursor.ready t x
      .ok (t, x.toPosting (x.i + 1))
    else if x.blk + 1 = x.nblk then .ok (t, x.toEnd)
    else do
      let (t, y) ← Cursor.enter t x (x.blk + 1) (x.off + x.size) x.last fun n => x.cntSum + n
      let (t, y) ← Cursor.decode t y
      .ok (t, y.toPosting 0)
  else .ok (s, c)

/-- Pass over blocks whose LAST is below the target (R318). -/
def Cursor.pass (s : State) (target : Nat) : Nat → Cursor → Ex (State × Cursor)
  | 0, c => .ok (s, c)
  | fuel + 1, c =>
    if c.last < target ∧ c.blk + 1 < c.nblk then do
      let (t, x) ← Cursor.renew s c
      let (t, x) ← Cursor.enter t x (x.blk + 1) (x.off + x.size) x.last fun n => x.cntSum + n
      Cursor.pass t target fuel { x with i := 0 }
    else .ok (s, c)

/-- SkipTo(c, T) (R318). -/
def Cursor.skipTo (s : State) (c : Cursor) (target : Nat) : Ex (State × Cursor) :=
  if c.st = Cursor.ended ∨ (c.st = Cursor.at_ ∧ target ≤ c.doc) then .ok (s, c)
  else if c.st = Cursor.before ∧ c.nblk = 0 then .ok (s, c.toEnd)
  else do
    let (t, x) ← if c.st = Cursor.before then do
        let (t, x) ← Cursor.enter s c 0 0 0 fun n => n
        .ok (t, { x with i := 0 })
      else .ok (s, c)
    let (t, x) ← Cursor.pass t target x.nblk x
    if x.last < target then .ok (t, x.toEnd)
    else do
      let (t, x) ← Cursor.ready t x
      let i := ((List.range x.block.length).find? fun i =>
        decide (x.i ≤ i) && decide (target ≤ (x.block.getD i (0, 0)).1)).getD x.i
      .ok (t, x.toPosting i)

/-- Posting(c) (R318). -/
def Cursor.posting (c : Cursor) : Word :=
  if c.st = Cursor.at_ then BitVec.ofNat 64 (c.tf * 2 ^ 32 + c.doc) else BitVec.allOnes 64

/-! ## Scores -/

/-- Term(c) (R319): every step rounded at 24 bits to nearest. -/
def Cursor.term (s : State) (c : Cursor) : Ex (State × FV) :=
  if !c.sc then .ok (s, FV.zero) else do
  ensure (c.doc < field c.scoring 8 4) (postFault s 6 c.doc)
  let (t, b) ← engineRead s (field c.scoring 0 8 + 2 * c.doc) 2
  let k1 := Ieee.f32.decode (field c.scoring 12 4)
  let bpar := Ieee.f32.decode (field c.scoring 16 4)
  let one := FV.ofInt 1
  let r (f : FOp2) (x y : FV) : FV := (f x y 24 .rne).1
  let idf := (FV.convert (.fin false c.idf (-16)) (Fmt.vf 24) .rne).1
  let tf := FV.ofInt c.tf
  let t1 := r FV.div (FV.ofInt (ofBytes b)) (vfDecode (field c.scoring 20 5))
  let t2 := r FV.mul bpar t1
  let t3 := r FV.sub one bpar
  let t4 := r FV.add t3 t2
  let t5 := r FV.mul k1 t4
  let t6 := r FV.add tf t5
  let t7 := r FV.add k1 one
  let t8 := r FV.mul tf t7
  .ok (t, r FV.mul idf (r FV.div t8 t6))

/-- A score as it leaves the engine (R319). -/
def scoreBits (x : FV) : Nat := if x.isNan then 0x7FC00000 else (Ieee.f32.of x .rne).1

/-! ## Naming cursors -/

/-- An open cursor of the chiplet in focus. -/
def State.cursor? (s : State) (n : Nat) : Option Cursor := s.chip.cursors.find? fun c => c.num == n

/-- Put a cursor back. -/
def State.putCursor (s : State) (c : Cursor) : State :=
  s.setChip fun x => { x with cursors := updAll (fun y => y.num == c.num) (fun _ => c) x.cursors }

/-- The cursor that a register names (R318): owned by the issuing skein. -/
def cursorOf (s : State) (v : Word) : Ex Cursor :=
  match s.cursor? v.toNat with
  | none => postFault s 4 v.toNat
  | some c => do
    ensure (decide (v.toNat < 32) && c.lid == s.fib.id.lid && c.skn == s.fib.id.skn) (postFault s 4 v.toNat)
    .ok c

/-- The engine has completed an instruction (R444). -/
def Unit_.oneMore (u : Unit_) : Unit_ := { u with completed := u.completed + 1 }

/-- A single-cursor instruction (R325): reads and the guest check, the earlier stores, the turn, then one step. -/
def engineOne (s : State) (before : State → Ex Unit) (body : State → Ex State) : Host.Outcome State Fault Refusal :=
  run s 1 do
    before s
    notGuest s
    let t ← if s.entered .engine then .ok s else s.allFirst
    let (t, _) ← takeTurn t .engine
    let t ← body t
    .ok (t.setChip fun c => { c with engine := c.engine.oneMore })

/-- A step on one cursor with a result in gd. -/
def cursorStep (s : State) (d a : GReg) (f : State → Cursor → Ex (State × Cursor)) : Host.Outcome State Fault Refusal :=
  engineOne s (fun t => do
    let _ ← readG t a
    destG t d) fun t => do
      let v ← readG t a
      let c ← cursorOf t v
      let (t, x) ← f t c
      .ok (setG (t.putCursor x) d x.posting)

/-- The descriptor checks of R315. -/
def descriptorOk (d : List Byte) : Bool :=
  let nblk := field d 8 4
  field d 0 8 % 16 == 0 && field d 28 4 == 0 && decide (nblk < 2 ^ 20) &&
    (nblk != 0 || (field d 12 4 == 0 && field d 24 4 == 0)) && field d 24 4 % 16 == 0 && decide (16 * nblk ≤ field d 24 4)

/-- The scoring block at an address, or zeros for address 0 (R315, R316). -/
def scoringBlock (s : State) (va : Nat) : Ex (State × List Byte) :=
  if va = 0 then .ok (s, List.replicate 32 0) else do
  ensure (va % 32 == 0) (postFault s 6 va)
  let (t, b) ← engineRead s va 32
  ensure (field b 0 8 % 2 == 0 && field b 25 7 == 0) (postFault t 6 va)
  ensure (field b 20 1 % 16 == 4) (trap t 0x08 0 (BitVec.ofNat 64 (va + 20)))
  .ok (t, b)

/-- `pl.open` (R315). -/
def execPlOpen (d a b : GReg) (s : State) : Host.Outcome State Fault Refusal :=
  engineOne s (fun t => do
    let _ ← readG t a
    let _ ← readG t b
    destG t d) fun t => do
      let va ← readG t a
      let sa ← readG t b
      ensure (va.toNat % 32 == 0) (postFault t 5 va.toNat)
      let (t, desc) ← engineRead t va.toNat 32
      ensure (descriptorOk desc) (postFault t 5 va.toNat)
      let (t, sc) ← scoringBlock t sa.toNat
      match (List.range 32).find? fun n => (t.cursor? n).isNone with
      | none => .ok (setG t d (BitVec.allOnes 64))
      | some n =>
        let c : Cursor := { num := n, lid := t.fib.id.lid, skn := t.fib.id.skn, desc := desc, scoring := sc, sc := sa != 0,
                            st := Cursor.before, blk := 0, i := 0, tf := 0, doc := 0, cntSum := 0, off := 0, last := 0,
                            prevLast := 0, known := false, cnt := 0, size := 0, block := [] }
        .ok (setG (t.setChip fun x => { x with cursors := x.cursors ++ [c] }) d (BitVec.ofNat 64 n))

/-- `pl.close` (R318). -/
def execPlClose (a : GReg) (s : State) : Host.Outcome State Fault Refusal :=
  engineOne s (fun t => do
    let _ ← readG t a
    .ok ()) fun t => do
      let v ← readG t a
      let c ← cursorOf t v
      .ok (t.setChip fun x => { x with cursors := x.cursors.filter fun y => y.num != c.num })

/-- `pl.next` (R318). -/
def execPlNext (d a : GReg) (s : State) : Host.Outcome State Fault Refusal := cursorStep s d a Cursor.next

/-- `pl.skip` (R318): the target lies below 2^32. -/
def execPlSkip (d a b : GReg) (s : State) : Host.Outcome State Fault Refusal :=
  engineOne s (fun t => do
    let _ ← readG t a
    let _ ← readG t b
    destG t d) fun t => do
      let v ← readG t a
      let target ← readG t b
      let c ← cursorOf t v
      ensure (bits target 32 32 == 0) (postFault t 8 target.toNat)
      let (t, x) ← Cursor.skipTo t c target.toNat
      .ok (setG (t.putCursor x) d x.posting)

/-- `pl.score` (R318, R319). -/
def execPlScore (d a : GReg) (s : State) : Host.Outcome State Fault Refusal :=
  engineOne s (fun t => do
    let _ ← readG t a
    destG t d) fun t => do
      let v ← readG t a
      let c ← cursorOf t v
      ensure (c.st == Cursor.at_) (postFault t 4 v.toNat)
      let (t, x) ← Cursor.term t c
      .ok (setG t d (BitVec.ofNat 64 (scoreBits x)))

/-- `pl.stat` (R314, R318): zero for a closed cursor. -/
def execPlStat (d a : GReg) (s : State) : Host.Outcome State Fault Refusal :=
  engineOne s (fun t => do
    let _ ← readG t a
    destG t d) fun t => do
      let v ← readG t a
      if v.toNat < 32 ∧ (t.cursor? v.toNat).isNone then .ok (setG t d 0)
      else do
        let c ← cursorOf t v
        .ok (setG t d (BitVec.ofNat 64 c.status))

/-! ## Records -/

/-- A record: document id and binary32 pattern (R320). -/
abbrev Record := Nat × Nat
/-- The terminator (R320). -/
abbrev Record.term : Record := (0xFFFFFFFF, 0xFFFFFFFF)
/-- The filler (R320). -/
abbrev Record.filler : Record := (0xFFFFFFFF, 0xFFFFFFFE)

/-- Bytes of records. -/
def recordsBytes (rs : List Record) : List Byte := (rs.map fun r => bytesOf 4 r.1 ++ bytesOf 4 r.2).flatten

/-- Records of bytes. -/
def recordsOf (bs : List Byte) : List Record :=
  (List.range (bs.length / 8)).map fun i => (field bs (8 * i) 4, field bs (8 * i + 4) 4)

/-- Emit records into one output slot, the rest of it fillers, and count it (R320); false when no slot is free (assumption 8). -/
def emitSlot (s : State) (osp : Option Nat) (rs : List Record) : Option State :=
  match osp with
  | none => some s
  | some h =>
    if rs.isEmpty then some s else
    let q := s.spool h
    if q.nslot ≤ q.fill then none else
    let fill := List.replicate (q.slotBytes / 8 - rs.length) Record.filler
    some ((s.fillSlot s.core.num h 0 (recordsBytes (rs ++ fill))).countSlots s.core.num h 1)

/-- Records that a step emits at most: those of one output slot; 32 where nothing is emitted (assumption 8). -/
def stepCap (s : State) (osp : Option Nat) : Nat :=
  match osp with
  | none => 32
  | some h => (s.spool h).slotBytes / 8

/-- What a step gives: none where it waits on a spool; else the state, the job, and gd's value when it is the last. -/
abbrev StepResult := Option (State × EngineJob × Option Word)

/-- gd of an instruction that ends its lists (R321 to R323). -/
def endWord (n : Nat) : Word := BitVec.ofNat 64 (2 ^ 63 + n)

/-! ## Intersection and union -/

/-- Run an operation over cursors in order. -/
def overCursors (f : State → Cursor → Ex (State × Cursor)) : List Cursor → State → Ex (State × List Cursor)
  | [], s => .ok (s, [])
  | c :: cs, s => do
    let (t, x) ← f s c
    let (t, r) ← overCursors f cs t
    .ok (t, x :: r)

/-- The scores of matching cursors summed in order (R321). -/
def sumTerms : List Cursor → Option FV → State → Ex (State × FV)
  | [], acc, s => .ok (s, acc.getD FV.zero)
  | c :: cs, acc, s => do
    let (t, x) ← Cursor.term s c
    sumTerms cs (some (match acc with
      | none => x
      | some a => (a.add x 24 .rne).1)) t

/-- The loop of R321 within one step: cursors, records emitted, count, and gd when the instruction ends. -/
def mergeLoop (isect emit : Bool) (limit cap : Nat) :
    Nat → State → List Cursor → List Record → Nat → Nat → Ex (State × List Cursor × List Record × Nat × Option Word)
  | 0, s, cs, rs, out, _ => .ok (s, cs, rs, out, none)
  | fuel + 1, s, cs, rs, out, done =>
    let ended : Bool := if isect then cs.any fun c => c.st == Cursor.ended else cs.all fun c => c.st == Cursor.ended
    if ended then
      if emit then
        if rs.length = cap then .ok (s, cs, rs, out, none)
        else .ok (s, cs, rs ++ [Record.term], out, some (endWord out))
      else .ok (s, cs, rs, out, some (endWord out))
    else if out = limit then .ok (s, cs, rs, out, some (BitVec.ofNat 64 out))
    else if done = cap then .ok (s, cs, rs, out, none)
    else do
      let live := cs.filter fun c => c.st != Cursor.ended
      let d := if isect then cs.foldl (fun m c => max m c.doc) 0
        else live.foldl (fun m c => min m c.doc) ((live.headD (cs.headD default')).doc)
      let (s, cs) ← if isect then overCursors (fun t c => Cursor.skipTo t c d) cs s else .ok (s, cs)
      if isect && cs.any fun c => c.st == Cursor.ended || c.doc != d then
        mergeLoop isect emit limit cap fuel s cs rs out done
      else do
        let hit (c : Cursor) : Bool := c.st == Cursor.at_ && c.doc == d
        let (s, rs) ← if emit then do
            let (s, x) ← sumTerms (cs.filter hit) none s
            .ok (s, rs ++ [(d, scoreBits x)])
          else .ok (s, rs)
        let (s, cs) ← overCursors (fun t c => if hit c then Cursor.next t c else .ok (t, c)) cs s
        mergeLoop isect emit limit cap fuel s cs rs (out + 1) (done + 1)
where
  default' : Cursor := { num := 0, lid := 0, skn := 0, desc := [], scoring := [], sc := false, st := 0, blk := 0, i := 0,
                         tf := 0, doc := 0, cntSum := 0, off := 0, last := 0, prevLast := 0, known := false, cnt := 0,
                         size := 0, block := [] }

/-- The cursor numbers of g[ga] (R321). -/
def cursorNames (v : Word) (nc : Nat) : List Nat := (List.range nc).map fun i => bits v (5 * i) 5

/-- The cursors of a multi-cursor instruction with their checks (R321). -/
def namedCursors (s : State) : List Nat → Ex (List Cursor)
  | [] => .ok []
  | n :: ns => do
    let c ← cursorOf s (BitVec.ofNat 64 n)
    let r ← namedCursors s ns
    .ok (c :: r)

/-- The first number that stands in a list twice. -/
def firstTwice : List Nat → Option Nat
  | [] => none
  | n :: ns => if ns.contains n then some n else firstTwice ns

/-- A step of `pl.isect` or `pl.union` (R321). Where bits of g[ga] above the names of its cursors are not zero, TVAL is all of g[ga], for
the manual names no cursor then (R329) (assumption 29). -/
def mergeStep (s : State) (j : EngineJob) : Ex StepResult := do
  ensure (j.ga.toNat / 2 ^ (5 * j.nc) == 0) (postFault s 4 j.ga.toNat)
  match firstTwice (cursorNames j.ga j.nc) with
  | some n => postFault s 4 n
  | none => do
    let cs ← namedCursors s (cursorNames j.ga j.nc)
    ensure (decide (1 ≤ j.gb.toNat) && decide (j.gb.toNat ≤ 65536)) (postFault s 8 j.gb.toNat)
    let (t, cs) ← overCursors (fun t c => if c.st = Cursor.before then Cursor.next t c else .ok (t, c)) cs s
    let cap := stepCap s j.osp
    let fuel := (cs.map fun c => 128 * c.nblk).sum + cap + 2
    let (t, cs, rs, out, fin) ← mergeLoop (j.kind == 0) j.osp.isSome j.gb.toNat cap fuel t cs [] j.out 0
    match emitSlot t j.osp rs with
    | none => .ok none
    | some t => .ok (some (cs.foldl State.putCursor t, { j with out := out, first := false }, fin))

/-! ## Fusion -/

/-- The block at g[gb] in the local scratchpad (R322, R323): its pieces and bytes. Its place is tested before its alignment (assumption
29). -/
def localBlock (s : State) (va : Word) (n : Nat) : Ex (State × List Piece × List Byte) := do
  let (t, ps) ← localAccess s s.accAtomic va n
  ensure (va.toNat % 16 == 0) (postFault t 8 va.toNat)
  let (t, bs) ← localBytes t ps
  .ok (t, ps, bs)

/-- Write a field of a block. -/
def putField (s : State) (ps : List Piece) (off : Nat) (bs : List Byte) : State := putLocal s (cutPieces off bs.length ps) bs

/-- The records of the head input slot (R320). -/
def headSlot (s : State) (h : Nat) : Ex (State × List Record) := do
  let q := s.spool h
  let t := detectSlots s q 1
  let bs ← spoolBytes t q 0 q.slotBytes
  .ok (t, recordsOf bs)

/-- Fused(d, lex, vec) (R322). -/
def fusedBits (wlex wvec lex vec : FV) : Nat :=
  scoreBits (((wlex.mul lex 24 .rne).1.add (wvec.mul vec 24 .rne).1 24 .rne).1)

/-- What the fusion loop carries. -/
structure Fusing where
  vix : Nat
  rpos : Nat
  out : Nat
  lex : Option Nat
  map : Option Nat
  rs : List Record
  release : Bool
  fin : Option Word
  deriving DecidableEq, Repr

/-- The constants of a fusion block (R322). -/
structure FuseBlock where
  vec : Nat
  map : Nat
  nvec : Nat
  wlex : FV
  wvec : FV
  deriving DecidableEq, Repr

/-- Entry `i` of a table of 32-bit words. -/
def readEntry (s : State) (base i : Nat) : Ex (State × Nat) := do
  let (t, b) ← engineRead s (base + 4 * i) 4
  .ok (t, ofBytes b)

/-- Whether a document id does not exceed the one before it. -/
def outOfOrder (prev : Option Nat) (d : Nat) : Bool :=
  match prev with
  | none => false
  | some p => decide (d ≤ p)

/-- The loop of R322 within one step. -/
def fuseLoop (b : FuseBlock) (recs : List Record) (cap : Nat) : Nat → State → Fusing → Ex (State × Fusing)
  | 0, s, f => .ok (s, f)
  | fuel + 1, s, f =>
    if recs.length ≤ f.rpos then .ok (s, { f with release := true, rpos := 0 }) else
    let r := recs.getD f.rpos Record.filler
    if r = Record.filler then fuseLoop b recs cap fuel s { f with rpos := f.rpos + 1 }
    else if f.rs.length = cap then .ok (s, f)
    else do
      let isEnd := r == Record.term
      ensure (isEnd || !outOfOrder f.lex r.1) (postFault s 7 r.1)
      let (s, m) ← if f.vix < b.nvec then do
          let (s, m) ← readEntry s b.map f.vix
          ensure (!outOfOrder f.map m) (postFault s 7 m)
          .ok (s, some m)
        else .ok (s, none)
      match m with
      | some m =>
        if isEnd || decide (m ≤ r.1) then do
          let (s, v) ← readEntry s b.vec f.vix
          let both := !isEnd && m == r.1
          let lex := if both then Ieee.f32.decode r.2 else FV.zero
          let f := { f with vix := f.vix + 1, map := some m, out := f.out + 1,
                            rs := f.rs ++ [(m, fusedBits b.wlex b.wvec lex (Ieee.f32.decode v))] }
          fuseLoop b recs cap fuel s (if both then { f with rpos := f.rpos + 1, lex := some r.1 } else f)
        else lexOnly fuel s f r
      | none =>
        if isEnd then
          .ok (s, { f with rs := f.rs ++ [Record.term], release := true, rpos := 0, fin := some (endWord f.out) })
        else lexOnly fuel s f r
where
  lexOnly (fuel : Nat) (s : State) (f : Fusing) (r : Record) : Ex (State × Fusing) :=
    fuseLoop b recs cap fuel s { f with rpos := f.rpos + 1, lex := some r.1, out := f.out + 1,
                                        rs := f.rs ++ [(r.1, fusedBits b.wlex b.wvec (Ieee.f32.decode r.2) FV.zero)] }

/-- Take and release the head input slot (R287, R320). -/
def takeSlot (s : State) (h : Nat) : State := s.onSpool h fun q => q.release 1

/-- A step of `pl.fuse` (R322). -/
def fuseStep (s : State) (j : EngineJob) : Ex StepResult :=
  if (s.spool j.isp).fill = 0 then .ok none else do
  let (t, ps, blk) ← localBlock s j.gb 48
  let b : FuseBlock := { vec := field blk 0 8, map := field blk 8 8, nvec := field blk 16 4,
                         wlex := Ieee.f32.decode (field blk 24 4), wvec := Ieee.f32.decode (field blk 28 4) }
  let vix := field blk 20 4
  let nrec := (t.spool j.isp).slotBytes / 8
  ensure (b.vec % 4 == 0 && b.map % 4 == 0 && ofBytes (slice blk 34 14) == 0 && decide (b.nvec ≤ 2 ^ 24) &&
    decide (vix ≤ b.nvec) && decide (field blk 32 2 < nrec)) (postFault t 8 j.gb.toNat)
  let (t, recs) ← headSlot t j.isp
  let (t, map) ← if j.first && decide (0 < vix) then do
      let (t, m) ← readEntry t b.map (vix - 1)
      .ok (t, some m)
    else .ok (t, j.map)
  let cap := stepCap t j.osp
  let (t, f) ← fuseLoop b recs cap (nrec + cap + 2) t
    { vix := vix, rpos := field blk 32 2, out := j.out, lex := j.lex, map := map, rs := [], release := false, fin := none }
  match emitSlot t j.osp f.rs with
  | none => .ok none
  | some t =>
    let t := putField t ps 20 (bytesOf 4 f.vix)
    let t := putField t ps 32 (bytesOf 2 f.rpos)
    .ok (some (if f.release then takeSlot t j.isp else t,
      { j with out := f.out, lex := f.lex, map := f.map, first := false }, f.fin))

/-! ## Top-k selection -/

/-- Whether one record ranks before another (R323). -/
def ranksBefore (a b : Record) : Bool :=
  let x := Ieee.f32.decode a.2
  let y := Ieee.f32.decode b.2
  if x.isNan && y.isNan then decide (a.1 < b.1)
  else if x.isNan then false
  else if y.isNan then true
  else match x.cmp y with
    | some .gt => true
    | some .lt => false
    | _ => decide (a.1 < b.1)

/-- Whether one record is kept before another: by rank, and among equals of one document by the score's pattern, so that the held set
depends on the records taken alone (R323). -/
def keptBefore (a b : Record) : Bool := ranksBefore a b || (!ranksBefore b a && decide (a.2 < b.2))

/-- Insert a record into a list in the order in which records are kept. -/
def rankInsert (r : Record) : List Record → List Record
  | [] => [r]
  | x :: xs => if keptBefore r x then r :: x :: xs else x :: rankInsert r xs

/-- A held record as the engine emits it: every NaN is 0x7FC0_0000 (R319, R320). -/
def emitted (r : Record) : Record := (r.1, if (Ieee.f32.decode r.2).isNan then 0x7FC00000 else r.2)

/-- Records of a slot up to its terminator, without fillers, and whether the terminator stands there. -/
def takeRecords : List Record → List Record × Bool
  | [] => ([], false)
  | r :: rs =>
    if r = Record.term then ([], true)
    else if r = Record.filler then takeRecords rs
    else (r :: (takeRecords rs).1, (takeRecords rs).2)

/-- A step of `pl.topk` (R323). Its count so far is CNT in phase 0 and in phase 1 (R326) (assumption 29). -/
def topkStep (s : State) (j : EngineJob) : Ex StepResult := do
  let (t, _, h) ← localBlock s j.gb 16
  let k := field h 0 2
  let cnt := field h 2 2
  let ph := field h 4 1
  let epos := field h 6 2
  ensure (decide (1 ≤ k) && decide (k ≤ 1024) && decide (cnt ≤ k) && decide (ph ≤ 1) && field h 5 1 == 0 && field h 8 8 == 0 &&
    decide (epos ≤ cnt)) (postFault t 8 j.gb.toNat)
  let (t, ps, blk) ← localBlock t j.gb (16 + 8 * k)
  let held := (recordsOf (blk.drop 16)).take cnt
  if ph = 0 then
    if (t.spool j.isp).fill = 0 then .ok none else do
    let (t, recs) ← headSlot t j.isp
    let got := takeRecords recs
    let kept := ((held ++ got.1).foldl (fun l r => rankInsert r l) []).take k
    let t := putField t ps 2 (bytesOf 2 kept.length ++ bytesOf 1 (if got.2 then 1 else 0))
    let t := putField t ps 16 (recordsBytes kept)
    .ok (some (takeSlot t j.isp, { j with out := kept.length, first := false }, none))
  else
    let cap := stepCap t j.osp
    let part := ((held.drop epos).take cap).map emitted
    let last := epos + part.length == cnt && decide (part.length < cap)
    match emitSlot t j.osp (if last then part ++ [Record.term] else part) with
    | none => .ok none
    | some t =>
      let t := putField t ps 4 (bytesOf 1 (if last then 0 else 1) ++ bytesOf 1 0 ++ bytesOf 2 (if last then 0 else epos + part.length))
      .ok (some (t, { j with out := cnt, first := false }, if last then some (endWord cnt) else none))

/-! ## Service -/

/-- The spools of a multi-cursor instruction (R320), and one step of it (assumption 8). -/
def engineStep (s : State) (j : EngineJob) : Ex StepResult := do
  let osp ← match j.osp with
    | none => .ok none
    | some name => do
      let h ← spoolNo s name
      ensure ((s.spool h).en && !(s.spool h).bnd) (spoolFault s name)
      .ok (some h)
  let isp ← if 2 ≤ j.kind then do
      let h ← spoolNo s j.isp
      ensure (s.spool h).en (spoolFault s j.isp)
      .ok h
    else .ok 0
  let k := { j with osp := osp, isp := isp }
  let r ← if j.kind < 2 then mergeStep s k else if j.kind = 2 then fuseStep s k else topkStep s k
  .ok (r.map fun x => (x.1, { x.2.1 with osp := j.osp, isp := j.isp }, x.2.2))

/-- The engine has served the core in focus. -/
def servedEngine (s : State) : State := s.setChip fun c => { c with engine := { c.engine with last := s.coreIndex } }

/-- Park between steps, at the head of the core's entries (R325). -/
def parkEngine (s : State) (j : EngineJob) : State :=
  let s := s.setChip fun c => { c with engine :=
    { c.engine with queue := s.capture :: c.engine.queue.filter fun e => e.fib != s.fib.id } }
  parkAs s (.engine j)

/-- What a step leaves: parked for the next one, or gd written and the instruction retired (R325, R326) (assumption 29). -/
def afterStep (s : State) (j : EngineJob) (r : StepResult) : State :=
  match r with
  | none => parkEngine (servedEngine s) { j with waits := true }
  | some (t, k, none) => parkEngine (servedEngine t) { k with waits := false }
  | some (t, k, some v) =>
    let t := t.setChip fun c => { c with engine := { c.engine with
      queue := c.engine.queue.filter fun e => e.fib != t.fib.id }.oneMore }
    retire (setG (servedEngine t) k.d v) 2

/-- The spools that a multi-cursor instruction names are allocated (R172 step 7). -/
def spoolNames (s : State) : List Nat → Ex Unit
  | [] => .ok ()
  | n :: ns => do
    let _ ← spoolNo s n
    spoolNames s ns

/-- A multi-cursor instruction (R325): the checks of R172, the W hold, the reads, then its first step when the engine serves it. -/
def engineMulti (s : State) (w : BitVec 1) (spools : List Nat) (j : State → Ex EngineJob) : Host.Outcome State Fault Refusal :=
  conclude (ending s 2 do
    spoolNames s spools
    let t ← if s.entered .engine then .ok s else waitW s w
    let k ← j t
    destG t k.d
    notGuest t
    let t ← if s.entered .engine then .ok t else t.allFirst
    let (t, _) ← takeTurn t .engine
    let r ← engineStep t k
    .ok (afterStep t k r))

/-- The job of an intersection or union. -/
def mergeJob (s : State) (kind : Nat) (d a b : GReg) (nc : BitVec 3) (out : BitVec 1) (osp : BitVec 4) : Ex EngineJob := do
  let x ← readG s a
  let y ← readG s b
  .ok { kind := kind, d := d, ga := x, gb := y, nc := nc.toNat + 1, osp := if out = 1 then some osp.toNat else none, isp := 0,
        out := 0, first := true, lex := none, map := none, waits := false }

/-- The job of a fusion or selection. -/
def streamJob (s : State) (kind : Nat) (d b : GReg) (osp isp : BitVec 4) : Ex EngineJob := do
  let y ← readG s b
  .ok { kind := kind, d := d, ga := 0, gb := y, nc := 0, osp := some osp.toNat, isp := isp.toNat, out := 0, first := true,
        lex := none, map := none, waits := false }

/-- `pl.isect` (R321, R324). -/
def execPlIsect (d a b : GReg) (w : BitVec 1) (nc : BitVec 3) (out : BitVec 1) (osp : BitVec 4) (s : State) :
    Host.Outcome State Fault Refusal := engineMulti s w (if out = 1 then [osp.toNat] else []) fun t => mergeJob t 0 d a b nc out osp
/-- `pl.union` (R321, R324). -/
def execPlUnion (d a b : GReg) (w : BitVec 1) (nc : BitVec 3) (out : BitVec 1) (osp : BitVec 4) (s : State) :
    Host.Outcome State Fault Refusal := engineMulti s w (if out = 1 then [osp.toNat] else []) fun t => mergeJob t 1 d a b nc out osp
/-- `pl.fuse` (R322, R324). -/
def execPlFuse (d b : GReg) (w : BitVec 1) (osp isp : BitVec 4) (s : State) : Host.Outcome State Fault Refusal :=
  engineMulti s w [osp.toNat, isp.toNat] fun t => streamJob t 2 d b osp isp
/-- `pl.topk` (R323, R324). -/
def execPlTopk (d b : GReg) (w : BitVec 1) (osp isp : BitVec 4) (s : State) : Host.Outcome State Fault Refusal :=
  engineMulti s w [osp.toNat, isp.toNat] fun t => streamJob t 3 d b osp isp

/-- The job of a fibre parked between steps. -/
def Fibre.engineJob (f : Fibre) : Option EngineJob :=
  match f.park with
  | some (.engine j) => some j
  | _ => none

/-- PL_ENGINE_STEP (R325): the next step of a fibre's instruction, when it is the engine's turn. -/
def execPlEngineStep (f : FibreId) (s : State) : Host.Outcome State Fault Refusal :=
  match (s.fibre? f).bind Fibre.engineJob with
  | none => .next s
  | some j =>
    let t := s.focus f
    if t.chip.engine.next.any fun e => e.fib == f then
      match engineStep t j with
      | .error ⟨_, .park _⟩ => .next s
      | .error h => stopped { h with st := servedEngine (h.st.setChip fun c => { c with engine :=
          { c.engine with queue := c.engine.queue.filter fun e => e.fib != f } }) }
      | .ok r => .next (afterStep t j r)
    else .next s

/-- A pre-emption stops a multi-cursor instruction at its step boundary (R326): gd takes its count with END = 0. -/
def State.engineStop (s : State) (f : FibreId) : State :=
  match (s.fibre? f).bind Fibre.engineJob with
  | none => s
  | some j =>
    let shadow := match s.fibre? f with
      | some x => x.inev
      | none => false
    (s.putReg f shadow j.d (BitVec.ofNat 64 j.out) Fill.full).finish f 2

end Sys2Proof.Machine
end

