-- ==== Sys2Proof/Machine/Checkpoint.lean ====
section
/-! DEFINITION. The dispatcher's own accesses, the checkpoint images of fibres and skeins (R419 to R421), and fills into a
register or into its image (R127). -/

namespace Sys2Proof.Machine

/-! ## Accesses of the dispatcher and its agents -/

/-- Translate an address under an ASID from memory, past every translation cache; none where it does not translate, an empty hash group
among the reasons (R47). The R and W bits of the leaf are not asked: the manual does not say that they bind the dispatcher (assumption
9). -/
def State.agentLeaf (s : State) (asid va : Nat) : Option (Word × Nat) :=
  match (walk { s with chip := { s.chip with tlb := [] } } asid va).1 with
  | .leaf l pa => if (s.homeOf l pa).isSome then some (l, pa) else none
  | _ => none

/-- The parts of a range that lie on one page each. -/
def pageSpans : Nat → Nat → Nat → List (Nat × Nat)
  | 0, _, _ => []
  | fuel + 1, va, n =>
    if n = 0 then [] else
    let m := min n (2 ^ 16 - va % 2 ^ 16)
    (va, m) :: pageSpans fuel (va + m) (n - m)

/-- The parts of a range. -/
def spansOf (va n : Nat) : List (Nat × Nat) := pageSpans (n / 2 ^ 16 + 2) va n

/-- Read bytes under an ASID; a part that does not translate reads 0 (assumption 9). -/
def State.agentRead (s : State) (asid va n : Nat) : List Byte :=
  (spansOf va n).flatMap fun p =>
    match s.agentLeaf asid p.1 with
    | none => List.replicate p.2 0
    | some (l, pa) => s.viewBytes (s.key (leafKey l)) pa p.2

/-- The words of a range under an ASID meet their syndromes (R437). -/
def State.agentDetect (s : State) (asid va n : Nat) : State :=
  (spansOf va n).foldl (fun s p =>
    match s.agentLeaf asid p.1 with
    | none => s
    | some (_, pa) => s.detect pa p.2) s

/-- Read a 64-bit value. -/
def State.agentWord (s : State) (asid va : Nat) : Word := BitVec.ofNat 64 (ofBytes (s.agentRead asid va 8))

/-- Write bytes under an ASID; a part that does not translate is not written (assumption 9). -/
def State.agentWrite (s : State) (asid va : Nat) (bs : List Byte) : State :=
  (spansOf va bs.length).foldl (fun s p =>
    match s.agentLeaf asid p.1 with
    | none => s
    | some (l, pa) => s.perform (keyArg l) pa (slice bs (p.1 - va) p.2)) s

/-- Write a 64-bit value. -/
def State.agentPut (s : State) (asid va : Nat) (v : Word) : State := s.agentWrite asid va (bytesOf 8 v.toNat)

/-- Mark the words of a range poisoned. -/
def State.agentPoison (s : State) (asid va n : Nat) : State :=
  (List.range (n / 8)).foldl (fun s i =>
    match s.agentLeaf asid (va + 8 * i) with
    | none => s
    | some (_, pa) => s.markPoison (pa / 8)) s

/-- Whether some word of a range is poisoned. -/
def State.agentBad (s : State) (asid va n : Nat) : Bool :=
  (List.range (n / 8)).any fun i =>
    match s.agentLeaf asid (va + 8 * i) with
    | none => false
    | some (_, pa) => s.poisonedWord (pa / 8)

/-- Give the words of one range the full/empty bits and poison marks of another of the same length (R421). -/
def State.copyMarks (s : State) (src dst n : Nat) : State :=
  let map (l : List Nat) : List Nat :=
    let kept := l.filter fun w => !(decide (dst / 8 ≤ w) && decide (w < (dst + n) / 8))
    (l.filter fun w => decide (src / 8 ≤ w) && decide (w < (src + n) / 8)).foldl (fun m w => setIns (w - src / 8 + dst / 8) m) kept
  s.setDev fun d => { d with empt := map d.empt, pois := map d.pois }

/-- Store a scratchpad region whole in its image (R421). -/
def State.saveRegion (s : State) (asid va pad n : Nat) : State :=
  (spansOf va n).foldl (fun s p =>
    match s.agentLeaf asid p.1 with
    | none => s
    | some (l, pa) =>
      let src := pad + (p.1 - va)
      let s := s.detect src p.2
      (s.perform (keyArg l) pa (s.homeBytes src p.2)).copyMarks src pa p.2) s

/-- Load a scratchpad region whole from its image (R421). -/
def State.loadRegion (s : State) (asid va pad n : Nat) : State :=
  (spansOf va n).foldl (fun s p =>
    match s.agentLeaf asid p.1 with
    | none => s
    | some (l, pa) =>
      let dst := pad + (p.1 - va)
      (s.writeHome dst (s.viewBytes (s.key (leafKey l)) pa p.2)).copyMarks pa dst p.2) s

/-! ## Places in the checkpoint area -/

/-- SB (R419). -/
def Launch.blockSize (l : Launch) : Nat :=
  (0x8000 + l.accn * 0x2800 + l.sclen * 0x10000 + (l.fm1 + 1) * 0x1400 + 0xFFF) / 0x1000 * 0x1000

/-- The block of a skein (R419). -/
def Launch.blockAt (l : Launch) (skn : Nat) : Nat := l.ckpt + skn * l.blockSize

/-- The image of XACC set `i` of a skein (R419). -/
def Launch.setAt (l : Launch) (skn i : Nat) : Nat := l.blockAt skn + 0x8000 + i * 0x2800

/-- The image of a skein's scratchpad region (R419). -/
def Launch.regionAt (l : Launch) (skn : Nat) : Nat := l.blockAt skn + 0x8000 + l.accn * 0x2800

/-- The slot of a fibre (R419, R420). -/
def Launch.slotAt (l : Launch) (skn fix : Nat) : Nat := l.regionAt skn + l.sclen * 0x10000 + fix * 0x1400

/-- The scratchpad region of a skein on a core (R415): physical address and length. -/
def Launch.region (l : Launch) (core : Nat) : Nat × Nat :=
  (padAddr (core / 4) ((l.scoff + core % 4 * l.sclen) * 0x10000), l.sclen * 0x10000)

/-! ## A fibre's image -/

/-- WST (R420). -/
def Fibre.wst (f : Fibre) : Word :=
  let rest := [(16, 4, f.rgn.count), (14, 1, 1)]
  match f.bwait with
  | none => wordOf rest
  | some b => wordOf ([(32, 32, b.phase), (31, 1, 1), (29, 2, if b.domain then 2 else 1), (26, 3, b.level), (21, 5, b.bar),
      (20, 1, ofBool b.parity)] ++ rest)

/-- The window bytes that hold the live registers (R129). -/
def Fibre.windowBytes (f : Fibre) : List Byte :=
  let n := vfBytes (precP f.prec)
  bytesOf 256 (((List.range f.flive).map fun i => (f.f.getD i 0).toNat % 2 ^ (8 * n) * 2 ^ (8 * n * i)).sum)

/-- The captured words of a frame, one after another (R138). -/
def Frame.flat (r : Frame) : List (BitVec 32) := r.words.flatMap fun w => if wordsOf w.1 = 2 then [w.1, w.2] else [w.1]

/-- Captured words as pairs of base and extension word. -/
def pairWords : Nat → List (BitVec 32) → List (BitVec 32 × BitVec 32)
  | 0, _ => []
  | _, [] => []
  | fuel + 1, x :: xs => if wordsOf x = 2 then (x, xs.headD 0) :: pairWords fuel (xs.drop 1) else (x, 0) :: pairWords fuel xs

/-- A register with its GS field as 16 bytes (R420) (assumption 30). -/
def regImage (b : Bank) (r : Nat) : List Byte :=
  bytesOf 8 (b.val.getD r 0).toNat ++ bytesOf 8 (b.fill.getD r 0).toNat

/-- The header of a fibre slot (R420). -/
def Fibre.header (f : Fibre) : List Byte :=
  [f.pc, f.fst, f.prec, f.fwin, f.wmask.setWidth 64, f.tokens.word, f.rgn.word, f.wst].flatMap fun w => bytesOf 8 w.toNat

/-- The units of R147 with their places in the slot (R420): dirty index, offset, bytes, poisoned. The window has the chunks that FWIN.SIZE
gives it (R128). -/
def Fibre.units (f : Fibre) (k : Skein) : List (Nat × Nat × List Byte × Bool) :=
  ((List.range 8).map fun r => (Dirty.g r, 0x40 + 16 * r, regImage f.bank r, false)) ++
  (((List.range 8).filter fun c => decide (32 * c < winBytes f.winSize)).map fun c =>
    (Dirty.f c, 0x100 + 32 * c, slice f.windowBytes (32 * c) 32, f.fbad.getD c 0 != 0)) ++
  ((List.range 7).map fun i => (Dirty.m (i + 1), 0x200 + 16 * i, bytesOf 16 (f.m.getD (i + 1) 0).toNat, f.mbad.getD (i + 1) false)) ++
  [(Dirty.bbuf, 0x270, bytesOf 16 f.bb.masked ++ bytesOf 8 f.bb.cnt ++ bytesOf 8 f.bb.addr.toNat, false),
   (Dirty.snap, 0x290, ((List.range 8).flatMap fun r => bytesOf 8 (f.rgn.snap.val.getD r 0).toNat) ++
      bytesOf 8 f.rgn.snap.gstate.toNat ++ bytesOf 8 f.rgn.prec.toNat, false),
   (Dirty.rpt, 0x2E0, bytesOf 8 f.rpt.status.toNat ++ (List.range 16).flatMap (fun i => bytesOf 4 (f.rpt.flat.getD i 0).toNat), false),
   (Dirty.trap, 0x3B0, [f.trap.trappc, f.trap.tcause, f.trap.tval, f.trap.tscr].flatMap fun w => bytesOf 8 w.toNat, false)] ++
  (if f.evf then [(Dirty.shadow, 0x328, ((List.range 8).flatMap (regImage k.shadow)) ++ bytesOf 8 0, false)] else []) ++
  ((List.range f.nv).map fun i => (Dirty.v i, 0x400 + 256 * i, bytesOf 256 (f.v.getD i 0).toNat, f.vbad.getD i false))

/-- The checkpoint of a fibre (R421): its header, its dirty units, and the token records when some ERR bit is 1. Its launch keeps
whether its frame stands aside (R258) (assumption 50). -/
def State.saveFibre (s : State) (l : Launch) (f : Fibre) (k : Skein) : State :=
  let at_ := l.slotAt f.id.skn f.id.fix
  let s := s.onLaunch l.lid fun x =>
    let rest := x.asides.filter fun e => e.1 != f.id
    { x with asides := if f.rpt.act && f.rpt.aside then (f.id, f.rpt.start) :: rest else rest }
  let s := s.agentWrite l.asid at_ f.header
  let s := ((f.units k).filter fun u => f.dirty.getD u.1 false).foldl (fun s u =>
    let s := s.agentWrite l.asid (at_ + u.2.1) u.2.2.1
    if u.2.2.2 then s.agentPoison l.asid (at_ + u.2.1) u.2.2.1.length else s) s
  if f.tokens.err.any id then
    s.agentWrite l.asid (at_ + 0xC0) ((List.range 8).flatMap fun i => bytesOf 8 (f.tokens.record.getD i 0).toNat)
  else s

/-- A bank from its images of 16 bytes a register. The image does not say which register a reply filled: the first read of each is an
acquire (R377, R380) (assumption 30). -/
def bankOf (bs : List Byte) : Bank where
  val := Vector.ofFn fun i : Fin 8 => BitVec.ofNat 64 (field bs (16 * i) 8)
  fill := Vector.ofFn fun i : Fin 8 => BitVec.ofNat 2 (field bs (16 * i + 8) 1)
  acq := Vector.replicate 8 true

/-- A barrier wait from WST (R420). -/
def waitOf (w pc : Word) : Option BarWait :=
  if bit w 31 then some { at_ := pc, domain := bits w 29 2 == 2, bar := bits w 21 5, level := bits w 26 3, parity := bit w 20,
                          phase := bits w 32 32 }
  else none

/-- The start of a frame, from PC and POS (R138, R257). -/
def frameStart (words : List (BitVec 32 × BitVec 32)) (pos : Nat) (pc : Word) : Word :=
  pc - BitVec.ofNat 64 (4 + 4 * ((words.take pos).map fun w => wordsOf w.1).sum)

/-- PREC without its reserved bits (R108). -/
abbrev precMask : Word := 0xFBFF#64

/-- TCAUSE without its reserved bits (R429). -/
abbrev tcauseMask : Word := 0xF80000000000FFFF#64

/-- An address of code without the bits that read as zero (R149, R429). -/
def codeWord (w : Word) : Word := w &&& 0xFFFFFFFFFFFFFFFC#64

/-- A fibre from its slot (R420, R421), placed at home entry `entry` of a core; every dirty bit clear, and reserved bits of the image
read as zero (R10). -/
def State.loadFibre (s : State) (l : Launch) (id : FibreId) (core entry : Nat) : Fibre :=
  let at_ := l.slotAt id.skn id.fix
  let im := s.agentRead l.asid at_ 0x1400
  let w (off : Nat) : Word := BitVec.ofNat 64 (field im off 8)
  let bad (off n : Nat) : Bool := s.agentBad l.asid (at_ + off) n
  let prec := w 16 &&& precMask
  let pc := codeWord (w 0)
  let n := vfBytes (precP prec)
  let win := ofBytes (slice im 0x100 256)
  let gst := w 0x2D0
  let words := pairWords 16 ((List.range 16).map fun i => BitVec.ofNat 32 (field im (0x2E8 + 4 * i) 4))
  let aside := (l.asides.find? fun e => e.1 == id).map fun e => e.2
  let words := words.take (if bit (w 0x2E0) 63 then (if bits (w 0x2E0) 44 8 = 0 then bits (w 0x2E0) 40 4 else bits (w 0x2E0) 21 4 + 1) else 0)
  { Fibre.zero with
    id := id
    live := true
    asid := l.asid
    home := core
    homeEntry := entry
    at_ := core
    bank := bankOf (slice im 0x40 128)
    pc := pc
    prec := prec
    winSize := bits (w 24) 0 3
    flive := bits (w 24) 8 7
    f := Vector.ofFn fun i : Fin 64 => BitVec.ofNat 128 (if i.val < bits (w 24) 8 7 then win / 2 ^ (8 * n * i) % 2 ^ (8 * n) else 0)
    fbad := Vector.ofFn fun c : Fin 8 => if bad (0x100 + 32 * c) 32 then BitVec.allOnes 32 else 0
    nv := l.nv
    v := Vector.ofFn fun i : Fin 16 => BitVec.ofNat 2048 (field im (0x400 + 256 * i) 256)
    vbad := Vector.ofFn fun i : Fin 16 => bad (0x400 + 256 * i) 256
    m := Vector.ofFn fun i : Fin 8 => if i.val = 0 then 0 else BitVec.ofNat 128 (field im (0x1F0 + 16 * i) 16)
    mbad := Vector.ofFn fun i : Fin 8 => i.val != 0 && bad (0x1F0 + 16 * i) 16
    tokens := Tokens.ofWord (w 40) ((List.range 8).map fun i => w (0xC0 + 8 * i))
    wmask := BitVec.ofNat 8 (field im 32 1)
    bb := { data := BitVec.ofNat 128 (field im 0x270 16), cnt := field im 0x280 1 % 128, addr := w 0x288 &&& 0x01FFFFFFFFFFFFFF#64 }
    rgn := { act := bit (w 48) 63, pc := BitVec.ofNat 64 (bits (w 48) 2 55 * 4), prec := w 0x2D8 &&& precMask, count := bits (w 56) 16 4
             snap := { val := Vector.ofFn fun i : Fin 8 => w (0x290 + 8 * i)
                       fill := Vector.ofFn fun i : Fin 8 => BitVec.ofNat 2 (bits gst (2 * i) 2)
                       acq := Vector.replicate 8 true } }
    rpt := { act := bit (w 0x2E0) 63, aside := bit (w 0x2E0) 63 && aside.isSome, iter := bits (w 0x2E0) 44 8
             pos := bits (w 0x2E0) 40 4, word := (w 0x2E0).setWidth 32
             start := aside.getD (frameStart words (bits (w 0x2E0) 40 4) pc), words := words }
    updout := bits (w 8) 48 16
    inev := bit (w 8) 2
    evf := bit (w 8) 1
    sup := bit (w 8) 0
    trap := { trappc := codeWord (w 0x3B0), tcause := w 0x3B8 &&& tcauseMask, tval := w 0x3C0, tscr := w 0x3C8 }
    bwait := waitOf (w 56) pc
    mark := s.dev.writes }

/-! ## Messages as records -/

/-- The header of R390 for a message. -/
def Msg.header (m : Msg) : Word :=
  wordOf ([(44, 20, m.srcFib.skn), (36, 8, m.srcFib.fix), (21, 12, m.srcFib.lid), (6, 8, m.tag), (5, 1, ofBool m.rpl),
    (2, 3, m.npl), (0, 2, m.kind)] ++ if m.rpl then [(33, 3, m.rreg.toNat), (14, 1, ofBool m.shadow)] else [])

/-- The record of a message or remote arrival (R393). -/
def Msg.record (m : Msg) : List Byte :=
  bytesOf 8 m.header.toNat ++ bytesOf 8 m.dest.toNat ++ (List.range 6).flatMap fun i => bytesOf 8 (m.pay.getD i 0).toNat

/-- A message from its record; the sender's core is not part of it. -/
def Msg.ofRecord (lid skn : Nat) (r : List Byte) : Msg :=
  let h := BitVec.ofNat 64 (field r 0 8)
  { dstLid := lid, dstSkn := skn, dest := BitVec.ofNat 64 (field r 8 8)
    srcFib := { lid := bits h 21 12, skn := bits h 44 20, fix := bits h 36 8 }
    rreg := BitVec.ofNat 3 (bits h 33 3), shadow := bit h 14, rpl := bit h 5, tag := bits h 6 8, npl := bits h 2 3
    pay := (List.range 6).map fun i => BitVec.ofNat 64 (field r (16 + 8 * i) 8)
    kind := bits h 0 2, aux := field r 32 8, srcCore := 0, hop := Hop.none_ }

/-! ## A skein's image -/

/-- The image of a cursor (R313). -/
def Cursor.image (c : Cursor) : List Byte :=
  c.desc ++ c.scoring ++ bytesOf 8 c.status ++ bytesOf 4 c.i ++ bytesOf 4 c.cntSum ++ bytesOf 8 c.off ++ bytesOf 4 c.last ++
    bytesOf 4 c.prevLast ++ bytesOf 4 c.skn ++ bytesOf 1 (ofBool (!c.block.isEmpty)) ++ List.replicate 27 0

/-- A cursor from its image: no decoded postings (R313). -/
def Cursor.ofImage (num lid skn : Nat) (b : List Byte) : Cursor :=
  let w := BitVec.ofNat 64 (field b 64 8)
  { num := num, lid := lid, skn := skn, desc := slice b 0 32, scoring := slice b 32 32, sc := bit w 61, st := bits w 62 2
    blk := bits w 41 20, tf := bits w 32 9, doc := bits w 0 32, i := field b 72 4, cntSum := field b 76 4, off := field b 80 8
    last := field b 88 4, prevLast := field b 92 4, known := false, cnt := 0, size := 0, block := [] }

/-- XSTAT of a column (R103). -/
def XCol.xstat (x : XCol) : Word :=
  wordOf [(48, 16, wrap 16 x.anchor), (20, 28, x.tc), (12, 8, x.res), (2, 1, ofBool x.on), (1, 1, ofBool x.op), (0, 1, ofBool x.ur)]

/-- The image of one column of a set: ACC and XSTAT (R103, R419). -/
def XCol.image (x : XCol) : List Byte := bytesOf 16 x.acc.toNat ++ bytesOf 8 x.xstat.toNat

/-- A set's image (R419): 256 columns of ACC and XSTAT, then 256 OS values. -/
def setImage (c : Chip) (grp : Nat) : List Byte :=
  ((List.range 256).flatMap fun i => (c.xcol grp i).image) ++ (List.range 256).flatMap fun i => bytesOf 16 (c.xcol grp i).os.toNat

/-- A column from its image. -/
def XCol.ofImage (a os : List Byte) (bad : Bool) : XCol :=
  let w := BitVec.ofNat 64 (field a 16 8)
  { acc := BitVec.ofNat 128 (field a 0 16), ur := bit w 0, op := bit w 1, on := bit w 2, tc := bits w 20 28, res := bits w 12 8
    anchor := toSigned 16 (bits w 48 16), os := BitVec.ofNat 128 (ofBytes os), bad := bad }

/-- Store one set group in its image; a poisoned column leaves poisoned words. -/
def State.saveSet (s : State) (asid va chip grp : Nat) : State :=
  let c := s.chipAt chip
  let s := s.agentWrite asid va (setImage c grp)
  ((List.range 256).filter fun i => (c.xcol grp i).bad).foldl (fun s i => s.agentPoison asid (va + 24 * i) 24) s

/-- Load one set group from its image. -/
def State.loadSet (s : State) (asid va chip grp : Nat) : State :=
  let im := s.agentRead asid va 0x2800
  s.onChip chip fun c => (List.range 256).foldl (fun c i =>
    c.putXcol grp i (XCol.ofImage (slice im (24 * i) 24) (slice im (6144 + 16 * i) 16) (s.agentBad asid (va + 24 * i) 24))) c

/-- The image of an armed receive (R419); bit 15 of the stream marks one in use (assumption 30). -/
def Armed.image (a : Armed) : List Byte := bytesOf 2 (a.vs + 2 ^ 15) ++ bytesOf 2 a.fslot ++ bytesOf 4 0 ++ bytesOf 8 a.va.toNat

/-- The image of a buffered packet or partial combination (R419): 256 bytes of data and its header; byte 271 is 1 for a packet
and 2 for a partial combination (assumption 30). -/
def Packet.image (p : Packet) (kind : Nat) : List Byte :=
  p.data ++ bytesOf 1 p.vs ++ bytesOf 1 (ofBool p.mrk + 2 * ofBool p.mesh) ++ bytesOf 2 p.fslot ++ bytesOf 4 p.phase ++
    bytesOf 2 p.cnt ++ bytesOf 2 p.pbm ++ bytesOf 3 0 ++ bytesOf 1 kind

/-- A packet from its image. -/
def Packet.ofImage (b : List Byte) (bad : List Bool) : Packet :=
  { src := 0, vs := field b 256 1, mrk := field b 257 1 % 2 == 1, mesh := field b 257 1 / 2 % 2 == 1, fslot := field b 258 2
    phase := field b 260 4, cnt := field b 264 2, pbm := field b 266 2, chip := 0, port := 0, ready := 0, reached := 0, slotLen := 0, sent := 0
    data := b.take 256, bad := bad }

/-- The words of the skein header (R419): state, last LNUM, SKMAP, EVEC, EVMASK, TBST, held messages, open cursors (assumption 9). -/
def skeinHeader (s : State) (k : Skein) (state : Nat) : List Byte :=
  let c := s.coreAt k.core
  let mine := (s.chipAt (chipNum k.core)).cursors.filter fun x => x.lid == k.lid && x.skn == k.skn
  [BitVec.ofNat 64 state, BitVec.ofNat 64 (bits c.lcid 0 10), k.skmap, k.evec, k.evmask, tbstOf c k,
    BitVec.ofNat 64 k.held.length, wordOf (mine.map fun x => (x.num, 1, 1))].flatMap fun w => bytesOf 8 w.toNat

/-- State words of a skein header: the codes of R426 (assumption 9). -/
abbrev ckptState : Nat := 4
/-- The state word that reads "relocated" (R425). -/
abbrev relocatedState : Nat := 5

/-- The record of a suspended copy with the state of its stages (R220, R419); a captured decode table, too large for it, stays with the
dispatcher (assumption 10). -/
def Copy.image (c : Copy) : List Byte :=
  [c.ra, c.rb, c.rc, c.rd].flatMap (fun w => bytesOf 8 w.toNat) ++ bytesOf 4 c.base.toNat ++ bytesOf 4 c.ext.toNat ++
    bytesOf 1 c.token ++ bytesOf 1 c.fib.fix ++ bytesOf 1 1 ++ bytesOf 5 0 ++ bytesOf 8 c.done ++
    bytesOf 8 c.stage.pos ++ bytesOf 8 c.stage.src ++ bytesOf 8 c.stage.out ++ bytesOf 1 (ofBool c.stage.passed) ++
    bytesOf 1 c.stage.flags.toNat ++ bytesOf 6 0 ++ bytesOf 8 c.prec.toNat ++ bytesOf 8 c.asid ++ bytesOf 1 (ofBool c.sup) ++
    bytesOf 1 (ofBool c.ntf) ++ List.replicate 142 0

/-- A copy from its record, with what the dispatcher kept of it (R220, R419) (assumption 10). -/
def Copy.ofImage (c : Copy) (core : Nat) (r : List Byte) : Copy :=
  let w (off : Nat) : Word := BitVec.ofNat 64 (field r off 8)
  { c with
    core := core, ra := w 0, rb := w 8, rc := w 16, rd := w 24, base := BitVec.ofNat 32 (field r 32 4), ext := BitVec.ofNat 32 (field r 36 4)
    token := field r 40 1 % 8, done := field r 48 8, prec := w 88, asid := field r 96 8 % 4096, sup := field r 104 1 == 1, ntf := field r 105 1 == 1
    stage := { pos := field r 56 8, src := field r 64 8, out := field r 72 8, passed := field r 80 1 == 1
               flags := BitVec.ofNat 5 (field r 81 1) } }

/-- The parts of a skein's block from 0x0000 to 0x4F3F with its open cursors and fresh tables (R421). -/
def State.saveSkeinParts (s : State) (l : Launch) (k : Skein) (state : Nat) : State :=
  let at_ := l.blockAt k.skn
  let c := s.coreAt k.core
  let ch := s.chipAt (chipNum k.core)
  let sp (i : Nat) : List Byte :=
    let p := c.spools.getD (k.spb + i) Spool.zero
    if i < k.spn then bytesOf 8 p.cfg.toNat ++ bytesOf 8 p.status.toNat else bytesOf 16 0
  let br (i : Nat) : List Byte := if i < k.bn then bytesOf 8 (c.bars.getD (k.bb + i) Barrier.zero).status.toNat else bytesOf 8 0
  let ex (vs : Nat) : List Byte :=
    bytesOf 8 (assoc vs 0 k.expw).toNat ++ bytesOf 8 ((k.partials.filter fun p => p.vs == vs).map fun p => p.cnt).sum
  let s := s.agentWrite l.asid at_ (skeinHeader s k state)
  let s := s.agentWrite l.asid (at_ + 0x40) ((List.range 16).flatMap sp)
  let s := s.agentWrite l.asid (at_ + 0x140) ((List.range 32).flatMap br)
  let s := s.agentWrite l.asid (at_ + 0x240) ((List.range 64).flatMap ex)
  let held := k.held.flatMap Msg.record
  let s := s.agentWrite l.asid (at_ + 0x640) (held ++ List.replicate (2048 - held.length) 0)
  let s := (List.range k.tn).foldl (fun s i =>
    let t := c.slots.getD (k.tb + i) TableSlot.zero
    if t.fresh then s.agentWrite l.asid (at_ + 0xE40 + 1024 * i) t.image else s) s
  let s := (ch.cursors.filter fun x => x.lid == k.lid && x.skn == k.skn).foldl (fun s x =>
    s.agentWrite l.asid (at_ + 0x1E40 + 128 * x.num) x.image) s
  let s := s.agentWrite l.asid (at_ + 0x2E40) ((List.range 256).flatMap fun i =>
    match k.armed[i]? with
    | some a => a.image
    | none => bytesOf 16 0)
  let pk := (k.port.map fun p => (p, 1)) ++ k.partials.map fun p => (p, 2)
  (List.range 16).foldl (fun s i =>
    match pk[i]? with
    | none => s.agentWrite l.asid (at_ + 0x3E40 + 272 * i) (bytesOf 272 0)
    | some (p, kind) =>
      let s := s.agentWrite l.asid (at_ + 0x3E40 + 272 * i) (p.image kind)
      (List.range 32).foldl (fun s j =>
        if p.bad.getD j false then s.agentPoison l.asid (at_ + 0x3E40 + 272 * i + 8 * j) 8 else s) s) s

/-- The slots of fibre indices that no fibre of the skein holds: no image (R420, EX). -/
def State.clearSlots (s : State) (l : Launch) (k : Skein) : State :=
  (List.range (l.fm1 + 1)).foldl (fun s i =>
    if (s.fibre? { lid := k.lid, skn := k.skn, fix := i }).isSome then s
    else s.agentPut l.asid (l.slotAt k.skn i + 56) 0x8000) s

/-- Fibre indices with an image in a skein's block. -/
def State.imaged (s : State) (l : Launch) (skn : Nat) : List Nat :=
  (List.range (l.fm1 + 1)).filter fun i => bits (s.agentWord l.asid (l.slotAt skn i + 56)) 14 2 == 1

/-! ## Fills -/

/-- A fill that is discarded and logged (R127, R388). -/
def State.stray (s : State) (id : FibreId) (shadow : Bool) (r : GReg) : State :=
  let core := match s.fibre? id with
    | some f => f.at_
    | none => s.core.num
  s.logAt 0x05 0 0 (coreBlk core) (coreLoc core) id.lid 0 (id.fix % 256 * 256 + r.toNat + if shadow then 8 else 0)

/-- Whether a launch holds a checkpointed or relocated skein. -/
def Launch.stored (l : Launch) (skn : Nat) : Bool := l.evicted.contains skn || l.late.contains skn || l.moved.contains skn

/-- The slot of a fibre that is not resident, if it has an image. -/
def State.imageOf (s : State) (id : FibreId) : Option (Launch × Nat) :=
  match s.launch? id.lid with
  | none => none
  | some l =>
    let at_ := l.slotAt id.skn id.fix
    if l.stored id.skn && bits (s.agentWord l.asid (at_ + 56)) 14 2 == 1 then some (l, at_) else none

/-- The first read of a register of a named fibre is an acquire (R377, R380). -/
def State.markReg (s : State) (id : FibreId) (shadow : Bool) (r : GReg) (on : Bool) : State :=
  if shadow then s.onSkein id.lid id.skn fun k => { k with shadow := k.shadow.mark r on }
  else s.onFibre id fun f => { f with bank := f.bank.mark r on }

/-- A fill lands (R127): value or, with `nack`, fault token; into the register or into its place in the checkpoint (assumption 54). The
first read of a value that a reply or a compressing copy filled is an acquire (R377, R380). -/
def State.fill (s : State) (id : FibreId) (shadow : Bool) (r : GReg) (v : Word) (nack : Bool) : State :=
  let st := if nack then Fill.token else Fill.full
  match s.fibre? id with
  | some f =>
    let bank := if shadow then (match s.skein? id.lid id.skn with
      | some k => k.shadow
      | none => Bank.zero) else f.bank
    if bank.fill.getD r.toNat 0 = Fill.pending then (s.putReg id shadow r v st).markReg id shadow r (!nack) else s.stray id shadow r
  | none =>
    match s.imageOf id with
    | none => s.stray id shadow r
    | some (l, at_) =>
      let p := at_ + (if shadow then 0x328 else 0x40) + 16 * r.toNat
      if (s.agentWord l.asid (p + 8)).setWidth 2 = Fill.pending then
        s.agentWrite l.asid p (bytesOf 8 v.toNat ++ bytesOf 8 st.toNat)
      else s.stray id shadow r

/-- Update a header word of a fibre that is not resident. -/
def State.onImage (s : State) (id : FibreId) (off : Nat) (f : Word → Word) : State :=
  match s.imageOf id with
  | none => s
  | some (l, at_) => s.agentPut l.asid (at_ + off) (f (s.agentWord l.asid (at_ + off)))

/-- An event is held pending in the image of a checkpointed skein (R220). -/
def State.pendImage (s : State) (lid skn kind : Nat) : State :=
  match s.launch? lid with
  | none => s
  | some l =>
    if l.stored skn then
      let p := l.blockAt skn + 32
      s.agentPut l.asid p (s.agentWord l.asid p ||| (1#64 <<< (8 + kind)))
    else s

/-- An event becomes pending at a skein, resident or not (R144, R220). -/
def State.pendEvent (s : State) (lid skn kind : Nat) : State :=
  match s.skein? lid skn with
  | some k => if k.resident then s.onSkein lid skn fun k => k.pend kind else s.pendImage lid skn kind
  | none => s.pendImage lid skn kind

end Sys2Proof.Machine
end

