-- ==== Sys2Proof/Machine/CoreMap.lean ====
section
/-! DEFINITION. The core map, the logical grid, and room on a core (R2, R24 to R26, R332, R415). -/

namespace Sys2Proof.Machine

/-- Exposed cores, columns w, rows and grade code of `topo.grid` (R1, R2, R346). -/
def gradeShape (grade : Nat) : Nat × Nat × Nat :=
  match grade with
  | 0 => (960, 32, 30)
  | 1 => (900, 30, 30)
  | _ => (850, 29, 30)

/-- Exposed logical cores of the module (R1). -/
def State.exposed (s : State) : Nat := (gradeShape s.dev.grade).1

/-- Whether every compute chiplet has entered LIVE or FENCED (R458). -/
def State.broughtUp (s : State) : Bool := (List.range 256).all fun c => decide (5 ≤ (s.chipAt c).state)

/-- The address of a core map entry (R24). -/
def State.mapAt (s : State) (n : Nat) : Nat := bits s.dev.cmapbase 13 39 * 2 ^ 13 + 8 * n

/-- A core map entry, as memory holds it (R24). -/
def State.mapEntry (s : State) (n : Nat) : Word := BitVec.ofNat 64 (ofBytes (s.homeBytes (s.mapAt n) 8))

/-- Write a core map entry. -/
def State.putMap (s : State) (n : Nat) (v : Word) : State := s.writeHome (s.mapAt n) (bytesOf 8 v.toNat)

/-- STATE of an entry (R24). -/
def mapState (e : Word) : Nat := bits e 62 2
/-- PPOS of an entry (R24). -/
def mapPos (e : Word) : Nat := bits e 0 10
/-- Candidate `i` of an entry (R24). -/
def mapCand (e : Word) (i : Nat) : Nat := bits e (12 + 10 * i) 10

/-- The core bound to a logical number; none when it is vacant or not exposed (R24) (assumption 34). -/
def State.boundCore (s : State) (n : Nat) : Option Nat :=
  let e := s.mapEntry n
  if s.exposed ≤ n ∨ 2 ≤ mapState e then none else some (coreOfPos (mapPos e))

/-- The logical number of a core, as its LCID reports it (R25). -/
def Core.lnum (c : Core) : Nat := bits c.lcid 0 10

/-- LCID of a core (R25). -/
def lcidOf (core epoch : Nat) (spare : Bool) (lnum : Nat) : Word :=
  wordOf [(48, 16, epoch), (28, 10, posOfCore core), (20, 8, core / 4), (18, 2, core % 4), (10, 1, ofBool spare), (0, 10, lnum)]

/-- The lowest available candidate of an entry (R24). -/
def firstCand (e : Word) : Option Nat := (List.range 4).find? fun i => bit e (52 + i) && !bit e (56 + i)

/-- The exposed number that a core is bound to, as the map has it (R24). -/
def State.numberOf (s : State) (core : Nat) : Option Nat := (List.range s.exposed).find? fun n => s.boundCore n == some core

/-- A candidate at a position is no longer available in any entry, but for that of the number that takes it (R24). -/
def State.useCand (s : State) (pos : Nat) (taker : Option Nat) : State :=
  ((List.range s.exposed).filter fun n => taker != some n).foldl (fun s n =>
    let e := s.mapEntry n
    match (List.range 4).find? fun i => bit e (52 + i) && !bit e (56 + i) && mapCand e i == pos with
    | some i => s.putMap n (e ||| (1#64 <<< (56 + i)))
    | none => s) s

/-- Rebind a logical number to its lowest available candidate, or make it vacant (R24 to R26): the new core, if any. The entry,
then CMAPEPOCH, then the new holder's LCID change. The manual does not say that a number made vacant counts as a rebind, nor what LCID
the fenced holder shows: CMAPEPOCH advances for it too, and the holder keeps its EPOCH with SPARE 1 and LNUM 0x3FF (assumption 34). -/
def State.rebind (s : State) (n : Nat) : State × Option Nat :=
  let pos := mapPos (s.mapEntry n)
  let old := coreOfPos pos
  let s := s.useCand pos none
  let e := s.mapEntry n
  let s := s.onCore old fun c => { c with status := .fenced, lcid := lcidOf old (bits c.lcid 48 16) true 0x3FF }
  match firstCand e with
  | none =>
    let s := s.putMap n ((e &&& 0x3FFFFFFFFFFFFFFF#64) ||| 0x8000000000000000#64)
    (s.setDev fun d => { d with cmapepoch := d.cmapepoch + 1 }, none)
  | some i =>
    let pos := mapCand e i
    let core := coreOfPos pos
    let s := s.putMap n ((e &&& 0x3FFFFFFFFFFFFC00#64) ||| 0x4000000000000000#64 ||| BitVec.ofNat 64 pos)
    let s := s.useCand pos (some n)
    let s := s.setDev fun d => { d with cmapepoch := d.cmapepoch + 1 }
    (s.onCore core fun c => { c with status := .exposed, lcid := lcidOf core (bits s.dev.cmapepoch 0 16) false n }, some core)

/-! ## Room on a core -/

/-- The fibres whose home entry stands on a core (R332). -/
def State.homeFibres (s : State) (core : Nat) : List Fibre := s.allFibres.filter fun f => f.home == core

/-- Window bytes and vector registers that a fibre of a launch takes (R332). -/
def State.fibreWindow (s : State) (f : Fibre) : Nat :=
  match s.launch? f.id.lid with
  | some l => winBytes l.win
  | none => 0

/-- Whether a core has room for `n` more fibres of a launch (R332). -/
def State.roomFor (s : State) (core : Nat) (l : Launch) (n : Nat) : Bool :=
  let fs := s.homeFibres core
  decide (fs.length + n ≤ 256) && decide ((fs.map s.fibreWindow).sum + n * winBytes l.win ≤ 65536) &&
    decide ((fs.map Fibre.nv).sum + n * l.nv ≤ 64)

/-- The lowest free home entry of a core. -/
def State.freeHome (s : State) (core : Nat) : Nat :=
  let used := (s.homeFibres core).map Fibre.homeEntry
  ((List.range 256).find? fun i => !used.contains i).getD 0

/-- The resident skeins of a core. -/
def State.skeinsOn (s : State) (core : Nat) : List Skein := s.allSkeins.filter fun k => k.resident && k.core == core

/-- The least start of a free range of length `n` below `top`, given the ranges in use (R140). -/
def freeRange (used : List (Nat × Nat)) (n top : Nat) : Option Nat :=
  (List.range (top + 1)).find? fun b =>
    decide (b + n ≤ top) && !(used.any fun u => decide (u.1 < b + n) && decide (b < u.1 + u.2) && u.2 != 0 && n != 0)

/-- The share of a core that a skein of a launch takes: first handle, barrier and slot (R140, R415). -/
def State.freeShare (s : State) (core : Nat) (l : Launch) : Option (Nat × Nat × Nat) :=
  let ks := s.skeinsOn core
  match freeRange (ks.map fun k => (k.spb, k.spn)) l.spn 16, freeRange (ks.map fun k => (k.bb, k.bn)) l.bn 32,
      freeRange (ks.map fun k => (k.tb, k.tn)) l.tn 4 with
  | some a, some b, some c => some (a, b, c)
  | _, _, _ => none

/-- SKMAP of a share (R140). -/
def shareWord (l : Launch) (b : Nat × Nat × Nat) : Word :=
  wordOf [(23, 3, l.tn), (21, 2, b.2.2), (15, 6, l.bn), (10, 5, b.2.1), (5, 5, l.spn), (1, 4, b.1)]

/-- The set groups of a chiplet that no skein holds, resident or copied to it (R415, R425). -/
def State.freeGroups (s : State) (chip : Nat) : List Nat :=
  let held := (s.allSkeins.filter fun k => (k.resident || k.copied) && chipNum k.core == chip).flatMap Skein.groups
  (List.range 16).filter fun g => !held.contains g

/-- Whether the scratchpad region of a launch on a core meets the region of a skein, resident or copied there (R415, R425). -/
def State.regionTaken (s : State) (core : Nat) (l : Launch) : Bool :=
  let r := l.region core
  s.allSkeins.any fun k =>
    (k.resident || k.copied) && chipNum k.core == core / 4 && (match s.launch? k.lid with
      | some m =>
        let q := m.region k.core
        decide (q.1 < r.1 + r.2) && decide (r.1 < q.1 + q.2) && q.2 != 0 && r.2 != 0
      | none => false)

/-- Whether a skein of a launch fits on a core (R415): `fibres` more fibres, its share, sets, region and open cursors. -/
def State.fits (s : State) (core : Nat) (l : Launch) (fibres : Nat) (cursors : Nat) : Bool :=
  let held := (s.chipAt (core / 4)).cursors
  (s.coreAt core).status == .exposed && (s.chipAt (core / 4)).state == 5 && s.roomFor core l fibres &&
    (s.freeShare core l).isSome &&
    (l.accn == 0 || (((s.skeinsOn core).all fun k => k.groups.isEmpty) && decide (l.accn ≤ (s.freeGroups (core / 4)).length))) &&
    !s.regionTaken core l && !((List.range 32).any fun i => cursors.testBit i && held.any fun c => c.num == i)

end Sys2Proof.Machine
end

