-- ==== Sys2Proof/Machine/Copy.lean ====
section
/-! DEFINITION. The copy engine: majors 0x70 to 0x72 and its own steps (R201 to R222). A copy is accepted by its instruction; its
first delivery step reads every source byte and forms the stream; further steps deliver it unit by unit; the last completes it. -/

namespace Sys2Proof.Machine

/-! ## Fields of an accepted copy -/

/-- The fields of the base word. -/
def Copy.l (c : Copy) : FmtL := .unpack c.base
/-- The fields of the extension word. -/
def Copy.x (c : Copy) : FmtXC := .unpack c.ext
/-- fn of the base word (R221). -/
def Copy.fn (c : Copy) : Nat := c.l.fn.toNat
/-- Whether the copy is a pull. -/
def Copy.isPull (c : Copy) : Bool := c.l.major == 0x70
/-- Whether the copy is a push. -/
def Copy.isPush (c : Copy) : Bool := c.l.major == 0x71
/-- Whether the copy is a gather. -/
def Copy.isGather (c : Copy) : Bool := c.l.major == 0x72
/-- Expand is selected (R210). -/
def Copy.expands (c : Copy) : Bool := bit c.x.lc 2
/-- Dequantise is selected (R211). -/
def Copy.dequantises (c : Copy) : Bool := bit c.x.lc 1
/-- Transpose is selected (R212). -/
def Copy.transposes (c : Copy) : Bool := bit c.x.lc 0
/-- Reduce is selected (R213). -/
def Copy.reduces (c : Copy) : Bool := bit c.x.scs 2
/-- Quantise is selected (R214). -/
def Copy.quantises (c : Copy) : Bool := bit c.x.scs 1
/-- Compress is selected (R215). -/
def Copy.compresses (c : Copy) : Bool := bit c.x.scs 0
/-- gc. -/
def Copy.len (c : Copy) : Nat := c.rc.toNat
/-- Precision captured at issue (R205). -/
def Copy.p (c : Copy) : Nat := precP c.prec
/-- Bytes of an element of the code FMT: bfloat16, binary32 or VF at P. -/
def Copy.elem (c : Copy) : Nat := [2, 4].getD c.x.fmt.toNat (vfBytes c.p)
/-- Whether the destination is a spool. -/
def Copy.toSpool (c : Copy) : Bool := !c.isPush && c.fn == 3
/-- Whether the destination is plane rows. -/
def Copy.toRows (c : Copy) : Bool := c.isPull && c.fn == 1
/-- Whether the destination is the scale strip. -/
def Copy.toStrip (c : Copy) : Bool := c.isPull && c.fn == 2
/-- Whether the destination is an address. -/
def Copy.toAddress (c : Copy) : Bool := c.isPush || c.fn == 0
/-- E of a transpose (R212). -/
def Copy.tileElem (c : Copy) : Nat := if c.dequantises then c.elem else 2 ^ (c.l.x.toNat / 8)
/-- Bytes of one transposed tile. -/
def Copy.tileBytes (c : Copy) : Nat := (c.x.tr.toNat + 1) * (c.x.tc.toNat + 1) * c.tileElem
/-- Bytes of a reduced element (R213). -/
def Copy.redElem (c : Copy) : Nat := [4, 8, 32].getD c.x.fmt.toNat 32
/-- Bytes of a row of a gather. -/
def Copy.rowBytes (c : Copy) : Nat := 64 * c.x.rblk.toNat
/-- Bytes of an index of a gather. -/
def Copy.ixBytes (c : Copy) : Nat := if c.x.ixw = 0 then 4 else 8
/-- Bytes of the stream that the load half-chain needs at its input (R203, R210). -/
def Copy.need (c : Copy) : Nat := if c.dequantises then tileBody c.len + 16 else c.len

/-! ## Lengths and alignment -/

/-- The protection fault of a length or alignment (R203) (assumption 26). -/
def lengthFault {α : Type} (s : State) (val : Word) : Ex α := trap s 0x05 7 val

/-- The checks of R202 and R203 on the values of an issuing copy. -/
def Copy.lengths (s : State) (c : Copy) : Ex Unit := do
  let n := c.len
  if c.isPull then
    ensure (decide (1 ≤ n) && decide (n ≤ if c.dequantises then 4096 else 2 ^ 30)) (lengthFault s c.rc)
    ensure (!(c.expands || c.dequantises) || c.ra.toNat % 16 == 0) (lengthFault s c.ra)
    ensure (!c.transposes || c.dequantises || n % c.tileBytes == 0) (lengthFault s c.rc)
    ensure (!c.toRows || (c.rb.toNat % 128 == 0 && n % 128 == 0 && decide (c.rb.toNat + n ≤ 2 ^ 26))) (lengthFault s c.rb)
    ensure (!c.toStrip || decide (c.rb.toNat + n ≤ 2 ^ 19)) (lengthFault s c.rb)
  else if c.isPush then
    if c.quantises then
      ensure (decide (32 ≤ n) && decide (n ≤ 131072) && n % 32 == 0) (lengthFault s c.rc)
      ensure (c.rb.toNat % 16 == 0) (lengthFault s c.rb)
    else do
      ensure (decide (1 ≤ n) && decide (n ≤ 2 ^ 30)) (lengthFault s c.rc)
      if c.compresses then ensure (c.rb.toNat % 16 == 0) (lengthFault s c.rb)
      else if c.reduces then do
        ensure (n % c.redElem == 0) (lengthFault s c.rc)
        ensure (c.ra.toNat % c.redElem == 0) (lengthFault s c.ra)
        ensure (c.rb.toNat % c.redElem == 0) (lengthFault s c.rb)
      else .ok ()
  else do
    ensure (decide (1 ≤ n) && decide (n ≤ 65536)) (lengthFault s c.rc)
    ensure (c.ra.toNat % c.ixBytes == 0) (lengthFault s c.ra)

/-! ## Places -/

/-- An engine access under the copy's ASID and privilege (R38, R204). -/
def Copy.acc (c : Copy) (store : Bool) : Acc :=
  { asid := c.asid, sup := c.sup, load := !store, store := store, fetch := false, fe := false }

/-- Whether an address lies where the copy may read (R201). -/
def Copy.mayRead (c : Copy) (s : State) (pa : Nat) : Bool :=
  (isPad pa && padChip pa == s.chip.num) || (isDram pa && !c.isPush)

/-- Whether an address lies where the copy may write (R201). -/
def Copy.mayWrite (c : Copy) (s : State) (pa : Nat) : Bool :=
  if c.isPush then isDram pa || padChip pa != s.chip.num else isPad pa && padChip pa == s.chip.num

/-- Translate one place with its region (R201, R204). -/
def Copy.place (c : Copy) (s : State) (store : Bool) (va : Word) (n : Nat) : Ex (State × Piece) := do
  s.inSpace va 1
  let (t, l, pa) ← s.check (c.acc store) va.toNat
  ensure (if store then c.mayWrite t pa else c.mayRead t pa) (trap t 0x05 6 va)
  .ok (t, { pa := pa, va := va.toNat, len := n, leaf := l })

/-- The places of a range line by line, up to the first that fails: its offset, code and subcause (R208). -/
def Copy.places (c : Copy) (store : Bool) : Nat → State → Word → Nat → Nat → Ex (State × List Piece × Option (Nat × Nat × Nat))
  | 0, s, _, _, _ => .ok (s, [], none)
  | fuel + 1, s, va, n, off =>
    if n = 0 then .ok (s, [], none) else
    let m := min n (128 - va.toNat % 128)
    match (do
      let (t, p) ← c.place s store va m
      let _ ← t.pieceHome p
      .ok (t, p) : Ex (State × Piece)) with
    | .error h =>
      match h.why with
      | .trap code sub _ _ => .ok (h.st, [], some (off, code, sub))
      | _ => .error h
    | .ok (t, p) => do
      let (t, ps, f) ← Copy.places c store fuel t (va + BitVec.ofNat 64 m) (n - m) (off + m)
      .ok (t, p :: ps, f)

/-- Bytes that an engine read gives, their poison, and the fault that ended it: offset, code, subcause. -/
structure Taken where
  data : List Byte
  bad : List Bool
  fault : Option (Nat × Nat × Nat)
  deriving DecidableEq, Repr

/-- Bytes of places with their poison marks. -/
def takePieces (s : State) : List Piece → State × List Byte × List Bool
  | [] => (s, [], [])
  | p :: ps =>
    let t := s.detect p.pa p.len
    let r := takePieces t ps
    (r.1, t.viewBytes (t.key (leafKey p.leaf)) p.pa p.len ++ r.2.1,
      ((List.range p.len).map fun i => t.poisonedWord ((p.pa + i) / 8)) ++ r.2.2)

/-- Read a range (R206); where the data is interpreted, poison ends it (R219). -/
def Copy.take (c : Copy) (s : State) (strict : Bool) (va : Word) (n : Nat) : Ex (State × Taken) := do
  let (t, ps, f) ← c.places false (n / 128 + 2) s va n 0
  let r := takePieces t ps
  match (if strict then r.2.2.idxOf? true else none) with
  | some k => .ok (r.1, { data := r.2.1.take k, bad := List.replicate k false, fault := some (k, 6, 0) })
  | none => .ok (r.1, { data := r.2.1, bad := r.2.2, fault := f })

/-! ## Stages -/

/-- A source fault in the fields of a token record. -/
def sourceFault (f : Nat × Nat × Nat) : CopyFault := { code := f.2.1, sub := f.2.2, pt := 0, off := f.1 }

/-- A Rice code with parameter k at a stream position (R97): the value and the position after it; none past the end. -/
def riceAt (bs : List Byte) (k : Nat) (last : Nat) : Nat → Nat → Nat → Option (Nat × Nat)
  | 0, _, _ => none
  | fuel + 1, pos, q =>
    if last < pos + 1 then none
    else if streamField bs pos 1 = 1 then riceAt bs k last fuel (pos + 1) (q + 1)
    else if last < pos + 1 + k then none
    else some (q * 2 ^ k + streamField bs (pos + 1) k, pos + 1 + k)

/-- The symbols of a payload (R97): raw bytes in reverse, and the position after them; none where subcause 2 is raised. -/
def expandFrom (bs : List Byte) (kind k rlen last : Nat) : Nat → Nat → Nat → List Byte → Option (Nat × List Byte)
  | 0, _, _, _ => none
  | fuel + 1, pos, have_, out =>
    if rlen ≤ have_ then some (pos, out) else
    match (if kind = 2 then (if last < pos + 8 then none else some (streamField bs pos 8, pos + 8))
           else riceAt bs k last (last + 1) pos 0) with
    | none => none
    | some (x, pos) =>
      if kind = 0 then
        if rlen < have_ + x then none
        else if have_ + x = rlen then some (pos, List.replicate x 0 ++ out)
        else if last < pos + 8 then none
        else
          let b := streamField bs pos 8
          if b = 0 ∨ 242 < b then none
          else expandFrom bs kind k rlen last fuel (pos + 8) (have_ + x + 1) (BitVec.ofNat 8 b :: (List.replicate x 0 ++ out))
      else if 255 < x then none
      else expandFrom bs kind k rlen last fuel pos (have_ + 1) (BitVec.ofNat 8 x :: out)

/-- BlockExpand (R97): the raw bytes, or the subcause. -/
def blockExpand (kind k rlen crc : Nat) (payload : List Byte) : Except Nat (List Byte) :=
  match expandFrom payload kind k rlen (8 * payload.length) (rlen + 1) 0 0 [] with
  | none => .error 2
  | some (pos, out) =>
    let raw := out.reverse
    if (pos + 7) / 8 ≠ payload.length ∨ ofBytes payload / 2 ^ pos ≠ 0 then .error 2
    else if crc32c raw ≠ crc then .error 0
    else .ok raw

/-- Whether the header of a coded block is as R97 gives it (R98). -/
def blockHeaderOk (h : List Byte) : Bool :=
  let kind := field h 1 1
  let k := field h 2 1
  let rlen := field h 4 4
  let clen := field h 8 4
  field h 0 1 == 0xC7 && decide (kind ≤ 2) && decide (k ≤ [15, 7, 0].getD kind 0) && field h 3 1 == 0 &&
    decide (1 ≤ rlen) && decide (rlen ≤ 16777216) && decide (1 ≤ clen) && decide (clen ≤ 33554432) && (kind != 2 || clen == rlen)

/-- A stream as its stages leave it: parts in order (a coded block each, or the whole), poison by byte, its fault, and where its coded
blocks stand in source and stream. -/
structure Stream where
  parts : List (List Byte)
  bad : List Bool
  fault : Option CopyFault
  blocks : List (Nat × Nat)
  deriving DecidableEq, Repr

/-- A stream with nothing in it, ended by a fault or not. -/
def Stream.nil (f : Option CopyFault) : Stream := { parts := [], bad := [], fault := f, blocks := [] }

/-- Bytes that a pull delivers. -/
def Copy.total (c : Copy) : Nat := if c.dequantises then 32 * c.len * c.elem else c.len

/-- The parts of a range that lie in the scratchpad of the chiplet in focus, page by page: physical address and length (R201). A page
that does not translate has none (assumption 43). -/
def Copy.localParts (c : Copy) (s : State) : Nat → Nat → Nat → List (Nat × Nat)
  | 0, _, _ => []
  | fuel + 1, va, n =>
    if n = 0 ∨ 2 ^ 57 ≤ va then [] else
    let m := min n (2 ^ 16 - va % 2 ^ 16)
    let rest := Copy.localParts c s fuel (va + m) (n - m)
    match (walk s c.asid va).1 with
    | .leaf _ pa => if isPad pa && padChip pa == s.chip.num then (pa, m) :: rest else rest
    | _ => rest

/-- Whether a source range of a pull overlaps its destination in the local scratchpad (R201) (assumption 43). -/
def Copy.overlaps (c : Copy) (s : State) (va : Word) (n : Nat) : Bool :=
  c.isPull && c.fn == 0 &&
    (c.localParts s (n / 2 ^ 16 + 2) va.toNat n).any fun a =>
      (c.localParts s (c.total / 2 ^ 16 + 2) c.rb.toNat c.total).any fun b => decide (a.1 < b.1 + b.2) && decide (b.1 < a.1 + a.2)

/-- Whether element `i` of the input of a transpose or a dequantise stage has a byte in the output from `pos` on (R206, R211, R212, R220);
an element past the last whole tile has no stated place. -/
def Copy.needsElem (c : Copy) (pos i : Nat) : Bool :=
  if c.transposes then
    let tr := c.x.tr.toNat + 1
    let tc := c.x.tc.toNat + 1
    let tile := i / (tr * tc)
    let j := i % (tr * tc)
    decide (c.total < (tile + 1) * c.tileBytes) || decide (pos < tile * c.tileBytes + ((j % tc) * tr + j / tc + 1) * c.tileElem)
  else decide (pos < (i + 1) * c.elem)

/-- Whether byte `b` of the input of a pull's stages after expand is one that undelivered output needs (R206, R220). A tile that has passed
its checks needs its codes and scales alone. -/
def Copy.needsByte (c : Copy) (b : Nat) : Bool :=
  let pos := c.stage.pos
  if c.dequantises then
    !c.stage.passed || (if b < 32 * c.len then c.needsElem pos b
      else decide (b < 33 * c.len) && (List.range 32).any fun i => c.needsElem pos (32 * (b - 32 * c.len) + i))
  else if c.transposes then c.needsElem pos (b / c.tileElem)
  else decide (pos ≤ b)

/-- Read bytes `k` to `k + n − 1` of a pull's source, those alone that undelivered output needs; zeros stand for the others. -/
def Copy.takeNeeded (c : Copy) (strict : Bool) : Nat → State → Nat → Ex (State × Taken)
  | 0, s, _ => .ok (s, { data := [], bad := [], fault := none })
  | n + 1, s, k => do
    let (t, r) ← if c.needsByte k then c.take s strict (c.ra + BitVec.ofNat 64 k) 1
      else .ok (s, { data := [0], bad := [false], fault := none })
    match r.fault with
    | some f => .ok (t, { r with fault := some (f.1 + k, f.2) })
    | none => do
      let (t, q) ← Copy.takeNeeded c strict n t (k + 1)
      .ok (t, { data := r.data ++ q.data, bad := r.bad ++ q.bad, fault := q.fault })

/-- Expand (R210): blocks from source offset `off` on, whose bytes stand at `out` in the stream, until `upto` bytes of it are decoded; a
fault names the header. A block that would take the stream too far is refused before it is decoded (assumption 42). Of a block with no
byte that is needed, the header alone is read (R220). -/
def Copy.expand (c : Copy) : Nat → State → Nat → Nat → Nat → Ex (State × Stream)
  | 0, s, _, _, _ => .ok (s, Stream.nil none)
  | fuel + 1, s, off, out, upto =>
    if upto ≤ out then .ok (s, Stream.nil none) else do
    let stop (t : State) (code sub : Nat) : Ex (State × Stream) :=
      .ok (t, Stream.nil (some { code := code, sub := sub, pt := 0, off := off }))
    let va := c.ra + BitVec.ofNat 64 off
    let (t, h) ← c.take s true va 16
    match h.fault with
    | some f => stop t f.2.1 f.2.2
    | none =>
      if !blockHeaderOk h.data then stop t 0x0B 1 else
      let clen := field h.data 8 4
      let size := (clen + 15) / 16 * 16
      let rlen := field h.data 4 4
      if (c.stage.pos != 0 || c.stage.passed) && !((List.range rlen).any fun i => c.needsByte (out + i)) then do
        let (t, r) ← Copy.expand c fuel t (off + 16 + size) (out + rlen) upto
        .ok (t, { r with
          parts := List.replicate rlen 0 :: r.parts, bad := List.replicate rlen false ++ r.bad, blocks := (off, out) :: r.blocks })
      else if c.overlaps t va (16 + size) then stop t 0x05 7 else do
      let (t, b) ← c.take t true (va + 16) size
      match b.fault with
      | some f => stop t f.2.1 f.2.2
      | none =>
        if ofBytes (b.data.drop clen) ≠ 0 then stop t 0x0B 1
        else if c.need < out + rlen then stop t 0x0B 3
        else match blockExpand (field h.data 1 1) (field h.data 2 1) (field h.data 4 4) (field h.data 12 4) (b.data.take clen) with
          | .error sub => stop t 0x0B sub
          | .ok raw => do
            let (t, r) ← Copy.expand c fuel t (off + 16 + size) (out + raw.length) upto
            .ok (t, { r with
              parts := raw :: r.parts, bad := List.replicate raw.length false ++ r.bad, blocks := (off, out) :: r.blocks })

/-- One dequantised element (R211). -/
def dequantOne (fmt p : Nat) (mode : RMode) (v : FV) (scale : Nat) : Nat × FFlags :=
  let y := if v.isNan then v else if scale = 255 then FV.dnan else v.scale ((scale : Int) - 127)
  match fmt with
  | 0 => Ieee.bf16.of y mode
  | 1 => Ieee.f32.of y mode
  | _ => let r := y.convert (Fmt.vf p) mode; (vfEncode p r.1, r.2)

/-- Dequantise codes with the scales of their blocks (R211). -/
def Copy.dequantFrom (c : Copy) (codes scales : List Byte) : List Byte × FFlags :=
  let el := codes.zipIdx.map fun e =>
    dequantOne c.x.fmt.toNat c.p (precRm c.prec) (tableValue c.slot e.1.toNat) (scales.getD (e.2 / 32) 0).toNat
  (el.flatMap fun r => bytesOf c.elem r.1, el.foldl (fun fl r => fl ||| r.2) 0)

/-- Dequantise a tile (R211): its bytes with flags, or the subcause of a tile check. -/
def Copy.dequant (c : Copy) (tile : List Byte) : Except Nat (List Byte × FFlags) :=
  match tileSub tile c.len c.x.sl.toNat with
  | some sub => .error sub
  | none => .ok (c.dequantFrom (tile.take (32 * c.len)) (slice tile (32 * c.len) c.len))

/-- Where output byte `o` of a transposed tile comes from (R212). -/
def transposeFrom (tr tc e o : Nat) : Nat :=
  let i := o / e
  ((i % tr) * tc + i / tr) * e + o % e

/-- Transpose whole tiles (R212); what is left after the last whole tile of a dequantised stream has no stated value. -/
def Copy.transpose {α : Type} (c : Copy) (d : α) (rest : Nat → α) : Nat → List α → List α
  | 0, _ => []
  | fuel + 1, l =>
    if l.length < c.tileBytes then (List.range l.length).map rest
    else
      let tile := (l.take c.tileBytes).toArray
      ((List.range c.tileBytes).map fun o =>
        tile.getD (transposeFrom (c.x.tr.toNat + 1) (c.x.tc.toNat + 1) c.tileElem o) d) ++
        Copy.transpose c d rest fuel (l.drop c.tileBytes)

/-- Ends of units of a fixed size over a stream of `total` bytes. -/
def stepEnds (step total : Nat) : List Nat :=
  ((List.range (total / step)).map fun i => (i + 1) * step) ++ if total % step = 0 then [] else [total]

/-- Ends of the aligned 64-byte blocks of a destination (R207). -/
def blockEnds (dst total : Nat) : List Nat :=
  let first := 64 - dst % 64
  if total ≤ first then [total] else first :: (stepEnds 64 (total - first)).map fun e => first + e

/-- Ends of consecutive parts. -/
def partEnds (start : Nat) : List (List Byte) → List Nat
  | [] => []
  | p :: ps => (start + p.length) :: partEnds (start + p.length) ps

/-- Cut a stream into units at the given ends; a unit that the stream does not fill is not there (R207). -/
def cutUnits : List Nat → Nat → List Byte → List Bool → List CopyUnit
  | [], _, _, _ => []
  | e :: es, start, d, b =>
    if e - start ≤ d.length then
      { off := start, data := d.take (e - start), bad := b.take (e - start) } ::
        cutUnits es e (d.drop (e - start)) (b.drop (e - start))
    else []

/-- A plan of units cut from a stream that starts at a destination offset. -/
def planFrom (start : Nat) (ends : List Nat) (data : List Byte) (bad : List Bool) (fault : Option CopyFault) (flags : FFlags) : CopyPlan :=
  { units := cutUnits (ends.filter fun e => decide (start < e)) start data bad, fault := fault, flags := flags
    coded := BitVec.ofNat 64 data.length, blocks := [] }

/-- A plan of units cut from a whole stream. -/
def planOf (ends : List Nat) (data : List Byte) (bad : List Bool) (fault : Option CopyFault) (flags : FFlags) : CopyPlan :=
  planFrom 0 ends data bad fault flags

/-- Slot bytes of the spool that the copy writes (R216). -/
def Copy.slotBytes (c : Copy) (s : State) : Nat :=
  match s.skein? c.fib.lid c.fib.skn with
  | some k => ((s.coreAt c.core).spools.getD (k.spb + c.rb.toNat) Spool.zero).slotBytes
  | none => 16

/-- The input of a pull's stages after expand: what undelivered output needs of it, with zeros for the rest (R206, R210, R220). -/
def Copy.rawStream (c : Copy) (s : State) : Ex (State × Stream) :=
  if c.expands then do
    let (t, st) ← c.expand (c.need + 1) s c.stage.src c.stage.out (if c.stage.passed then 33 * c.len else c.need)
    .ok (t, { st with
      parts := [List.replicate c.stage.out 0 ++ st.parts.flatten], bad := List.replicate c.stage.out false ++ st.bad })
  else do
    let strict := c.dequantises || c.toRows || c.toStrip
    let (t, r) ← if c.stage.pos = 0 && !c.stage.passed then c.take s strict c.ra c.need else c.takeNeeded strict c.need s 0
    let fault := (r.fault.map sourceFault).map fun f => if c.dequantises then { f with off := 0 } else f
    .ok (t, { Stream.nil fault with parts := [r.data], bad := r.bad })

/-- The plan of a pull, from where it was suspended (R207, R210 to R212, R220). The manual does not say which of two units holds where
stages meet: here the row of 128 bytes before the tile, and the whole copy of a dequantised stream before the tile (assumption 42). -/
def Copy.pullPlan (c : Copy) (s : State) : Ex (State × CopyPlan) := do
  let (t, st) ← if c.expands && !c.toSpool && !c.dequantises then c.expand (c.need + 1) s 0 0 c.need else c.rawStream s
  let raw := st.parts.flatten
  let (data, bad, fault, flags) : List Byte × List Bool × Option CopyFault × FFlags :=
    if c.dequantises then
      if st.fault.isSome then ([], [], st.fault, 0)
      else if c.stage.passed then
        let r := c.dequantFrom (raw.take (32 * c.len)) (slice raw (32 * c.len) c.len)
        (r.1, List.replicate r.1.length false, none, r.2)
      else match c.dequant raw with
        | .error sub => ([], [], some { code := 0x0A, sub := sub, pt := 0, off := 0 }, 0)
        | .ok (bs, fl) => (bs, List.replicate bs.length false, none, fl)
    else (raw, st.bad, st.fault, 0)
  let whole := data.length / c.tileBytes * c.tileBytes
  let (data, bad) : List Byte × List Bool :=
    if c.transposes then
      let n := if c.dequantises then data.length else whole
      (c.transpose 0 (Config.staleByte t.ctr) (n + 1) (data.take n), c.transpose false (fun _ => false) (n + 1) (bad.take n))
    else (data, bad)
  let ends :=
    if c.toSpool then stepEnds (c.slotBytes t) c.total
    else if c.toRows then stepEnds 128 c.total
    else if c.dequantises then [c.total]
    else if c.transposes then stepEnds c.tileBytes c.total
    else if c.expands then partEnds 0 st.parts
    else blockEnds c.rb.toNat c.total
  .ok (t, { planFrom c.stage.pos ends (data.drop c.stage.pos) (bad.drop c.stage.pos) fault (c.stage.flags ||| flags) with blocks := st.blocks })

/-- Blocks of 32 elements of a quantised push (R214): codes, scales, AMAX, SATC and flags, or the fault. -/
def Copy.quantBlocks (c : Copy) : List (List Byte) → Nat → Except CopyFault (List Byte × List Byte × FV × Nat × Bool)
  | [], _ => .ok ([], [], FV.zero, 0, false)
  | b :: bs, j =>
    match elementValues c.x.fmt.toNat c.elem b with
    | .error i => .error { code := 0x08, sub := 0, pt := 0, off := (32 * j + i) * c.elem }
    | .ok xs =>
      match quantiseBlock c.slot xs with
      | none => .error { code := 0x0C, sub := 8, pt := 0, off := (32 * j + xs.findIdx FV.isNan) * c.elem }
      | some q =>
        match Copy.quantBlocks c bs (j + 1) with
        | .error f => .error f
        | .ok (codes, scales, am, sat, nx) =>
          .ok (q.code ++ codes, BitVec.ofNat 8 q.scale :: scales, mergeAmax am q.amax, q.sat + sat, q.nx || nx)

/-- Cut a list into pieces of `n`. -/
def chunksOf (n : Nat) : Nat → List Byte → List (List Byte)
  | 0, _ => []
  | _, [] => []
  | fuel + 1, l => l.take n :: chunksOf n fuel (l.drop n)

/-- The tile that a quantising push writes (R89 to R91, R214). -/
def Copy.quantTile (c : Copy) (src : List Byte) : Except CopyFault (List Byte × FFlags) :=
  let nb := c.len / 32
  match c.quantBlocks (chunksOf (32 * c.elem) nb src) 0 with
  | .error f => .error f
  | .ok (codes, scales, am, sat, nx) =>
    let body := codes ++ scales
    let pad := List.replicate (tileBody nb - body.length) (0 : Byte)
    .ok (body ++ pad ++ bytesOf 4 (Ieee.f32.encode am) ++ bytesOf 4 (min sat (2 ^ 32 - 1)) ++ trailerTail body nb c.x.sl.toNat,
      if nx then FFlags.nx else 0)

/-- Bits of a Rice code (R97). -/
def riceBits (x k : Nat) : List Bool :=
  List.replicate (x / 2 ^ k) true ++ [false] ++ (List.range k).map fun i => x.testBit i

/-- The eight bits of a byte. -/
def byteBits (b : Byte) : List Bool := (List.range 8).map fun i => b.getLsbD i

/-- The trit-stream payload of a chunk (R215): `run` zero bytes are pending; the index of a byte above 242 ends it. -/
def tritStream (k : Nat) : List Byte → Nat → Nat → Except Nat (List Bool)
  | [], run, _ => .ok (if run = 0 then [] else riceBits run k)
  | b :: bs, run, i =>
    if b = 0 then tritStream k bs (run + 1) (i + 1)
    else if 242 < b.toNat then .error i
    else match tritStream k bs 0 (i + 1) with
      | .error e => .error e
      | .ok r => .ok (riceBits run k ++ byteBits b ++ r)

/-- Bits as bytes, ended by zero bits. -/
def packBits : Nat → List Bool → List Byte
  | 0, _ => []
  | _, [] => []
  | fuel + 1, l => BitVec.ofNat 8 (((l.take 8).zipIdx.map fun e => if e.1 then 2 ^ e.2 else 0).sum) :: packBits fuel (l.drop 8)

/-- One coded block of a chunk (R97, R215); the index of the illegal trit byte where there is one. -/
def codedBlock (kind k : Nat) (raw : List Byte) : Except Nat (List Byte) :=
  let stream : Except Nat (List Bool) :=
    match kind with
    | 0 => tritStream k raw 0 0
    | 1 => .ok (raw.flatMap fun b => riceBits b.toNat k)
    | _ => .ok (raw.flatMap byteBits)
  match stream with
  | .error i => .error i
  | .ok bs =>
    let pay := packBits bs.length bs
    .ok (bytesOf 1 0xC7 ++ bytesOf 1 kind ++ bytesOf 1 k ++ bytesOf 1 0 ++ bytesOf 4 raw.length ++ bytesOf 4 pay.length ++
      bytesOf 4 (crc32c raw) ++ pay ++ List.replicate ((16 - pay.length % 16) % 16) 0)

/-- Compress chunk by chunk (R215); an illegal trit byte is named by its offset in the raw input, a tile where quantise comes before
(assumption 42). -/
def compressAll (kind k : Nat) : List (List Byte) → Nat → List (List Byte) × Option CopyFault
  | [], _ => ([], none)
  | c :: cs, off =>
    match codedBlock kind k c with
    | .error i => ([], some { code := 0x09, sub := 0, pt := 0, off := off + i })
    | .ok b =>
      let r := compressAll kind k cs (off + c.length)
      (b :: r.1, r.2)

/-- The plan of a push (R207, R213 to R215) (assumption 42). Where compress follows quantise, the unit is the coded block. -/
def Copy.pushPlan (c : Copy) (s : State) : Ex (State × CopyPlan) := do
  let n := if c.quantises then c.len * c.elem else c.len
  let (t, r) ← c.take s (c.x.scs != 0) c.ra n
  let srcFault := r.fault.map sourceFault
  let (data, fault, flags) : List Byte × Option CopyFault × FFlags :=
    if c.quantises then
      if srcFault.isSome then ([], srcFault, 0)
      else match c.quantTile r.data with
        | .error f => ([], some f, 0)
        | .ok (tile, fl) => (tile, none, fl)
    else (r.data, srcFault, 0)
  let total := if c.quantises then tileBody (c.len / 32) + 16 else n
  if c.compresses then
    let full := if fault.isSome then data.take (data.length / 65536 * 65536) else data
    let z := compressAll (c.fn / 16) (c.fn % 16) (chunksOf 65536 (full.length + 1) full) 0
    let out := z.1.flatten
    .ok (t, planOf (partEnds 0 z.1) out (List.replicate out.length false) (z.2.orElse fun _ => fault) flags)
  else if c.quantises then .ok (t, planOf [total] data (List.replicate data.length false) fault flags)
  else if c.reduces ∧ c.x.fmt = 2 then .ok (t, planOf (stepEnds 32 total) data r.bad fault flags)
  else .ok (t, planOf (blockEnds c.rb.toNat total) data r.bad fault flags)

/-- The rows of a gather in index order from row `j` on, without the first `skip` bytes of that row (R218, R220). -/
def Copy.rows (c : Copy) (s : State) (j skip : Nat) : Nat → Ex (State × List Byte × List Bool × Option CopyFault)
  | 0 => .ok (s, [], [], none)
  | k + 1 => do
    let (t, ix) ← c.take s true (c.ra + BitVec.ofNat 64 (j * c.ixBytes)) c.ixBytes
    match ix.fault with
    | some f => .ok (t, [], [], some { code := f.2.1, sub := f.2.2, pt := 2, off := j })
    | none => do
      let i := ofBytes ix.data
      if i = 2 ^ (8 * c.ixBytes) - 1 then do
        let (t, d, b, f) ← Copy.rows c t (j + 1) 0 k
        .ok (t, List.replicate (c.rowBytes - skip) 0 ++ d, List.replicate (c.rowBytes - skip) false ++ b, f)
      else do
        let (t, row) ← c.take t false (c.rd + BitVec.ofNat 64 (i * c.rowBytes + skip)) (c.rowBytes - skip)
        match row.fault with
        | some f => .ok (t, [], [], some { code := f.2.1, sub := f.2.2, pt := 3, off := j })
        | none => do
          let (t, d, b, f) ← Copy.rows c t (j + 1) 0 k
          .ok (t, row.data ++ d, row.bad ++ b, f)

/-- The plan of a gather, from where it was suspended (R207, R218, R220) (assumption 42). -/
def Copy.gatherPlan (c : Copy) (s : State) : Ex (State × CopyPlan) := do
  let j := c.stage.pos / c.rowBytes
  let (t, d, b, f) ← c.rows s j (c.stage.pos % c.rowBytes) (c.len - j)
  let step := if c.toSpool then c.slotBytes t else c.rowBytes
  .ok (t, planFrom c.stage.pos (stepEnds step (c.len * c.rowBytes)) d b f 0)

/-- The plan of a copy: every source byte that its output needs is read (R206), after a suspension that of its undelivered output (R220)
(assumption 42). -/
def Copy.makePlan (c : Copy) (s : State) : Ex (State × CopyPlan) :=
  if c.isPull then c.pullPlan s else if c.isPush then c.pushPlan s else c.gatherPlan s

/-- A copy as its suspension leaves it (R220): where its next unit starts, and the last coded block that begins at or before the first byte
that its undelivered output needs. One with no unit left to deliver keeps its end. -/
def Copy.suspend (c : Copy) : Copy :=
  match c.plan with
  | none => c
  | some p =>
    match p.units with
    | [] => c
    | u :: _ =>
      let k := { c with plan := none, stage := { c.stage with pos := u.off, passed := c.dequantises, flags := p.flags } }
      let first := ((List.range c.need).find? k.needsByte).getD 0
      let from_ := (p.blocks.filter fun b => decide (b.2 ≤ first)).getLast?.getD (c.stage.src, c.stage.out)
      { k with stage := { k.stage with src := from_.1, out := from_.2 } }

/-! ## Issue -/

/-- Accept a copy (R204), after the W hold and the reads (assumption 43). -/
def acceptCopy (s : State) (c : Copy) (needsSlot : Bool) : Ex State := do
  notGuest s
  c.lengths s
  ensure (c.expands || !c.overlaps s c.ra c.need) (trap s 0x05 7 c.ra)
  let (t, _) ← c.place s false c.ra 1
  let (t, dst) ← if c.toAddress then do
      let (t, p) ← c.place t true c.rb 1
      .ok (t, some p)
    else .ok (t, none)
  match dst with
  | some p => if c.isPush then (do
      let _ ← t.pieceHome p
      .ok ()) else .ok ()
  | none => .ok ()
  if c.toSpool then do
    ensure (decide (c.rb.toNat < 16)) (spoolFault t c.rb.toNat)
    let h ← spoolNo t c.rb.toNat
    ensure ((t.spool h).en && !(t.spool h).bnd) (spoolFault t c.rb.toNat)
  else .ok ()
  let slot ← if needsSlot then do
      let x ← useSlot t c.x.sl.toNat
      ensure (!c.isPush || x.ec) (tableFault t 6 (BitVec.ofNat 64 c.x.sl.toNat))
      .ok x.image
    else .ok []
  if 16 ≤ (t.chip.copies.filter fun k => k.core == t.core.num).length then hold t .retry
  else do
    let t ← t.release 2
    let t := if c.isPush && c.compresses then setFill t c.l.d 0 Fill.pending else t
    let c := { c with slot := slot }
    .ok ((t.setChip fun x => { x with copies := x.copies ++ [c] }).setFib fun f =>
      { f with tokens := { f.tokens with count := f.tokens.count.set! c.token (f.tokens.count.getD c.token 0 + 1) } })

/-- A copy of the fibre in focus as its words give it. -/
def newCopy (s : State) (base : FmtL) (ext : FmtXC) (ra rb rc rd : Word) (gd : Option GReg) : Copy :=
  { fib := s.fib.id, core := s.core.num, asid := s.fib.asid, sup := s.fib.sup, base := base.pack, ext := ext.pack, ra := ra
    rb := rb, rc := rc, rd := rd, token := base.x.toNat % 8, prec := s.fib.prec, slot := [], ntf := ext.nt == 1
    gd := gd.map fun d => (s.fib.inev, d), plan := none, done := 0
    stage := CopyStage.start }

/-- `cp.pull` (R201 to R212, R216, R217). -/
def execCpPull (a b c : GReg) (w : BitVec 1) (fn : BitVec 2) (esz tok lc : BitVec 3) (nt : BitVec 1) (sl : BitVec 2)
    (fmt : BitVec 3) (tr tc : BitVec 6) (s : State) : Host.Outcome State Fault Refusal :=
  run s 2 do
    let dq := bit lc 1
    let _ ← if dq then slotNo s sl.toNat else .ok 0
    let t ← waitW s w
    let ra ← readG t a
    let rb ← readG t b
    let rc ← readG t c
    acceptCopy t (newCopy t { major := 0x70, d := 0, a := a, b := b, c := c, w := w, fn := fn.setWidth 6, x := esz ++ tok }
      { lc := lc, scs := 0, nt := nt, sl := sl, fmt := fmt, tr := tr, tc := tc, ixw := 0, rblk := 0 } ra rb rc 0 none) dq

/-- `cp.push` (R201 to R209, R213 to R215): a compress copy holds for a pending gd. -/
def execCpPush (d a b c : GReg) (w : BitVec 1) (fn : BitVec 6) (tok scs : BitVec 3) (nt : BitVec 1) (sl : BitVec 2)
    (fmt : BitVec 3) (s : State) : Host.Outcome State Fault Refusal :=
  run s 2 do
    let q := bit scs 1
    let z := bit scs 0
    let _ ← if q then slotNo s sl.toNat else .ok 0
    let t ← waitW s w
    let ra ← readG t a
    let rb ← readG t b
    let rc ← readG t c
    if z then destG t d else .ok ()
    acceptCopy t (newCopy t { major := 0x71, d := d, a := a, b := b, c := c, w := w, fn := fn, x := 0#3 ++ tok }
      { lc := 0, scs := scs, nt := nt, sl := sl, fmt := fmt, tr := 0, tc := 0, ixw := 0, rblk := 0 } ra rb rc 0
      (if z then some d else none)) q

/-- `cp.gather` (R218). -/
def execCpGather (d a b c : GReg) (w spl : BitVec 1) (tok : BitVec 3) (nt : BitVec 1) (ixw : BitVec 2) (rblk : BitVec 6)
    (s : State) : Host.Outcome State Fault Refusal :=
  run s 2 do
    let t ← waitW s w
    let ra ← readG t a
    let rb ← readG t b
    let rc ← readG t c
    let rd ← readG t d
    acceptCopy t (newCopy t
      { major := 0x72, d := d, a := a, b := b, c := c, w := w, fn := if spl = 1 then 3 else 0, x := 0#3 ++ tok }
      { lc := 0, scs := 0, nt := nt, sl := 0, fmt := 0, tr := 0, tc := 0, ixw := ixw, rblk := rblk } ra rb rc rd none) false

/-! ## Delivery -/

/-- Two XACC partial records added (R213), or the side at fault: 0 source, 1 destination. -/
def addRecords (src dst : List Byte) : Except Nat (List Byte) :=
  if !recordZero src then .error 0
  else if !recordZero dst || recordAnchor src != recordAnchor dst then .error 1
  else .ok (bytesOf 16 ((field src 0 16 + field dst 0 16) % 2 ^ 128) ++ slice dst 16 2 ++
    bytesOf 1 (field src 18 1 ||| field dst 18 1) ++ bytesOf 1 0 ++
    bytesOf 4 (min (field src 20 4 + field dst 20 4) (2 ^ 32 - 1)) ++ bytesOf 8 0)

/-- Add source elements into destination elements (R213); an error gives the side and the byte offset. -/
def addElements (e : Nat) : Nat → List Byte → List Byte → Nat → Except (Nat × Nat) (List Byte)
  | 0, _, _, _ => .ok []
  | fuel + 1, src, dst, off =>
    if src.isEmpty then .ok [] else
    let one : Except Nat (List Byte) :=
      if e = 32 then addRecords (src.take 32) (dst.take 32)
      else .ok (bytesOf e ((ofBytes (src.take e) + ofBytes (dst.take e)) % 2 ^ (8 * e)))
    match one with
    | .error side => .error (side, off)
    | .ok x =>
      match addElements e fuel (src.drop e) (dst.drop e) (off + e) with
      | .error r => .error r
      | .ok xs => .ok (x ++ xs)

/-- Whether the full bit of a word follows the copy's writes there (R67, R206). -/
def Piece.fills (p : Piece) : Bool := isPad p.pa || bit p.leaf 5

/-- Write the bytes of one unit at their homes, mark poison, and set full every word that ends in it (R206, R219). -/
def putPieces (s : State) : List Piece → List Byte → List Bool → State
  | [], _, _ => s
  | p :: ps, d, b =>
    let s := s.perform (keyArg p.leaf) p.pa (d.take p.len)
    let s := (List.range p.len).foldl (fun s i => if b.getD i false then s.markPoison ((p.pa + i) / 8) else s) s
    let s := if p.fills then
        (List.range ((p.pa + p.len) / 8 - p.pa / 8)).foldl (fun s i => s.makeFull (p.pa / 8 + i)) s
      else s
    putPieces s ps (d.drop p.len) (b.drop p.len)

/-- The word in which the delivered bytes end is set full once no further byte of the copy lands in it (R206). -/
def Copy.closeTail (c : Copy) (s : State) (delivered : Nat) : State :=
  let va := c.rb + BitVec.ofNat 64 delivered
  if !c.toAddress || delivered == 0 || va.toNat % 8 == 0 then s else
  match c.place s true (va - 1) 1 with
  | .error _ => s
  | .ok (t, p) => if p.fills then t.makeFull (p.pa / 8) else t

/-- Deliver one unit to an address (R207, R213). -/
def Copy.deliverAt (c : Copy) (s : State) (u : CopyUnit) : Ex (State × Option CopyFault) := do
  let n := u.data.length
  let coded : Bool := c.compresses || c.quantises
  let fault (code sub pt off : Nat) : Option CopyFault :=
    some { code := code, sub := sub, pt := pt, off := if coded && pt == 1 then u.off else off }
  let (t, ps, f) ← c.places true (n / 128 + 2) s (c.rb + BitVec.ofNat 64 u.off) n u.off
  match f with
  | some f => .ok (t, fault f.2.1 f.2.2 1 f.1)
  | none =>
    if !c.reduces then .ok (putPieces t ps u.data u.bad, none) else
    let r := takePieces t ps
    match r.2.2.idxOf? true with
    | some k => .ok (r.1, fault 6 0 1 (u.off + k))
    | none =>
      match addElements c.redElem n u.data r.2.1 u.off with
      | .error (side, off) => .ok (r.1, fault 0x0E 5 side off)
      | .ok bs => .ok (putPieces r.1 ps bs [], none)

/-- Write one row of the plane, which clears its poison mark (R217, R438). -/
def Chip.putRow (c : Chip) (off : Nat) (bs : List Byte) : Chip :=
  { c with plane := memPut c.plane off bs, planeBad := setDel (off / 128) c.planeBad }

/-- Write consecutive strip entries (R217). -/
def Chip.putStrips (c : Chip) (off : Nat) : List Byte → Chip
  | [] => c
  | b :: bs => (c.putStrip off b).putStrips (off + 1) bs

/-- Deliver one unit that goes to no spool (R207, R217). -/
def Copy.deliver (c : Copy) (s : State) (u : CopyUnit) : Ex (State × Option CopyFault) :=
  if c.toRows then
    match firstBad (fun b : Byte => decide (242 < b.toNat)) u.data 0 with
    | some i => .ok (s, some { code := 0x09, sub := 0, pt := 1, off := u.off + i })
    | none => .ok (s.setChip fun x => x.putRow (c.rb.toNat + u.off) u.data, none)
  else if c.toStrip then .ok (s.setChip fun x => x.putStrips (c.rb.toNat + u.off) u.data, none)
  else c.deliverAt s u

/-- Replace a copy of a chiplet. -/
def State.putCopy (s : State) (ch k : Nat) (c : Copy) : State :=
  s.onChip ch fun x => { x with copies := x.copies.set k c }

/-- Put the plan of a copy in place before its first delivery. -/
def State.planned (s : State) (ch k : Nat) (c : Copy) : Ex (State × Copy × CopyPlan) :=
  match c.plan with
  | some p => .ok (s, c, p)
  | none => do
    let (t, p) ← c.makePlan s
    let c := { c with plan := some p }
    .ok (t.putCopy ch k c, c, p)

/-- A delivered unit leaves the plan; a fault ends the copy there (R207). -/
def CopyPlan.after (p : CopyPlan) (f : Option CopyFault) : CopyPlan :=
  match f with
  | some f => { p with units := [], fault := some f }
  | none => { p with units := p.units.drop 1 }

/-- COPY_UNIT_DELIVER (R207): copy `k` of a chiplet delivers its next unit; the first also reads its source. -/
def execCopyUnitDeliver (ch k : Nat) (s : State) : Host.Outcome State Fault Refusal :=
  match (s.chipAt ch).copies[k]? with
  | none => .next s
  | some c =>
    if (c.toSpool && c.plan.isSome) || (c.plan.map fun p => p.units.isEmpty) == some true then .next s
    else agentStep s do
      let (t, c, p) ← (s.focusCore c.core).planned ch k c
      match (if c.toSpool then none else p.units.head?) with
      | none => .ok t
      | some u => do
        let (t, f) ← c.deliver t u
        let q := p.after f
        let t := if q.units.isEmpty then c.closeTail t (if f.isSome then u.off else u.off + u.data.length) else t
        .ok (t.putCopy ch k { c with plan := some q, done := c.done + if f.isSome then 0 else 1 })

/-- Mark the words of a spool slot that take poisoned bytes. -/
def markSlot (s : State) (pa : Nat) (bad : List Bool) : State :=
  (bad.zipIdx.filter fun e => e.1).foldl (fun s e => s.markPoison ((pa + e.2) / 8)) s

/-- COPY_SPOOL_PIECE (R216): copy `k` of a chiplet fills slot WIX once one is free. Where its skein is gone with an aborted launch, so is the
spool, and the copy runs to its end without it (R426) (assumption 48). -/
def execCopySpoolPiece (ch k : Nat) (s : State) : Host.Outcome State Fault Refusal :=
  match (s.chipAt ch).copies[k]? with
  | none => .next s
  | some c =>
    match c.plan, s.skein? c.fib.lid c.fib.skn with
    | some p, none => .next (if c.toSpool then s.putCopy ch k { c with plan := some (p.after none), done := c.done + 1 } else s)
    | some p, some sk =>
      let h := sk.spb + c.rb.toNat
      let sp := (s.coreAt c.core).spools.getD h Spool.zero
      match p.units with
      | [] => .next s
      | u :: _ =>
        if !c.toSpool || !sp.en || sp.nslot ≤ sp.fill then .next s else
        let t := s.fillSlot c.core h 0 u.data
        let t := markSlot t (padAddr (chipNum c.core) sp.writeOff) u.bad
        let t := t.countSlots c.core h 1
        .next (t.putCopy ch k { c with plan := some (p.after none), done := c.done + 1 })
    | none, _ => .next s

/-! ## Completion -/

/-- The record of a fault in a token (R209). -/
def CopyFault.record (f : CopyFault) (token : Nat) : Word :=
  wordOf [(56, 8, f.code), (48, 8, f.sub), (45, 3, token), (42, 3, f.pt), (0, 32, f.off)]

/-- A token takes the end of one of its copies (R205, R209): the record is kept when ERR was 0. -/
def Tokens.end_ (t : Tokens) (i : Nat) (record : Option Word) : Tokens :=
  let t := { t with count := t.count.set! i (t.count.getD i 0 - 1) }
  match record with
  | none => t
  | some r => if t.err.getD i false then t else { t with err := t.err.set! i true, record := t.record.set! i r }

/-- The token of a copy's fibre, in its registers or its image, takes the end of the copy; a record that is not kept is logged. -/
def State.endToken (s : State) (id : FibreId) (i : Nat) (record : Option Word) : State :=
  let lost (s : State) (err : Bool) : State :=
    match record with
    | some r => if err then s.logAt 0x06 0 0 (coreBlk s.core.num) (coreLoc s.core.num) id.lid 0 r.toNat else s
    | none => s
  match s.fibre? id with
  | some f => lost (s.onFibre id fun f => { f with
      tokens := { f.tokens.end_ i record with since := f.tokens.since.set! i s.dev.writes } }) (f.tokens.err.getD i false)
  | none =>
    match s.imageOf id with
    | none => s
    | some (l, at_) =>
      let w := s.agentWord l.asid (at_ + 40)
      let t := (Tokens.ofWord w []).end_ i record
      let s := s.agentPut l.asid (at_ + 40) t.word
      match record with
      | some r => if bit w (8 * i + 7) then lost s true else s.agentPut l.asid (at_ + 0xC0 + 8 * i) r
      | none => s

/-- COPY_COMPLETE (R205): every unit of copy `k` is delivered, or it stopped at a fault. -/
def execCopyComplete (ch k : Nat) (s : State) : Host.Outcome State Fault Refusal :=
  match (s.chipAt ch).copies[k]? with
  | none => .next s
  | some c =>
    match c.plan with
    | none => .next s
    | some p =>
      if !p.units.isEmpty then .next s else
      let s := s.focusCore c.core
      let s := match s.fibre? c.fib with
        | some _ => s.onFibre c.fib fun f => { f with prec := orFlags f.prec p.flags }
        | none => if p.flags = 0 then s else s.onImage c.fib 16 fun w => orFlags w p.flags
      let s := match c.gd, p.fault with
        | some (sh, d), none => s.fill c.fib sh d p.coded false
        | some (sh, d), some f => s.fill c.fib sh d (BitVec.ofNat 64 (f.code + 2 ^ 16 * f.sub)) true
        | none, _ => s
      let s := s.endToken c.fib c.token (p.fault.map fun f => f.record c.token)
      let s := s.onChip ch fun x => { x with copies := dropAt x.copies k, copiesDone := x.copiesDone + 1 }
      .next (if c.ntf then s.pendEvent c.fib.lid c.fib.skn 1 else s)

end Sys2Proof.Machine
end

