-- ==== Sys2Proof/Machine/Sync.lean ====
section
/-! DEFINITION. Named barriers, semaphores, fences, token waits and domain barriers: majors 0x38 to 0x3C (R360 to R370). -/

namespace Sys2Proof.Machine

/-- The barrier participant fault (R370); TVAL is the count given. -/
def barrierFault {α : Type} (s : State) (sub : Nat) (count : Word) : Ex α := trap s 0x14 sub count

/-! ## Named barriers -/

/-- One arrival at a barrier (R142, R361): the new state, or the subcause. `scope` is 0 for a relaxed arrival. At completion the widest
scope of the phase is kept for the waits of that phase. -/
def Barrier.arrive (b : Barrier) (count scope : Nat) : Except Nat Barrier :=
  if count = 0 ∨ 256 < count then .error 1
  else if b.npart ≠ 0 ∧ b.npart ≠ count then .error 0
  else if b.arr + 1 = count then .ok { ph := !b.ph, npart := 0, arr := 0, scope := 0, last := max b.scope scope }
  else .ok { b with npart := count, arr := b.arr + 1, scope := max b.scope scope }

/-- The core's barrier that an instruction names (R140, R360). -/
def barName (s : State) (n : Nat) : Ex Nat :=
  match barNo s.skein n with
  | some b => .ok b
  | none => illegal s 3

/-- A barrier of the core in focus. -/
def State.bar (s : State) (b : Nat) : Barrier := s.core.bars.getD b Barrier.zero

/-- A fibre's wait at a barrier completes with an acquire at a scope (R361). -/
def State.leaveBar (s : State) (scope : Nat) (id : FibreId) : State :=
  ((if scope < 2 then s else s.acquireFor id).onFibre id fun f => { f with bwait := none }).finish id 1

/-- A core's barrier `b` becomes `v` by an arrival (R142): where that completes its phase, every fibre parked for it goes on (R361). -/
def State.setBar (s : State) (core b : Nat) (v : Barrier) : State :=
  let old := ((s.coreAt core).bars.getD b Barrier.zero).ph
  let s := s.onCore core fun c => { c with bars := c.bars.set! b v }
  if v.ph = old then s else
  ((s.allFibres.filter fun f => f.at_ == core && f.park == some (.barrier b old)).map Fibre.id).foldl (fun s id => s.leaveBar v.last id) s

/-- A local arrival (R360): the parity of the phase arrived in and the state after it. -/
def arriveBar (s : State) (b : Nat) (count : Word) (scope : Nat) : Ex (State × Bool) := do
  match (s.bar b).arrive count.toNat scope with
  | .error sub => barrierFault s sub count
  | .ok _ => do
    let t ← s.release scope
    match (t.bar b).arrive count.toNat scope with
    | .error sub => barrierFault t sub count
    | .ok v => .ok (t.setBar t.core.num b v, (t.bar b).ph)

/-- Wait until the parity of a barrier differs, then acquire (R360, R361); one that parks goes on as soon as the phase completes. -/
def awaitBar (s : State) (b : Nat) (parity : Bool) : Ex State :=
  if (s.bar b).ph = parity then hold s (.barrier b parity)
  else .ok ((s.acquire (max 1 (s.bar b).last)).setFib fun f => { f with bwait := none })

/-- `bar.arr` (R360). -/
def execBarArr (d a : GReg) (n : BitVec 5) (s : State) : Host.Outcome State Fault Refusal :=
  run s 1 do
    notGuest s
    let b ← barName s n.toNat
    let count ← readG s a
    destG s d
    let (t, ph) ← arriveBar s b count 1
    .ok (setG t d (if ph then 1 else 0))

/-- `bar.arr.rlx` (R360). -/
def execBarArrRlx (d a : GReg) (n : BitVec 5) (s : State) : Host.Outcome State Fault Refusal :=
  run s 1 do
    notGuest s
    let b ← barName s n.toNat
    let count ← readG s a
    destG s d
    let (t, ph) ← arriveBar s b count 0
    .ok (setG t d (if ph then 1 else 0))

/-- `bar.wait` (R360). -/
def execBarWait (a : GReg) (n : BitVec 5) (s : State) : Host.Outcome State Fault Refusal :=
  run s 1 do
    notGuest s
    let b ← barName s n.toNat
    let g ← readG s a
    awaitBar s b (bit g 0)

/-- The wait of an earlier arrival by the instruction at this address, if there is one (R361). -/
def State.waiting (s : State) (domain : Bool) : Option BarWait :=
  s.fib.bwait.filter fun w => w.at_ == s.fib.pc && w.domain == domain

/-- `bar.sync` (R360): the arrival is counted once, however often the wait executes again (R361). -/
def execBarSync (a : GReg) (n : BitVec 5) (s : State) : Host.Outcome State Fault Refusal :=
  run s 1 do
    notGuest s
    let b ← barName s n.toNat
    match s.waiting false with
    | some w => awaitBar s b w.parity
    | none => do
      let count ← readG s a
      let (t, ph) ← arriveBar s b count 1
      let w : BarWait := { at_ := t.fib.pc, domain := false, bar := n.toNat, level := 0, parity := ph, phase := 0 }
      awaitBar (t.setFib fun f => { f with bwait := some w }) b ph

/-- The place of a resident skein's chiplet; the chiplet in focus for a skein that is nowhere. -/
def State.skeinPlace (s : State) (lid skn : Nat) : Nat :=
  match (s.skein? lid skn).filter Skein.resident with
  | some k => chipNum k.core
  | none => s.chip.num

/-- `bar.rmt` (R362): the arrival travels on CTL, a release one after every earlier access; the target is checked as R386 checks that of
a message. -/
def execBarRmt (a b : GReg) (r : BitVec 1) (sc : BitVec 3) (s : State) : Host.Outcome State Fault Refusal :=
  run s 1 do
    notGuest s
    let dst ← readG s a
    let count ← readG s b
    let nsk := match s.myLaunch with
      | some l => l.nsk
      | none => 0
    ensure (bits dst 25 39 == 0 && decide (bits dst 0 20 < nsk)) (trap s 0x10 1 dst)
    let place := s.skeinPlace s.fib.id.lid (bits dst 0 20)
    s.reach place
    let t ← if r = 1 then s.release sc.toNat else .ok s
    let t ← if r = 1 then t.allFirst else .ok t
    let m : Msg := { dstLid := t.fib.id.lid, dstSkn := bits dst 0 20
                     dest := BitVec.ofNat 64 (bits dst 0 20 + 2 ^ 20 * t.fib.id.lid), srcFib := t.fib.id, rreg := 0
                     shadow := false, rpl := false, tag := 0, npl := 0, kind := 1, srcCore := t.core.num
                     pay := [count, BitVec.ofNat 64 (bits dst 20 5), BitVec.ofNat 64 (sc.toNat + 8 * r.toNat), 0]
                     aux := sc.toNat + 8 * r.toNat, hop := t.hop place }
    .ok (t.setDev fun v => { v with arrivals := v.arrivals ++ [m] })

/-! ## Semaphores -/

/-- A semaphore of the chiplet in focus. -/
def State.sem (s : State) (k : Nat) : Sem := s.chip.sems.getD k Sem.zero

/-- Update a semaphore of the chiplet in focus. -/
def State.onSem (s : State) (k : Nat) (f : Sem → Sem) : State :=
  s.setChip fun c => { c with sems := c.sems.set! k (f (c.sems.getD k Sem.zero)) }

/-- Serve the head of a chiplet's line while its request is satisfied (R364): the subtraction, the acquire and the completion. -/
def State.serveLine (s : State) (ch k : Nat) : Nat → State
  | 0 => s
  | fuel + 1 =>
    let m := (s.chipAt ch).sems.getD k Sem.zero
    match m.line with
    | [] => s
    | (id, n) :: rest =>
      if n ≤ m.count then
        let s := s.onChip ch fun c => { c with sems := c.sems.set! k { m with count := m.count - n, line := rest } }
        State.serveLine ((s.acquireFor id).finish id 1) ch k fuel
      else s

/-- The lines that a request has left unserved are looked at, for the request behind it may be satisfied (R363, R364). -/
def State.serveLooks (s : State) : State :=
  let looks (c : Chip) : List (Nat × Nat) :=
    ((List.range 64).filter fun k => (c.sems.getD k Sem.zero).look).map fun k => (c.num, k)
  ((s.chip :: s.chips).flatMap looks).foldl (fun s e =>
    let s := s.onChip e.1 fun c => { c with sems := c.sems.set! e.2 { (c.sems.getD e.2 Sem.zero) with look := false } }
    s.serveLine e.1 e.2 ((s.chipAt e.1).sems.getD e.2 Sem.zero).line.length) s

/-- The operand of a semaphore instruction: bits 63:32 must be zero (R363). -/
def semCount (s : State) (a : GReg) : Ex Nat := do
  let n ← readG s a
  ensure (bits n 32 32 == 0) (illegal s 4)
  .ok n.toNat

/-- `sem.post` (R363): release at chip scope, saturating addition, waiters wake. -/
def execSemPost (a : GReg) (k : BitVec 6) (s : State) : Host.Outcome State Fault Refusal :=
  runThen s 1 (do
    let n ← semCount s a
    let t ← s.release 2
    let sum := (t.sem k.toNat).count + n
    let t := if sum < 2 ^ 32 then t else t.log 0x0F 0 0 0 k.toNat
    .ok (t.onSem k.toNat fun m => { m with count := Nat.min sum (2 ^ 32 - 1) })) fun t =>
      t.serveLine t.chip.num k.toNat (t.sem k.toNat).line.length

/-- `sem.wait` (R363): waits in order of arrival; a request for 0 completes at once. -/
def execSemWait (a : GReg) (k : BitVec 6) (s : State) : Host.Outcome State Fault Refusal :=
  run s 1 do
    let n ← semCount s a
    let m := s.sem k.toNat
    if n = 0 then .ok (s.acquire 2)
    else if m.line.isEmpty && decide (n ≤ m.count) then
      .ok ((s.onSem k.toNat fun v => { v with count := v.count - n }).acquire 2)
    else hold (s.onSem k.toNat fun v => { v with line := v.line ++ [(s.fib.id, n)] }) (.sem k.toNat n)

/-- `sem.try` (R363): never parks. -/
def execSemTry (d a : GReg) (k : BitVec 6) (s : State) : Host.Outcome State Fault Refusal :=
  run s 1 do
    let n ← semCount s a
    destG s d
    let m := s.sem k.toNat
    if m.line.isEmpty && decide (n ≤ m.count) then
      .ok (setG ((s.onSem k.toNat fun v => { v with count := v.count - n }).acquire 2) d 1)
    else .ok (setG s d 0)

/-- `sem.rd` (R363): relaxed. -/
def execSemRd (d : GReg) (k : BitVec 6) (s : State) : Host.Outcome State Fault Refusal :=
  run s 1 (writeG s d (BitVec.ofNat 64 (s.sem k.toNat).count))

/-! ## Fences and token waits -/

/-- `fence` (R365). -/
def execFence (sc : BitVec 3) (s : State) : Host.Outcome State Fault Refusal :=
  run s 1 do
    let t ← s.release sc.toNat
    .ok (t.acquire sc.toNat)

/-- `fence.acq` (R365): held until UPDOUT = 0, except at fibre scope. -/
def execFenceAcq (sc : BitVec 3) (s : State) : Host.Outcome State Fault Refusal :=
  run s 1 (if sc ≠ 0 ∧ s.fib.updout ≠ 0 then hold s .retry else .ok (s.acquire sc.toNat))

/-- `fence.rel` (R365). -/
def execFenceRel (sc : BitVec 3) (s : State) : Host.Outcome State Fault Refusal :=
  run s 1 (s.release sc.toNat)

/-- `twait` (R366). -/
def execTwait (t : BitVec 8) (s : State) : Host.Outcome State Fault Refusal := run s 1 (waitOn s t .wait)

/-! ## Domain barriers -/

/-- The launch, effective level and domain of a domain-barrier instruction (R367); `g` is the value TVAL takes. -/
def domainOf (s : State) (level : BitVec 3) (g : Word) : Ex (Launch × Nat × Nat) := do
  notGuest s
  match s.myLaunch with
  | none => barrierFault s 2 g
  | some l =>
    if l.coop then
      let d := domOf s.core.memb level.toNat
      .ok (l, d.1, d.2)
    else barrierFault s 2 g

/-- The arrivals of a skein in the open phase of a level. -/
def Skein.dbar (k : Skein) (level : Nat) : DbarArr :=
  match k.dbars.find? fun d => d.level == level with
  | some d => d
  | none => { level := level, need := 0, arrived := 0, sent := false }

/-- Replace the arrivals of a skein at a level. -/
def Skein.putDbar (k : Skein) (d : DbarArr) : Skein := { k with dbars := d :: k.dbars.filter fun e => e.level != d.level }

/-- The scope code of an effective level (R367, R368): chip, dom2 to dom4, and dev for the launch. -/
def levelScope (level : Nat) : Nat := if level = 5 then 6 else level + 1

/-- The root of a domain: the lowest-numbered chiplet of its participants (R367) (assumption 21). -/
def rootOf (part : List Skein) : Nat := (part.map fun x => netChip (chipNum x.core)).foldl Nat.min 256

/-- Whether a packet of CTL that was sent before another is still on its way: a remote arrival, a contribution or a flood (R31). -/
def State.ctlBefore (s : State) (h : Hop) : Bool :=
  (s.dev.arrivals.any fun m => m.hop.before h) || (s.dev.contribs.any fun m => m.hop.before h) || s.dev.floods.any fun m => m.hop.before h

/-- An arrival at a domain barrier (R367, R368): the phase joined and the state after it. A skein that has contributed to the
open phase holds further arrivals until the phase is flooded to it (assumption 21). -/
def arriveDomain (s : State) (level : BitVec 3) (count : Word) : Ex (State × Nat) := do
  let (l, e, d) ← domainOf s level count
  let k := s.skein.dbar e
  ensure (count ≠ 0 ∧ count.toNat ≤ 256) (barrierFault s 1 count)
  ensure (k.need = 0 ∨ k.need = count.toNat) (barrierFault s 0 count)
  if k.sent then hold s .retry
  else do
    let t ← s.release (levelScope e)
    let phase := t.phaseSeen l t.fib.id.skn e d
    let full := k.arrived + 1 == count.toNat
    let t := t.setSkein fun x =>
      x.putDbar { level := e, need := count.toNat, arrived := k.arrived + 1, sent := full }
    let m : DbarMsg := { lid := l.lid, skn := t.fib.id.skn, level := e, dom := d, phase := phase, tp := 0,
                         scope := levelScope e
                         hop := t.hop (rootOf (t.participants l.lid e d)) }
    .ok (if full then t.setDev fun v => { v with contribs := v.contribs ++ [m] } else t, phase)

/-- Wait until the phase number differs, then acquire at the level's scope (R368) (assumption 21). -/
def awaitDomain (s : State) (level : BitVec 3) (g : Word) (phase : Nat) : Ex State := do
  let (l, e, d) ← domainOf s level g
  if s.phaseSeen l s.fib.id.skn e d = phase then hold s .wait
  else .ok ((s.acquire (levelScope e)).setFib fun f => { f with bwait := none })

/-- `dbar.arr` (R368). -/
def execDbarArr (d a l : BitVec 3) (s : State) : Host.Outcome State Fault Refusal :=
  run s 1 do
    notGuest s
    let count ← readG s a
    destG s d
    let (t, phase) ← arriveDomain s l count
    .ok (setG t d (BitVec.ofNat 64 phase))

/-- `dbar.wait` (R368). -/
def execDbarWait (a l : BitVec 3) (s : State) : Host.Outcome State Fault Refusal :=
  run s 1 do
    notGuest s
    let g ← readG s a
    awaitDomain s l g (bits g 0 32)

/-- `dbar.sync` (R368): the arrival is counted once (R361). -/
def execDbarSync (a l : BitVec 3) (s : State) : Host.Outcome State Fault Refusal :=
  run s 1 do
    notGuest s
    match s.waiting true with
    | some w => awaitDomain s l 0 w.phase
    | none => do
      let count ← readG s a
      let (t, phase) ← arriveDomain s l count
      let w : BarWait := { at_ := t.fib.pc, domain := true, bar := 0, level := l.toNat, parity := false, phase := phase }
      awaitDomain (t.setFib fun f => { f with bwait := some w }) l count phase

/-- `dphase` (R368). -/
def execDphase (d l : BitVec 3) (s : State) : Host.Outcome State Fault Refusal :=
  run s 1 do
    let (x, e, k) ← domainOf s l 0
    writeG s d (BitVec.ofNat 64 (s.phaseSeen x s.fib.id.skn e k))

/-- `dphase.t` (R368). -/
def execDphaseT (d l : BitVec 3) (s : State) : Host.Outcome State Fault Refusal :=
  run s 1 do
    let (x, e, k) ← domainOf s l 0
    writeG s d (BitVec.ofNat 64 (s.tpSeen x s.fib.id.skn e k))

/-- Complete the open phase of a domain once every participant has contributed (R367): the phase number and TP, on the root's counter,
advance and are flooded from the root (assumption 21). -/
def State.tryPhase (s : State) (lid level dom : Nat) : State :=
  match s.launch? lid with
  | none => s
  | some l =>
    let p := l.phaseOf level dom
    let part := s.participants lid level dom
    if !p.contrib.isEmpty && !part.isEmpty && part.all fun x => p.contrib.contains x.skn then
      let phase := (p.phase + 1) % 2 ^ 32
      let root := rootOf part
      let tp := s.wtick root
      let q : DomPhase := { p with phase := phase, tp := tp, tpWas := p.tp, contrib := [],
                                   tpOdd := if phase % 2 = 1 then tp else p.tpOdd }
      let s := s.onLaunch lid fun x => x.putPhase q
      let floods := part.map fun x =>
        ({ lid := lid, skn := x.skn, level := level, dom := dom, phase := phase, tp := tp, scope := levelScope level
           hop := s.hopFrom root (chipNum x.core) } : DbarMsg)
      s.setDev fun d => { d with floods := d.floods ++ floods }
    else s

/-- A contribution climbs to the root of its domain (R367), behind what was sent before it on its way (R31). -/
def execDbarContribution (k : Nat) (s : State) : Host.Outcome State Fault Refusal :=
  match s.dev.contribs[k]? with
  | none => .next s
  | some m =>
    if s.ctlBefore m.hop then .next s else
    let s := s.setDev fun d => { d with contribs := dropAt d.contribs k }
    let s := s.onLaunch m.lid fun l =>
      let p := l.phaseOf m.level m.dom
      l.putPhase { p with contrib := setIns m.skn p.contrib }
    .next (s.tryPhase m.lid m.level m.dom)

/-- The flooded phase number reaches a participant (R367), behind what was sent before it on its way (R31): its arrivals start afresh and
its waiters test again. -/
def execDbarPhaseFlood (k : Nat) (s : State) : Host.Outcome State Fault Refusal :=
  match s.dev.floods[k]? with
  | none => .next s
  | some m =>
    if s.ctlBefore m.hop then .next s else
    let s := s.setDev fun d => { d with floods := dropAt d.floods k }
    .next (s.onSkein m.lid m.skn fun x =>
      x.putDbar { level := m.level, need := 0, arrived := 0, sent := false })

end Sys2Proof.Machine
end

