-- ==== Sys2Proof/Machine/Messages.lean ====
section
/-! DEFINITION. Messages and replies: major 0x74 and the steps that accept, deliver and answer them (R386 to R394, R339), and
remote barrier arrivals (R362), and remote updates at their executing core (R358, R359). -/

namespace Sys2Proof.Machine

/-! ## Placement and rings -/

/-- Whether a launch is live: accepted and not ended (R386, R426). -/
def Launch.live (l : Launch) : Bool :=
  match l.state with
  | .ended _ _ => false
  | _ => true

/-- A live launch of an identifier. -/
def State.liveLaunch? (s : State) (lid : Nat) : Option Launch := (s.launch? lid).filter Launch.live

/-- The resident skein of a name. -/
def State.resident? (s : State) (lid skn : Nat) : Option Skein := (s.skein? lid skn).filter Skein.resident

/-- The resident skein of a name whose core takes messages: those for a skein on a fenced core are treated as those for a checkpointed
one (R424). -/
def State.receiver? (s : State) (lid skn : Nat) : Option Skein := (s.resident? lid skn).filter fun k => s.coreLive k.core

/-- A word of the control block of a launch's ring area (R411): 0 overflow head, 1 overflow tail, 2 dead-letter tail, 3 drops,
4 dead-letter head. -/
def State.ringWord (s : State) (l : Launch) (i : Nat) : Nat := (s.agentWord l.asid (l.rings + 8 * i)).toNat

/-- Write a word of the control block. -/
def State.putRing (s : State) (l : Launch) (i v : Nat) : State := s.agentPut l.asid (l.rings + 8 * i) (BitVec.ofNat 64 v)

/-- The address of overflow record `i` (R411, R393). -/
def Launch.overflowAt (l : Launch) (i : Nat) : Nat := l.rings + 64 + 64 * (i % 2 ^ l.rnl)

/-- The address of dead-letter record `i` (R411, R393). -/
def Launch.deadAt (l : Launch) (i : Nat) : Nat := l.rings + 64 + 64 * 2 ^ l.rnl + 64 * (i % 2 ^ l.rnl)

/-- Append to the overflow queue; none when it is full (R392) (assumption 44). -/
def State.overflow (s : State) (l : Launch) (m : Msg) : Option State :=
  let tail := s.ringWord l 1
  if 2 ^ l.rnl ≤ tail - s.ringWord l 0 then none
  else some ((s.agentWrite l.asid (l.overflowAt tail) m.record).putRing l 1 (tail + 1))

/-- Append to the dead-letter log; a record for a full log is dropped and counted (R392). -/
def State.deadLetter (s : State) (l : Launch) (m : Msg) : State :=
  let tail := s.ringWord l 2
  if 2 ^ l.rnl ≤ tail - s.ringWord l 4 then
    (s.putRing l 3 (s.ringWord l 3 + 1)).logAt 0x0D 0 0 12 (netChip s.chip.num) l.lid (l.deadAt tail) m.dest.toNat
  else (s.agentWrite l.asid (l.deadAt tail) m.record).putRing l 2 (tail + 1)

/-- The records of the overflow queue, oldest first. -/
def State.overflowed (s : State) (l : Launch) : List (List Byte) :=
  let head := s.ringWord l 0
  (List.range (s.ringWord l 1 - head)).map fun i => s.agentRead l.asid (l.overflowAt (head + i)) 64

/-- The skein that a record is for. -/
def recordSkein (r : List Byte) : Nat := field r 8 4 % 2 ^ 20

/-- Whether the overflow queue holds a record for a skein. -/
def State.hasOverflow (s : State) (l : Launch) (skn : Nat) : Bool := (s.overflowed l).any fun r => recordSkein r == skn

/-- Write the records that stay in the overflow queue up to its tail, and set its head. -/
def State.keepOverflow (s : State) (l : Launch) (keep : List (List Byte)) : State :=
  let head := s.ringWord l 1 - keep.length
  ((keep.zipIdx).foldl (fun s r => s.agentWrite l.asid (l.overflowAt (head + r.2)) r.1) s).putRing l 0 head

/-! ## Arrival -/

/-- Messages an inbound queue holds (R389) (assumption 44). -/
abbrev inboundRoom : Nat := 32

/-- Count a remote arrival at a resident skein's barrier (R142, R362); a refused one goes to the dead-letter log. -/
def State.countRemote (s : State) (l : Launch) (k : Skein) (m : Msg) : State :=
  let refuse (sub : Nat) : State :=
    s.deadLetter l { m with pay := (m.pay.take 3) ++ [BitVec.ofNat 64 (0x14 + 2 ^ 16 * sub)] }
  let count := (m.pay.getD 0 0).toNat
  let b := bits (m.pay.getD 1 0) 0 5
  if count = 0 ∨ 256 < count then refuse 1
  else if k.bn ≤ b then refuse 3
  else
    match ((s.coreAt k.core).bars.getD (k.bb + b) Barrier.zero).arrive count (if bit (BitVec.ofNat 4 m.aux) 3 then m.aux % 8 else 0) with
    | .error sub => refuse sub
    | .ok v => s.setBar k.core (k.bb + b) v

/-- A message or arrival enters at a resident skein (R389, R362); none when the inbound queue is full. -/
def State.enter (s : State) (l : Launch) (k : Skein) (m : Msg) : Option State :=
  if m.kind = 1 then some (s.countRemote l k m)
  else if inboundRoom ≤ (s.coreAt k.core).inbound.length then none
  else some ((s.onCore k.core fun c => { c with inbound := c.inbound ++ [m] }).onSkein k.lid k.skn fun x => x.pend 0)

/-- Deliver overflow records of a resident skein in order while there is room (R392): the records that stay. -/
def State.pullRecords (s : State) (l : Launch) (k : Skein) : List (List Byte) → State × List (List Byte)
  | [] => (s, [])
  | r :: rs =>
    if recordSkein r ≠ k.skn then
      let q := State.pullRecords s l k rs
      (q.1, r :: q.2)
    else match s.enter l k (Msg.ofRecord l.lid k.skn r) with
      | some t => State.pullRecords t l k rs
      | none => (s, r :: rs)

/-- Move what a resident skein's held messages and overflow records can enter (R392, R418). -/
def State.pullOverflow (s : State) (lid skn : Nat) : State :=
  match s.liveLaunch? lid, s.receiver? lid skn with
  | some l, some k =>
    let rec held (s : State) : List Msg → State × List Msg
      | [] => (s, [])
      | m :: ms =>
        match s.enter l k m with
        | some t => held t ms
        | none => (s, m :: ms)
    let h := held s k.held
    let s := h.1.onSkein lid skn fun x => { x with held := h.2 }
    if !h.2.isEmpty || !s.hasOverflow l skn then s else
    let q := s.pullRecords l k (s.overflowed l)
    q.1.keepOverflow l q.2
  | _, _ => s

/-- Move what can enter at the resident skeins of a core (R392). -/
def State.pullCore (s : State) (core : Nat) : State :=
  (s.allSkeins.filter fun k => k.resident && k.core == core).foldl (fun s k => s.pullOverflow k.lid k.skn) s

/-- Move what can enter at every resident skein (R392). -/
def State.pullAll (s : State) : State := (s.allSkeins.filter Skein.resident).foldl (fun s k => s.pullOverflow k.lid k.skn) s

/-- Whether messages that came earlier still wait to enter at a skein (R391, R392). -/
def State.backlog (s : State) (l : Launch) (skn : Nat) : Bool :=
  (match s.resident? l.lid skn with
  | some k => !k.held.isEmpty
  | none => false) || s.hasOverflow l skn

/-- A message reaches the place that its skein's placement gives now (R389, R392); none while it has to wait. -/
def State.land (s : State) (m : Msg) : Option State :=
  match s.liveLaunch? m.dstLid with
  | none => some (s.nack m)
  | some l =>
    if l.exited.contains m.dstSkn then some ((s.deadLetter l m).nack m) else
    match s.receiver? m.dstLid m.dstSkn with
    | some k =>
      let s := s.pullOverflow m.dstLid m.dstSkn
      if s.backlog l m.dstSkn then none else s.enter l k m
    | none => s.overflow l m

/-! ## Sending -/

/-- Packets a core's REQ injection queue holds (R387) (assumption 44). -/
abbrev reqRoom : Nat := 16

/-- Resolve a destination value (R386). -/
def resolve (s : State) (v : Word) : Ex (Nat × Nat) := do
  ensure (bits v 33 31 == 0 && !(bit v 32 && bits v 20 12 != 0)) (trap s 0x10 1 v)
  let lid := if bit v 32 then s.fib.id.lid else bits v 20 12
  match s.liveLaunch? lid with
  | none => trap s 0x10 2 v
  | some l => do
    ensure (l.asid == s.fib.asid) (trap s 0x05 11 v)
    ensure (decide (bits v 0 20 < l.nsk)) (trap s 0x10 1 v)
    match s.resident? lid (bits v 0 20) with
    | some k => s.reach (chipNum k.core)
    | none => .ok ()
    .ok (lid, bits v 0 20)

/-- Accept a message at the chiplet in focus (R387, R392), which sends it now; none where there is no room. -/
def State.acceptMsg (s : State) (m : Msg) : Option State :=
  match s.liveLaunch? m.dstLid with
  | none => some (s.nack m)
  | some l =>
    if l.exited.contains m.dstSkn then some ((s.deadLetter l m).nack m)
    else if (s.receiver? m.dstLid m.dstSkn).isSome then
      if reqRoom ≤ s.reqQueued m.srcCore then none
      else some (s.setDev fun d => { d with flight := d.flight ++ [{ m with hop := s.hop (s.skeinPlace m.dstLid m.dstSkn) }] })
    else if s.dev.flight.any fun x => x.dstLid == m.dstLid && x.dstSkn == m.dstSkn then none
    else s.overflow l m

/-- What a completed send leaves in its fibre (R387): gd pending, gc 1. -/
def State.sent (s : State) (m : Msg) (status : Option GReg) : State :=
  let s := if m.rpl then s.putReg m.srcFib m.shadow m.rreg
      (match s.fibre? m.srcFib with
      | some f => (if m.shadow then (match s.skein? m.srcFib.lid m.srcFib.skn with
          | some k => k.shadow
          | none => f.bank) else f.bank).val.getD m.rreg.toNat 0
      | none => 0) Fill.pending else s
  match status with
  | some g => s.putReg m.srcFib m.shadow g 1 Fill.full
  | none => s

/-- Payload registers gb to gb + n − 1 (R169, R387). -/
def payload (s : State) (b : GReg) : Nat → Ex (List Word)
  | 0 => .ok []
  | n + 1 => do
    let v ← readG s b
    let r ← payload s (b + 1) n
    .ok (v :: r)

/-- `msg.send` (R387): a fibre whose message is not accepted parks with it. -/
def execMsgSend (d a b c : GReg) (w tr rpl : BitVec 1) (npl : BitVec 3) (tag : BitVec 8) (s : State) :
    Host.Outcome State Fault Refusal :=
  run s 2 do
    let t ← waitW s w
    let dst ← readG t a
    let pay ← payload t b npl.toNat
    if rpl = 1 then destG t d else .ok ()
    if tr = 1 then destG t c else .ok ()
    let (lid, skn) ← resolve t dst
    let t ← t.release 6
    let m : Msg := { dstLid := lid, dstSkn := skn, dest := dst, srcFib := t.fib.id, rreg := if rpl = 1 then d else 0
                     shadow := t.fib.inev, rpl := rpl == 1, tag := tag.toNat, npl := npl.toNat, pay := pay, kind := 0
                     aux := 0, srcCore := t.core.num, hop := t.hop (t.skeinPlace lid skn) }
    let status := if tr = 1 then some c else none
    match t.acceptMsg m with
    | some u => .ok (u.sent m status)
    | none => hold t (.send m status t.clk 0)

/-- `msg.reply` (R388), with the network check of R36 towards the chiplet where its fibre is resident. -/
def execMsgReply (a b : GReg) (w : BitVec 1) (s : State) : Host.Outcome State Fault Refusal :=
  run s 2 do
    let t ← waitW s w
    let h ← readG t a
    let v ← readG t b
    let id : FibreId := { lid := bits h 21 12, skn := bits h 44 20, fix := bits h 36 8 }
    let place := match t.fibre? id with
      | some f => chipNum f.at_
      | none => t.chip.num
    t.reach place
    let t ← t.release 6
    .ok (t.setDev fun x => { x with
      replies := x.replies ++ [{ fib := id, shadow := bit h 14, r := BitVec.ofNat 3 (bits h 33 3), v := v, nack := false, hop := t.hop place }] })

/-- The network check of R36 at the point where a waiting send would inject its message. -/
def State.sendReach (s : State) (m : Msg) : Ex Unit :=
  match s.receiver? m.dstLid m.dstSkn with
  | some k => s.reach (chipNum k.core)
  | none => .ok ()

/-- MESSAGE_ACCEPT (R392): a waiting send is accepted and completes, or meets the network check (R36). -/
def execMessageAccept (f : FibreId) (s : State) : Host.Outcome State Fault Refusal :=
  match s.fibre? f with
  | none => .next s
  | some x =>
    match x.park with
    | some (.send m status _ _) =>
      match (s.focus f).sendReach m with
      | .error h => stopped h
      | .ok _ =>
        match (s.focus f).acceptMsg m with
        | none => .next s
        | some t => .next ((t.sent m status).finish f 2)
    | _ => .next s

/-- SEND_TRY_TIMEOUT (R387): a `msg.send.try` that found no room for 4096 clocks fails. -/
def execSendTryTimeout (f : FibreId) (s : State) : Host.Outcome State Fault Refusal :=
  match s.fibre? f with
  | none => .next s
  | some x =>
    match x.park with
    | some (.send m (some g) since _) =>
      if !s.clocksSince (chipNum x.at_) since 4096 then .next s
      else .next (((s.putReg f m.shadow g 0 Fill.full).pendEvent f.lid f.skn 2).finish f 2)
    | _ => .next s

/-- SEND_QUEUE_FULL (R394): each further 4096 clocks that a blocking send waits make the event pending. -/
def execSendQueueFull (f : FibreId) (s : State) : Host.Outcome State Fault Refusal :=
  match s.fibre? f with
  | none => .next s
  | some x =>
    match x.park with
    | some (.send m none since told) =>
      if !s.clocksSince (chipNum x.at_) since (4096 * (told + 1)) then .next s
      else .next ((s.pendEvent f.lid f.skn 2).onFibre f fun y => { y with park := some (.send m none since (told + 1)) })
    | _ => .next s

/-- Whether an earlier message comes before message `k`: one of the same fibre to the same skein (R391), or one on the same way (R31). -/
def earlierMsg (l : List Msg) (k : Nat) (m : Msg) : Bool :=
  (l.take k).any fun x => (x.srcFib == m.srcFib && x.dstLid == m.dstLid && x.dstSkn == m.dstSkn) || x.hop.along m.hop

/-- MESSAGE_ARRIVAL (R389): message `k` enters its core's inbound queue, behind every packet that was sent before it on its way (R31). -/
def execMessageArrival (k : Nat) (s : State) : Host.Outcome State Fault Refusal :=
  match s.dev.flight[k]? with
  | none => .next s
  | some m =>
    if earlierMsg s.dev.flight k m || s.dev.posted.any fun p => p.hop.before m.hop then .next s else
    match s.land m with
    | none => .next s
    | some t => .next (t.setDev fun d => { d with flight := dropAt d.flight k })

/-- REMOTE_ARRIVAL (R362): remote barrier arrival `k` reaches its skein. -/
def execRemoteArrival (k : Nat) (s : State) : Host.Outcome State Fault Refusal :=
  match s.dev.arrivals[k]? with
  | none => .next s
  | some m =>
    if earlierMsg s.dev.arrivals k m || s.ctlBefore m.hop then .next s else
    match s.land m with
    | none => .next s
    | some t => .next (t.setDev fun d => { d with arrivals := dropAt d.arrivals k })

/-- REPLY_ARRIVAL (R388, R392): reply `k` fills its register, behind every reply on its way (R31). -/
def execReplyArrival (k : Nat) (s : State) : Host.Outcome State Fault Refusal :=
  match s.dev.replies[k]? with
  | none => .next s
  | some r =>
    if (s.dev.replies.take k).any fun x => x.hop.along r.hop then .next s
    else .next ((s.fill r.fib r.shadow r.r r.v r.nack).setDev fun d => { d with replies := dropAt d.replies k })

/-- REGISTER_FILL (R127): a fill by an agent lands. -/
def execRegisterFill (f : FibreId) (shadow : Bool) (r : GReg) (v : Word) (nack : Bool) (s : State) :
    Host.Outcome State Fault Refusal :=
  .next (s.fill f shadow r v nack)

/-- A remote update has ended (R358): UPDOUT of its fibre falls by one, in its registers or in its checkpoint. -/
def State.updateDone (s : State) (u : Update) : State :=
  match s.fibre? u.fib with
  | some _ => s.onFibre u.fib fun f => { f with updout := f.updout - 1 }
  | none => s.onImage u.fib 8 fun w => w - 2 ^ 48

/-- A remote update writes nothing, which is logged, and ends (R358, R441). -/
def State.updateLost (s : State) (u : Update) : State :=
  (s.logAt 0x03 0 0 (coreBlk u.core) (coreLoc u.core) u.fib.lid (8 * (u.pa / 8)) u.size).updateDone u

/-- A remote update executes (R358, R359): behind what was sent before it on its way (R31), and behind an earlier update or store of its
fibre to the same bytes; it takes a free guest entry of its executing core for this one step. -/
def execRemoteUpdateExecute (k : Nat) (s : State) : Host.Outcome State Fault Refusal :=
  match s.dev.updates[k]? with
  | none => .next s
  | some u =>
    if ((s.dev.updates.take k).any fun e => e.fib == u.fib && e.pa / 8 == u.pa / 8) ||
        (s.dev.posted.any fun p => p.fib == u.fib && decide (p.pa < u.pa + u.size) && decide (u.pa < p.pa + p.data.length)) ||
        (s.migHops.any fun h => h.before u.hop) ||
        (s.allFibres.any fun f => f.waitsAt u.core) || (s.freeEntry u.core).isNone then .next s
    else
      let s := s.setDev fun d => { d with updates := dropAt d.updates k }
      let r := s.rmw u.key u.pa u.size fun o => some (amoValue u.op (8 * u.size) o u.b.toNat)
      .next (match r.2 with
        | some _ => r.1.updateDone u
        | none => r.1.updateLost u)

/-! ## Event entry -/

/-- Whether an event may enter on a fibre (R339, R389, R434): an instruction that runs in a unit, or whose data is on its way, completes
first, but one that waits for a spool or for the engine is withdrawn (assumption 51). -/
def Fibre.canEnter (f : Fibre) (k : Skein) : Bool :=
  k.evPend &&& k.evEn != 0 && f.evf && !f.inev && !f.rpt.act && !f.guest && f.travel.isNone && !bit f.trap.tcause 63 &&
    !((List.range 8).any fun i => k.shadow.fill.getD i 0 == Fill.pending) &&
    (match f.park with
    | some .vector => false
    | some .array => false
    | some (.engine j) => j.waits
    | some (.queued k) => k == .engine
    | some (.table _ _ _) => false
    | some .data => false
    | _ => true)

/-- The lowest-numbered pending and enabled kind. -/
def Skein.firstEvent (k : Skein) : Nat := ((List.range 4).find? fun i => (k.evPend &&& k.evEn).getLsbD i).getD 0

/-- Whether the next instruction of a fibre is an `ev.wait` or a `sleep` (R335, R340) (assumption 51). -/
def State.atWait (s : State) (f : Fibre) : Bool :=
  match s.agentLeaf f.asid f.pc.toNat with
  | none => false
  | some (_, pa) =>
    let w := BitVec.ofNat 32 (ofBytes (s.homeBytes pa 4))
    w == 0x32000300#32 || w &&& 0xFFC7FFFF#32 == 0x30000300#32

/-- Whether an entry counts as the completion of the instruction it meets (R339): an `ev.wait` or a `sleep`, parked or next. -/
def State.endsByEvent (s : State) (f : Fibre) : Bool :=
  match f.park with
  | some .event => true
  | some (.sleep _ _) => true
  | none => s.atWait f
  | some .retry => s.atWait f
  | _ => false

/-- The skein's oldest message leaves the inbound queue, or what its checkpoint held for it, into the shadow bank (R389, R390); where
there is none, shadow g6 takes the kind alone (R339) (assumption 51). -/
def State.takeMessage (s : State) : State :=
  let id := s.fib.id
  let mine (m : Msg) : Bool := m.dstLid == id.lid && m.dstSkn == id.skn
  let take (s : State) (m : Msg) : State :=
    s.setSkein fun k =>
      let k := (List.range m.npl).foldl (fun k i => k.setReg (BitVec.ofNat 3 i) (m.pay.getD i 0) Fill.full) k
      k.setReg 6 m.header Fill.full
  let s :=
    match s.core.inbound.find? mine, s.skein.held with
    | some m, _ => take (s.setCore fun c => { c with inbound := c.inbound.erase m }) m
    | none, m :: ms => take (s.setSkein fun k => { k with held := ms }) m
    | none, [] => s.setSkein fun k => k.setReg 6 0 Fill.full
  let s := s.pullCore s.core.num
  if s.core.inbound.any mine || !s.skein.held.isEmpty then s.setSkein fun k => k.pend 0 else s

/-- EVENT_ENTRY (R339): the lowest pending enabled event enters on the event fibre; what it interrupts is withdrawn and
executes again, and an `ev.wait` or `sleep` is complete. It is an acquire (R377, R380): its handler loads nothing from before it. -/
def execEventEntry (f : FibreId) (s : State) : Host.Outcome State Fault Refusal :=
  match s.fibre? f, s.resident? f.lid f.skn with
  | some x, some k =>
    if !x.canEnter k || !s.coreLive x.at_ then .next s else
    let s := s.focus f
    let kind := k.firstEvent
    let s := if s.endsByEvent x then retire s 1 else s
    let s := (s.forgetWaits fun id => id == f).setFib fun y => { y with park := none }
    let pc := s.fib.pc
    let s := s.setSkein fun k => { k with evPend := k.evPend &&& ~~~(1#4 <<< kind) }
    let s := if kind = 0 then s.takeMessage else s.setSkein fun k => k.setReg 6 (BitVec.ofNat 64 kind) Fill.full
    let s := s.setSkein fun k => k.setReg 7 pc Fill.full
    let s := (s.setFib fun y => ({ y with inev := true, pc := k.evec, mark := s.dev.writes } : Fibre).touch Dirty.shadow).acquire 6
    .next s
  | _, _ => .next s

end Sys2Proof.Machine
end

