-- ==== Sys2Proof/Machine/Fibres.lean ====
section
/-! DEFINITION. Fibres, user-level events, restart regions and topology queries: majors 0x18 to 0x1B and SLEEP_EXPIRY (R335 to
R349). -/

namespace Sys2Proof.Machine

/-! ## Spawn and exit -/

/-- A new fibre of a launch on a core (R336): every dirty bit set, and its accesses come after the `mark` writes so far (R82). -/
def newFibre (l : Launch) (id : FibreId) (core entry : Nat) (pc g0 : Word) (sup evf : Bool) (mark : Nat) : Fibre :=
  { Fibre.zero with
    id := id
    live := true
    asid := l.asid
    home := core
    homeEntry := entry
    at_ := core
    bank := { Bank.zero with val := ((Vector.replicate 8 (0 : Word)).set! 0 g0).set! 7 (BitVec.ofNat 64 l.args) }
    pc := pc &&& 0xFFFFFFFFFFFFFFFC#64
    prec := l.prec
    winSize := l.win
    nv := l.nv
    evf := evf
    sup := sup
    dirty := Vector.replicate 48 true
    mark := mark }

/-- The fibres of a skein. -/
def State.fibresOf (s : State) (lid skn : Nat) : List Fibre := s.allFibres.filter fun f => f.id.lid == lid && f.id.skn == skn

/-- The lowest fibre index in 0..FM1 that no fibre of the skein holds (R336). -/
def State.freeIndex (s : State) (l : Launch) (skn : Nat) : Option Nat :=
  let used := (s.fibresOf l.lid skn).map fun f => f.id.fix
  (List.range (l.fm1 + 1)).find? fun i => !used.contains i

/-- `spawn` (R336): no room answers all ones, not a fault. -/
def execSpawn (d a b : GReg) (s : State) : Host.Outcome State Fault Refusal :=
  run s 1 do
    notGuest s
    let entry ← readG s a
    let arg ← readG s b
    destG s d
    match s.myLaunch with
    | none => .ok (setG s d (BitVec.allOnes 64))
    | some l =>
      match s.freeIndex l s.fib.id.skn with
      | none => .ok (setG s d (BitVec.allOnes 64))
      | some fix =>
        if !s.roomFor s.core.num l 1 then .ok (setG s d (BitVec.allOnes 64)) else do
        let t ← s.release 1
        let e := s.freeHome s.core.num
        let f := newFibre l { s.fib.id with fix := fix } s.core.num e entry arg s.fib.sup false t.dev.writes
        .ok (setG { t with fibres := t.fibres ++ [f] } d (BitVec.ofNat 64 e))

/-- The messages that wait at the core of a skein that exits go to the dead-letter log (R337, R392). -/
def State.dropInbound (s : State) (k : Skein) : State :=
  let mine (m : Msg) : Bool := m.dstLid == k.lid && m.dstSkn == k.skn
  let ms := (s.coreAt k.core).inbound.filter mine ++ k.held
  let s := s.onCore k.core fun c => { c with inbound := c.inbound.filter fun m => !mine m }
  match s.launch? k.lid with
  | none => s
  | some l => ms.foldl (fun s m => (s.deadLetter l m).nack m) s

/-- A skein exits (R337): cursors close, its share returns, its events are discarded, and open phases look again. -/
def State.exitSkein (s : State) (k : Skein) : State :=
  let s := (s.releaseSkein k).dropInbound k
  let s := if s.skein.is k.lid k.skn then { s with skein := Skein.zero }
    else { s with skeins := s.skeins.filter fun x => !x.is k.lid k.skn }
  let s := s.onLaunch k.lid fun l => { l with exited := setIns k.skn l.exited }
  match s.launch? k.lid with
  | none => s
  | some l => l.phases.foldl (fun s p => s.tryPhase k.lid p.level p.dom) s

/-- The fibre in focus leaves (R337): the event fibre's part passes, with the shadow bank (R147), to the lowest index that remains, or the
skein exits. -/
def leave (s : State) : State :=
  let id := s.fib.id
  let evf := s.fib.evf
  let k := s.skein
  let s := s.setCore fun c => { c with retired := c.retired + 1, lastRetire := s.clk }
  let s := (s.setFib fun f => { f with live := false, park := none }).onLaunch id.lid fun l => { l with lastLeft := s.dev.ticks }
  let rest := s.fibresOf id.lid id.skn
  if rest.isEmpty then s.exitSkein k
  else if evf then
    let low := rest.foldl (fun m f => min m f.id.fix) 256
    s.onFibre { id with fix := low } fun f => ({ f with evf := true } : Fibre).touch Dirty.shadow
  else s

/-- `exit` (R337). -/
def execExit (s : State) : Host.Outcome State Fault Refusal :=
  conclude (ending s 1 do
    notGuest s
    ensure (!s.fib.inev) (illegal s 6)
    if s.fib.tokens.busy 0xFF ∨ s.fib.updout ≠ 0 ∨ s.fib.anyPending then hold s .retry
    else do
      let t ← s.release 1
      match t.fib.tokens.failed 0xFF with
      | some i => trap t 0x13 0 (t.fib.tokens.record.getD i 0)
      | none => .ok (leave t))

/-- `yield` (R338): the fibre goes to the end of the order of issue, as every fibre does that has issued. -/
def execYield (s : State) : Host.Outcome State Fault Refusal :=
  run s 1 (.ok s)

/-- The enabled events that are pending at a skein. -/
def Skein.due (k : Skein) : BitVec 4 := k.evPend &&& k.evEn

/-- `sleep` (R338): parks until the time base has advanced by g[ga] ticks; 0 acts as `yield`. -/
def execSleep (a : GReg) (s : State) : Host.Outcome State Fault Refusal :=
  run s 1 do
    let n ← readG s a
    if n = 0 then .ok s
    else hold s (.sleep (s.now + n.toNat) s.skein.due)

/-- SLEEP_EXPIRY (R338): the ticks have passed, or an enabled event has become pending at the event fibre. -/
def execSleepExpiry (f : FibreId) (s : State) : Host.Outcome State Fault Refusal :=
  match s.fibre? f with
  | none => .next s
  | some x =>
    match x.park with
    | some (.sleep t seen) =>
      let woken : Bool := match s.resident? f.lid f.skn with
        | some k => x.evf && k.due &&& ~~~seen != 0
        | none => false
      if t ≤ s.wtick (chipNum x.at_) || woken then .next (s.finish f 1) else .next s
    | _ => .next s

/-! ## Events -/

/-- `evret` (R340). -/
def execEvret (s : State) : Host.Outcome State Fault Refusal :=
  conclude do
    notGuest s
    ensure s.fib.inev (illegal s 6)
    let pc ← readG s 7
    .ok (retireTo (s.setFib fun f => { f with inev := false }) (pc &&& 0xFFFFFFFFFFFFFFFC#64))

/-- `ev.en` (R340). -/
def execEvEn (m : BitVec 4) (s : State) : Host.Outcome State Fault Refusal :=
  run s 1 do
    notGuest s
    .ok (s.setSkein fun k => { k with evEn := k.evEn ||| m })

/-- `ev.dis` (R340). -/
def execEvDis (m : BitVec 4) (s : State) : Host.Outcome State Fault Refusal :=
  run s 1 do
    notGuest s
    .ok (s.setSkein fun k => { k with evEn := k.evEn &&& ~~~m })

/-- `ev.wait` (R340): completes at event entry. -/
def execEvWait (s : State) : Host.Outcome State Fault Refusal :=
  run s 1 do
    notGuest s
    ensure s.fib.evf (illegal s 6)
    hold s .event

/-! ## Restart regions -/

/-- `rgn.begin` (R341, R137): held while a register of the fibre's own bank is pending. -/
def execRgnBegin (s : State) : Host.Outcome State Fault Refusal :=
  run s 1 do
    notGuest s
    settled s
    if s.fib.anyPending then hold s .retry
    else .ok (s.setFib fun f =>
      ({ f with rgn := { act := true, pc := f.pc + 4, snap := f.bank, prec := f.prec, count := 0 } } : Fibre).touch Dirty.snap)

/-- `rgn.end` (R341). -/
def execRgnEnd (s : State) : Host.Outcome State Fault Refusal :=
  run s 1 do
    notGuest s
    .ok (s.setFib fun f => { f with rgn := { f.rgn with act := false } })

/-! ## Topology -/

/-- The core whose values a fibre sees: its home (R346). -/
def State.homeCore (s : State) : Core := s.coreAt s.fib.home

/-- `topo.grid` (R346). -/
def execTopoGrid (d : GReg) (s : State) : Host.Outcome State Fault Refusal :=
  run s 1 (
    let g := gradeShape s.dev.grade
    writeG s d (wordOf [(0, 10, g.1), (10, 6, g.2.1), (16, 5, g.2.2), (21, 2, s.dev.grade)]))

/-- `topo.self` (R346). -/
def execTopoSelf (d : GReg) (s : State) : Host.Outcome State Fault Refusal :=
  run s 1 (
    let c := s.homeCore
    writeG s d (wordOf [(0, 10, c.lnum), (10, 8, s.fib.home / 4), (18, 2, s.fib.home % 4), (20, 8, s.fib.homeEntry), (28, 20, s.fib.id.skn)]))

/-- `topo.core` (R346). -/
def execTopoCore (d a : GReg) (s : State) : Host.Outcome State Fault Refusal :=
  run s 1 (unaryG s d a fun n =>
    if s.exposed ≤ n.toNat then BitVec.allOnes 64
    else
      let e := s.mapEntry n.toNat
      wordOf [(0, 8, coreOfPos (mapPos e) / 4), (8, 2, mapState e)])

/-- `topo.dom` (R346). -/
def execTopoDom (d a : GReg) (s : State) : Host.Outcome State Fault Refusal :=
  run s 1 (unaryG s d a fun n =>
    let m := s.homeCore.memb
    match n.toNat with
    | 1 => wordOf [(0, 10, bits m 0 8), (10, 1, 1)]
    | 2 => wordOf [(0, 10, bits m 12 10), (10, 1, bits m 22 1)]
    | 3 => wordOf [(0, 10, bits m 23 10), (10, 1, bits m 33 1)]
    | 4 => wordOf [(0, 10, bits m 34 10), (10, 1, bits m 44 1)]
    | _ => BitVec.allOnes 64)

/-- `topo.state` (R346). -/
def execTopoState (d a : GReg) (s : State) : Host.Outcome State Fault Refusal :=
  run s 1 (unaryG s d a fun n => BitVec.ofNat 64 (s.chipAt (bits n 0 8)).state)

/-- `topo.launch` (R346). -/
def execTopoLaunch (d : GReg) (s : State) : Host.Outcome State Fault Refusal :=
  run s 1 (
    match s.myLaunch with
    | some l => writeG s d (wordOf [(0, 20, l.nsk), (20, 9, l.fm1 + 1)])
    | none => writeG s d 0)

end Sys2Proof.Machine
end

