-- ==== Sys2Proof/Machine/Streams.lean ====
section
/-! DEFINITION. Streams: majors 0x75 and 0x76, the routers and the receiving ports (R395 to R407). -/

namespace Sys2Proof.Machine

/-! ## Sites and links -/

/-- The site coordinates of a compute chiplet (R17, R18). -/
def siteOf (chip : Nat) : Nat × Nat := let p := hilbertXY (4 * chip) 5; (p.1 / 2, p.2 / 2)

/-- The compute chiplet at a site (R17, R18). -/
def chipAtSite (x y : Nat) : Nat := coreOfPos (32 * (2 * y) + 2 * x) / 4

/-- The chiplet beyond output port `o` (0 north, 1 east, 2 south, 3 west) and its input port (R395); none at the rim. -/
def linkTo (chip o : Nat) : Option (Nat × Nat) :=
  let (x, y) := siteOf chip
  match o with
  | 0 => if y < 15 then some (chipAtSite x (y + 1), 2) else none
  | 1 => if x < 15 then some (chipAtSite (x + 1) y, 3) else none
  | 2 => if 0 < y then some (chipAtSite x (y - 1), 0) else none
  | _ => if 0 < x then some (chipAtSite (x - 1) y, 1) else none

/-- A stream record of the error log, of a block of a chiplet: discard, excess or deferral (R441). -/
def State.logStream (s : State) (blk loc vs fslot : Nat) : State := s.logAt 0x0E 0 0 blk loc 0xFFFF 0 (vs + 2 ^ 16 * fslot)

/-- A stream record of the router that a packet stands at (R441, R444): block 8 on Renoc X, 9 on Renoc Y. -/
def State.logRouter (s : State) (p : Packet) : State := s.logStream (if p.mesh then 9 else 8) (coreLoc (4 * p.chip)) p.vs p.fslot

/-- A stream record of a core's port (R441): under the block of the core (assumption 54). -/
def State.logPort (s : State) (core : Nat) (p : Packet) : State := s.logStream (coreBlk core) (coreLoc core) p.vs p.fslot

/-! ## Combining -/

/-- A combined record that some input made meaningless (R397): ACC 0, OP and ON 1, ANCHOR 0x7FFF. -/
def ruinedRecord : List Byte := bytesOf 16 0 ++ bytesOf 2 0x7FFF ++ bytesOf 1 6 ++ List.replicate 13 0

/-- Two records combined (R397). -/
def combineRecords (a b : List Byte) : List Byte :=
  if a = ruinedRecord ∨ b = ruinedRecord then ruinedRecord
  else match addRecords a b with
    | .ok r => r
    | .error _ => ruinedRecord

/-- A record as it enters a combination. -/
def enterRecord (a : List Byte) : List Byte := if recordZero a then a else ruinedRecord

/-- The data of a packet as it enters a combination of kind 1 (int64) or 2 (XACC records). -/
def enterData (red : Nat) (d : List Byte) : List Byte :=
  if red = 2 then (List.range 8).flatMap fun i => enterRecord (slice d (32 * i) 32) else d

/-- Data of two packets combined (R397). -/
def combineData (red : Nat) (a b : List Byte) : List Byte :=
  if red = 2 then (List.range 8).flatMap fun i => combineRecords (slice a (32 * i) 32) (enterRecord (slice b (32 * i) 32))
  else (List.range 32).flatMap fun i => bytesOf 8 ((field a (8 * i) 8 + field b (8 * i) 8) % 2 ^ 64)

/-- Poison marks of a combination, one for each word. -/
def combineBad (red : Nat) (a b : List Bool) : List Bool :=
  let w := if red = 2 then 4 else 1
  (List.range 32).map fun i => (List.range w).any fun j => a.getD (i / w * w + j) false || b.getD (i / w * w + j) false

/-! ## Ports of a core -/

/-- Packets that a core's port buffer holds (R398). -/
abbrev portRoom : Nat := 8

/-- The handles of a skein's share that a stream is bound to. -/
def State.boundTo (s : State) (k : Skein) (vs : Nat) : Option Nat :=
  ((List.range k.spn).map fun i => k.spb + i).find? fun h =>
    let p := (s.coreAt k.core).spools.getD h Spool.zero
    p.en && p.bnd && bits p.cfg 56 6 == vs

/-- Fibres of a skein parked in a receive, with what they wait for (assumption 11). -/
def State.receivers (s : State) (k : Skein) (vs fslot : Nat) : List (FibreId × Nat × Nat) :=
  (s.allFibres.filter fun f => f.id.lid == k.lid && f.id.skn == k.skn).filterMap fun f =>
    match f.park with
    | some (.recv a b v since) => if a = vs ∧ b = fslot then some (f.id, since, v) else none
    | _ => none

/-- Whether a skein holds a stream: bound, expected, armed, awaited or buffered (R398). -/
def State.holdsStream (s : State) (k : Skein) (vs : Nat) : Bool :=
  (s.boundTo k vs).isSome || assoc vs 0 k.expw != 0 || (k.armed.any fun a => a.vs == vs) || (k.port.any fun p => p.vs == vs) ||
    (s.allFibres.any fun f => f.id.lid == k.lid && f.id.skn == k.skn &&
      match f.park with
      | some (.recv a _ _ _) => a == vs
      | _ => false)

/-- The resident skein of a core that takes packets of a stream: the one that holds it, else the first (assumption 11). -/
def State.portSkein (s : State) (core vs : Nat) : Option Skein :=
  let ks := s.allSkeins.filter fun k => k.resident && k.core == core
  match ks.find? fun k => s.holdsStream k vs with
  | some k => some k
  | none => ks.head?

/-- Packets in the port buffer of a core. -/
def State.buffered (s : State) (core : Nat) : Nat :=
  ((s.allSkeins.filter fun k => k.resident && k.core == core).map fun k => k.port.length + k.partials.length).sum

/-- Mark the words of a landed packet that carry poison. -/
def State.markLanded (s : State) (pa : Nat) (bad : List Bool) : State :=
  (bad.zipIdx.filter fun e => e.1).foldl (fun s e => s.markPoison (pa / 8 + e.2)) s

/-- A packet lands in 256 bytes of scratchpad, given as places of addresses and lengths, whose words become full (R404)
(assumption 11). -/
def State.landPacket (s : State) (p : Packet) : List (Nat × Nat) → Nat → State
  | [], _ => s
  | (pa, n) :: ps, off =>
    let s := (s.writeHome pa (slice p.data off n)).markLanded pa ((p.bad.drop (off / 8)).take (n / 8))
    State.landPacket ((List.range (n / 8)).foldl (fun s i => s.makeFull (pa / 8 + i)) s) p ps (off + n)

/-- The places of an armed buffer. -/
def Armed.places (a : Armed) : List (Nat × Nat) :=
  let n := min 256 (2 ^ 16 - a.va.toNat % 2 ^ 16)
  if n = 256 then [(a.pa, 256)] else [(a.pa, n), (a.next, 256 - n)]

/-- A packet is written to a vector register of a fibre (R404). -/
def Fibre.takePacket (f : Fibre) (v : Nat) (p : Packet) : Fibre :=
  ({ f with v := f.v.set! v (BitVec.ofNat 2048 (ofBytes p.data)), vbad := f.vbad.set! v (p.bad.any fun b => b) } : Fibre).touch (Dirty.v v)

/-- A packet fills a slot of a bound spool, unless the spool is full (R399). -/
def State.fillBound (s : State) (k : Skein) (h : Nat) (p : Packet) : Option State :=
  let sp := (s.coreAt k.core).spools.getD h Spool.zero
  if sp.nslot ≤ sp.fill then none
  else
    let s := s.fillSlot k.core h 0 p.data
    let s := s.markLanded (padAddr (chipNum k.core) sp.writeOff) p.bad
    some (s.countSlots k.core h 1)

/-- The receiver that has waited longest. -/
def oldestReceiver (l : List (FibreId × Nat × Nat)) : Option (FibreId × Nat) :=
  match l with
  | [] => none
  | x :: xs =>
    let r := xs.foldl (fun a b => if b.2.1 < a.2.1 then b else a) x
    some (r.1, r.2.2)

/-- An arrival at a skein's port (R398, R399, R404); none where it has to wait in STR. -/
def State.arriveAt (s : State) (k : Skein) (p : Packet) : Option State :=
  let keep : Option State :=
    if portRoom ≤ s.buffered k.core then none else some (s.onSkein k.lid k.skn fun x => { x with port := x.port ++ [p] })
  match s.boundTo k p.vs with
  | some h =>
    if k.port.any fun q => q.vs == p.vs then keep
    else match s.fillBound k h p with
      | some t => some t
      | none => keep
  | none =>
    match k.armed.findIdx? fun a => a.vs == p.vs && a.fslot == p.fslot with
    | some i =>
      match k.armed[i]? with
      | some a => some ((s.landPacket p a.places 0).onSkein k.lid k.skn fun x => { x with armed := dropAt x.armed i })
      | none => keep
    | none =>
      match oldestReceiver (s.receivers k p.vs p.fslot) with
      | some (id, v) => some ((s.onFibre id fun f => f.takePacket v p).finish id 2)
      | none => keep

/-- A packet reaches a skein's port (R398): with RK ≠ 0 it joins the combination of its key until CNT totals EXP. -/
def State.reachPort (s : State) (k : Skein) (p : Packet) : Option State :=
  let w := assoc p.vs 0 k.expw
  let rk := bits w 11 2
  if rk = 0 then s.arriveAt k p else
  let same (q : Packet) : Bool := q.vs == p.vs && q.fslot == p.fslot && q.phase == p.phase
  let q := match k.partials.find? same with
    | some q => { q with data := combineData rk q.data p.data, bad := combineBad rk q.bad p.bad, cnt := q.cnt + p.cnt,
                         mrk := q.mrk || p.mrk }
    | none => { p with data := enterData rk p.data }
  let others (x : Skein) : Skein := { x with partials := x.partials.filter fun y => !same y }
  if q.cnt < bits w 0 11 then
    if portRoom ≤ s.buffered k.core ∧ !k.partials.any same then none
    else some (s.onSkein k.lid k.skn fun x => { others x with partials := (others x).partials ++ [q] })
  else
    let s := s.onSkein k.lid k.skn others
    let s := if bits w 0 11 < q.cnt then s.logPort k.core p else s
    s.arriveAt { k with partials := k.partials.filter fun y => !same y } q

/-- The oldest buffered packet of each bound stream of a skein, by its index in the port buffer (R399). -/
def State.boundFirst (s : State) (k : Skein) : List Nat :=
  (List.range k.port.length).filter fun i =>
    match k.port[i]? with
    | some p => (s.boundTo k p.vs).isSome && !((k.port.take i).any fun q => q.vs == p.vs)
    | none => false

/-- STREAM_PORT_ARRIVAL (R398): packet `k` reaches its core's port. Past the packets on their way, `k` names the oldest buffered packets
of the bound streams of resident skeins, each of which fills a slot once its spool has room (R399). -/
def execStreamPortArrival (k : Nat) (s : State) : Host.Outcome State Fault Refusal :=
  match s.dev.packets[k]? with
  | some p =>
    if p.port < 8 ∨ 12 ≤ p.port then .next s else
    let drop := s.setDev fun d => { d with packets := dropAt d.packets k }
    match s.portSkein (4 * p.chip + (p.port - 8)) p.vs with
    | none => .next (drop.logPort (4 * p.chip + (p.port - 8)) p)
    | some sk =>
      match drop.reachPort sk p with
      | some t => .next t
      | none => .next s
  | none =>
    let ready := (s.allSkeins.filter fun x => x.resident).flatMap fun sk => (s.boundFirst sk).map fun i => (sk, i)
    match ready[k - s.dev.packets.length]? with
    | none => .next s
    | some (sk, i) =>
      match sk.port[i]? with
      | none => .next s
      | some p =>
        match (s.boundTo sk p.vs).bind fun h => s.fillBound sk h p with
        | none => .next s
        | some t => .next (t.onSkein sk.lid sk.skn fun x => { x with port := dropAt x.port i })

/-! ## Routers -/

/-- The four alternatives of a stream on a mesh. -/
def Chip.route (c : Chip) (mesh : Bool) (vs : Nat) : RouteEntry :=
  match c.routes.find? fun r => r.mesh == mesh && r.vs == vs with
  | some r => r
  | none => { mesh := mesh, vs := vs, alt := Vector.replicate 4 0, cur := 0 }

/-- Replace the entries of a stream. -/
def Chip.putRoute (c : Chip) (r : RouteEntry) : Chip :=
  { c with routes := r :: c.routes.filter fun x => !(x.mesh == r.mesh && x.vs == r.vs) }

/-- The next valid alternative, cyclically (R396). -/
def RouteEntry.step (r : RouteEntry) : RouteEntry :=
  match [1, 2, 3, 4].find? fun i => bit (r.alt.getD ((r.cur + i) % 4) 0) 63 with
  | some i => { r with cur := (r.cur + i) % 4 }
  | none => r

/-- The input port of its router through which a packet came, deferred or not. -/
def Packet.inPort (p : Packet) : Nat := if 16 ≤ p.port then (p.port - 16) / 4 else p.port

/-- Whether one packet reached the router of another first, with the lower input port first on a tie (R403). -/
def Packet.first (q p : Packet) : Bool :=
  q.chip == p.chip && q.mesh == p.mesh && (decide (q.reached < p.reached) || (q.reached == p.reached && decide (q.inPort < p.inPort)))

/-- Whether the slots of two packets are the same: their starts lie less than a slot length apart (R403) (assumption 45). -/
def sameSlot (a b len : Nat) : Bool := decide (a < b + len) && decide (b < a + len)

/-- A packet leaves on one output port, or is deferred by one frame where the link's slot is taken, by a packet that has left or by a
deferred one that reached the router first (R403) (assumption 45). -/
def State.leaveOn (s : State) (p : Packet) (o : Nat) : State :=
  let put (s : State) (q : Packet) : State := s.setDev fun d => { d with packets := d.packets ++ [q] }
  if 4 ≤ o then put s { p with port := 8 + (o - 4) }
  else
    let key := (if p.mesh then 8 else 0) + o
    let taken := ((s.chipAt p.chip).links.any fun e => e.1 == key && sameSlot e.2 p.ready p.slotLen) ||
      s.dev.packets.any fun q => decide (16 ≤ q.port) && q.port % 4 == o && q.first p && sameSlot q.ready p.ready p.slotLen
    if taken then
      (put s { p with port := 16 + 4 * p.inPort + o, ready := p.ready + 4096 * p.slotLen }).logRouter p
    else
      let s := s.onChip p.chip fun c => { c with links := (key, p.ready) :: c.links }
      match linkTo p.chip o with
      | some (ch, i) => put s { p with chip := ch, port := i, reached := s.wtick ch }
      | none => s

/-- Whether a deferred packet is a copy of another at its router: the same packet before another output port. -/
def Packet.copyOf (q p : Packet) : Bool :=
  decide (16 ≤ q.port) && q.chip == p.chip && q.mesh == p.mesh && q.vs == p.vs && q.src == p.src && q.sent == p.sent &&
    q.fslot == p.fslot && q.phase == p.phase

/-- A packet with MRK has left its router on every port, and CUR steps (R396) (assumption 45). -/
def State.stepCur (s : State) (p : Packet) : State :=
  if p.mrk && !(s.dev.packets.any fun q => q.copyOf p) then s.onChip p.chip fun c => c.putRoute (c.route p.mesh p.vs).step else s

/-- Forward a packet on every port of OUTS (R396) (assumption 45). -/
def State.forward (s : State) (p : Packet) (entry : Word) : State :=
  (((List.range 8).filter fun o => bit entry (8 + o)).foldl (fun s o => s.leaveOn p o) s).stepCur p

/-- Whether a reduction is the one of a packet's key at an alternative of its stream. -/
def Reduction.is (r : Reduction) (alt : Nat) (p : Packet) : Bool :=
  r.alt == alt && r.mesh == p.mesh && r.vs == p.vs && r.fslot == p.fslot && r.phase == p.phase

/-- Replace the reduction of a key. -/
def Chip.putRed (c : Chip) (r : Reduction) : Chip := { c with reds := (c.reds.filter fun x => !x.is r.alt r.pkt) ++ [r] }

/-- Whether a port set takes in every port of another. -/
def portsIn (need have_ : Nat) : Bool := need &&& have_ == need

/-- A packet at a reducing entry, alternative `alt` of its stream (R397). -/
def State.reduceAt (s : State) (p : Packet) (alt : Nat) (entry : Word) : State :=
  let red := bits entry 60 3
  let here := 2 ^ p.port
  match (s.chipAt p.chip).reds.find? fun r => r.is alt p with
  | some r =>
    if r.sent || r.pkt.pbm.testBit p.port then s.forward p entry
    else
      let q := { r.pkt with data := combineData red r.pkt.data p.data, bad := combineBad red r.pkt.bad p.bad,
                            cnt := r.pkt.cnt + p.cnt, pbm := r.pkt.pbm ||| here, mrk := r.pkt.mrk || p.mrk,
                            ready := max r.pkt.ready p.ready }
      let all := portsIn (bits entry 16 8) q.pbm
      let s := s.onChip p.chip fun c => c.putRed { r with pkt := q, sent := all }
      if all then s.forward q entry else s
  | none =>
    let q := { p with data := enterData red p.data, pbm := here }
    let all := portsIn (bits entry 16 8) here
    let r : Reduction := { mesh := p.mesh, vs := p.vs, alt := alt, fslot := p.fslot, phase := p.phase, since := s.wtick p.chip, sent := all, pkt := q }
    let s := s.onChip p.chip fun c => c.putRed r
    if all then s.forward q entry else s

/-- Whether another packet reached the same router first (R403). -/
def earlierPacket (l : List Packet) (p : Packet) : Bool :=
  l.any fun q => decide (q.port < 8) && q.first p

/-- ROUTER_STREAM_PACKET (R396): packet `k` meets the current entry of its stream at the router, in a later tick than that in which it
reached it (R403). -/
def execRouterStreamPacket (k : Nat) (s : State) : Host.Outcome State Fault Refusal :=
  match s.dev.packets[k]? with
  | none => .next s
  | some p =>
    if 8 ≤ p.port ∨ s.wtick p.chip < p.ready ∨ s.wtick p.chip ≤ p.reached ∨ earlierPacket s.dev.packets p then .next s else
    let s := s.setDev fun d => { d with packets := dropAt d.packets k }
    let r := (s.chipAt p.chip).route p.mesh p.vs
    let entry := r.alt.getD r.cur 0
    if !bit entry 63 || !bit entry (16 + p.port) then .next (s.logRouter p)
    else if bits entry 60 3 = 0 then .next (s.forward p entry)
    else .next (s.reduceAt p r.cur entry)

/-- STREAM_DEFERRED_SEND (R403): deferred packet `k` leaves one frame later. -/
def execStreamDeferredSend (k : Nat) (s : State) : Host.Outcome State Fault Refusal :=
  match s.dev.packets[k]? with
  | none => .next s
  | some p =>
    if p.port < 16 ∨ s.wtick p.chip < p.ready then .next s
    else .next (((s.setDev fun d => { d with packets := dropAt d.packets k }).leaveOn p (p.port % 4)).stepCur p)

/-- Every reduction that a router holds open, chiplet by chiplet. -/
def State.openReds (s : State) : List (Nat × Reduction) :=
  (s.chip :: s.chips).flatMap fun c => (c.reds.filter fun r => !r.sent).map fun r => (c.num, r)

/-- REDUCTION_LIMIT_EXPIRY (R397): open reduction `k` forwards what it has once LIM ticks have passed since its first arrival. -/
def execReductionLimitExpiry (k : Nat) (s : State) : Host.Outcome State Fault Refusal :=
  match s.openReds[k]? with
  | none => .next s
  | some (ch, r) =>
    let entry := ((s.chipAt ch).route r.mesh r.vs).alt.getD r.alt 0
    let lim := bits entry 32 16
    if lim = 0 ∨ s.wtick ch < r.since + lim then .next s
    else .next ((s.onChip ch fun c => c.putRed { r with sent := true }).forward r.pkt entry)

/-- The router entry that a register selects (R396). -/
def routeIndex (s : State) (v : Word) : Ex Unit := ensure (bits v 9 55 == 0) (illegal s 4)

/-- `str.route` (R396). -/
def execStrRoute (a b : GReg) (s : State) : Host.Outcome State Fault Refusal :=
  run s 1 do
    supervisor s 0
    let i ← readG s a
    let e ← readG s b
    routeIndex s i
    ensure (bits e 60 3 ≤ 2 && bits e 48 12 == 0 && bits e 24 8 == 0 && bits e 0 8 == 0) (illegal s 4)
    let alt := bits i 6 2
    .ok (s.setChip fun c =>
      let r := c.route (bit i 8) (bits i 0 6)
      c.putRoute { r with alt := r.alt.set! alt e, cur := if alt = 0 then 0 else r.cur })

/-- `str.rdroute` (R396). -/
def execStrRdroute (d a : GReg) (s : State) : Host.Outcome State Fault Refusal :=
  run s 1 do
    supervisor s 0
    let i ← readG s a
    routeIndex s i
    writeG s d ((s.chip.route (bit i 8) (bits i 0 6)).alt.getD (bits i 6 2) 0)

/-! ## Binding -/

/-- Whether a word may stand in EXPW (R398). -/
def expwOk (w : Word) : Bool :=
  bits w 13 51 == 0 && (if bits w 11 2 = 0 then bits w 0 11 == 0 else bits w 11 2 != 3 && decide (1 ≤ bits w 0 11) && decide (bits w 0 11 ≤ 1024))

/-- `str.bind` (R399). -/
def execStrBind (a b : GReg) (n : BitVec 6) (s : State) : Host.Outcome State Fault Refusal :=
  run s 1 do
    notGuest s
    let v ← readG s a
    let w ← readG s b
    ensure (expwOk w) (illegal s 4)
    let name := bits v 0 4
    let h ← spoolNo s name
    let p := s.spool h
    let other := (List.range 16).any fun i => i != h && (s.spool i).en && (s.spool i).bnd && bits (s.spool i).cfg 56 6 == n.toNat
    ensure (p.en && decide (256 ≤ p.slotBytes) && !p.bnd && !other) (spoolFault s name)
    let t := s.onSpool h fun p =>
      { p with cfg := (p.cfg &&& ~~~0x3F00000000000000#64) ||| wordOf [(62, 1, 1), (56, 6, n.toNat)] }
    .ok (t.setSkein fun k => { k with expw := assocPut n.toNat w k.expw })

/-- `str.unbind` (R399). -/
def execStrUnbind (n : BitVec 6) (s : State) : Host.Outcome State Fault Refusal :=
  run s 1 do
    notGuest s
    match s.boundTo s.skein n.toNat with
    | none => .ok s
    | some h => .ok (s.onSpool h fun p => { p with cfg := p.cfg &&& ~~~0x4000000000000000#64 })

/-- `str.exp` (R399). -/
def execStrExp (b : GReg) (n : BitVec 6) (s : State) : Host.Outcome State Fault Refusal :=
  run s 1 do
    notGuest s
    let w ← readG s b
    ensure (expwOk w) (illegal s 4)
    .ok (s.setSkein fun k => { k with expw := assocPut n.toNat w k.expw })

/-- Whether a packet was sent by a chiplet before a step. -/
def Hop.sentBy (h : Hop) (chip before_ : Nat) : Bool := h.src == chip && decide (h.sent < before_)

/-- Whether packets that a chiplet injected before a step have yet to reach their destination router port (R405) (assumption 46). What
stays within the chiplet enters no mesh. -/
def State.undelivered (s : State) (chip at_ : Nat) : Bool :=
  let out (h : Hop) : Bool := h.sentBy chip at_ && h.src != h.dst
  (s.dev.flight.any fun m => out m.hop) || (s.dev.replies.any fun r => out r.hop) || (s.dev.arrivals.any fun m => out m.hop) ||
    (s.dev.posted.any fun p => out p.hop) || (s.migHops.any out) ||
    (s.dev.contribs.any fun m => m.hop.sentBy chip at_) || (s.dev.floods.any fun m => m.hop.sentBy chip at_) ||
    (s.dev.packets.any fun p => p.src == chip && decide (p.sent < at_) && !(decide (8 ≤ p.port) && decide (p.port < 12)))

/-- `net.drain` (R405): parks until what the chiplet injected before it has arrived. -/
def execNetDrain (s : State) : Host.Outcome State Fault Refusal :=
  let at_ := match s.fib.park with
    | some (.drain a) => a
    | _ => s.ctr
  run s 1 (if s.undelivered (netChip s.chip.num) at_ then hold s (.drain at_) else .ok s)

/-! ## Sending and receiving -/

/-- The 256 bytes that an address operand names (R400): 16-byte aligned, in the local scratchpad, else protection 10. -/
def streamPlace (s : State) (a : Acc) (va : Word) : Ex (State × List Piece) := do
  s.inSpace va 256
  let (t, ps) ← s.pages a 3 va.toNat 256
  match ps.find? fun p => !(isPad p.pa && padChip p.pa == t.chip.num) with
  | some p => trap t 0x05 10 (BitVec.ofNat 64 p.va)
  | none => do
    ensure (va.toNat % 16 == 0) (trap t 0x05 10 va)
    .ok (t, ps)

/-- The 256 bytes of a send with their poison, one mark for each word (R400); the fibre's earlier stores come first (R406). -/
def sendData (s : State) (a : GReg) (src : BitVec 1) (v : BitVec 4) : Ex (State × List Byte) :=
  if src = 1 then do
    let va ← readG s a
    let (t, ps) ← streamPlace s s.accLoad va
    localBytes t.settleLocal ps
  else do
    let x ← readVec s v.toNat
    .ok (s, bytesOf 256 x)

/-- OFF of a frame slot (R401, R402): read when the send issues. -/
def slotOffset (s : State) (fslot : Nat) : Ex Int :=
  let pa := bits s.core.delaysel 13 39 * 2 ^ 13 + 8192 * bits s.core.delaysel 0 4 + 2 * fslot
  if paOk pa then .ok (toSigned 16 (ofBytes (s.homeBytes pa 2))) else .error ⟨s, .fault (.noSuchAddress pa)⟩

/-- Slot length in ticks of the core in focus (R402). -/
def State.slotTicks (s : State) : Nat := 2 ^ bits s.core.delaysel 4 4

/-- The start of the slot (R401): the least t(f) at or after `now` (assumption 45). -/
def slotStart (tp now fslot sl : Nat) (off : Int) : Nat :=
  let t0 : Int := (tp : Int) + 1024 + fslot * sl + off
  let late : Int := (now : Int) - t0
  if late ≤ 0 then t0.toNat else (t0 + (late + 4096 * sl - 1) / (4096 * sl) * (4096 * sl)).toNat

/-- The start tick of a send of a level, once the level's phase is open (R401) (assumption 45). -/
def State.slotOpen (s : State) (level : Nat) (p : Packet) (off : Int) : Option (Nat × Nat) :=
  match s.myLaunch with
  | none => none
  | some l =>
    let d := domOf s.core.memb level
    let ph := s.phaseSeen l s.fib.id.skn d.1 d.2
    if ph % 2 = 1 then some (ph, slotStart (s.tpSeen l s.fib.id.skn d.1 d.2) s.now p.fslot p.slotLen off) else none

/-- `str.send` (R400, R401): the data is read at issue, and the fibre parks until its slot. -/
def execStrSend (a : GReg) (w : BitVec 1) (lvl : BitVec 3) (mrk mesh : BitVec 1) (vs : BitVec 6) (fs : BitVec 12)
    (src : BitVec 1) (v : BitVec 4) (s : State) : Host.Outcome State Fault Refusal :=
  conclude (ending s 2 do
    notGuest s
    if src = 0 then needV s v.toNat else .ok ()
    let t ← waitW s w
    let _ ← domainOf t lvl 0
    let (t, data) ← sendData t a src v
    let off ← slotOffset t fs.toNat
    let p : Packet := { src := t.chip.num, vs := vs.toNat, fslot := fs.toNat, phase := 0, mrk := mrk == 1, cnt := 1, pbm := 0
                        mesh := mesh == 1, chip := t.chip.num, port := 4 + t.coreIndex, ready := 0, reached := 0
                        slotLen := t.slotTicks, sent := 0, data := data, bad := [] }
    match t.slotOpen lvl.toNat p off with
    | some (ph, at_) => hold t (.slot { p with phase := ph } lvl.toNat off (some at_))
    | none => hold t (.slot p lvl.toNat off none))

/-- STREAM_SLOT_SEND (R401): the packet of a parked send leaves at the start of its slot; a send that waits for its phase
learns its slot when the phase opens. -/
def execStreamSlotSend (f : FibreId) (s : State) : Host.Outcome State Fault Refusal :=
  match s.fibre? f with
  | none => .next s
  | some x =>
    match x.park with
    | some (.slot p level off none) =>
      let t := s.focus f
      match t.slotOpen level p off with
      | none => .next s
      | some (ph, at_) => .next (t.setFib fun y => { y with park := some (.slot { p with phase := ph } level off (some at_)) })
    | some (.slot p _ _ (some at_)) =>
      let now := s.wtick (chipNum x.at_)
      if now < at_ then .next s
      else .next ((s.setDev fun d => { d with packets := d.packets ++ [{ p with ready := at_, reached := now, sent := s.ctr }] }).finish f 2)
    | _ => .next s

/-- Receives that a skein may have armed (R419). -/
abbrev armedRoom : Nat := 256

/-- `str.recv` (R404). -/
def execStrRecv (a : GReg) (w : BitVec 1) (vs : BitVec 6) (fs : BitVec 12) (src : BitVec 1) (v : BitVec 4) (s : State) :
    Host.Outcome State Fault Refusal :=
  run s 2 do
    notGuest s
    if src = 0 then needV s v.toNat else .ok ()
    let t ← waitW s w
    let k := t.skein
    match t.boundTo k vs.toNat with
    | some h => spoolFault t (h - k.spb)
    | none => .ok ()
    let hit := k.port.findIdx? fun p => p.vs == vs.toNat && p.fslot == fs.toNat
    let pkt := hit.bind fun i => k.port[i]?
    let drop (t : State) : State :=
      match hit with
      | some i => t.setSkein fun x => { x with port := dropAt x.port i }
      | none => t
    if src = 0 then
      match pkt with
      | some p => .ok (drop (t.setFib fun f => f.takePacket v.toNat p))
      | none => hold t (.recv vs.toNat fs.toNat v.toNat t.ctr)
    else do
      let va ← readG t a
      let (t, ps) ← streamPlace t t.accStore va
      match pkt with
      | some q => .ok (drop (t.landPacket q (ps.map fun p => (p.pa, p.len)) 0))
      | none =>
        if armedRoom ≤ k.armed.length then hold t .retry else
        let t := ps.foldl (fun t p => (List.range (p.len / 8)).foldl (fun t i => t.setFull (p.pa / 8 + i) false) t) t
        .ok (t.setSkein fun x => { x with armed := x.armed ++ [{ vs := vs.toNat, fslot := fs.toNat, va := va
                                                                 pa := (ps.map Piece.pa).headD 0, next := (ps.map Piece.pa).getLastD 0 }] })

end Sys2Proof.Machine
end

