-- ==== Sys2Proof/Machine/Launches.lean ====
section
/-! DEFINITION. Launch queues, the dispatcher, pre-emption and recovery: major 0x1C and the dispatcher's own steps (R409 to R427,
R348). -/

namespace Sys2Proof.Machine

/-- Protection subcause 12: a queue or launch-record addressing error (R427). -/
def queueFault {α : Type} (s : State) (val : Word) : Ex α := trap s 0x05 12 val

/-- A queue by number. -/
def State.queue (s : State) (q : Nat) : Queue := s.dev.queues.getD q Queue.off

/-- Update a queue. -/
def State.onQueue (s : State) (q : Nat) (f : Queue → Queue) : State :=
  s.setDev fun d => { d with queues := d.queues.set! q (f (d.queues.getD q Queue.off)) }

/-- A queue record of the error log (R441). -/
def State.logQueue (s : State) (q recno : Nat) : State :=
  s.logAt 0x10 0 0 12 (2 * 256) 0xFFFF (s.queue q).pa recno

/-- A word of a queue's descriptor. -/
def State.descWord (s : State) (q off : Nat) : Nat := ofBytes (s.homeBytes ((s.queue q).pa + off) 8)

/-- Write a word of a queue's descriptor. -/
def State.putDesc (s : State) (q off v : Nat) : State := s.writeHome ((s.queue q).pa + off) (bytesOf 8 v)

/-! ## Readiness -/

/-- Whether an address translates under an ASID as a supervisor access (R412, R413). -/
def State.agentOk (s : State) (asid va : Nat) (store : Bool) : Bool :=
  match s.agentLeaf asid va with
  | some (l, _) => bit l 1 && (!store || bit l 2)
  | none => false

/-- The dispatcher reads the wait counter of a waiting launch (R413): a read that fails is logged and leaves it waiting. -/
def State.readWait (s : State) (l : Launch) : State :=
  if l.state ≠ .waiting ∨ l.ready then s
  else if l.waitc = 0 then s.onLaunch l.lid fun x => { x with ready := true }
  else if !s.agentOk l.asid l.waitc false then s.logQueue l.q l.recno
  else if (s.agentWord l.asid l.waitc).toInt ≤ 0 then s.onLaunch l.lid fun x => { x with ready := true }
  else s

/-- Every waiting launch is looked at again (R413). -/
def State.readWaits (s : State) : State := s.dev.launches.foldl State.readWait s

/-- Add −1 to SIGC (R413): false where the update fails, which is logged. An atomic on a word that reads as poisoned stores nothing
(R356, R383), and neither does one on a misaligned word. -/
def State.signal (s : State) (l : Launch) : State × Bool :=
  if l.sigc = 0 then (s, true)
  else if !s.agentOk l.asid l.sigc true || l.sigc % 8 != 0 || s.agentBad l.asid l.sigc 8 then (s.logQueue l.q l.recno, false)
  else ((s.agentPut l.asid l.sigc (s.agentWord l.asid l.sigc - 1)).readWaits, true)

/-! ## Doorbell and acceptance -/

/-- LAUNCH_DOORBELL (R410): TAIL is full; it is taken, and a value out of range stops the queue. The wait counters are read again after
every doorbell (R413). -/
def execLaunchDoorbell (q : Nat) (s : State) : Host.Outcome State Fault Refusal :=
  let d := s.queue q
  let w := (d.pa + 24) / 8
  if !d.en || s.emptyWord w || s.poisonedWord w then .next s
  else
    let v := s.descWord q 24
    let s := s.setFull w false
    let s :=
      if d.stopped then s
      else if v < d.head ∨ d.head + 2 ^ d.rl < v then (s.logQueue q v).onQueue q fun x => { x with stopped := true }
      else s.onQueue q fun x => { x with tail := v }
    .next s.readWaits

/-- The next free LID in rotation (R412). -/
def State.freeLid (s : State) : Option Nat :=
  let held := s.dev.launches.map Launch.lid
  ((List.range 4096).map fun i => (s.dev.lastLid + 1 + i) % 4096).find? fun l => !held.contains l

/-- The logical numbers of a placement set that have a core, with their cores, in increasing number (R411). -/
def State.placementSet (s : State) (l : Launch) : List (Nat × Nat) :=
  ((List.range s.exposed).filter fun n =>
    match l.pk with
    | 0 => true
    | 1 => decide (l.first ≤ n) && decide (n ≤ l.first + l.cnm1)
    | _ => true).filterMap fun n =>
      match s.boundCore n with
      | none => none
      | some c =>
        if l.pk < 2 then some (n, c)
        else
          let m := (s.coreAt c).memb
          let hit : Bool := match l.lvm1 with
            | 0 => bits m 0 8 == l.first
            | 1 => bit m 22 && bits m 12 10 == l.first
            | 2 => bit m 33 && bits m 23 10 == l.first
            | _ => bit m 44 && bits m 34 10 == l.first
          if hit then some (n, c) else none

/-- How many skeins of a launch one empty core holds (R412, R415). -/
def Launch.perCore (l : Launch) : Nat :=
  let cap (total each : Nat) : Nat := if each = 0 then 256 else total / each
  if l.accn ≠ 0 ∨ l.sclen ≠ 0 then (if l.spn ≤ 16 ∧ l.bn ≤ 32 ∧ l.tn ≤ 4 then 1 else 0)
  else min (min (cap 65536 (winBytes l.win)) (cap 64 l.nv)) (min (cap 16 l.spn) (min (cap 32 l.bn) (min (cap 4 l.tn) 256)))

/-- How many skeins of a launch an empty placement set holds (R412) (assumption 47). -/
def State.capacity (s : State) (l : Launch) : Nat :=
  let set := (s.placementSet l).map fun p => p.2
  ((List.range 256).map fun ch =>
    let n := (set.filter fun c => c / 4 == ch).length * l.perCore
    if l.accn = 0 then n else min n (16 / l.accn)).sum

/-- The reason code of the first case of R412 that a record meets (assumption 47). -/
def State.refusal (s : State) (l : Launch) : Option Nat :=
  let zero : Bool := l.f32 48 31 1 == 0 && l.f32 56 29 3 == 0 && l.f32 60 28 4 == 0 &&
    (match l.pk with
    | 0 => l.first == 0 && l.cnm1 == 0 && l.lvm1 == 0
    | 1 => l.lvm1 == 0
    | _ => l.cnm1 == 0)
  let p := l.f32 52 5 7
  let codes : Bool := decide (l.win ≤ 4) && decide (l.f32 52 12 3 ≤ 5) && decide (2 ≤ p) && decide (p ≤ 113) && l.pk != 3 &&
    decide (l.spn ≤ 16) && decide (l.bn ≤ 32) && decide (l.tn ≤ 4) && decide (l.accn ≤ 16) && decide (l.rnl ≤ 20)
  if !zero || !codes then some 0
  else if l.nsk = 0 ∨ l.ckpt = 0 ∨ l.ckpt % 4096 ≠ 0 ∨ l.waitc % 8 ≠ 0 ∨ l.sigc % 8 ≠ 0 then some 1
  else if (l.pk = 1 ∧ 1023 < l.first + l.cnm1) ∨ (s.placementSet l).isEmpty then some 2
  else if 256 < l.scoff + 4 * l.sclen then some 3
  else if l.coop ∧ s.capacity l < l.nsk then some 4
  else if (l.waitc ≠ 0 ∧ !s.agentOk l.asid l.waitc false) ∨ (l.sigc ≠ 0 ∧ !s.agentOk l.asid l.sigc true) then some 5
  else none

/-- RECORD_ACCEPT (R410, R412, R458): the next record is copied, takes a LID, and is refused or waits. -/
def execRecordAccept (q : Nat) (s : State) : Host.Outcome State Fault Refusal :=
  let d := s.queue q
  if !d.en || d.stopped || d.tail ≤ d.head || !s.broughtUp then .next s else
  match s.freeLid with
  | none => .next s
  | some lid =>
    let at_ := d.ring + 64 * (d.head % 2 ^ d.rl)
    let s := s.agentDetect d.asid at_ 64
    let rec_ := s.agentRead d.asid at_ 64
    let w := field rec_ 60 4
    let s := s.agentWrite d.asid (at_ + 60) (bytesOf 4 (w % 2 ^ 16 + lid * 2 ^ 16 + w / 2 ^ 28 * 2 ^ 28))
    let s := s.putDesc q 16 (d.head + 1)
    let s := s.onQueue q fun x => { x with head := x.head + 1 }
    let l : Launch := { lid := lid, q := q, recno := d.head, asid := d.asid, sup := d.sup, prio := 0, record := rec_
                        state := .waiting, order := 0, next := 0, evicted := [], exited := [], moved := [], phases := []
                        suspended := [], asides := [], since := 0, lastLeft := 0, done := none, late := [], ready := false, stall := false, held := false, signalled := false }
    let l := { l with prio := min l.pri d.pmax }
    let l := match s.refusal l with
      | some r => { l with state := .ended 1 r }
      | none => l
    let s := s.setDev fun x => { x with lastLid := lid, launches := x.launches ++ [l] }
    .next (s.readWait l)

/-! ## Admission and placement -/

/-- Where a launch with skeins placed or to be placed stands (R426). -/
def Launch.standing (l : Launch) : LaunchState :=
  if !l.moved.isEmpty then .relocated
  else if !l.evicted.isEmpty ∨ !l.late.isEmpty then .preempted
  else if l.next < l.nsk then .placing
  else .running

/-- The skein that a launch places next (R415, R417, R423). -/
def Launch.nextSkein (l : Launch) : Option Nat :=
  match l.evicted with
  | e :: _ => if l.next < l.nsk ∧ l.next < e then some l.next else some e
  | [] => if l.next < l.nsk then some l.next else l.late.head?

/-- The fibres and open cursors that a skein brings: one fibre at a first placement, what its image holds at a restore. -/
def State.brings (s : State) (l : Launch) (skn : Nat) : Nat × Nat :=
  if l.stored skn then ((s.imaged l skn).length, (s.agentWord l.asid (l.blockAt skn + 56)).toNat) else (1, 0)

/-- The lowest-numbered core of the placement set with room for a skein (R415). -/
def State.coreFor (s : State) (l : Launch) (skn : Nat) : Option Nat :=
  let b := s.brings l skn
  ((s.placementSet l).find? fun p => s.fits p.2 l b.1 b.2).map fun p => p.2

/-- The set groups that a skein of a launch takes on a chiplet: the lowest that are free (R415) (assumption 47). -/
def State.groupsFor (s : State) (l : Launch) (core : Nat) : List Nat := (s.freeGroups (core / 4)).take l.accn

/-- Give a skein its share of a core (R140, R415): set groups with ACCMAP and ACCEN. -/
def State.grant (s : State) (l : Launch) (core : Nat) (groups : List Nat) : State × Word × List Nat :=
  let share := shareWord l ((s.freeShare core l).getD (0, 0, 0))
  let s := if l.accn = 0 then s else s.onCore core fun c => { c with
    accmap := wordOf ((List.range 16).map fun i => (4 * i, 4, groups.getD i i)), accen := BitVec.ofNat 64 (2 ^ l.accn - 1) }
  (s, share, groups)

/-- Set the named handles, barriers and slots of a core. -/
def Core.putShare (c : Core) (k : Skein) (sp : Nat → Spool) (br : Nat → Barrier) (tb : Nat → TableSlot) : Core :=
  { c with
    spools := (List.range k.spn).foldl (fun v i => v.set! (k.spb + i) (sp i)) c.spools
    bars := (List.range k.bn).foldl (fun v i => v.set! (k.bb + i) (br i)) c.bars
    slots := (List.range k.tn).foldl (fun v i => v.set! (k.tb + i) (tb i)) c.slots }

/-- Put a skein in place of the one of its name, or add it. -/
def State.putSkein (s : State) (k : Skein) : State :=
  if s.skein.is k.lid k.skn then { s with skein := k }
  else { s with skeins := k :: s.skeins.filter fun x => !x.is k.lid k.skn }

/-- First placement of a skein on a core (R415): cleared share and sets, and fibre 0 at ENTRY. -/
def State.placeFirst (s : State) (l : Launch) (skn core : Nat) : State :=
  let g := s.grant l core (s.groupsFor l core)
  let k : Skein := { Skein.zero with lid := l.lid, skn := skn, core := core, resident := true, skmap := g.2.1, groups := g.2.2 }
  let s := g.1.onCore core fun c => c.putShare k (fun _ => Spool.zero) (fun _ => Barrier.zero) (fun _ => TableSlot.zero)
  let s := s.onChip (core / 4) fun c => g.2.2.foldl (fun c i => c.mapSet i fun _ => XCol.zero) c
  let f := newFibre l { lid := l.lid, skn := skn, fix := 0 } core (s.freeHome core) (BitVec.ofNat 64 l.entry)
    (BitVec.ofNat 64 skn) l.sup true s.dev.writes
  let s := (s.putSkein k).onCore core fun c => { c with l1 := [] }
  let s := { s with fibres := s.fibres ++ [f] }
  (s.onLaunch l.lid fun x => { x with next := x.next + 1 }).pullOverflow l.lid skn

/-- Resume the suspended copies of a skein from their records (R220, R419) (assumption 10). -/
def State.resumeCopies (s : State) (l : Launch) (skn core : Nat) : State :=
  let mine := (l.suspended.filter fun x => x.skn == skn).zipIdx.map fun e =>
    e.1.copy.ofImage core (s.agentRead l.asid (l.blockAt skn + 0x4F40 + 256 * e.2) 256)
  let s := s.onChip (core / 4) fun c => { c with copies := c.copies ++ mine }
  s.onLaunch l.lid fun x => { x with suspended := x.suspended.filter fun y => y.skn != skn }

/-- The physical address of a virtual one of an armed buffer when its skein is restored on a core (R404, R419); the start of the
scratchpad where it does not translate (assumption 30). -/
def State.armedPa (s : State) (l : Launch) (core va : Nat) : Nat :=
  match s.agentLeaf l.asid va with
  | some (_, pa) => pa
  | none => padAddr (core / 4) 0

/-- The region and sets of a skein are loaded from their images at a place (R421, R425). -/
def State.loadPlace (s : State) (l : Launch) (skn core : Nat) (groups : List Nat) : State :=
  (groups.zipIdx.foldl (fun s (e : Nat × Nat) => s.loadSet l.asid (l.setAt skn e.2) (core / 4) e.1) s).loadRegion l.asid (l.regionAt skn)
    (l.region core).1 (l.region core).2

/-- Restore a checkpointed skein on a core (R415, R421). What was copied there at its relocation stays as it is (R425). -/
def State.restoreSkein (s : State) (l : Launch) (skn core : Nat) : State :=
  let at_ := l.blockAt skn
  let s := s.agentDetect l.asid at_ l.blockSize
  let fixes := s.imaged l skn
  let was := (s.skein? l.lid skn).getD Skein.zero
  let g := s.grant l core (if was.copied then was.groups else s.groupsFor l core)
  let s := g.1
  let rd (off n : Nat) : List Byte := s.agentRead l.asid (at_ + off) n
  let hdr := rd 0 64
  let w (b : List Byte) (off : Nat) : Word := BitVec.ofNat 64 (field b off 8)
  let sp := rd 0x40 256
  let br := rd 0x140 256
  let ex := rd 0x240 1024
  let pk := (List.range 16).map fun i =>
    (rd (0x3E40 + 272 * i) 272, (List.range 32).map fun j => s.agentBad l.asid (at_ + 0x3E40 + 272 * i + 8 * j) 8)
  let evf := fixes.find? fun i => bit (s.agentWord l.asid (l.slotAt skn i + 8)) 1
  let shadow := match evf with
    | some i => bankOf (s.agentRead l.asid (l.slotAt skn i + 0x328) 128)
    | none => Bank.zero
  let k : Skein :=
    { was with
      lid := l.lid, skn := skn, core := core, resident := true, stopping := false, skmap := g.2.1, groups := g.2.2, copied := false, exited := false
      hpc := w hdr 24 &&& 0x01FFFFFFFFFFFFFC#64, evEn := BitVec.ofNat 4 (bits (w hdr 32) 0 4), evPend := BitVec.ofNat 4 (bits (w hdr 32) 8 4), shadow := shadow
      expw := ((List.range 64).map fun v => (v, w ex (16 * v))).filter fun e => e.2 != 0
      held := (List.range (field hdr 48 8)).map fun i => Msg.ofRecord l.lid skn (rd (0x640 + 64 * i) 64)
      armed := ((List.range 256).map fun i => rd (0x2E40 + 16 * i) 16).filterMap fun b =>
        if field b 1 1 < 128 then none
        else
          let va := w b 8
          some { vs := field b 0 2 % 64, fslot := field b 2 2 % 4096, va := va
                 pa := s.armedPa l core va.toNat, next := s.armedPa l core (va.toNat / 2 ^ 16 * 2 ^ 16 + 2 ^ 16) }
      port := (pk.filter fun p => field p.1 271 1 == 1).map fun p => Packet.ofImage p.1 p.2
      partials := (pk.filter fun p => field p.1 271 1 == 2).map fun p => Packet.ofImage p.1 p.2 }
  let tb := field hdr 40 8
  let slot (i : Nat) : TableSlot :=
    let b := BitVec.ofNat 16 (tb / 2 ^ (16 * i) % 2 ^ 16)
    if bit b 15 then { slotOf (rd (0xE40 + 1024 * i) 1024) (bit b 14) with fresh := false } else TableSlot.zero
  let s := s.onCore core fun c => c.putShare k
    (fun i => ({ cfg := w sp (16 * i) &&& spcfgMask, fill := 0, wix := 0, rix := 0 } : Spool).withStatus (w sp (16 * i + 8)))
    (fun i => Barrier.ofWord (w br (8 * i))) slot
  let cur := (List.range 32).filter fun i => (field hdr 56 8).testBit i
  let s := s.onChip (core / 4) fun c => { c with
    cursors := c.cursors ++ cur.map fun i => Cursor.ofImage i l.lid skn (rd (0x1E40 + 128 * i) 128) }
  let s := if was.copied then s else s.loadPlace l skn core g.2.2
  let s := (s.putSkein k).onCore core fun c => { c with l1 := [] }
  let s := fixes.foldl (fun s i =>
    let f := s.loadFibre l { lid := l.lid, skn := skn, fix := i } core (s.freeHome core)
    { s with fibres := s.fibres ++ [f] }) s
  let s := s.resumeCopies l skn core
  (s.onLaunch l.lid fun x => { x with evicted := setDel skn x.evicted, late := setDel skn x.late, moved := setDel skn x.moved }).pullOverflow
    l.lid skn

/-- Place one skein of a launch; none where no core has room. -/
def State.placeOne (s : State) (l : Launch) (skn : Nat) : Option State :=
  match s.coreFor l skn with
  | none => none
  | some core => some (if l.stored skn then s.restoreSkein l skn core else s.placeFirst l skn core)

/-- Place every unplaced skein of a launch together; none where they do not all fit (R415). -/
def State.placeAll (s : State) (lid : Nat) : Nat → Option State
  | 0 => some s
  | n + 1 =>
    match s.launch? lid with
    | none => none
    | some l =>
      match l.nextSkein with
      | none => some s
      | some skn =>
        match s.placeOne l skn with
        | none => none
        | some t => State.placeAll t lid n

/-- How many skeins of a launch are not placed. -/
def Launch.unplaced (l : Launch) : Nat := (l.nsk - l.next) + l.evicted.length + l.late.length

/-- The launch's state follows its skeins. -/
def State.settleLaunch (s : State) (lid : Nat) : State :=
  s.onLaunch lid fun l => if l.live then { l with state := l.standing } else l

/-- Whether a launch waits for admission alone. -/
def Launch.awaits (l : Launch) : Bool := l.state == .waiting && l.ready

/-- A launch that may be admitted: ready, and for a cooperative one all its skeins fit at once (R414, R415) (assumption 47). -/
def State.admissible (s : State) (l : Launch) : Bool :=
  l.awaits && (!l.coop || (s.placeAll l.lid l.nsk).isSome)

/-- Whether one launch is admitted before another (R414): priority, then the queue served longest ago, then record order. -/
def State.before (s : State) (a b : Launch) : Bool :=
  if a.prio ≠ b.prio then decide (b.prio < a.prio)
  else if a.q = b.q then decide (a.recno < b.recno)
  else if (s.queue a.q).served ≠ (s.queue b.q).served then decide ((s.queue a.q).served < (s.queue b.q).served)
  else decide (a.q < b.q)

/-- Whether another launch takes the room that a skein of a launch wants (R414): one that may be admitted, of higher priority, or one
admitted before it, of higher priority or earlier, that can be placed now: its next skein, or all of a cooperative one (assumption 47). -/
def State.roomPromised (s : State) (l : Launch) : Bool :=
  s.dev.launches.any fun x => x.lid != l.lid && x.live &&
    (if x.state == .waiting then decide (l.prio < x.prio) && s.admissible x
    else (decide (l.prio < x.prio) || (x.prio == l.prio && (l.state == .waiting || decide (x.order < l.order)))) &&
      (if x.coop then decide (0 < x.unplaced) && (s.placeAll x.lid x.unplaced).isSome
      else match x.nextSkein with
        | some skn => (s.coreFor x skn).isSome
        | none => false))

/-- Whether another ready launch has to be admitted before a launch (R414): one of higher priority or an earlier record of its queue, or one
of another queue of its priority whose turn it is and that may be admitted (assumption 47). -/
def State.heldBack (s : State) (l : Launch) : Bool :=
  s.dev.launches.any fun x => x.lid != l.lid && x.awaits && s.before x l &&
    (decide (l.prio < x.prio) || x.q == l.q || s.admissible x)

/-- LAUNCH_ADMISSION (R414, R415): the launch comes first among those that are ready, and a cooperative one takes no room that another is to
have. Its fetches see every store before its start (R151, R381) (assumption 15). -/
def execLaunchAdmission (lid : Nat) (s : State) : Host.Outcome State Fault Refusal :=
  match s.launch? lid with
  | none => .next s
  | some l =>
    if !s.admissible l || s.heldBack l || (l.coop && s.roomPromised l) then .next s
    else
      let n := s.dev.admitted + 1
      let s := s.setDev fun d => { d with admitted := n }
      let s := s.onQueue l.q fun q => { q with served := n }
      let s := s.onLaunch lid fun x => { x with state := .placing, order := n, since := s.dev.writes }
      let s := if l.coop then (s.placeAll lid l.nsk).getD s else s
      .next (s.settleLaunch lid)

/-- Whether a launch of higher priority waits to be placed (R417). -/
def State.higherWaits (s : State) (l : Launch) : Bool :=
  s.dev.launches.any fun x => decide (l.prio < x.prio) && x.live &&
    ((x.state == .waiting && x.ready) || (x.state != .waiting && decide (0 < x.unplaced)))

/-- SKEIN_PLACEMENT (R414, R415, R417): the launch's next skein is placed as room appears that no other launch takes; a cooperative
launch's skeins together. A pre-empted one is placed again while no ready launch of higher priority waits. -/
def execSkeinPlacement (lid skn : Nat) (s : State) : Host.Outcome State Fault Refusal :=
  match s.launch? lid with
  | none => .next s
  | some l =>
    if !l.live || l.state == .waiting || l.nextSkein != some skn || s.roomPromised l || (l.stored skn && s.higherWaits l) then .next s
    else
      match (if l.coop then s.placeAll lid (l.unplaced) else s.placeOne l skn) with
      | none => .next s
      | some t => .next (t.settleLaunch lid)

/-! ## Checkpointing a skein -/

/-- One fibre stops at an instruction boundary (R418): what it waits for is withdrawn, an array pass is undone, an engine
instruction stops at a step, and the data of a table load is delivered. -/
def State.stopFibre (s : State) (f : Fibre) : State :=
  let s := match f.park with
    | some (.table _ _ _) => s.delivered f.id
    | some .array =>
      if (match (s.chipAt (chipNum f.at_)).array.busy with
          | some e => e.2 == f.id
          | none => false) then s.abortPass (chipNum f.at_) else s
    | some (.engine _) => s.engineStop f.id
    | _ => s
  (s.forgetWaits fun id => id == f.id).onFibre f.id fun x => { x with park := none }

/-- Bytes that a copy may write at its destination address; for compress, whose output is known late, the most that they can be (R215). -/
def Copy.outBytes (c : Copy) : Nat :=
  let tile := if c.quantises then tileBody (c.len / 32) + 16 else c.len
  if c.isGather then c.len * c.rowBytes
  else if c.isPull then c.total
  else if c.compresses then 33 * tile + 32 * (tile / 65536 + 1)
  else tile

/-- Whether a copy writes a range of scratchpad at its destination address (R421). -/
def Copy.writesRegion (c : Copy) (s : State) (lo n : Nat) : Bool :=
  c.toAddress && (spansOf c.rb.toNat c.outBytes).any fun p =>
    match s.agentLeaf c.asid p.1 with
    | some (_, pa) => decide (pa < lo + n) && decide (lo < pa + p.2)
    | none => false

/-- Whether a fibre is at an instruction boundary, or can be taken to one (R288, R370, R418): it is at home, and no vector instruction
of it is queued or runs. -/
def Fibre.canStop (f : Fibre) : Bool :=
  !f.guest && f.travel.isNone && f.park != some .vector && f.park != some (.queued .vector)

/-- Whether a skein can be checkpointed now (R370, R418, R421): every fibre of it can stop, no store of it follows a message on its way
(R31), and no copy of any chiplet but a spool copy of its own still writes its region (R201) (assumption 49). -/
def State.canStop (s : State) (l : Launch) (k : Skein) : Bool :=
  let r := l.region k.core
  ((s.fibresOf k.lid k.skn).all Fibre.canStop) &&
    !(s.dev.posted.any fun p => p.fib.lid == k.lid && p.fib.skn == k.skn && s.dev.flight.any fun m => m.hop.before p.hop) &&
    !((s.chip :: s.chips).any fun c => c.copies.any fun x => x.writesRegion s r.1 r.2)

/-- Suspend the copies that write spools of a skein (R220) (assumption 10). -/
def State.suspendCopies (s : State) (l : Launch) (k : Skein) : State :=
  let mine (c : Copy) : Bool := c.toSpool && c.fib.lid == k.lid && c.fib.skn == k.skn
  let cs := ((s.chipAt (chipNum k.core)).copies.filter mine).map Copy.suspend
  let s := s.onChip (chipNum k.core) fun c => { c with copies := c.copies.filter fun x => !mine x }
  let s := cs.zipIdx.foldl (fun s e => s.agentWrite l.asid (l.blockAt k.skn + 0x4F40 + 256 * e.2) e.1.image) s
  s.onLaunch l.lid fun x => { x with suspended := x.suspended ++ cs.map fun c => { skn := k.skn, copy := c } }

/-- Messages for a skein at its core are held for it; those on their way go to the overflow queue (R391, R418). -/
def State.holdMessages (s : State) (l : Launch) (k : Skein) : State :=
  let mine (m : Msg) : Bool := m.dstLid == k.lid && m.dstSkn == k.skn
  let ms := (s.coreAt k.core).inbound.filter mine
  let s := s.onCore k.core fun c => { c with inbound := c.inbound.filter fun m => !mine m }
  let s := s.onSkein k.lid k.skn fun x => { x with held := ms ++ x.held }
  (s.dev.flight.filter mine).foldl (fun s m =>
    match s.overflow l m with
    | some t => t.setDev fun d => { d with flight := d.flight.erase m }
    | none => s) s

/-- Checkpoint a skein (R418 to R421): its fibres leave the core, and its block holds its image. -/
def State.checkpointSkein (s : State) (l : Launch) (k : Skein) (state : Nat) : State :=
  let s := ((s.fibresOf k.lid k.skn).foldl State.stopFibre s).settleOf fun p => p.fib.lid == k.lid && p.fib.skn == k.skn
  let s := s.holdMessages l k
  let k := (s.skein? k.lid k.skn).getD k
  let s := (s.fibresOf k.lid k.skn).foldl (fun s f =>
    (s.drainCore (s.coreAt f.at_)).saveFibre l f k) s
  let s := s.clearSlots l k
  let s := s.saveSkeinParts l k state
  let s := (k.groups.zipIdx).foldl (fun s e => s.saveSet l.asid (l.setAt k.skn e.2) (chipNum k.core) e.1) s
  let s := s.suspendCopies l k
  let s := s.saveRegion l.asid (l.regionAt k.skn) (l.region k.core).1 (l.region k.core).2
  let s := s.releaseSkein k
  let gone (f : Fibre) : Bool := f.id.lid == k.lid && f.id.skn == k.skn
  let s := { s with
    fib := if s.fib.live && gone s.fib then { s.fib with live := false } else s.fib
    fibres := s.fibres.filter fun f => !gone f }
  (s.onLaunch l.lid fun x => { x with lastLeft := s.dev.ticks }).onSkein k.lid k.skn fun x =>
    { x with resident := false, stopping := false, groups := [], held := [], port := [], partials := [], armed := [] }

/-- A fibre of a skein that is to stop: one away from home goes home, and an instruction queued for the array or the engine is withdrawn (R343,
R418). A vector instruction, at home or not, is complete first (R288) (assumption 49). -/
def State.askFibre (s : State) (f : Fibre) : State :=
  if f.park = some .vector ∨ f.park = some (.queued .vector) then s
  else if (f.guest && f.travel.isNone) || f.waitsSomewhere then s.sendHome f.id
  else
    match f.park with
    | some (.queued .array) => s.stopFibre f
    | some (.queued .engine) => s.stopFibre f
    | _ => s

/-- Ask a skein to stop: none of its fibres issues but to finish a queued vector instruction (R288, R418) (assumption 49). -/
def State.askStop (s : State) (k : Skein) : State :=
  (s.fibresOf k.lid k.skn).foldl State.askFibre (s.onSkein k.lid k.skn fun x => { x with stopping := true })

/-- Pre-empt skeins together, once all can stop; else they are asked to (R417, R418). -/
def State.preempt (s : State) (l : Launch) (ks : List Skein) : State :=
  if ks.all fun k => s.canStop l k then
    let s := ks.foldl (fun s k => s.checkpointSkein l k ckptState) s
    (s.onLaunch l.lid fun x => { x with evicted := ks.foldl (fun e k => setIns k.skn e) x.evicted }).settleLaunch l.lid
  else ks.foldl State.askStop s

/-- The skeins of a launch that are resident. -/
def State.residents (s : State) (lid : Nat) : List Skein := s.allSkeins.filter fun k => k.lid == lid && k.resident

/-- The launch whose skein is pre-empted first for another (R417): lower priority on a core of its set; the lowest, and the
most recently admitted of those (assumption 49). -/
def State.victim (s : State) (l : Launch) : Option (Launch × Skein) :=
  let cores := (s.placementSet l).map fun p => p.2
  let cand := s.dev.launches.flatMap fun v =>
    if decide (v.prio < l.prio) && v.live then
      ((s.residents v.lid).filter fun k => cores.contains k.core).map fun k => (v, k)
    else []
  cand.foldl (fun best c =>
    match best with
    | none => some c
    | some b => if c.1.prio < b.1.prio ∨ (c.1.prio = b.1.prio ∧ b.1.order < c.1.order) then some c else some b) none

/-! ## Stalled grids and pre-emption -/

/-- Whether a fibre has been parked, other than in `sleep`, for 10^6 ticks (R348). An instruction in a unit, or whose data is on its way,
completes by itself. -/
def Fibre.stalled (f : Fibre) (ticks : Nat) : Bool :=
  f.parked && decide (f.parkedTick + 1000000 ≤ ticks) &&
    (match f.park with
    | some (.sleep _ _) => false
    | some (.table _ _ _) => false
    | some .data => false
    | some .vector => false
    | some .array => false
    | _ => true)

/-- Whether a launch's grid is stalled (R348): each fibre is judged by the counter of its chiplet (R457). -/
def State.stalled (s : State) (l : Launch) : Bool :=
  let fs := s.allFibres.filter fun f => f.id.lid == l.lid
  !l.coop && l.live && l.state != .waiting && decide (0 < l.unplaced) && decide (l.lastLeft + 1000000 ≤ s.dev.ticks) &&
    !fs.isEmpty && fs.all fun f => f.stalled (s.wtick (chipNum f.at_))

/-- Whether the next skein of a launch has room now (R423). -/
def State.nextFits (s : State) (l : Launch) : Bool :=
  match l.nextSkein with
  | some skn => (s.coreFor l skn).isSome
  | none => true

/-- Checkpoint parked skeins of an evictable launch, the highest number first, until the next one fits (R423). -/
def State.evictFor (s : State) (lid : Nat) : List Skein → State
  | [] => s
  | k :: ks =>
    match s.launch? lid with
    | none => s
    | some l =>
      if s.nextFits l then s
      else State.evictFor ((s.checkpointSkein l k ckptState).onLaunch lid fun x => { x with late := setIns k.skn x.late }) lid ks

/-- Skeins in falling order of number. -/
def skeinsDown (ks : List Skein) : List Skein := ks.mergeSort fun a b => decide (b.skn ≤ a.skn)

/-- Whether a launch waits for room that it does not find (R417). -/
def State.lacksRoom (s : State) (l : Launch) : Bool :=
  l.live && ((l.state == .waiting && l.ready) || (l.state != .waiting && decide (0 < l.unplaced))) &&
    !(if l.coop then (s.placeAll l.lid l.unplaced).isSome else s.nextFits l)

/-- Whether some skein still has to stop, for a launch of higher priority or for its own stalled grid (R417, R423). -/
def State.stopsWanted (s : State) : Bool :=
  s.dev.launches.any fun l => (s.lacksRoom l && (s.victim l).isSome) || (s.stalled l && l.evic && !s.nextFits l)

/-- Skeins that were asked to stop go on once that is no longer wanted (assumption 49). -/
def State.letGo (s : State) : State :=
  if s.stopsWanted then s
  else (s.allSkeins.filter Skein.stopping).foldl (fun s k => s.onSkein k.lid k.skn fun x => { x with stopping := false }) s

/-- PREEMPTION (R417): a ready launch that cannot be placed pre-empts one skein, or every skein of a cooperative launch. -/
def execPreemption (lid : Nat) (s : State) : Host.Outcome State Fault Refusal :=
  match s.launch? lid with
  | none => .next s.letGo
  | some l =>
    if !s.lacksRoom l then .next s.letGo
    else match s.victim l with
      | none => .next s.letGo
      | some (v, k) => .next (s.preempt v (if v.coop then s.residents v.lid else [k]))

/-- GRID_STALL (R348, R423): parked skeins of an evictable launch are checkpointed until the next one fits; another launch takes the
grid-stall fault on the event fibre of its lowest resident skein, whose parked instruction is withdrawn, so that TRAPPC is its address
(R433). -/
def execGridStall (lid : Nat) (s : State) : Host.Outcome State Fault Refusal :=
  match s.launch? lid with
  | none => .next s
  | some l =>
    if !s.stalled l then .next s else
    let ks := s.residents lid
    if l.evic then
      if s.nextFits l then .next s
      else if ks.all fun k => s.canStop l k then .next ((s.evictFor lid (skeinsDown ks)).settleLaunch lid)
      else .next (ks.foldl State.askStop s)
    else
      match ks.foldl (fun b k => match b with
          | none => some k
          | some x => if k.skn < x.skn then some k else some x) none with
      | none => .next s
      | some k =>
        match (s.fibresOf lid k.skn).find? Fibre.evf with
        | none => .next s
        | some f =>
          let s := ((s.forgetWaits fun id => id == f.id).onFibre f.id fun x => { x with park := none }).focus f.id
          let s := s.onLaunch lid fun x => { x with stall := true }
          .next (raise s 0x15 0 (BitVec.ofNat 64 lid) false)

/-! ## Completion -/

/-- Whether something that a launch started is still on its way (R381). -/
def State.busyLaunch (s : State) (lid : Nat) : Bool :=
  ((s.chip :: s.chips).any fun c => c.copies.any fun k => k.fib.lid == lid) || (s.dev.posted.any fun p => p.fib.lid == lid) ||
    (s.dev.updates.any fun u => u.fib.lid == lid)

/-- Every write-through buffer drains, every L1 is invalidated, and fetches see every store (R151, R381) (assumption 15). -/
def State.quiet (s : State) : State :=
  let s := (s.core :: s.cores).foldl State.drainCore s
  let clean (c : Core) : Core := { c with l1 := [] }
  let s := { s with core := clean s.core, cores := s.cores.map clean }
  s.setDev fun d => { d with launches := d.launches.map fun l => { l with since := d.writes } }

/-- Status and reason of a launch that completes: 0 where every skein has exited (R416) (assumption 48). -/
def Launch.result (l : Launch) : Option (Nat × Nat) :=
  match l.state with
  | .ended st r => some (st, r)
  | _ => if l.nsk ≠ 0 ∧ l.exited.length = l.nsk then some (0, 0) else none

/-- Write a completion record where the ring has room (R416): none where it is full. A CHEAD above CTAIL is reported once, and the ring
counts as full until it is written again. -/
def State.writeCompletion (s : State) (l : Launch) (status reason : Nat) : State × Bool :=
  let d := s.queue l.q
  let chead := s.descWord l.q 48
  if d.ctail < chead then
    (if d.badHead = some chead then s else (s.logQueue l.q l.recno).onQueue l.q fun x => { x with badHead := some chead }, false)
  else if 2 ^ d.cl ≤ d.ctail - chead then (s, false)
  else
    let b := bytesOf 2 l.lid ++ bytesOf 1 status ++ bytesOf 1 reason ++ bytesOf 4 l.recno ++
      bytesOf 8 ((l.done.map Prod.fst).getD s.dev.ticks)
    let s := s.agentWrite d.asid (d.cring + 16 * (d.ctail % 2 ^ d.cl)) b
    let s := s.putDesc l.q 40 (d.ctail + 1)
    (s.onQueue l.q fun x => { x with ctail := x.ctail + 1, badHead := none }, true)

/-- Whether one launch completed before another (R416). -/
def Launch.doneBefore (a b : Launch) : Bool :=
  let x := (a.done.map Prod.snd).getD 0
  let y := (b.done.map Prod.snd).getD 0
  decide (x < y) || (x == y && decide (a.recno < b.recno))

/-- Finish a launch whose result is known: its tick is fixed and it signals once, then write its record or hold it. A signal that fails gives reason 6 (R413), but
a refused record keeps the reason of its refusal (R412) (assumption 48). -/
def State.complete (s : State) (l : Launch) (status reason : Nat) : State :=
  let (s, l) : State × Launch :=
    if l.signalled then (s, l) else
    let r := s.quiet.signal l
    let l := { l with
      signalled := true, state := .ended status (if r.2 || status == 1 then reason else 6), done := some (s.dev.ticks, s.ctr) }
    (r.1.onLaunch l.lid fun x => { x with signalled := true, state := l.state, done := l.done }, l)
  let reason := match l.state with
    | .ended _ r => r
    | _ => reason
  let earlier := s.dev.launches.any fun x => x.q == l.q && x.held && x.lid != l.lid && x.doneBefore l
  let w := if earlier then (s, false) else s.writeCompletion l status reason
  if w.2 then w.1.setDev fun d => { d with launches := d.launches.filter fun x => x.lid != l.lid }
  else if l.held then w.1
  else (w.1.logQueue l.q l.recno).onLaunch l.lid fun x => { x with held := true }

/-- Whether some store that is to be performed is behind a message on its way (R31). -/
def State.behindAny (s : State) : Bool :=
  (s.dev.posted.any fun p => s.dev.flight.any fun m => m.hop.before p.hop) ||
    (s.core :: s.cores).any fun c => c.wtb.any fun b => s.entryBehind c.num b

/-- LAUNCH_COMPLETION (R381, R413, R416): the launch has its result and nothing of it is on its way; every store can be performed. -/
def execLaunchCompletion (lid : Nat) (s : State) : Host.Outcome State Fault Refusal :=
  match s.launch? lid with
  | none => .next s
  | some l =>
    match l.result with
    | none => .next s
    | some (st, r) => if l.held || s.busyLaunch lid || s.behindAny then .next s else .next (s.complete l st r)

/-- The held launch of a queue that completed first. -/
def State.firstHeld (s : State) (q : Nat) : Option Launch :=
  (s.dev.launches.filter fun l => l.q == q && l.held).foldl (fun b l =>
    match b with
    | none => some l
    | some x => if l.doneBefore x then some l else some x) none

/-- COMPLETION_RING_RECHECK (R416): the dispatcher reads CHEAD again for a held record. -/
def execCompletionRingRecheck (q : Nat) (s : State) : Host.Outcome State Fault Refusal :=
  match s.firstHeld q with
  | none => .next s
  | some l =>
    match l.result with
    | none => .next s
    | some (st, r) => .next (s.complete l st r)

/-! ## Instructions -/

/-- Whether the descriptor of a queue keeps the table of R409. -/
def descriptorGood (b : List Byte) : Bool :=
  field b 0 8 % 64 == 0 && decide (field b 8 1 ≤ 16) && decide (field b 9 1 ≤ 7) && decide (field b 10 1 < 8) && decide (field b 11 1 ≤ 16) &&
    decide (field b 12 2 < 4096) && field b 14 2 == 0 && field b 32 8 % 16 == 0 && field b 56 8 == 0

/-- `lq.set` (R409). -/
def execLqSet (a b : GReg) (s : State) : Host.Outcome State Fault Refusal :=
  run s 1 do
    supervisor s 0
    let q ← readG s a
    let va ← readG s b
    if va = 0 then .ok (s.onQueue (bits q 0 4) fun x => { x with en := false })
    else do
      ensure (va.toNat % 64 == 0) (queueFault s va)
      s.inSpace va 64
      let (t, l, pa) ← s.check { s.accLoad with store := true } va.toNat
      ensure (isDram pa && bit l 5) (queueFault t va)
      let p : Piece := { pa := pa, va := va.toNat, len := 64, leaf := l }
      let _ ← t.pieceHome p
      let t ← t.ownFirst true [p]
      let (t, d) ← t.loadPieces true [p]
      ensure (descriptorGood d) (queueFault t va)
      let f := field d 10 1
      let q' : Queue := { en := f % 2 == 1, pa := pa, ring := field d 0 8, rl := field d 8 1, pmax := field d 9 1
                          uen := f / 2 % 2 == 1, sup := f / 4 % 2 == 1, cl := field d 11 1, asid := field d 12 2
                          head := field d 16 8, tail := field d 16 8, cring := field d 32 8, ctail := field d 40 8
                          badHead := none, stopped := false, served := (t.queue (bits q 0 4)).served }
      .ok (t.onQueue (bits q 0 4) fun _ => q')

/-- `launch` (R427): where the ring is full, nothing is read. -/
def execLaunch (d a b : GReg) (s : State) : Host.Outcome State Fault Refusal :=
  runLoad s 1 do
    let va ← readG s a
    let qn ← readG s b
    destG s d
    ensure (bits qn 4 60 == 0) (queueFault s qn)
    ensure (va.toNat % 64 == 0) (queueFault s va)
    let q := s.queue (bits qn 0 4)
    ensure (q.en && (s.fib.sup || q.uen) && q.asid == s.fib.asid) (queueFault s qn)
    let t ← s.release 6
    let i := t.descWord (bits qn 0 4) 24
    if 2 ^ q.rl ≤ i - q.head then .ok (setG t d (BitVec.allOnes 64), false)
    else do
      let (t, ps) ← t.access t.accLoad va 64 false
      let t ← t.ownFirst false ps
      let (t, rec_) ← t.loadPieces false ps
      let t := t.agentWrite q.asid (q.ring + 64 * (i % 2 ^ q.rl)) rec_
      let t := (t.putDesc (bits qn 0 4) 24 (i + 1)).makeFull ((q.pa + 24) / 8)
      .ok (setG t d (BitVec.ofNat 64 i), t.parksFor ps)

/-- The state code of `lch.stat` (R426). -/
def LaunchState.code (l : LaunchState) : Nat :=
  match l with
  | .waiting => 1
  | .placing => 2
  | .running => 3
  | .preempted => 4
  | .relocated => 5
  | .ended _ _ => 6

/-- `lch.stat` (R426). -/
def execLchStat (d a : GReg) (s : State) : Host.Outcome State Fault Refusal :=
  run s 1 do
    let v ← readG s a
    ensure (bits v 12 52 == 0) (illegal s 4)
    let w : Word := match (s.launch? v.toNat).filter fun l => l.asid == s.fib.asid with
      | none => 0
      | some l => match l.state with
        | .ended st _ => wordOf [(8, 8, st), (0, 3, 6)]
        | x => wordOf [(0, 3, x.code)]
    writeG s d w

/-- Whether some register of a skein's shadow bank is pending. -/
def Skein.anyPending (k : Skein) : Bool := (List.range 8).any fun i => k.shadow.fill.getD i 0 == Fill.pending

/-- `ckpt` (R426): the fibre's own checkpoint, whose PC is that of the next instruction; the event fibre's takes in the shadow bank. -/
def execCkpt (s : State) : Host.Outcome State Fault Refusal :=
  run s 1 do
    notGuest s
    settled s
    if s.fib.anyPending || (s.fib.evf && s.skein.anyPending) then hold s .retry else
    match s.myLaunch with
    | none => .ok s
    | some l => do
      let t ← s.release 6
      let t := t.saveFibre l { t.fib with pc := t.fib.pc + 4 } t.skein
      .ok (t.setFib fun f => { f with dirty := Vector.replicate 48 false })

/-- `lch.abort` (R426): the launch ends with status 2 while a grid-stall fault is outstanding, else 3. -/
def execLchAbort (a : GReg) (s : State) : Host.Outcome State Fault Refusal :=
  runThen s 1 (do
    supervisor s 0
    let _ ← readG s a
    .ok s) fun t =>
      let lid := (s.bank.val.getD a.toNat 0).toNat
      match t.liveLaunch? lid with
      | none => t
      | some l => t.endLaunch lid (if l.stall then 2 else 3) (if l.stall then 0x15 else 0)

/-- The region and sets of a relocated skein are copied to its new place (R425); where there is no room for them yet, `lch.resume` loads them
(assumption 48). -/
def State.moveIn (s : State) (l : Launch) (skn core : Nat) : State :=
  let groups := s.groupsFor l core
  if s.regionTaken core l || decide (groups.length < l.accn) then s
  else ((s.agentDetect l.asid (l.blockAt skn) l.blockSize).loadPlace l skn core groups).onSkein l.lid skn fun x =>
    { x with copied := true, groups := groups }

/-- A checkpointed skein is relocated to the new holder of its number (R425). -/
def State.relocate (s : State) (core lid skn : Nat) : State :=
  match s.launch? lid with
  | none => s
  | some l =>
    if !l.evicted.contains skn && !l.moved.contains skn then s
    else
      let s := s.agentWrite l.asid (l.blockAt skn) (bytesOf 8 relocatedState)
      let s := s.onSkein lid skn fun x => { x with core := core, copied := false, groups := [] }
      let s := s.onLaunch lid fun x => { x with evicted := setDel skn x.evicted, moved := setIns skn x.moved }
      ((s.moveIn l skn core).settleLaunch lid).logAt 0x0C 0 0 (coreBlk core) (coreLoc core) lid 0 skn

/-- A relocated skein waits for a place elsewhere, since its core is gone and no core has its number (R424). -/
def State.unplace (s : State) (lid skn : Nat) : State :=
  (((s.onSkein lid skn fun x => { x with copied := false, groups := [] }).onLaunch lid fun x =>
    { x with moved := setDel skn x.moved, evicted := setIns skn x.evicted })).settleLaunch lid

/-- The relocated skeins that wait at a core for `lch.resume`. -/
def State.movedTo (s : State) (core : Nat) : List Skein :=
  s.allSkeins.filter fun k => !k.resident && k.core == core && (s.launch? k.lid).any fun l => l.moved.contains k.skn

/-- The relocated skeins of a core that is lost in turn go on to the new holder of its number, if any (R424, R425). -/
def State.moveOn (s : State) (core : Nat) (holder : Option Nat) : State :=
  (s.movedTo core).foldl (fun s k => match holder with
    | some c => s.relocate c k.lid k.skn
    | none => s.unplace k.lid k.skn) s

/-- Whether a relocated skein can be resumed on its core (R415, R425): its own region and sets there are no hindrance. -/
def State.fitsBack (s : State) (l : Launch) (k : Skein) : Bool :=
  let b := s.brings l k.skn
  (s.onSkein k.lid k.skn fun x => { x with copied := false, groups := [] }).fits k.core l b.1 b.2

/-- `lch.resume` (R425, R426): each relocated skein is placed on the core that took its number. -/
def execLchResume (a : GReg) (s : State) : Host.Outcome State Fault Refusal :=
  run s 1 do
    supervisor s 0
    let v ← readG s a
    match s.liveLaunch? v.toNat with
    | none => .ok s
    | some l =>
      .ok ((l.moved.foldl (fun s skn =>
        match s.skein? l.lid skn with
        | none => s
        | some k => if s.fitsBack l k then s.restoreSkein l skn k.core else s) s).settleLaunch l.lid)

end Sys2Proof.Machine
end

