-- ==== Sys2Proof/Machine/LoadStore.lean ====
section
/-! DEFINITION. Loads, stores, full/empty operations and prefetches: majors 0x20 to 0x2B (R182 to R200). -/

namespace Sys2Proof.Machine

/-! ## Scalar integer accesses -/

/-- Bytes of a size code (R156). -/
def sizeBytes (z : BitVec 2) : Nat := 2 ^ z.toNat

/-- A scalar integer load into gd (R189, R190); `scope` is that of an acquire. -/
def loadG (s : State) (d : GReg) (ea : Word) (n : Nat) (signed nt : Bool) (scope : Option Nat) : Ex (State × Bool) := do
  destG s d
  let (t, ps) ← s.access s.accLoad ea n false
  let t := match scope with
    | none => t
    | some k => t.acquire k
  let t ← t.ownFirst nt ps
  let (t, bs) ← t.loadPieces nt ps
  .ok (setG t d (extendLoad n signed (ofBytes bs)), t.parksFor ps)

/-- A scalar integer store of the low bytes of a value (R189, R190); `scope` is that of a release. -/
def storeVal (s : State) (ea : Word) (bs : List Byte) (noRemote : Bool) (scope : Option Nat) : Ex State := do
  let (t, ps) ← s.access s.accStore ea bs.length noRemote
  let t ← match scope with
    | none => .ok t
    | some k => t.release k
  t.storeRoom ps
  .ok (t.settleLocal.storePieces ps bs)

/-- A format M integer load (R189). -/
def loadM (s : State) (z : BitVec 2) (e : BitVec 1) (d b : GReg) (i : BitVec 4) (w : BitVec 1) (m : BitVec 9)
    (nt : Bool) (scope : Option Nat) : Host.Outcome State Fault Refusal :=
  runLoad s 1 do
    let t ← waitW s w
    let ea ← effAddr t b i m (sizeBytes z)
    loadG t d ea (sizeBytes z) (e == 1) nt scope

/-- A format M integer store (R189): the register stored is read before base and index, an order that the manual does not give
(assumption 6). -/
def storeM (s : State) (z : BitVec 2) (g b : GReg) (i : BitVec 4) (w : BitVec 1) (m : BitVec 9) (scope : Option Nat) :
    Host.Outcome State Fault Refusal :=
  run s 1 do
    let t ← waitW s w
    let v ← readG t g
    let ea ← effAddr t b i m (sizeBytes z)
    storeVal t ea (bytesOf (sizeBytes z) v.toNat) false scope

/-- `ld` and its sizes, relaxed (R189). -/
def execLd (z : BitVec 2) (e : BitVec 1) (d b : GReg) (i : BitVec 4) (w : BitVec 1) (m : BitVec 9) (s : State) :
    Host.Outcome State Fault Refusal := loadM s z e d b i w m false none
/-- `ld.acq` at chip scope (R158, R190). -/
def execLdAcq (z : BitVec 2) (e : BitVec 1) (d b : GReg) (i : BitVec 4) (w : BitVec 1) (m : BitVec 9) (s : State) :
    Host.Outcome State Fault Refusal := loadM s z e d b i w m false (some 2)
/-- `ld.nt` (R199). -/
def execLdNt (z : BitVec 2) (e : BitVec 1) (d b : GReg) (i : BitVec 4) (w : BitVec 1) (m : BitVec 9) (s : State) :
    Host.Outcome State Fault Refusal := loadM s z e d b i w m true none
/-- `st` and its sizes, relaxed (R189). -/
def execSt (z : BitVec 2) (g b : GReg) (i : BitVec 4) (w : BitVec 1) (m : BitVec 9) (s : State) :
    Host.Outcome State Fault Refusal := storeM s z g b i w m none
/-- `st.rel` at chip scope (R158, R190). -/
def execStRel (z : BitVec 2) (g b : GReg) (i : BitVec 4) (w : BitVec 1) (m : BitVec 9) (s : State) :
    Host.Outcome State Fault Refusal := storeM s z g b i w m (some 2)
/-- `st.nt`: as the relaxed store (R199). -/
def execStNt (z : BitVec 2) (g b : GReg) (i : BitVec 4) (w : BitVec 1) (m : BitVec 9) (s : State) :
    Host.Outcome State Fault Refusal := storeM s z g b i w m none

/-- `ld` of major 0x2B: an acquire at a scope, or relaxed (R190). -/
def execLdScoped (d a : GReg) (w : BitVec 1) (z : BitVec 2) (e : BitVec 1) (sc : BitVec 4) (o : BitVec 2) (i : BitVec 4)
    (m : BitVec 22) (s : State) : Host.Outcome State Fault Refusal :=
  runLoad s 2 do
    let t ← waitW s w
    let ea ← scopedAddr t a i m (sizeBytes z)
    loadG t d ea (sizeBytes z) (e == 1) false (if o = 1 then some sc.toNat else none)

/-- `st` of major 0x2B: a release at a scope, or relaxed (R190). -/
def execStScoped (g a : GReg) (w : BitVec 1) (z : BitVec 2) (sc : BitVec 4) (o : BitVec 2) (i : BitVec 4) (m : BitVec 22)
    (s : State) : Host.Outcome State Fault Refusal :=
  run s 2 do
    let t ← waitW s w
    let v ← readG t g
    let ea ← scopedAddr t a i m (sizeBytes z)
    storeVal t ea (bytesOf (sizeBytes z) v.toNat) false (if o = 2 then some sc.toNat else none)

/-! ## Full/empty accesses -/

/-- The checks of a full/empty access (R183, R184): one aligned word, FE on DRAM. -/
def fePlace (s : State) (a : Acc) (va : Word) (n : Nat) : Ex (State × Piece) := do
  s.inSpace va n
  ensure (va.toNat % 8 + n ≤ 8) (trap s 0x03 0 va)
  let (t, ps) ← s.access { a with fe := true } va n false
  match ps with
  | [] => hold t .retry
  | p :: _ => .ok (t, p)

/-- A full/empty access that is performed at the word's home: the earlier stores of the fibre to the word, and what was sent before on the
way there, come first (R31, R186, R374, R378). -/
def fePiece (s : State) (a : Acc) (va : Word) (n : Nat) : Ex (State × Piece) := do
  let (t, p) ← fePlace s a va n
  let t ← t.homeFirst [t.pieceWay p] [p] (if isDram p.pa then [p.pa / 128] else [])
  .ok (t.detect p.pa p.len, p)

/-- A full/empty load or take (R196, R197): on an empty word the request waits at the home, in order of arrival. -/
def feLoad (s : State) (d : GReg) (va : Word) (n : Nat) (signed take : Bool) : Ex (State × Bool) := do
  destG s d
  let (t, p) ← fePiece s (if take then s.accAtomic else s.accLoad) va n
  if t.emptyWord (p.pa / 8) then
    let w : FeWait := { fib := t.fib.id, pa := p.pa, len := n, signed := signed, take := take, d := d,
                        shadow := t.fib.inev, key := keyArg p.leaf, asid := t.fib.asid, va := p.va }
    hold (t.setDev fun v => { v with feWait := v.feWait ++ [w] }) .fe
  else
    let (t, bs) ← t.loadPieces true [p]
    let t := t.acquire 2
    let t := if take then (t.touchBit (keyArg p.leaf) p.pa).setFull (p.pa / 8) false else t
    .ok (setG t d (extendLoad n signed (ofBytes bs)), t.parksFor [p])

/-- A full/empty store leaves the core like every store (R61, R65, R196): posted to another chiplet's scratchpad, performed at once in its
own, and for DRAM into the write-through buffer. -/
def State.feStorePart (s : State) (p : Piece) (bs : List Byte) : State :=
  if s.remote p then s.setDev fun d => { d with
    posted := d.posted ++ [{ fib := s.fib.id, core := s.core.num, seq := s.ctr, src := s.chip.num, pa := p.pa, data := bs
                             setFull := true, hop := s.hop (padChip p.pa) }] }
  else if isPad p.pa then (s.writeHome p.pa bs).makeFull (p.pa / 8)
  else s.setCore fun c => { c with
    wtb := c.wtb ++ [{ fib := s.fib.id, seq := s.ctr, key := keyArg p.leaf, pa := p.pa, data := bs, full := true }]
    l1 := putL1 p.pa bs c.l1 }

/-- The store half of a full/empty store (R196): a release, then the bytes and with them the word full, at an absent offset too, where the
bytes are discarded (R57) (assumption 58). -/
def feStore (s : State) (va : Word) (bs : List Byte) : Ex State := do
  let (t, p) ← fePlace s s.accStore va bs.length
  let t ← t.release 2
  t.storeRoom [p]
  .ok (t.settleLocal.feStorePart p bs)

/-- `ld.fe` (R196). -/
def execLdFe (z : BitVec 2) (e : BitVec 1) (d b : GReg) (i : BitVec 4) (w : BitVec 1) (m : BitVec 9) (s : State) :
    Host.Outcome State Fault Refusal :=
  runLoad s 1 do
    let t ← waitW s w
    let ea ← effAddr t b i m (sizeBytes z)
    feLoad t d ea (sizeBytes z) (e == 1) false

/-- `st.fe` (R196): never waits at the word. -/
def execStFe (z : BitVec 2) (g b : GReg) (i : BitVec 4) (w : BitVec 1) (m : BitVec 9) (s : State) :
    Host.Outcome State Fault Refusal :=
  run s 1 do
    let t ← waitW s w
    let v ← readG t g
    let ea ← effAddr t b i m (sizeBytes z)
    feStore t ea (bytesOf (sizeBytes z) v.toNat)

/-- `ld.fe.take` (R197). -/
def execLdFeTake (d a : GReg) (s : State) : Host.Outcome State Fault Refusal :=
  runLoad s 1 do
    let ea ← readG s a
    feLoad s d ea 8 false true

/-- `fe.clr` (R197): relaxed. -/
def execFeClr (a : GReg) (s : State) : Host.Outcome State Fault Refusal :=
  run s 1 do
    let ea ← readG s a
    let (t, p) ← fePiece s s.accStore ea 8
    .ok ((t.touchBit (keyArg p.leaf) p.pa).setFull (p.pa / 8) false)

/-- `fe.set` (R197): a release that wakes waiters. -/
def execFeSet (a : GReg) (s : State) : Host.Outcome State Fault Refusal :=
  run s 1 do
    let ea ← readG s a
    let (t, p) ← fePlace s s.accStore ea 8
    let t ← t.release 2
    let t ← t.homeFirst [t.pieceWay p] [p] []
    let t := t.detect p.pa p.len
    .ok ((t.touchBit (keyArg p.leaf) p.pa).makeFull (p.pa / 8))

/-- `fe.test` (R197): relaxed, never affected by poison. -/
def execFeTest (d a : GReg) (s : State) : Host.Outcome State Fault Refusal :=
  runLoad s 1 do
    let ea ← readG s a
    destG s d
    let (t, p) ← fePiece s s.accLoad ea 8
    .ok (setG t d (if t.emptyWord (p.pa / 8) then 0 else 1), t.parksFor [p])

/-- `g.empty` (R197): the value stays and cannot be read; a fault token is discarded. -/
def execGEmpty (d : GReg) (s : State) : Host.Outcome State Fault Refusal :=
  run s 1 do
    destG s d
    .ok (setFill s d (s.bank.val.getD d.toNat 0) Fill.empty)

/-! ## VF scalar accesses -/

/-- Whether a value of `n` bytes crosses a 64-byte boundary (R82). -/
def crosses (ea : Word) (n : Nat) : Bool := decide (64 < ea.toNat % 64 + n)

/-- The scope of format M's ord 1 (R158). -/
def ordScope (o : BitVec 2) : Option Nat := if o = 1 then some 2 else none

/-- Load one VF value at its stored length into fd (R191); gives its length. The length byte is read with the block that holds it
(R82). Its poison is met before the pages of the other bytes are checked, an order that the manual does not give (assumption 53). -/
def loadF (s : State) (f : FReg) (ea : Word) (o : BitVec 2) : Ex (State × Bool × Nat) := do
  let (t, ps) ← s.access s.accLoad ea 1 false
  let t := if o = 1 then t.acquire 2 else t
  let t ← t.ownFirst (o == 3) ps
  let (t, b) ← t.readParts (o == 3) (some 0) ps
  let len := ofBytes b % 16
  ensure (2 ≤ len) (trap t 0x08 0 ea)
  let n := len + 1
  let (t, ps) ← t.access t.accLoad ea n (crosses ea n)
  let t ← t.ownFirst (o == 3) ps
  let (t, bs) ← t.loadParts (o == 3) (some 0) ps
  .ok (setF t f.toNat ((vfDecode (ofBytes bs)).convert (Fmt.vf t.p) t.rm), t.parksFor ps, n)

/-- `ld.f` (R191). -/
def execLdF (f : FReg) (b : GReg) (i : BitVec 4) (w : BitVec 1) (o : BitVec 2) (m : BitVec 9) (s : State) :
    Host.Outcome State Fault Refusal :=
  runLoad s 1 do
    let t ← waitW s w
    let ea ← effAddr t b i m t.n
    needF t f.toNat
    let (t, parks, _) ← loadF t f ea o
    .ok (t, parks)

/-- `ld.f.adv` (R191): the base register moves past the value. -/
def execLdFAdv (f : FReg) (b : GReg) (w : BitVec 1) (o : BitVec 2) (s : State) : Host.Outcome State Fault Refusal :=
  runLoad s 1 do
    let t ← waitW s w
    let ea ← readG t b
    needF t f.toNat
    let (t, parks, n) ← loadF t f ea o
    .ok (setG t b (ea + BitVec.ofNat 64 n), parks)

/-- `st.f` (R192). -/
def execStF (f : FReg) (b : GReg) (i : BitVec 4) (w : BitVec 1) (o : BitVec 2) (m : BitVec 9) (s : State) :
    Host.Outcome State Fault Refusal :=
  run s 1 do
    let t ← waitW s w
    let ea ← effAddr t b i m t.n
    needF t f.toNat
    let v ← readV0 t f.toNat
    storeVal t ea (bytesOf t.n v) (crosses ea t.n) (ordScope o)

/-! ## Vector accesses -/

/-- A check of one lane after its translation (R183 step 7). -/
abbrev LaneCheck := State → Nat → Word → List Piece → Ex State

/-- Steps 3 to 7 of R183 for every lane of a list of (lane, address). -/
def laneAccess (a : Acc) (e : Nat) (chk : LaneCheck) : List (Nat × Word) → State → Ex (State × List (Nat × List Piece))
  | [], s => .ok (s, [])
  | (i, va) :: r, s => do
    let (t, ps) ← s.access a va e true
    let t ← chk t i va ps
    let (t, rest) ← laneAccess a e chk r t
    .ok (t, (i, ps) :: rest)

/-- Take the bytes of every lane, each an access of its own (R185) (assumption 20). -/
def laneReads (nt : Bool) : List (Nat × List Piece) → State → Ex (State × List (Nat × Nat))
  | [], s => .ok (s, [])
  | (i, ps) :: r, s => do
    let (t, bs) ← s.readParts nt (some i) ps
    let (t, rest) ← laneReads nt r t
    .ok (t, (i, ofBytes bs) :: rest)

/-- Load every lane (R185); the caches take the lines once every lane has its bytes (assumption 20). -/
def laneLoads (nt : Bool) (l : List (Nat × List Piece)) (s : State) : Ex (State × List (Nat × Nat)) := do
  let (t, got) ← laneReads nt l s
  .ok (t.fillParts nt (l.flatMap Prod.snd), got)

/-- The parts of a store of lanes of `n` bytes, in increasing order of lane (R185, R194). -/
def laneParts (n x : Nat) (l : List (Nat × List Piece)) : List StorePart :=
  l.flatMap fun e => storeParts e.2 (bytesOf n (lane x n e.1))

/-- Store every lane, each an access of its own (R185); scattered lanes, which may overlap, in increasing order (R194)
(assumptions 20 and 57). -/
def laneStores (s : State) (n x : Nat) (scatter : Bool) (l : List (Nat × List Piece)) : State :=
  let ps := laneParts n x l
  if scatter then s.storeAll (if ps.length ≤ 1 then 1 else Config.partsNow s.ctr % (ps.length + 1)) ps else s.storeParts ps

/-- No lane check. -/
def noCheck : LaneCheck := fun s _ _ _ => .ok s

/-- A VF lane in memory carries length code n − 1 (R195), read as the lane itself will be (R82). -/
def memLaneOk (n : Nat) (nt : Bool) : LaneCheck := fun s i va ps =>
  match ps with
  | [] => .ok s
  | p :: _ => do
    let s ← s.ownFirst nt ps
    let l1 := s.usesL1 p nt
    let s := (if l1 then s.evictL1 (p.pa / 128) else s).detect p.pa 1
    match s.loadByte l1 (s.key (leafKey p.leaf)) (some i) p.pa with
    | none => .ok s
    | some b => if b.toNat % 16 + 1 = n then .ok s else trap s 0x08 0 va

/-- A VF lane of a register carries length code n − 1 (R133, R195). -/
def regLaneOk (n x : Nat) : LaneCheck := fun s i _ _ =>
  if vfLen (lane x n i) + 1 = n then .ok s else trap s 0x08 0 (BitVec.ofNat 64 i)

/-- Contiguous lanes from a start address (R193). -/
def rowLanes (ea : Word) (e l : Nat) : List (Nat × Word) :=
  (List.range l).map fun i => (i, ea + BitVec.ofNat 64 (e * i))

/-- Gathered or scattered lanes; a skipped lane does not stand in the list (R194). -/
def jumpLanes (base : Word) (offs : Nat) (m : BitVec 9) (e l : Nat) : List (Nat × Word) :=
  (List.range l).filterMap fun i => (laneAddr base offs m e i).map fun a => (i, a)

/-- Lanes `0` to `l − 1` with the loaded ones in place and the others at a fill value. -/
def placeLanes (l : Nat) (got : List (Nat × Nat)) (dflt : Nat) : List Nat :=
  (List.range l).map fun i => assoc i dflt got

/-- Round loaded VF lanes to P; the flags are their union (R195). -/
def roundLanes (p : Nat) (mode : RMode) : List (Nat × Nat) → List (Nat × Nat) × FFlags
  | [] => ([], 0)
  | (i, v) :: r =>
    let c := (vfDecode v).convert (Fmt.vf p) mode
    let rest := roundLanes p mode r
    ((i, vfEncode p c.1) :: rest.1, c.2 ||| rest.2)

/-- Load lanes into vd as integers (assumption 20). -/
def loadLanes (s : State) (v : Nat) (e l : Nat) (o : BitVec 2) (at_ : List (Nat × Word)) : Ex (State × Bool) := do
  let (t, ps) ← laneAccess s.accLoad e noCheck at_ s
  let t := if o = 1 then t.acquire 2 else t
  let t ← t.ownFirst (o == 3) (ps.flatMap Prod.snd)
  let (t, got) ← laneLoads (o == 3) ps t
  .ok (setVec t v (packLanes e (placeLanes l got 0)), ps.any fun q => t.parksFor q.2)

/-- Load VF lanes into vd (R195); an acquire comes before the length codes are read (R61, R375). -/
def loadLanesF (s : State) (v l : Nat) (o : BitVec 2) (at_ : List (Nat × Word)) : Ex (State × Bool) := do
  let n := s.n
  let t := if o = 1 then s.acquire 2 else s
  let (t, ps) ← laneAccess t.accLoad n (memLaneOk n (o == 3)) at_ t
  let (t, got) ← laneLoads (o == 3) ps t
  let r := roundLanes s.p s.rm got
  .ok (raiseFlags (setVec t v (packLanes n (placeLanes l r.1 (vfEncode s.p FV.zero)))) r.2, ps.any fun q => t.parksFor q.2)

/-- Store lanes of a register. -/
def storeLanes (s : State) (x e : Nat) (scatter : Bool) (chk : LaneCheck) (o : BitVec 2) (at_ : List (Nat × Word)) : Ex State := do
  let (t, ps) ← laneAccess s.accStore e chk at_ s
  let t ← if o = 1 then t.release 2 else .ok t
  t.storeRoom (ps.flatMap Prod.snd)
  .ok (laneStores t.settleLocal e x scatter ps)

/-- `vld` (R193). -/
def execVld (z : BitVec 2) (v : VReg) (b : GReg) (i : BitVec 4) (w : BitVec 1) (o : BitVec 2) (m : BitVec 9) (s : State) :
    Host.Outcome State Fault Refusal :=
  runLoad s 1 do
    needV s v.toNat
    let t ← waitW s w
    let ea ← effAddr t b i m (sizeBytes z)
    let l := 256 / sizeBytes z
    loadLanes t v.toNat (sizeBytes z) l o (rowLanes ea (sizeBytes z) l)

/-- `vld` with per-lane offsets (R194). -/
def execVldGather (z : BitVec 2) (v : VReg) (b j : GReg) (w : BitVec 1) (o : BitVec 2) (m : BitVec 9) (s : State) :
    Host.Outcome State Fault Refusal :=
  runLoad s 1 do
    needVs s [v.toNat, j.toNat]
    let t ← waitW s w
    let base ← readG t b
    let offs ← readVec t j.toNat
    let l := 256 / sizeBytes z
    loadLanes t v.toNat (sizeBytes z) l o (jumpLanes base offs m (sizeBytes z) l)

/-- `vst` (R193). -/
def execVst (z : BitVec 2) (v : VReg) (b : GReg) (i : BitVec 4) (w : BitVec 1) (o : BitVec 2) (m : BitVec 9) (s : State) :
    Host.Outcome State Fault Refusal :=
  run s 1 do
    needV s v.toNat
    let t ← waitW s w
    let ea ← effAddr t b i m (sizeBytes z)
    let x ← readVec t v.toNat
    storeLanes t x (sizeBytes z) false noCheck o (rowLanes ea (sizeBytes z) (256 / sizeBytes z))

/-- `vst` with per-lane offsets (R194). -/
def execVstScatter (z : BitVec 2) (v : VReg) (b j : GReg) (w : BitVec 1) (o : BitVec 2) (m : BitVec 9) (s : State) :
    Host.Outcome State Fault Refusal :=
  run s 1 do
    needVs s [v.toNat, j.toNat]
    let t ← waitW s w
    let base ← readG t b
    let offs ← readVec t j.toNat
    let x ← readVec t v.toNat
    storeLanes t x (sizeBytes z) true noCheck o (jumpLanes base offs m (sizeBytes z) (256 / sizeBytes z))

/-- `vld.f` (R195). -/
def execVldF (v : VReg) (b : GReg) (i : BitVec 4) (w : BitVec 1) (o : BitVec 2) (m : BitVec 9) (s : State) :
    Host.Outcome State Fault Refusal :=
  runLoad s 1 do
    needV s v.toNat
    let t ← waitW s w
    let ea ← effAddr t b i m t.n
    loadLanesF t v.toNat (vfLanes t.n) o (rowLanes ea t.n (vfLanes t.n))

/-- `vld.f` with per-lane offsets (R194): at most 64 lanes are read, the others are +0. -/
def execVldFGather (v : VReg) (b j : GReg) (w : BitVec 1) (o : BitVec 2) (m : BitVec 9) (s : State) :
    Host.Outcome State Fault Refusal :=
  runLoad s 1 do
    needVs s [v.toNat, j.toNat]
    let t ← waitW s w
    let base ← readG t b
    let offs ← readVec t j.toNat
    loadLanesF t v.toNat (vfLanes t.n) o (jumpLanes base offs m t.n (Nat.min (vfLanes t.n) 64))

/-- `vst.f` (R195): padding is never written. -/
def execVstF (v : VReg) (b : GReg) (i : BitVec 4) (w : BitVec 1) (o : BitVec 2) (m : BitVec 9) (s : State) :
    Host.Outcome State Fault Refusal :=
  run s 1 do
    needV s v.toNat
    let t ← waitW s w
    let ea ← effAddr t b i m t.n
    let x ← readVec t v.toNat
    storeLanes t x t.n false (regLaneOk t.n x) o (rowLanes ea t.n (vfLanes t.n))

/-- `vst.f` with per-lane offsets (R194): lanes 64 and above are not stored. -/
def execVstFScatter (v : VReg) (b j : GReg) (w : BitVec 1) (o : BitVec 2) (m : BitVec 9) (s : State) :
    Host.Outcome State Fault Refusal :=
  run s 1 do
    needVs s [v.toNat, j.toNat]
    let t ← waitW s w
    let base ← readG t b
    let offs ← readVec t j.toNat
    let x ← readVec t v.toNat
    storeLanes t x t.n true (regLaneOk t.n x) o (jumpLanes base offs m t.n (Nat.min (vfLanes t.n) 64))

/-! ## Prefetch -/

/-- A prefetch is the first read of a register too (R380): the acquire that it may be empties the L1. -/
def firstReads (s : State) (rs : List GReg) : State :=
  rs.foldl (fun s r => if s.bank.fill.getD r.toNat 0 = Fill.full ∧ s.bank.acq.getD r.toNat false = true then
    (unmark s r).setCore fun c => { c with l1 := [] } else s) s

/-- The value of a register that is full. -/
def peekG (s : State) (r : GReg) : Option Word :=
  if s.bank.fill.getD r.toNat 0 = Fill.full then some (s.bank.val.getD r.toNat 0) else none

/-- The line address of a prefetch (R157, R200): none where a register cannot be read, since a prefetch never parks or faults. -/
def prefetchAddr (s : State) (b : GReg) (i : BitVec 4) (m : BitVec 9) : Option Word :=
  match peekG s b, (if i.toNat ≤ 7 then peekG s (i.setWidth 3) else some 0) with
  | some x, some y => some (x + y * 128 + m.signExtend 64 * 128)
  | _, _ => none

/-- A prefetch (R200): discarded where a load of the line would fault or wait, and on scratchpad. -/
def prefetch (s : State) (b : GReg) (i : BitVec 4) (m : BitVec 9) (f : State → Piece → State) : State :=
  let s := firstReads s (b :: if i.toNat ≤ 7 then [i.setWidth 3] else [])
  match prefetchAddr s b i m with
  | none => s
  | some ea =>
    match s.access s.accLoad ea 1 false with
    | .ok (t, p :: _) => if isDram p.pa then f t p else s
    | _ => s

/-- `pf.l2` (R200): the home slice holds the line; discarded on a page with BYP = 1. -/
def execPfL2 (b : GReg) (i : BitVec 4) (m : BitVec 9) (s : State) : Host.Outcome State Fault Refusal :=
  run s 1 (.ok (prefetch s b i m fun t p => t.reachSlice p))

/-- `pf.msc` (R200): the memory-side cache holds the line. -/
def execPfMsc (b : GReg) (i : BitVec 4) (m : BitVec 9) (s : State) : Host.Outcome State Fault Refusal :=
  run s 1 (.ok (prefetch s b i m fun t p =>
    if t.dev.msc.any fun x => x.line == p.pa / 128 then t else t.putMsc (p.pa / 128) (leafKey p.leaf) false))

/-- `pf.l1` (R200): the L1 of the core takes the line as an ordinary load of it would; a load through a page with BYP = 1, or by a
guest, fills nothing (R61, R351) (assumption 18). -/
def execPfL1 (b : GReg) (i : BitVec 4) (m : BitVec 9) (s : State) : Host.Outcome State Fault Refusal :=
  run s 1 (.ok (prefetch s b i m fun t p =>
    if t.usesL1 p false then (t.reachSlice p).fillL1 (t.key (leafKey p.leaf)) (p.pa / 128) else t))

end Sys2Proof.Machine
end

