-- ==== Sys2Proof/Machine/Maintenance.lean ====
section
/-! DEFINITION. Cache and translation maintenance (major 0x7B; R48, R53 to R55, R70 to R72), the completions of memory traffic
(R50, R54, R62, R65, R66, R71), the patrol (R437), and losses of parts (R28, R49, R57). -/

namespace Sys2Proof.Machine

/-! ## Cache maintenance -/

/-- `l1.inv` (R70). -/
def execL1Inv (s : State) : Host.Outcome State Fault Refusal := run s 1 (.ok (s.setCore fun c => { c with l1 := [] }))
/-- `l1.drain` (R66, R70): parks until every buffered store of the core has left and is performed. -/
def execL1Drain (s : State) : Host.Outcome State Fault Refusal := run s 1 (if s.core.wtb.isEmpty then .ok s else hold s .wait)

/-- Start a maintenance operation of the fibre in focus (assumption 35). -/
def State.startMaint (s : State) (kind arg : Nat) : State :=
  s.setDev fun d => { d with maint := d.maint ++ [{ by_ := s.fib.id, kind := kind, arg := arg, since := s.ctr }] }

/-- Start an operation on the line that holds an address (R70): no effect beyond translation on a page with BYP = 1 or on a
scratchpad page. -/
def lineMaint (s : State) (kind : Nat) (a : GReg) : Ex State := do
  let va ← readG s a
  s.inSpace va 1
  let (t, l, pa) ← s.check s.accLoad va.toNat
  if isPad pa || leafByp l then .ok t
  else do
    let _ ← t.pieceHome { pa := pa, va := va.toNat, len := 1, leaf := l }
    .ok (t.startMaint kind (pa / 128))

/-- `l2.wb` (R70). -/
def execL2Wb (a : BitVec 3) (s : State) : Host.Outcome State Fault Refusal := run s 1 (lineMaint s 0x32 a)
/-- `l2.wbinv` (R70). -/
def execL2Wbinv (a : BitVec 3) (s : State) : Host.Outcome State Fault Refusal := run s 1 (lineMaint s 0x33 a)
/-- `l2.inv` (R70). -/
def execL2Inv (a : BitVec 3) (s : State) : Host.Outcome State Fault Refusal :=
  run s 1 do
    supervisor s 0
    lineMaint s 0x34 a
/-- `l2.wbinv.slice` (R70): the network check of R36 towards the chiplet. -/
def execL2WbinvSlice (a : BitVec 3) (s : State) : Host.Outcome State Fault Refusal :=
  run s 1 do
    supervisor s 0
    let v ← readG s a
    s.reach (bits v 0 8)
    .ok (s.startMaint 0x35 (bits v 0 8))
/-- `msc.wbinv.key` (R70). -/
def execMscWbinvKey (a : BitVec 3) (s : State) : Host.Outcome State Fault Refusal :=
  run s 1 do
    supervisor s 0
    let v ← readG s a
    .ok (s.startMaint 0x36 (bits v 0 12))
/-- `cm.sync` (R66, R70, R71): what it waited for is complete, the last step of R69 too. -/
def execCmSync (s : State) : Host.Outcome State Fault Refusal :=
  run s 1 (if s.dev.maint.any fun m => m.by_ == s.fib.id then hold s .wait
    else .ok (s.setDev fun d => { d with purge := { d.purge with complete := d.purge.keys.foldl (fun l k => setIns k l) d.purge.complete } }))

/-- A word's list with the members of one line replaced. -/
def lineWords (line : Nat) (now was : List Nat) : List Nat := was.foldl (fun l w => setIns w l) (now.filter fun w => w / 16 != line)

/-- A dirty line leaves its slice unwritten: what the memory-side cache holds comes back, bytes, full/empty bits and marks (R71). Words
that are full again wake their waiters (R66). -/
def State.dropLine (s : State) (b : Below) : State :=
  let bad (i : Nat) : Bool := s.poisonedWord (16 * b.line + i)
  (s.setDev fun d => { d with
    mem := memPut d.mem (128 * b.line) b.data
    empt := lineWords b.line d.empt b.empt
    pois := lineWords b.line d.pois b.pois
    renewed := lineWords b.line d.renewed b.renewed
    past := d.past ++ (List.range 16).map fun i =>
      { at_ := d.writes, word := 16 * b.line + i, was := BitVec.ofNat 64 (ofBytes (memBytes d.mem (128 * b.line + 8 * i) 8)), bad := bad i }
    cipher := assocDel b.line d.cipher
    below := d.below.filter fun x => x.line != b.line }).wrote.dropSlice b.line |>.wakeFull

/-- Write back the dirty lines that a predicate names (R59, R71). -/
def State.writeBackAll (s : State) (p : Below → Bool) : State := (s.dev.below.filter p).foldl State.writeBack s

/-- Write back and drop every line of a slice (R70). -/
def State.emptySlice (s : State) (chip : Nat) : State :=
  (s.writeBackAll fun b => b.home == chip).setDev fun d => { d with slices := d.slices.filter fun e => e.2 != chip }

/-- The drop half of `l2.wbinv.slice` (R71): of a line that became dirty since the operation started, the write-back half may have come
by before, and its stores are discarded (assumption 35). -/
def State.dropLate (s : State) (m : Maint) : State :=
  (s.dev.below.filter fun b => b.home == m.arg && decide (m.since ≤ b.since) && Config.lineLost s.ctr b.line).foldl State.dropLine s

/-- The chiplets that are live (R458). -/
def State.liveChips (s : State) : List Nat := ((s.chip :: s.chips).filter fun c => decide (c.num < 256) && c.state == 5).map Chip.num

/-- The steps of R69 that a maintenance operation takes: a slice is emptied, then, once every live one was, an identifier. -/
def State.purged (s : State) (m : Maint) : State :=
  s.setDev fun d => { d with purge :=
    match m.kind with
    | 0x35 => { d.purge with slices := setIns m.arg d.purge.slices }
    | 0x36 => if s.liveChips.all fun c => d.purge.slices.contains c then { d.purge with keys := setIns m.arg d.purge.keys } else d.purge
    | _ => d.purge }

/-- A maintenance operation handles every line it covers (R70, R71): `l2.inv` drops, `l2.wbinv.slice` empties a slice, `msc.wbinv.key`
writes the lines of a key to DRAM and drops them, `l2.wb` writes a line back, and `l2.wbinv` drops it then (assumption 35). -/
def State.doMaint (s : State) (m : Maint) : State :=
  match m.kind with
  | 0x34 => ((s.dev.below.filter fun b => b.line == m.arg).foldl State.dropLine s).dropSlice m.arg
  | 0x35 => (s.dropLate m).emptySlice m.arg
  | 0x36 => (s.dev.msc.filter fun x => x.key == m.arg).foldl State.dropMsc s
  | 0x32 => s.writeBackAll fun b => b.line == m.arg
  | _ => (s.writeBackAll fun b => b.line == m.arg).dropSlice m.arg

/-- MAINTENANCE_COMPLETE (R71). -/
def execMaintenanceComplete (k : Nat) (s : State) : Host.Outcome State Fault Refusal :=
  match s.dev.maint[k]? with
  | none => .next s
  | some m => .next (((s.doMaint m).purged m).setDev fun d => { d with maint := dropAt d.maint k })

/-! ## Translation maintenance -/

/-- Update every chiplet that the module holds. -/
def State.allChips (s : State) (f : Chip → Chip) : State := { s with chip := f s.chip, chips := s.chips.map f }

/-- Start an invalidation on every chiplet (R53). -/
def State.startInval (s : State) (kind asid : Nat) (va : Word) : State :=
  s.allChips fun c => { c with inval := c.inval ++ [{ by_ := s.fib.id, kind := kind, asid := asid, va := va }] }

/-- `tlb.inv.va` (R53). -/
def execTlbInvVa (a b : BitVec 3) (s : State) : Host.Outcome State Fault Refusal :=
  run s 1 do
    supervisor s 0
    let asid ← readG s a
    let va ← readG s b
    .ok (s.startInval 0 (bits asid 0 12) va)
/-- `tlb.inv.as` (R53). -/
def execTlbInvAs (a : BitVec 3) (s : State) : Host.Outcome State Fault Refusal :=
  run s 1 do
    supervisor s 0
    let asid ← readG s a
    .ok (s.startInval 1 (bits asid 0 12) 0)
/-- `tlb.inv.all` (R53): also marks the hash-group table for re-reading. -/
def execTlbInvAll (s : State) : Host.Outcome State Fault Refusal :=
  run s 1 do
    supervisor s 0
    .ok ((s.startInval 2 0 0).allChips fun c => { c with regroup := s.fib.id :: c.regroup.filter fun f => f != s.fib.id })

/-- The hash-group table as a chiplet reads it (R48). -/
def State.readGroups (s : State) : Vector (BitVec 256) 16 :=
  Vector.ofFn fun g : Fin 16 => BitVec.ofNat 256 (ofBytes (s.homeBytes (bits s.dev.hgbase 9 43 * 2 ^ 9 + 32 * g) 32))

/-- `tlb.sync` (R48, R53): parks until the fibre's invalidations are complete; then the chiplets marked by its own `tlb.inv.all` read the
hash-group table again. The manual does not say whose `tlb.sync` makes them read it (assumption 36). -/
def execTlbSync (s : State) : Host.Outcome State Fault Refusal :=
  run s 1 do
    supervisor s 0
    if (s.chip :: s.chips).any fun c => c.inval.any fun v => v.by_ == s.fib.id then hold s .wait
    else
      let groups := s.readGroups
      .ok (s.allChips fun c =>
        if c.regroup.contains s.fib.id then { c with groups := groups, regroup := c.regroup.filter fun f => f != s.fib.id }
        else c)

/-- The result of `tlb.probe` for a leaf and physical address (R53). -/
def probeWord (leaf : Word) (pa : Nat) : Word :=
  (leaf &&& 0xFFF000000000FFFE#64) ||| BitVec.ofNat 64 (bits (BitVec.ofNat 64 pa) 16 36 * 2 ^ 16) ||| 1#64

/-- `tlb.probe` (R53): a miss waits for a walker as every other one (R50). -/
def execTlbProbe (d a b : BitVec 3) (s : State) : Host.Outcome State Fault Refusal :=
  run s 1 do
    supervisor s 0
    let asid ← readG s a
    let va ← readG s b
    if va.toNat ≥ 2 ^ 57 then writeG s d 0
    else if walkMissed s (walk s (bits asid 0 12) va.toNat) && s.walkersBusy then hold s .walker
    else match walk s (bits asid 0 12) va.toNat with
      | (.hole pa, t) => .error ⟨t, .fault (.noSuchAddress pa)⟩
      | (.fail sub, t) => writeG t d (BitVec.ofNat 64 (2 * sub))
      | (.leaf l pa, t) =>
        writeG t d (if isDram pa && (t.homeOf l pa).isNone then BitVec.ofNat 64 (2 * 5) else probeWord l pa)

/-- The shift of a walk level (R42); level 0 is the address-space table. -/
def levelShift (level : Nat) : Nat := (walkLevels.getD (level - 1) (35, 22)).1

/-- Whether an invalidation covers a cached entry (R53): for one VA, the entries on its path and those reached through them. -/
def Invalidation.covers (v : Invalidation) (e : TlbEntry) : Bool :=
  match v.kind with
  | 0 => e.asid == v.asid && (e.level == 0 || e.va * 2 ^ levelShift e.level / 2 ^ 35 == v.va.toNat / 2 ^ 35)
  | 1 => e.asid == v.asid
  | _ => true

/-- Whether an access under an ASID may have used an entry that an invalidation drops: every one used the entry of its ASID (R53). -/
def Invalidation.meets (v : Invalidation) (asid : Nat) : Bool := v.kind == 2 || v.asid == asid

/-- Every store of a chiplet's cores is performed (R54). -/
def State.performChip (s : State) (ch : Nat) : State :=
  (((s.core :: s.cores).filter fun c => chipNum c.num == ch).foldl State.drainCore s).settleOf fun p => p.src == ch

/-- Whether an access of a chiplet that used a dropped entry is still to be performed: a remote update, or a store behind a message
(R31, R54). -/
def State.invalWaits (s : State) (ch : Nat) (v : Invalidation) : Bool :=
  (s.dev.updates.any fun u => u.hop.src == netChip ch && v.meets u.asid) ||
    (s.dev.posted.any fun p => p.src == ch && s.dev.flight.any fun m => m.hop.before p.hop) ||
    ((s.core :: s.cores).any fun c => chipNum c.num == ch && c.wtb.any fun b => s.entryBehind c.num b)

/-- A full/empty load that waits at a word is withdrawn and executes again (R198). -/
def State.withdraw (s : State) (f : FibreId) : State :=
  (s.forgetWaits fun id => id == f).onFibre f fun x => { x with park := some .retry }

/-- The waiting loads of a chiplet that used a dropped entry translate again (R54, R198) (assumption 36). -/
def State.rewait (s : State) (ch : Nat) (v : Invalidation) : State :=
  ((s.dev.feWait.filter fun w => v.meets w.asid && (s.fibre? w.fib).any fun f => chipNum f.at_ == ch).map FeWait.fib).foldl State.withdraw s

/-- An armed receive takes its physical addresses from the tables again. -/
def Armed.again (a : Armed) (s : State) (l : Launch) (core : Nat) : Armed :=
  { a with pa := s.armedPa l core a.va.toNat, next := s.armedPa l core (a.va.toNat / 2 ^ 16 * 2 ^ 16 + 2 ^ 16) }

/-- The armed receives of a chiplet's skeins that used a dropped entry translate again (R54, R55) (assumption 36). -/
def State.rearm (s : State) (ch : Nat) (v : Invalidation) : State :=
  (s.allSkeins.filter fun k => k.resident && chipNum k.core == ch && !k.armed.isEmpty).foldl (fun s k =>
    match (s.launch? k.lid).filter fun l => v.meets l.asid with
    | none => s
    | some l => s.onSkein k.lid k.skn fun x => { x with armed := x.armed.map fun a => a.again s l k.core }) s

/-- INVALIDATION_COMPLETE (R54, R55): every access that used a dropped entry is performed, or translates again. -/
def execInvalidationComplete (ch k : Nat) (s : State) : Host.Outcome State Fault Refusal :=
  match (s.chipAt ch).inval[k]? with
  | none => .next s
  | some v =>
    if s.invalWaits ch v then .next s
    else
      .next ((((s.performChip ch).rewait ch v).rearm ch v).onChip ch fun c => { c with
        tlb := c.tlb.filter fun e => !v.covers e
        inval := dropAt c.inval k })

/-! ## Memory traffic -/

/-- WALKER_TAKES_MISS (R50): a walker takes the miss, and the access executes again. -/
def execWalkerTakesMiss (f : FibreId) (s : State) : Host.Outcome State Fault Refusal :=
  .next (s.onFibre f fun x => if x.park = some .walker then { x with park := some .retry, walker := true } else x)

/-- DATA_DELIVERED (R66). -/
def execDataDelivered (f : FibreId) (s : State) : Host.Outcome State Fault Refusal :=
  .next (s.delivered f)

/-- REMOTE_STORE_PERFORMED (R31, R65, R185): store `p` arrives behind every packet sent before it on its way, and behind an earlier
store of its fibre to the same bytes. -/
def execRemoteStorePerformed (p : Nat) (s : State) : Host.Outcome State Fault Refusal :=
  match s.dev.posted[p]? with
  | none => .next s
  | some e =>
    let first (q : Posted) : Bool := q.hop.along e.hop ||
      (q.fib == e.fib && q.seq != e.seq && decide (q.pa < e.pa + e.data.length) && decide (e.pa < q.pa + q.data.length))
    if (s.dev.posted.take p).any first || s.dev.flight.any fun m => m.hop.before e.hop then .next s
    else .next ((s.setDev fun d => { d with posted := dropAt d.posted p }).performPosted e)

/-- WRITE_THROUGH_DRAIN (R62): the stores of a core to one line leave in order, but for the parts of one instruction (R185), and arrive
behind what was sent before on their way (R31). -/
def execWriteThroughDrain (p k : Nat) (s : State) : Host.Outcome State Fault Refusal :=
  let core := coreNamed p
  let c := s.coreAt core
  match c.wtb[k]? with
  | none => .next s
  | some b =>
    let first (q : Buffered) : Bool := q.pa / 128 == b.pa / 128 &&
      (q.seq != b.seq || (decide (q.pa < b.pa + b.data.length) && decide (b.pa < q.pa + q.data.length)))
    if (c.wtb.take k).any first || s.entryBehind core b then .next s
    else
      let s := s.performDue fun p => p.hop.along (s.hopFrom (chipNum core) (s.entryHome b))
      .next (((s.performEntry b).onCore core fun x => { x with wtb := dropAt x.wtb k }).remarkCore core)

/-- PATROL_SCRUB (R437): the word meets its syndrome. -/
def execPatrolScrub (wd : Nat) (s : State) : Host.Outcome State Fault Refusal :=
  .next (if paOk (8 * wd) then s.detectWord wd else s)

/-! ## Losses -/

/-- Whether a word of DRAM lies on a channel of a memory chiplet (R56). -/
def onChannel (mc k w : Nat) : Bool := isDram (8 * w) && memChip (8 * w) == mc && channelOf (8 * w) == k

/-- CHANNEL_RETIRE (R57): the spare takes the number of the first channel that a memory chiplet loses, every word poisoned and
full; the range of a further one is absent. -/
def execChannelRetire (mc k : Nat) (s : State) : Host.Outcome State Fault Refusal :=
  if 64 ≤ mc ∨ 8 ≤ k ∨ s.dev.memLost.contains mc ∨ s.dev.absent.contains (mc, k) then .next s
  else
    let s :=
      if s.dev.spares.any fun e => e.1 == mc then s.setDev fun d => { d with absent := (mc, k) :: d.absent }
      else s.setDev fun d => { d with
        spares := (mc, k) :: d.spares
        mem := d.mem.filter fun e => !onChannel mc k (e.1 / 8)
        empt := d.empt.filter fun w => !onChannel mc k w
        pois := d.pois.filter fun w => !onChannel mc k w
        renewed := d.renewed.filter fun w => !onChannel mc k w
        ecc := d.ecc.filter fun e => !onChannel mc k e.1
        soft := d.soft.filter fun e => !onChannel mc k e.1
        cipher := d.cipher.filter fun e => !onChannel mc k (16 * e.1)
        below := d.below.filter fun b => !onChannel mc k (16 * b.line)
        slices := d.slices.filter fun e => !onChannel mc k (16 * e.1)
        msc := d.msc.filter fun m => !onChannel mc k (16 * m.line) }
    .next (s.wakeFull.logAt 0x07 0 0 k (256 + mc) 0xFFFF 0 (256 * mc + k))

/-- Every fibre that visits one of some cores, or is on its way there, goes home (R343). -/
def State.clearGuests (s : State) (gone : Nat → Bool) : State :=
  let there (f : Fibre) : Bool :=
    match f.travel with
    | none => f.guest && gone f.at_
    | some (.out c _) => gone c
    | some (.waiting c _) => gone c
    | _ => false
  (s.allFibres.filter there).foldl (fun s f => s.sendHome f.id) s

/-- MEMORY_CHIPLET_LOSS (R28, R57): its range, its cache and its channel cores are absent; guests there go home. -/
def execMemoryChipletLoss (mc : Nat) (s : State) : Host.Outcome State Fault Refusal :=
  if 64 ≤ mc ∨ s.dev.memLost.contains mc then .next s
  else
    let s := s.setDev fun d => { d with
      memLost := mc :: d.memLost, msc := d.msc.filter fun m => !(isDram (128 * m.line) && memChip (128 * m.line) == mc) }
    let s := s.clearGuests fun n => decide (1024 + 8 * mc ≤ n) && decide (n < 1032 + 8 * mc)
    .next ((List.range 8).foldl (fun s i => s.onCore (1024 + 8 * mc + i) fun c => { c with status := .dead }) s)

/-- The sites passed in one direction from `a` to `b`, both included. -/
def sitesBetween (a b : Nat) : List Nat :=
  if a ≤ b then (List.range (b - a + 1)).map fun i => a + i else (List.range (a - b + 1)).map fun i => a - i

/-- The sites of a path (R29): along x then y on Renoc X, along y then x on Renoc Y. -/
def meshPath (y : Bool) (a b : Nat × Nat) : List (Nat × Nat) :=
  if y then ((sitesBetween a.2 b.2).map fun v => (a.1, v)) ++ ((sitesBetween a.1 b.1).drop 1).map fun v => (v, b.2)
  else ((sitesBetween a.1 b.1).map fun v => (v, a.2)) ++ ((sitesBetween a.2 b.2).drop 1).map fun v => (b.1, v)

/-- Whether a path uses a failed element (R28, R32): the bond of a chiplet when `dst` is 256, its router when `dst` is the
chiplet itself, else the link towards a neighbour. -/
def usesElement (path : List (Nat × Nat)) (ch dst : Nat) : Bool :=
  if dst = 256 then path.head? == some (siteOf ch) || path.getLast? == some (siteOf ch)
  else if dst = ch then path.contains (siteOf ch)
  else (path.zip (path.drop 1)).contains (siteOf ch, siteOf dst)

/-- Whether a mesh carries traffic between two chiplets: no failed element and no fenced chiplet on the way (R28, R32). -/
def State.meshOk (s : State) (y : Bool) (src dst : Nat) : Bool :=
  let path := meshPath y (siteOf src) (siteOf dst)
  !(s.dev.bondLost.any fun e => e.1 == y && usesElement path e.2.1 e.2.2) &&
    !((s.chip :: s.chips).any fun c => decide (c.num < 256) && c.state == 6 && path.contains (siteOf c.num))

/-- The NETSEL entry that firmware writes towards a chiplet (R28, R35): the present mesh where it serves, else the other. -/
def State.netselFor (s : State) (src dst now : Nat) : Nat :=
  if src = dst then now
  else if now = 0 ∧ s.meshOk false src dst then 0
  else if now ≤ 1 ∧ s.meshOk true src dst then 1
  else if now ≤ 1 ∧ s.meshOk false src dst then 0
  else 3

/-- Firmware rewrites NETSEL of a chiplet (R34, R35); `fresh` at bring-up, when no entry stands yet. -/
def State.rewriteNetsel (s : State) (src : Nat) (fresh : Bool) : State :=
  let old := (s.chipAt src).netsel
  let word (j : Nat) : Word := wordOf ((List.range 32).map fun i =>
    (2 * i, 2, s.netselFor src (32 * j + i) (if fresh then 0 else bits (old.getD j 0) (2 * i) 2)))
  s.onChip src fun c => { c with netsel := Vector.ofFn fun j : Fin 8 => word j }

/-- Firmware rewrites NETSEL of every chiplet that is linked (assumption 37). -/
def State.rewriteAll (s : State) : State :=
  ((s.chip :: s.chips).filter fun c => decide (c.num < 256) && (c.state == 4 || c.state == 5)).foldl
    (fun s c => s.rewriteNetsel c.num false) s

/-- ROUTER_OR_BOND_LOSS (R28, R35): firmware leads traffic around the failed element; the remaining pairs read 0b11. -/
def execRouterOrBondLoss (mesh : Bool) (ch dst : Nat) (s : State) : Host.Outcome State Fault Refusal :=
  if 256 ≤ ch ∨ s.dev.bondLost.contains (mesh, ch, dst) then .next s
  else .next (s.setDev fun d => { d with bondLost := (mesh, ch, dst) :: d.bondLost }).rewriteAll

/-- EDGE_IO_CHIPLET_LOSS (R28). -/
def execEdgeIoChipletLoss (e : Nat) (s : State) : Host.Outcome State Fault Refusal :=
  .next (if e < 8 then s.setDev fun d => { d with edgeLost := setIns e d.edgeLost } else s)

/-- Clear a chiplet's bit from every hash group (R49). The whole order is one step, in which no launch issues, once no remote update is on
its way and no store is behind a message: every store is performed, every full/empty load that waits executes again, the slices of the
groups are written back and invalidated, the table is written, and every chiplet drops its translations and reads the table (R54)
(assumption 37). -/
def State.ungroup (s : State) (ch : Nat) : State :=
  let base := bits s.dev.hgbase 9 43 * 2 ^ 9
  let s := ((s.core :: s.cores).foldl State.drainCore s).settleOf fun _ => true
  let s := (s.dev.feWait.map FeWait.fib).foldl State.withdraw s
  let met := s.readGroups.toList.filter fun g => g.getLsbD ch
  let s := ((s.dev.slices.map Prod.snd).filter fun h => met.any fun g => g.getLsbD h).foldl State.emptySlice s
  let s := (List.range 16).foldl (fun s g =>
    let pa := base + 32 * g + ch / 8
    let b := ofBytes (s.homeBytes pa 1)
    if b.testBit (ch % 8) then s.setDev fun d => { d with mem := memWrite d.mem pa (BitVec.ofNat 8 (b - 2 ^ (ch % 8))) } else s) s
  let groups := s.readGroups
  s.allChips fun c => { c with tlb := [], groups := groups }

/-- The dirty lines of a lost slice that had not been written back are lost (R49), and counted in the error log (assumption 37). -/
def State.loseSlice (s : State) (ch : Nat) : State :=
  let lost := s.dev.below.filter fun b => b.home == ch
  let s := lost.foldl State.dropLine s
  let s := s.emptySlice ch
  if lost.isEmpty then s else s.logAt 0x08 0 0 10 ch 0xFFFF 0 lost.length

/-- The number of a core of a lost chiplet is rebound or made vacant, and a spare is no candidate any more (R24, R26, R28). -/
def State.rebindLost (s : State) (core : Nat) : State :=
  if s.dev.cmapbase = 0 then s
  else
    match s.numberOf core with
    | some n => let r := s.rebind n; r.1.moveOn core r.2
    | none => (s.useCand (posOfCore core) none).moveOn core none

/-- The four cores of a compute chiplet. -/
def coresOf (ch : Nat) : List Nat := (List.range 4).map fun i => 4 * ch + i

/-- Whether an address has its home on a compute chiplet: in its window, or in its slice. -/
def State.homedAt (s : State) (ch key pa : Nat) : Bool :=
  if isPad pa then padChip pa == ch else !key.testBit 12 && s.sliceOf key (pa / 128) == ch

/-- What is on its way to a lost chiplet goes with it: stores to its window and packets at its routers are dropped, updates that were to
execute there are lost, and loads that wait at a word there execute again (R28, R198, R358) (assumption 37). -/
def State.dropTraffic (s : State) (ch : Nat) : State :=
  let s := s.setDev fun d => { d with
    posted := d.posted.filter fun p => padChip p.pa != ch
    packets := d.packets.filter fun p => p.chip != ch }
  let s := ((s.dev.feWait.filter fun w => s.homedAt ch w.key w.pa).map FeWait.fib).foldl State.withdraw s
  let there (u : Update) : Bool := decide (u.core < 1024) && u.core / 4 == ch
  (s.dev.updates.filter there).foldl State.updateLost (s.setDev fun d => { d with updates := d.updates.filter fun u => !there u })

/-- A compute chiplet enters FENCED (R28, R49, R459), and its cores are fenced. Launches with a skein on it end as core lost, since its
scratchpad and units are absent. Its numbers are rebound, and hash groups changed, once it has drained (R26) (assumption 37). -/
def State.loseChip (s : State) (ch : Nat) : State :=
  if 256 ≤ ch ∨ (s.chipAt ch).state = 6 then s
  else
    let live : Bool := (s.chipAt ch).state == 5
    let bound := ((coresOf ch).filter fun c => (s.numberOf c).isSome).length
    let ended := ((s.allSkeins.filter fun k => k.resident && k.core / 4 == ch).map Skein.lid).eraseDups
    let s := ended.foldl (fun s lid => s.endLaunch lid 4 0x17) s
    let s := ((s.clearGuests fun n => n / 4 == ch).loseSlice ch).dropTraffic ch
    let s := (coresOf ch).foldl (fun s c => s.onCore c fun x => { x with status := .fenced, wtb := [], l1 := [], inbound := [] }) s
    let s := s.onChip ch fun c => { Chip.zero ch with state := 6, netsel := c.netsel, skew := c.skew, floor := c.floor, lead := c.lead }
    let s := s.setDev fun d => { d with
      recover := d.recover.filter fun e => e.core / 4 != ch
      losing := d.losing ++ [(ch, s.ctr + 1)] }
    let s := s.rewriteAll
    if live then s.logAt 0x12 0 0 0 ch 0xFFFF 0 bound else s

/-- The loss of a chiplet is dealt with once what it sent has arrived (R26), no remote update is on its way and no store behind a message
(R49, R54): its numbers are rebound, and it leaves the hash groups (assumption 37). -/
def State.endLoss (s : State) (ch : Nat) : State :=
  match s.dev.losing.find? fun e => e.1 == ch with
  | none => s
  | some e =>
    if s.undelivered ch e.2 || !s.dev.updates.isEmpty || s.behindAny then s
    else
      let s := (coresOf ch).foldl State.rebindLost (s.setDev fun d => { d with losing := d.losing.filter fun e => e.1 != ch })
      if s.dev.hgbase = 0 then s else s.ungroup ch

/-- CHIPLET_LOSS (R28): the chiplet is lost, or the loss of one that has drained is dealt with (assumption 37). -/
def execChipletLoss (ch : Nat) (s : State) : Host.Outcome State Fault Refusal := .next ((s.loseChip ch).endLoss ch)

end Sys2Proof.Machine
end

