-- ==== Sys2Proof/Machine/BringUp.lean ====
section
/-! DEFINITION. Power-on and the bring-up wavefront (R458), frequency and time base (R454 to R457), RDMA (R382, R460 to R462)
and firmware's security functions (R463). -/

namespace Sys2Proof.Machine

/-! ## Frequency and time base -/

/-- FREQ_STEP_CHANGE (R454): the last counters have reached TF. No tick passes beyond it before, and a chiplet whose counter was there
earlier keeps the clocks that it has gained (assumption 31). -/
def execFreqStepChange (s : State) : Host.Outcome State Fault Refusal :=
  match s.dev.stepAt with
  | none => .next s
  | some t =>
    .next (if t ≤ s.dev.ticks then
      (s.allChips fun c => { c with lead := c.lead + s.leadNow c.num }).setDev fun d => { d with step := d.stepTarget, stepAt := none }
    else s)

/-- Whether a packet has just crossed to or from a chiplet, and has yet to meet its router. -/
def Packet.crossing (p : Packet) (ch : Nat) : Bool :=
  decide (p.port < 4) && (p.chip == ch || (linkTo p.chip p.port).any fun e => e.1 == ch)

/-- A packet that a stretch makes late for its slot moves to the same slot of a later frame, which is logged (R403, R455). -/
def State.makeLate (s : State) (ch : Nat) (e : Packet × Nat) : State :=
  if e.1.crossing ch && Config.stretchLate s.ctr e.2 then
    (s.setDev fun d => { d with packets := d.packets.set e.2 { e.1 with ready := e.1.ready + 4096 * e.1.slotLen } }).logRouter e.1
  else s

/-- CLOCK_STRETCH (R455): never twice within 16 consecutive periods. `stretched` is one more than the clock count at the last stretch.
Nothing changes but that packets at a crossing may become late for their slots (R403) (assumption 45). -/
def execClockStretch (ch : Nat) (s : State) : Host.Outcome State Fault Refusal :=
  let c := s.chipAt ch
  if c.stretched ≠ 0 ∧ !s.clocksSince ch (c.stretched - 1) 16 then .next s
  else .next (s.dev.packets.zipIdx.foldl (fun s e => s.makeLate ch e) (s.onChip ch fun c => { c with stretched := s.clkAt ch + 1 }))

/-- Ticks between two synchronising pulses (R456). -/
abbrev pulsePeriod : Nat := 2 ^ 20

/-- SYNC_PULSE (R456, R457): the first starts the count of ticks. Each later one comes when it is due: every counter that runs advances to
the pulse's value plus the chiplet's depth, or holds, and none decreases; two counters differ by at most 2 ticks (assumption 38). -/
def execSyncPulse (s : State) : Host.Outcome State Fault Refusal :=
  match s.dev.pulse with
  | none => .next (s.setDev fun d => { d with pulse := some (d.ticks + pulsePeriod) })
  | some t =>
    if s.dev.ticks < t then .next s
    else
      .next ((s.allChips fun c =>
        if c.state = 0 then c else { c with floor := max c.floor (s.dev.ticks + c.skew), skew := Config.skew s.ctr c.num % 3 }).setDev
          fun d => { d with pulse := some (t + pulsePeriod) })

/-! ## Power-on -/

/-- The channel cores of the memory chiplets that are lost, which stay dead (R28). -/
def State.deadCores (s : State) : List Core :=
  s.dev.memLost.flatMap fun m => (List.range 8).map fun i => { Core.zero (1024 + 8 * m + i) with status := .dead }

/-- POWER_ON (R458): every chiplet is OFF, every register at reset; what is lost or replaced in hardware stays so. -/
def execPowerOn (s : State) : Host.Outcome State Fault Refusal :=
  .next { s with
    turn := .device
    fib := Fibre.zero
    fibres := []
    skein := Skein.zero
    skeins := []
    core := Core.zero 0
    cores := s.deadCores
    chip := Chip.zero 0
    chips := []
    dev := { Device.zero with
      powered := true
      absent := s.dev.absent
      spares := s.dev.spares
      memLost := s.dev.memLost
      edgeLost := s.dev.edgeLost
      bondLost := s.dev.bondLost
      grade := s.dev.grade } }

/-! ## Bring-up -/

/-- The rim sites that edge I/O chiplets 0 to 7 attach to (R20). -/
def attachSites : List (Nat × Nat) := [(4, 0), (11, 0), (15, 4), (15, 11), (11, 15), (4, 15), (0, 11), (0, 4)]

/-- Mesh distance of two sites. -/
def siteDistance (a b : Nat × Nat) : Nat := (a.1 - b.1) + (b.1 - a.1) + ((a.2 - b.2) + (b.2 - a.2))

/-- Mesh distance of a chiplet from the nearest edge I/O chiplet that is present (R458); none without one. -/
def State.rimDistance (s : State) (ch : Nat) : Option Nat :=
  (((List.range 8).filter fun e => !s.dev.edgeLost.contains e).map fun e => siteDistance (siteOf ch) (attachSites.getD e (0, 0))).min?

/-- Whether every neighbouring site nearer the edge has entered a state, or FENCED (R458). -/
def State.rimReady (s : State) (ch next : Nat) : Bool :=
  match s.rimDistance ch with
  | none => false
  | some d => [0, 1, 2, 3].all fun o =>
    match linkTo ch o with
    | none => true
    | some (n, _) => match s.rimDistance n with
      | none => true
      | some e => decide (d ≤ e) || decide (next ≤ (s.chipAt n).state)

/-- The position that final test recorded for an exposed number (R21, assumption 4). -/
def shippedPos (n : Nat) : Nat := posOfIndex (Config.shippedIndex n)

/-- Whether two positions stand within three pitches in x and in y (R24). -/
def nearPos (a b : Nat) : Bool :=
  decide (a % 32 ≤ b % 32 + 3) && decide (b % 32 ≤ a % 32 + 3) && decide (a / 32 ≤ b / 32 + 3) && decide (b / 32 ≤ a / 32 + 3)

/-- The core map entry of a number at shipment (R24): up to four spares near the position (assumption 4). -/
def shippedEntry (exposed n : Nat) : Word :=
  if exposed ≤ n then wordOf [(62, 2, 3)]
  else
    let pos := shippedPos n
    let cands := ((((List.range 64).map fun j => posOfIndex (16 * j + 15)).filter fun p => nearPos pos p)).take 4
    wordOf ([(0, 10, pos), (52, 4, 2 ^ cands.length - 1)] ++ cands.zipIdx.map fun e => (12 + 10 * e.2, 10, e.1))

/-- The memory chiplets that are present complete their DRAM set-up: every full/empty bit is full, and the key slots are loaded (R458,
R463) (assumptions 3 and 39). -/
def State.setUpDram (s : State) : State :=
  s.setDev fun d => { d with
    empt := d.empt.filter fun w => !isDram (8 * w)
    dramSet := (List.range 64).filter fun m => !d.memLost.contains m }

/-- Firmware gives the Ethernet ports their addresses and the queue pairs their contexts, 4096 at most, each with a path MTU that is
supported (R460) (assumption 40). -/
def State.setUpPorts (s : State) : State :=
  s.setDev fun d => { d with
    ports := (List.range 16).map fun i => { mac := (Config.portAddress i).1, ip4 := (Config.portAddress i).2.1, ip6 := (Config.portAddress i).2.2 }
    qps := ((Config.queuePairs.filter fun q => q.2 == 1024 || q.2 == 2048 || q.2 == 4096).take 4096).map fun q => { num := q.1, mtu := q.2 } }

/-- Firmware sets up DRAM and ports, and writes its registers and the core map (R24, R458, R460); cores of chiplets fenced by then are
replaced (assumption 39). -/
def State.firmwareTables (s : State) : State :=
  if s.dev.cmapbase ≠ 0 then s
  else
    let s := s.setUpDram.setUpPorts.setDev fun d => { d with
      cmapbase := BitVec.ofNat 64 Config.cmapBase, astabbase := BitVec.ofNat 64 Config.astabBase
      hgbase := BitVec.ofNat 64 Config.hgBase, elbase := BitVec.ofNat 64 Config.elBase }
    let s := (List.range 1024).foldl (fun s n => s.putMap n (shippedEntry s.exposed n)) s
    let fenced := ((s.chip :: s.chips).filter fun c => decide (c.num < 256) && c.state == 6).map Chip.num
    let cores := fenced.flatMap fun ch => (List.range 4).map fun i => 4 * ch + i
    let s := cores.foldl (fun s c => s.useCand (posOfCore c) none) s
    (List.range s.exposed).foldl (fun s n => if (s.boundCore n).any fun c => cores.contains c then (s.rebind n).1 else s) s

/-- NUMBERED (R18, R24, R25, R458): LCID of the cores from the core map. A shipped binding took effect at EPOCH 0, and a spare that is
bound already shows that binding (assumption 39). -/
def State.numberCores (s : State) (ch : Nat) : State :=
  (coresOf ch).foldl (fun s core =>
    match s.numberOf core with
    | some n => s.onCore core fun c => { c with
        status := .exposed, lcid := if mapState (s.mapEntry n) = 1 then c.lcid else lcidOf core 0 false n }
    | none => s.onCore core fun c => { c with status := .spare, lcid := lcidOf core 0 true 0x3FF }) s

/-- SELFTEST (R67, R217, R293, R458): scratchpad words zero and full, plane and strip at their values, sets at reset (assumption 39). -/
def State.selfTest (s : State) (ch : Nat) : State :=
  let here (pa : Nat) : Bool := isPad pa && padChip pa == ch
  (s.setDev fun d => { d with
    mem := d.mem.filter fun e => !here e.1
    empt := d.empt.filter fun w => !here (8 * w)
    pois := d.pois.filter fun w => !here (8 * w)
    ecc := d.ecc.filter fun e => !here (8 * e.1)
    soft := d.soft.filter fun e => !here (8 * e.1) }).onChip ch fun c => { c with
      plane := [], planeBad := [], strip := [], stripBad := [], xacc := [] }

/-- LINKED (R34, R429, R458): NETSEL is written in full, and TVEC on every core. -/
def State.linkUp (s : State) (ch : Nat) : State :=
  let s := s.rewriteNetsel ch true
  let cores := (List.range 4).map (fun i => 4 * ch + i) ++ [1024 + 2 * ch, 1025 + 2 * ch]
  cores.foldl (fun s n => s.onCore n fun c => { c with tvec := BitVec.ofNat 64 Config.tvec }) s

/-- What is completed on entry to a bring-up state (R458). -/
def State.entering (s : State) (ch next : Nat) : State :=
  match next with
  | 1 => s.onChip ch fun c => { c with skew := Config.skew s.ctr ch % 3, floor := Config.depth ch }
  | 2 => s.firmwareTables.numberCores ch
  | 3 => s.selfTest ch
  | 4 => s.linkUp ch
  | _ => s.onChip ch fun c => { c with groups := s.readGroups }

/-- What a bring-up state waits for besides its neighbours (R456, R458): CLOCKED for the first pulse, which reaches the chiplet its depth
in ticks later; LINKED for the DRAM set-up of the memory chiplet that serves it. -/
def State.setUpFor (s : State) (ch next : Nat) : Bool :=
  match next with
  | 1 => s.dev.pulse.isSome && decide (Config.depth ch ≤ s.dev.ticks)
  | 4 => s.dev.dramSet.contains (ch / 4) || s.dev.memLost.contains (ch / 4)
  | _ => true

/-- BRINGUP_ADVANCE (R458). -/
def execBringupAdvance (ch : Nat) (s : State) : Host.Outcome State Fault Refusal :=
  let st := (s.chipAt ch).state
  if !s.dev.powered || decide (256 ≤ ch) || decide (5 ≤ st) || !s.rimReady ch (st + 1) || !s.setUpFor ch (st + 1) then .next s
  else .next ((s.entering ch (st + 1)).onChip ch fun c => { c with state := st + 1 })

/-! ## RDMA -/

/-- Append an answer to the host (assumption 41). -/
def State.answer (s : State) (a : RdmaAnswer) : State := s.setDev fun d => { d with answers := d.answers ++ [a] }

/-- The compute chiplet at the attach site of an edge I/O chiplet, from and to which its traffic is routed (R20). -/
def attachChip (e : Nat) : Nat := let a := attachSites.getD e (0, 0); chipAtSite a.1 a.2

/-- Whether the meshes carry traffic both ways between an edge I/O chiplet and a place (R20, R28, R35). -/
def State.edgeReaches (s : State) (e place : Nat) : Bool :=
  let a := attachChip e
  netChip place == a || (s.netselFrom a (netChip place) != 3 && s.netselFrom (netChip place) a != 3)

/-- The edge I/O chiplet that carries an access to some places: the lowest that is present, stands at a chiplet that is not fenced, and
reaches them all (R20, R28) (assumption 12). -/
def State.edgeFor (s : State) (places : List Nat) : Option Nat :=
  (List.range 8).find? fun e => !s.dev.edgeLost.contains e && (s.chipAt (attachChip e)).state != 6 && places.all fun p => s.edgeReaches e p

/-- Whether firmware set up a queue pair (R460). -/
def State.queuePair (s : State) (qp : Nat) : Bool := s.dev.qps.any fun q => q.num == qp

/-- A registration entry (R462) (assumption 40). -/
def State.registration (s : State) (rkey : Nat) : List Byte := s.homeBytes (bits s.dev.rktbase 17 35 * 2 ^ 17 + 32 * (rkey % 4096)) 32

/-- Whether a registration entry is valid (R462) (assumption 40). -/
def entryValid (b : List Byte) : Bool :=
  (field b 18 1).testBit 0 && field b 8 8 != 0 && decide (field b 16 2 < 4096) && decide (field b 18 1 < 16) &&
    field b 19 1 == 0 && decide (field b 20 4 < 2 ^ 20) && field b 24 8 == 0

/-- The refusal reason of an access (R441, R462), if any (assumption 40). -/
def State.rdmaRefusal (s : State) (rkey va n : Nat) (store : Bool) : Option Nat :=
  let b := s.registration rkey
  if !entryValid b then some 0
  else if rkey / 4096 ≠ field b 20 4 then some 1
  else if !(field b 18 1).testBit (if store then 2 else 1) then some 2
  else if va < field b 0 8 ∨ field b 0 8 + field b 8 8 < va + n then some 3
  else if !(store && (field b 18 1).testBit 3) && (spansOf va n).any fun p => (s.agentLeaf (field b 16 2) p.1).isNone then some 4
  else none

/-- Refuse an access that came through edge I/O chiplet `e`: NAK remote access error, and a record (R462). -/
def State.rdmaRefuse (s : State) (e qp rkey reason : Nat) : State :=
  (s.logAt 0x11 0 0 0 (512 + e) 0xFFFF rkey (qp % 2 ^ 24 + reason * 2 ^ 32)).answer (.nakAccess qp)

/-- The parts of a range within aligned 64-byte blocks (R382). -/
def blockSpans : Nat → Nat → Nat → List (Nat × Nat)
  | 0, _, _ => []
  | fuel + 1, va, n =>
    if n = 0 then [] else
    let m := min n (64 - va % 64)
    (va, m) :: blockSpans fuel (va + m) (n - m)

/-- Write one block at the homes of its bytes (R382, R461): a whole TAIL word of an enabled queue becomes full when the access
is that word. -/
def State.rdmaBlock (s : State) (asid va : Nat) (bs : List Byte) (whole : Bool) : State :=
  match s.agentLeaf asid va with
  | none => s
  | some (l, pa) =>
    let s := s.perform (keyArg l) pa bs
    let tail : Bool := whole && bs.length == 8 && pa % 8 == 0 && s.dev.queues.toList.any fun q => q.en && q.pa + 24 == pa
    if tail then s.makeFull (pa / 8) else s

/-- The homes of a range of bytes under an ASID (R382), block by block. -/
def State.rdmaHomes (s : State) (asid va n : Nat) : List Nat :=
  (blockSpans (n + 1) va n).filterMap fun p => (s.agentLeaf asid p.1).bind fun e => s.homeOf e.1 e.2

/-- An access arrives through an edge I/O chiplet (R20, R462): refused, or performed where one reaches every home of its bytes; without
such a chiplet, or on a queue pair that firmware did not set up, it never arrives (R460). -/
def State.rdmaArrive (s : State) (qp rkey va n : Nat) (store : Bool) (go : State) : State :=
  match (if s.queuePair qp then s.edgeFor [] else none) with
  | none => s
  | some e =>
    match s.rdmaRefusal rkey va n store with
    | some r => s.rdmaRefuse e qp rkey r
    | none =>
      let b := s.registration rkey
      let homes := if store && (field b 18 1).testBit 3 then [] else s.rdmaHomes (field b 16 2) va n
      if (s.edgeFor homes).isSome then go else s

/-- RDMA_WRITE (R382, R461, R462): a write into a hallmark request region stores nothing and requests a capture. -/
def execRdmaWrite (qp : Nat) (rkey : BitVec 32) (va : Word) (data : List Byte) (s : State) : Host.Outcome State Fault Refusal :=
  let b := s.registration rkey.toNat
  .next (s.rdmaArrive qp rkey.toNat va.toNat data.length true (
      if (field b 18 1).testBit 3 then (s.trigger 2).answer (.ack qp)
      else
        let t := (blockSpans (data.length + 1) va.toNat data.length).foldl (fun s p =>
          s.rdmaBlock (field b 16 2) p.1 (slice data (p.1 - va.toNat) p.2) (data.length == 8)) s
        t.answer (.ack qp)))

/-- A byte that an RDMA read returns; where it is poisoned the manual states no value. -/
def State.rdmaByte (s : State) (asid va : Nat) : Byte :=
  match s.agentLeaf asid va with
  | none => 0
  | some (l, pa) =>
    if s.poisonedWord (pa / 8) then Config.staleByte s.ctr va else s.viewByte (s.key (leafKey l)) pa

/-- RDMA_READ (R382, R462). -/
def execRdmaRead (qp : Nat) (rkey : BitVec 32) (va : Word) (len : Nat) (s : State) : Host.Outcome State Fault Refusal :=
  .next (s.rdmaArrive qp rkey.toNat va.toNat len false (
      let asid := field (s.registration rkey.toNat) 16 2
      let t := s.agentDetect asid va.toNat len
      t.answer (.data qp ((List.range len).map fun i => t.rdmaByte asid (va.toNat + i)))))

/-- RDMA_INVALID_OPCODE (R460). -/
def execRdmaInvalidOpcode (qp _op : Nat) (s : State) : Host.Outcome State Fault Refusal :=
  .next (if s.queuePair qp && (s.edgeFor []).isSome then s.answer (.nakInvalid qp) else s)

/-! ## Security -/

/-- The bytes of a report that its signature covers (R463) (assumption 41). -/
def Report.body (r : Report) : List Byte :=
  r.part ++ bytesOf 1 r.grade ++ r.serial ++ r.firmware.flatMap (fun h => bytesOf 64 h.toNat) ++ bytesOf 64 r.map.toNat ++
    bytesOf 8 r.epoch.toNat ++ r.nonce

/-- The report for a nonce (R463), signed by the identity key (assumption 41). -/
def State.report (s : State) (nonce : List Byte) : Report :=
  let r : Report := { part := Config.partNumber, grade := s.dev.grade, serial := Config.serialNumber, firmware := Config.firmwareDigests
                      map := Config.mapDigest (s.homeBytes (s.mapAt 0) 8192), epoch := s.dev.cmapepoch, nonce := nonce, signature := [] }
  { r with signature := Config.signature r.body }

/-- ATTESTATION_REQUEST (R463): a nonce of up to 64 bytes is answered by a signed report. -/
def execAttestationRequest (nonce : List Byte) (s : State) : Host.Outcome State Fault Refusal :=
  .next (if 64 < nonce.length then s else s.setDev fun d => { d with reports := d.reports ++ [s.report nonce] })

/-- KEY_SLOT_LOAD (R68, R463): firmware loads a slot once the supervisor has completed the steps of R69 for it, which it takes anew for the
next load (assumption 41). -/
def execKeySlotLoad (slot : Nat) (key : BitVec 512) (s : State) : Host.Outcome State Fault Refusal :=
  .next (if slot < 4096 && s.dev.purge.complete.contains slot then
    s.setDev fun d => { d with
      keys := assocPut slot key d.keys
      purge := { slices := [], keys := [], complete := d.purge.complete.filter fun k => k != slot } }
  else s)

end Sys2Proof.Machine
end

