-- ==== Sys2Proof/Machine/Control.lean ====
section
/-! DEFINITION. Branches, jumps and the opening of a repeat frame: majors 0x10 to 0x13 (R248 to R258). -/

namespace Sys2Proof.Machine

/-- The byte offset of a word offset (R153). -/
def wordOffset {n : Nat} (o : BitVec n) : Word := o.signExtend 64 <<< 2

/-- Transfer control to a target with bits 1:0 cleared (R250, R251): one with a bit in 63:57 raises the translation fault and nothing
else happens. -/
def jump (s : State) (target : Word) (t : State) : Ex State :=
  let pc := target &&& 0xFFFFFFFFFFFFFFFC#64
  if pc.toNat ≥ 2 ^ 57 then trap s 0x04 0 pc else .ok (retireTo t pc)

/-- A conditional branch whose condition is known (R248, R251): not taken, it is an instruction that transfers no control. -/
def branchIf (s : State) (c : Ex Bool) (o : BitVec 15) : Host.Outcome State Fault Refusal :=
  match c with
  | .error h => stopped h
  | .ok true => conclude (jump s (s.fib.pc + wordOffset o) s)
  | .ok false => run s 1 (.ok s)

/-- A condition on two registers. -/
def cond2 (s : State) (a b : GReg) (f : Word → Word → Bool) : Ex Bool := do
  let x ← readG s a
  let y ← readG s b
  .ok (f x y)

/-- A condition on one register. -/
def cond1 (s : State) (a : GReg) (f : Word → Bool) : Ex Bool := do
  let x ← readG s a
  .ok (f x)

/-- `b.eq` (R159, R248). -/
def execBEq (a b : GReg) (o : BitVec 15) (s : State) : Host.Outcome State Fault Refusal :=
  branchIf s (cond2 s a b fun x y => x == y) o
/-- `b.ne` (R159, R248). -/
def execBNe (a b : GReg) (o : BitVec 15) (s : State) : Host.Outcome State Fault Refusal :=
  branchIf s (cond2 s a b fun x y => x != y) o
/-- `b.lt` (R159, R248). -/
def execBLt (a b : GReg) (o : BitVec 15) (s : State) : Host.Outcome State Fault Refusal :=
  branchIf s (cond2 s a b fun x y => x.slt y) o
/-- `b.ge` (R159, R248). -/
def execBGe (a b : GReg) (o : BitVec 15) (s : State) : Host.Outcome State Fault Refusal :=
  branchIf s (cond2 s a b fun x y => !x.slt y) o
/-- `b.ltu` (R159, R248). -/
def execBLtu (a b : GReg) (o : BitVec 15) (s : State) : Host.Outcome State Fault Refusal :=
  branchIf s (cond2 s a b fun x y => x.ult y) o
/-- `b.geu` (R159, R248). -/
def execBGeu (a b : GReg) (o : BitVec 15) (s : State) : Host.Outcome State Fault Refusal :=
  branchIf s (cond2 s a b fun x y => !x.ult y) o
/-- `b.z` (R159, R248). -/
def execBZ (a : GReg) (o : BitVec 15) (s : State) : Host.Outcome State Fault Refusal :=
  branchIf s (cond1 s a fun x => x == 0) o
/-- `b.nz` (R159, R248). -/
def execBNz (a : GReg) (o : BitVec 15) (s : State) : Host.Outcome State Fault Refusal :=
  branchIf s (cond1 s a fun x => x != 0) o

/-- `jal` (R249): the link is written only when the target is valid (R251). -/
def execJal (l : GReg) (o : BitVec 22) (s : State) : Host.Outcome State Fault Refusal :=
  conclude do
    destG s l
    jump s (s.fib.pc + wordOffset o) (setG s l (s.fib.pc + 4))

/-- `jr` (R250). -/
def execJr (a : GReg) (s : State) : Host.Outcome State Fault Refusal :=
  conclude do
    let t ← readG s a
    jump s t s

/-- `jalr` (R250): the target is read before the link is written. -/
def execJalr (d a : GReg) (s : State) : Host.Outcome State Fault Refusal :=
  conclude do
    let t ← readG s a
    destG s d
    jump s t (setG s d (s.fib.pc + 4))

/-- `ret` (R250). -/
def execRet (a : GReg) (s : State) : Host.Outcome State Fault Refusal :=
  conclude do
    let t ← readG s a
    jump s t s

/-- The word of an `rpt` (R154). -/
def rptWord (k : BitVec 4) (n : BitVec 8) (d a b c : BitVec 3) : BitVec 32 :=
  0x13#7 ++ k ++ n ++ d ++ a ++ b ++ c ++ 0#1

/-- `rpt` (R253): opens a frame in its capture pass; reads no register. -/
def execRpt (k : BitVec 4) (n : BitVec 8) (d a b c : BitVec 3) (s : State) : Host.Outcome State Fault Refusal :=
  if endsSpace s 1 then stopped ⟨s, .trap 0x04 0 (BitVec.ofNat 64 (2 ^ 57)) false⟩
  else
    let t := retireTo s (s.fib.pc + 4)
    .next (t.setFib fun f =>
      ({ f with rpt := { act := true, aside := false, iter := 0, pos := 0, word := rptWord k n d a b c, start := s.fib.pc, words := [] }
        : Fibre }).touch Dirty.rpt)

end Sys2Proof.Machine
end

