-- ==== Sys2Proof/Machine/Integer.lean ====
section
/-! DEFINITION. Integer, address and bit-field instructions: majors 0x01 to 0x09 (R239 to R247). -/

namespace Sys2Proof.Machine

/-- A truth value as a register value. -/
def truth (c : Bool) : Word := if c then 1 else 0

/-- The amount of a shift (R241): aux[5:0] with aux[6] set, else bits 5:0 of gb. -/
def shiftAmount (s : State) (b : GReg) (x : BitVec 8) : Ex Nat :=
  if bit x 6 then .ok (bits x 0 6) else do
    let y ← readG s b
    .ok (bits y 0 6)

/-- A shift of ga (R241). -/
def shiftG (s : State) (d a b : GReg) (x : BitVec 8) (f : Word → Nat → Word) : Ex State := do
  let v ← readG s a
  let n ← shiftAmount s b x
  writeG s d (f v n)

/-- `add` (R240). -/
def execAdd (d a b : GReg) (s : State) : Host.Outcome State Fault Refusal := run s 1 (binaryG s d a b fun x y => x + y)
/-- `sub` (R240). -/
def execSub (d a b : GReg) (s : State) : Host.Outcome State Fault Refusal := run s 1 (binaryG s d a b fun x y => x - y)
/-- `and` (R240). -/
def execAnd (d a b : GReg) (s : State) : Host.Outcome State Fault Refusal := run s 1 (binaryG s d a b fun x y => x &&& y)
/-- `or` (R240). -/
def execOr (d a b : GReg) (s : State) : Host.Outcome State Fault Refusal := run s 1 (binaryG s d a b fun x y => x ||| y)
/-- `xor` (R240). -/
def execXor (d a b : GReg) (s : State) : Host.Outcome State Fault Refusal := run s 1 (binaryG s d a b fun x y => x ^^^ y)
/-- `andn` (R240). -/
def execAndn (d a b : GReg) (s : State) : Host.Outcome State Fault Refusal :=
  run s 1 (binaryG s d a b fun x y => x &&& ~~~y)
/-- `sll` (R240, R241). -/
def execSll (d a b : GReg) (x : BitVec 8) (s : State) : Host.Outcome State Fault Refusal :=
  run s 1 (shiftG s d a b x fun v n => v <<< n)
/-- `srl` (R240, R241). -/
def execSrl (d a b : GReg) (x : BitVec 8) (s : State) : Host.Outcome State Fault Refusal :=
  run s 1 (shiftG s d a b x fun v n => v >>> n)
/-- `sra` (R240, R241). -/
def execSra (d a b : GReg) (x : BitVec 8) (s : State) : Host.Outcome State Fault Refusal :=
  run s 1 (shiftG s d a b x fun v n => v.sshiftRight n)
/-- `slt` (R240). -/
def execSlt (d a b : GReg) (s : State) : Host.Outcome State Fault Refusal :=
  run s 1 (binaryG s d a b fun x y => truth (x.slt y))
/-- `sltu` (R240). -/
def execSltu (d a b : GReg) (s : State) : Host.Outcome State Fault Refusal :=
  run s 1 (binaryG s d a b fun x y => truth (x.ult y))
/-- `min` (R240). -/
def execMin (d a b : GReg) (s : State) : Host.Outcome State Fault Refusal :=
  run s 1 (binaryG s d a b fun x y => if x.slt y then x else y)
/-- `max` (R240). -/
def execMax (d a b : GReg) (s : State) : Host.Outcome State Fault Refusal :=
  run s 1 (binaryG s d a b fun x y => if x.slt y then y else x)
/-- `minu` (R240). -/
def execMinu (d a b : GReg) (s : State) : Host.Outcome State Fault Refusal :=
  run s 1 (binaryG s d a b fun x y => if x.ult y then x else y)
/-- `maxu` (R240). -/
def execMaxu (d a b : GReg) (s : State) : Host.Outcome State Fault Refusal :=
  run s 1 (binaryG s d a b fun x y => if x.ult y then y else x)
/-- `mov` (R240). -/
def execMov (d a : GReg) (s : State) : Host.Outcome State Fault Refusal := run s 1 (unaryG s d a fun x => x)

/-- `addi` (R242). -/
def execAddi (d a : GReg) (i : BitVec 19) (s : State) : Host.Outcome State Fault Refusal :=
  run s 1 (unaryG s d a fun x => x + i.signExtend 64)
/-- `andi` (R242). -/
def execAndi (d a : GReg) (i : BitVec 19) (s : State) : Host.Outcome State Fault Refusal :=
  run s 1 (unaryG s d a fun x => x &&& i.signExtend 64)
/-- `ori` (R242). -/
def execOri (d a : GReg) (i : BitVec 19) (s : State) : Host.Outcome State Fault Refusal :=
  run s 1 (unaryG s d a fun x => x ||| i.signExtend 64)
/-- `xori` (R242). -/
def execXori (d a : GReg) (i : BitVec 19) (s : State) : Host.Outcome State Fault Refusal :=
  run s 1 (unaryG s d a fun x => x ^^^ i.signExtend 64)
/-- `ldi` (R242). -/
def execLdi (d : GReg) (i : BitVec 19) (s : State) : Host.Outcome State Fault Refusal :=
  run s 1 (writeG s d (i.signExtend 64))
/-- `ldi.cat` (R243). -/
def execLdiCat (d : GReg) (i : BitVec 19) (s : State) : Host.Outcome State Fault Refusal :=
  run s 1 (unaryG s d d fun x => (x <<< 19) ||| i.setWidth 64)

/-- `lea` (R244). -/
def execLea (d a b : GReg) (k : BitVec 2) (s : State) : Host.Outcome State Fault Refusal :=
  run s 1 (binaryG s d a b fun x y => x + (y <<< k.toNat))
/-- `lea.f` (R244). -/
def execLeaF (d a b : GReg) (s : State) : Host.Outcome State Fault Refusal :=
  run s 1 (binaryG s d a b fun x y => x + y * BitVec.ofNat 64 s.n)

/-- Lowest bit of a bit field (R245). -/
def fieldLow (y : Word) : Nat := bits y 0 6
/-- Effective width of a bit field (R245). -/
def fieldWidth (y : Word) : Nat := Nat.min (bits y 8 6 + 1) (64 - fieldLow y)

/-- `bf.extu` (R244, R245). -/
def execBfExtu (d a b : GReg) (s : State) : Host.Outcome State Fault Refusal :=
  run s 1 (binaryG s d a b fun x y => BitVec.ofNat 64 (bits x (fieldLow y) (fieldWidth y)))
/-- `bf.exts` (R244, R245). -/
def execBfExts (d a b : GReg) (s : State) : Host.Outcome State Fault Refusal :=
  run s 1 (binaryG s d a b fun x y => BitVec.ofInt 64 (toSigned (fieldWidth y) (bits x (fieldLow y) (fieldWidth y))))

/-- The old value with a bit field replaced (R245). -/
def insertField (old x y : Word) : Word :=
  let mask : Word := BitVec.ofNat 64 ((2 ^ fieldWidth y - 1) <<< fieldLow y)
  (old &&& ~~~mask) ||| ((x <<< fieldLow y) &&& mask)

/-- `bf.ins` (R244, R245): reads gd as a source. -/
def execBfIns (d a b : GReg) (s : State) : Host.Outcome State Fault Refusal :=
  run s 1 do
    let x ← readG s a
    let y ← readG s b
    let o ← readG s d
    writeG s d (insertField o x y)

/-- The number of 1 bits below place `k`. -/
def popCount (x : Nat) : Nat → Nat
  | 0 => 0
  | k + 1 => popCount x k + if x.testBit k then 1 else 0

/-- The number of 0 bits below the lowest 1 bit, at most `k`, from place `i`. -/
def trailingZeros (x : Nat) (i : Nat) : Nat → Nat
  | 0 => 0
  | k + 1 => if x.testBit i then 0 else 1 + trailingZeros x (i + 1) k

/-- The number of 0 bits above the highest 1 bit of 64. -/
def leadingZeros (x : Nat) : Nat := if x = 0 then 64 else 63 - x.log2

/-- `popc` (R244). -/
def execPopc (d a : GReg) (s : State) : Host.Outcome State Fault Refusal :=
  run s 1 (unaryG s d a fun x => BitVec.ofNat 64 (popCount x.toNat 64))
/-- `clz` (R244). -/
def execClz (d a : GReg) (s : State) : Host.Outcome State Fault Refusal :=
  run s 1 (unaryG s d a fun x => BitVec.ofNat 64 (leadingZeros x.toNat))
/-- `ctz` (R244). -/
def execCtz (d a : GReg) (s : State) : Host.Outcome State Fault Refusal :=
  run s 1 (unaryG s d a fun x => BitVec.ofNat 64 (trailingZeros x.toNat 0 64))

/-- `mul` (R246). -/
def execMul (d a b : GReg) (s : State) : Host.Outcome State Fault Refusal := run s 1 (binaryG s d a b fun x y => x * y)
/-- `mulh` (R246). -/
def execMulh (d a b : GReg) (s : State) : Host.Outcome State Fault Refusal :=
  run s 1 (binaryG s d a b fun x y => BitVec.ofInt 64 (x.toInt * y.toInt / 2 ^ 64))
/-- `mulhu` (R246). -/
def execMulhu (d a b : GReg) (s : State) : Host.Outcome State Fault Refusal :=
  run s 1 (binaryG s d a b fun x y => BitVec.ofNat 64 (x.toNat * y.toNat / 2 ^ 64))

/-- The signed quotient of R246. -/
def quotSigned (x y : Word) : Word := if y = 0 then BitVec.allOnes 64 else BitVec.ofInt 64 (x.toInt.tdiv y.toInt)
/-- The unsigned quotient of R246. -/
def quotUnsigned (x y : Word) : Word := if y = 0 then BitVec.allOnes 64 else x.udiv y
/-- The signed remainder of R246. -/
def remSigned (x y : Word) : Word := if y = 0 then x else BitVec.ofInt 64 (x.toInt.tmod y.toInt)
/-- The unsigned remainder of R246. -/
def remUnsigned (x y : Word) : Word := if y = 0 then x else x.umod y

/-- `div` (R246). -/
def execDiv (d a b : GReg) (s : State) : Host.Outcome State Fault Refusal := run s 1 (binaryG s d a b quotSigned)
/-- `divu` (R246). -/
def execDivu (d a b : GReg) (s : State) : Host.Outcome State Fault Refusal := run s 1 (binaryG s d a b quotUnsigned)
/-- `rem` (R246). -/
def execRem (d a b : GReg) (s : State) : Host.Outcome State Fault Refusal := run s 1 (binaryG s d a b remSigned)
/-- `remu` (R246). -/
def execRemu (d a b : GReg) (s : State) : Host.Outcome State Fault Refusal := run s 1 (binaryG s d a b remUnsigned)

end Sys2Proof.Machine
end

