-- ==== Sys2Proof/Machine/SysReg.lean ====
section
/-! DEFINITION. System registers: their map and access marks (R148, R428, R452), reads and writes (R436), major 0x78 and the
register-write behaviours of the opcode table. -/

namespace Sys2Proof.Machine

/-! ## The map -/

/-- The system registers by name (R148, R428, R452). -/
inductive SysReg where
  | lcid | prec | fwin | wmask | tokens | fst | rgnpc | bbcnt | bbaddr
  | bbd (hi : Bool)
  | rptst | gstate | evec | evmask | skmap | tbst
  | spcfg (h : Nat)
  | spst (h : Nat)
  | bst (b : Nat)
  | memb | accmap | accen | delaysel
  | netsel (j : Nat)
  | sem (k : Nat)
  | trappc | tcause | tval | tvec | tscr
  | cmapbase | cmapepoch | astabbase | hgbase | elbase | elctl | eltail | elhead
  | hmctl | hmmask | hmtick | wtick | freq | chst | rktbase
  deriving DecidableEq, Repr

/-- The single registers with their numbers. -/
def sysNumbers : List (Nat × SysReg) :=
  [(0x001, .lcid), (0x010, .prec), (0x011, .fwin), (0x012, .wmask), (0x013, .tokens), (0x014, .fst), (0x015, .rgnpc),
   (0x016, .bbcnt), (0x017, .bbaddr), (0x018, .bbd false), (0x019, .bbd true), (0x01A, .rptst), (0x01B, .gstate),
   (0x040, .evec), (0x041, .evmask), (0x042, .skmap), (0x043, .tbst), (0x090, .memb), (0x091, .accmap), (0x092, .accen),
   (0x093, .delaysel), (0x100, .trappc), (0x101, .tcause), (0x102, .tval), (0x103, .tvec), (0x104, .tscr),
   (0x110, .cmapbase), (0x111, .cmapepoch), (0x112, .astabbase), (0x113, .hgbase), (0x120, .elbase), (0x121, .elctl),
   (0x122, .eltail), (0x123, .elhead), (0x130, .hmctl), (0x131, .hmmask), (0x132, .hmtick), (0x140, .wtick),
   (0x141, .freq), (0x142, .chst), (0x143, .rktbase)]

/-- The register of a number; none for an unlisted one (R148, R428, R452). -/
def sysReg (n : Nat) : Option SysReg :=
  if 0x050 ≤ n ∧ n ≤ 0x05F then some (.spcfg (n - 0x050))
  else if 0x060 ≤ n ∧ n ≤ 0x06F then some (.spst (n - 0x060))
  else if 0x070 ≤ n ∧ n ≤ 0x08F then some (.bst (n - 0x070))
  else if 0x0A0 ≤ n ∧ n ≤ 0x0A7 then some (.netsel (n - 0x0A0))
  else if 0x0C0 ≤ n ∧ n ≤ 0x0FF then some (.sem (n - 0x0C0))
  else (sysNumbers.find? fun e => e.1 == n).map Prod.snd

/-- An access mark of the map. -/
inductive Mark where
  | user
  | super
  | none
  deriving DecidableEq, Repr

/-- The Read mark of a register (R148, R428, R452). -/
def SysReg.readMark (r : SysReg) : Mark :=
  match r with
  | .netsel _ | .trappc | .tcause | .tval | .tvec | .tscr | .cmapbase | .cmapepoch | .astabbase | .hgbase | .elbase | .elctl
  | .eltail | .elhead | .hmctl | .hmmask | .hmtick | .rktbase => .super
  | .lcid | .prec | .fwin | .wmask | .tokens | .fst | .rgnpc | .bbcnt | .bbaddr | .bbd _ | .rptst | .gstate | .evec | .evmask
  | .skmap | .tbst | .spcfg _ | .spst _ | .bst _ | .memb | .accmap | .accen | .delaysel | .sem _ | .wtick | .freq | .chst => .user

/-- The Write mark of a register (R148, R428, R452). -/
def SysReg.writeMark (r : SysReg) : Mark :=
  match r with
  | .prec | .fwin | .wmask | .bbcnt | .bbaddr | .evec | .evmask | .spcfg _ => .user
  | .lcid | .tokens | .fst | .rgnpc | .bbd _ | .rptst | .gstate | .tbst | .bst _ | .cmapepoch | .eltail | .hmtick | .wtick
  | .chst => .none
  | .skmap | .spst _ | .memb | .accmap | .accen | .delaysel | .netsel _ | .sem _ | .trappc | .tcause | .tval | .tvec | .tscr
  | .cmapbase | .astabbase | .hgbase | .elbase | .elctl | .elhead | .hmctl | .hmmask | .freq | .rktbase => .super

/-- Whether a register belongs to the skein, so that a guest cannot name it (R344). -/
def SysReg.ofSkein (r : SysReg) : Bool :=
  match r with
  | .evec | .evmask | .skmap | .tbst | .spcfg _ | .spst _ | .bst _ => true
  | _ => false

/-! ## Reading -/

/-- FREQ (R453): a change is no longer pending once the counter of the chiplet in focus reads TF (R454, R457) (assumption 31). -/
def State.freq (s : State) : Word :=
  match s.dev.stepAt with
  | none => wordOf [(0, 4, s.dev.step)]
  | some t => if t ≤ s.now then wordOf [(0, 4, s.dev.stepTarget)] else wordOf [(4, 1, 1), (0, 4, s.dev.step)]

/-- A handle or barrier that a register names is allocated (R140): subcause 3 otherwise. -/
def SysReg.allocated (s : State) (r : SysReg) : Ex Unit :=
  match r with
  | .spcfg h | .spst h => ensure (h < s.skein.spn) (illegal s 3)
  | .bst b => ensure (b < s.skein.bn) (illegal s 3)
  | _ => .ok ()

/-- The value of a system register for the fibre in focus (R126 to R147, R428, R452). -/
def SysReg.read (s : State) (r : SysReg) : Word :=
  match r with
  | .lcid => s.core.lcid
  | .prec => s.fib.prec
  | .fwin => s.fib.fwin
  | .wmask => s.fib.wmask.setWidth 64
  | .tokens => s.fib.tokens.word
  | .fst => s.fib.fst
  | .rgnpc => s.fib.rgn.word
  | .bbcnt => s.fib.bb.cntWord
  | .bbaddr => s.fib.bb.addr
  | .bbd hi => BitVec.ofNat 64 (if hi then s.fib.bb.masked / 2 ^ 64 else s.fib.bb.masked)
  | .rptst => s.fib.rpt.status
  | .gstate => s.bank.gstate
  | .evec => s.skein.evec
  | .evmask => s.skein.evmask
  | .skmap => s.skein.skmap
  | .tbst => tbstOf s.core s.skein
  | .spcfg h => (s.spool (s.skein.spb + h)).cfg
  | .spst h => (s.spool (s.skein.spb + h)).status
  | .bst b => (s.core.bars.getD (s.skein.bb + b) Barrier.zero).status
  | .memb => s.core.memb
  | .accmap => s.core.accmap
  | .accen => s.core.accen
  | .delaysel => s.core.delaysel
  | .netsel j => (s.chipAt (netChip s.chip.num)).netsel.getD j 0
  | .sem k => BitVec.ofNat 64 (s.chip.sems.getD k Sem.zero).count
  | .trappc => s.fib.trap.trappc
  | .tcause => s.fib.trap.tcause
  | .tval => s.fib.trap.tval
  | .tvec => s.core.tvec
  | .tscr => s.fib.trap.tscr
  | .cmapbase => s.dev.cmapbase
  | .cmapepoch => s.dev.cmapepoch
  | .astabbase => s.dev.astabbase
  | .hgbase => s.dev.hgbase
  | .elbase => s.dev.elbase
  | .elctl => s.dev.elctl
  | .eltail => s.dev.eltail
  | .elhead => s.dev.elhead
  | .hmctl => s.dev.hmctl
  | .hmmask => s.dev.hmmask
  | .hmtick => s.dev.hmtick
  | .wtick => BitVec.ofNat 64 s.now
  | .freq => s.freq
  | .chst => BitVec.ofNat 64 (if s.chip.num < 256 then s.chip.state else 5)
  | .rktbase => s.dev.rktbase

/-! ## Writing -/

/-- The fields of a mask take the value written; the others stay (R436). -/
def keepOutside (mask old v : Word) : Word := (old &&& ~~~mask) ||| (v &&& mask)

/-- A write of SKMAP (R140): a range above the core's total raises subcause 4. -/
def writeSkmap (s : State) (v : Word) : Ex State := do
  ensure (bits v 21 2 + bits v 23 3 ≤ 4 && bits v 10 5 + bits v 15 6 ≤ 32 && bits v 1 4 + bits v 5 5 ≤ 16) (illegal s 4)
  .ok (s.setSkein fun k => { k with skmap := v &&& 0x3FFFFFE#64 })

/-- Whether SPCFG may hold the value with EN = 1 (R141). -/
def spcfgOk (v : Word) : Bool :=
  let slot := 16 * 2 ^ bits v 52 4
  let n := if bits v 44 8 = 0 then 256 else bits v 44 8
  let base := bits v 4 20 * 16
  decide (bits v 52 4 ≤ 8) && base % slot == 0 && decide (base + n * slot ≤ 2 ^ 24)

/-- A write of SPCFGh (R141): refused values raise the spool fault; FILL, WIX and RIX clear. -/
def writeSpcfg (s : State) (h : Nat) (v : Word) : Ex State := do
  ensure (h < s.skein.spn) (illegal s 3)
  ensure (!bit v 63 || spcfgOk v) (spoolFault s h)
  .ok (s.onSpool (s.skein.spb + h) fun _ => { cfg := v &&& spcfgMask, fill := 0, wix := 0, rix := 0 })

/-- A supervisor write of SPST_h (R141); a rise of FILL to THR is an event (R287) (assumption 32). -/
def writeSpst (s : State) (h : Nat) (v : Word) : Ex State := do
  ensure (h < s.skein.spn) (illegal s 3)
  let i := s.skein.spb + h
  let old := (s.spool i).fill
  .ok ((s.onSpool i fun p => p.withStatus v).threshold s.core.num i old)

/-- A write of BBCNT (R136): data at and above the new CNT clears. -/
def writeBbcnt (s : State) (v : Word) : State :=
  s.setFib fun f =>
    ({ f with bb := { f.bb with cnt := bits v 0 7, data := BitVec.ofNat 128 (f.bb.masked % 2 ^ bits v 0 7) } } : Fibre).touch Dirty.bbuf

/-- A write of BBADDR (R136): data at and above CNT clears. -/
def writeBbaddr (s : State) (v : Word) : State :=
  s.setFib fun f =>
    ({ f with bb := { f.bb with addr := v &&& 0x01FFFFFFFFFFFFFF#64, data := BitVec.ofNat 128 f.bb.masked } } : Fibre).touch Dirty.bbuf

/-- A NETSEL register with 0b10 entries stored as 0b11, but for the entry of the chiplet itself (R34). -/
def netselStored (own j : Nat) (v : Word) : Word :=
  wordOf ((List.range 32).map fun i => (2 * i, 2, if bits v (2 * i) 2 = 2 ∧ 32 * j + i ≠ own then 3 else bits v (2 * i) 2))

/-- A write of NETSELj (R34, R35). -/
def writeNetsel (s : State) (j : Nat) (v : Word) : State :=
  let own := netChip s.chip.num
  s.onChip own fun c => { c with netsel := c.netsel.set! j (netselStored own j v) }

/-- A supervisor write of a semaphore (R145): the count is replaced and no waiter wakes. -/
def writeSem (s : State) (k : Nat) (v : Word) : State :=
  s.setChip fun c => { c with sems := c.sems.set! k { (c.sems.getD k Sem.zero) with count := bits v 0 32 } }

/-- A write of FREQ.STEP (R454): held until no chiplet has a change pending, else the change comes at TF. -/
def writeFreq (s : State) (v : Word) : Ex State :=
  if s.dev.stepAt.isSome then hold s .retry
  else .ok (s.setDev fun d => { d with stepTarget := bits v 0 4, stepAt := some (1024 * ((s.now + 1023) / 1024) + 2048) })

/-- A write of DELAYSEL (R402). -/
def writeDelaysel (s : State) (v : Word) : Ex State := do
  ensure (bits v 4 4 ≤ 6) (illegal s 4)
  .ok (s.setCore fun c => { c with delaysel := v &&& 0x000FFFFFFFFFE0FF#64 })

/-- A write of ELCTL (R440, R436): LL outside 8..24 raises subcause 4, and DROP bits clear where `g` holds 1. -/
def writeElctl (s : State) (v g : Word) : Ex State := do
  ensure (8 ≤ bits v 32 5 && bits v 32 5 ≤ 24) (illegal s 4)
  .ok (s.setDev fun d => { d with
    elctl := (v &&& 0x8000001F00000000#64) ||| (d.elctl &&& 0x00000000FFFFFFFF#64 &&& ~~~g) })

/-- A write of HMCTL (R442, R443): HELD clears where `g` holds 1; SRC stays. -/
def writeHmctl (s : State) (v g : Word) : State :=
  s.setDev fun d => { d with
    hmctl := (v &&& 0x1000000000000000#64) ||| (d.hmctl &&& 0x6000000000000000#64) |||
      (d.hmctl &&& 0x8000000000000000#64 &&& ~~~g) }

/-- Update the trap registers, which marks them dirty (R434). -/
def onTrapRegs (s : State) (f : TrapRegs → TrapRegs) : State :=
  s.setFib fun x => ({ x with trap := f x.trap } : Fibre).touch Dirty.trap

/-- Write a system register (R436): `v` is the value written, `g` the operand that W1C fields take (assumption 32). -/
def SysReg.write (s : State) (r : SysReg) (v g : Word) : Ex State :=
  match r with
  | .prec => writePrec s v
  | .fwin => writeFwin s (bits v 0 3)
  | .wmask => .ok (s.setFib fun f => { f with wmask := v.setWidth 8 })
  | .bbcnt => .ok (writeBbcnt s v)
  | .bbaddr => .ok (writeBbaddr s v)
  | .evec => .ok (s.setSkein fun k => { k with hpc := v &&& 0x01FFFFFFFFFFFFFC#64 })
  | .evmask => .ok (s.setSkein fun k => { k with evEn := v.setWidth 4 })
  | .skmap => writeSkmap s v
  | .spcfg h => writeSpcfg s h v
  | .spst h => writeSpst s h v
  | .memb => .ok (s.setCore fun c => { c with memb := keepOutside 0x00001FFFFFFFF000#64 c.memb v })
  | .accmap => .ok (s.setCore fun c => { c with accmap := v })
  | .accen => .ok (s.setCore fun c => { c with accen := v &&& 0xFFFF#64 })
  | .delaysel => writeDelaysel s v
  | .netsel j => .ok (writeNetsel s j v)
  | .sem k => .ok (writeSem s k v)
  | .trappc => .ok (onTrapRegs s fun t => { t with trappc := v &&& 0xFFFFFFFFFFFFFFFC#64 })
  | .tcause => .ok (onTrapRegs s fun t => { t with tcause := keepOutside 0xC00000000000FFFF#64 t.tcause v })
  | .tval => .ok (onTrapRegs s fun t => { t with tval := v })
  | .tscr => .ok (onTrapRegs s fun t => { t with tscr := v })
  | .tvec => .ok (s.setCore fun c => { c with tvec := v &&& 0x01FFFFFFFFFFFFFC#64 })
  | .cmapbase => .ok (s.setDev fun d => { d with cmapbase := v &&& 0x000FFFFFFFFFE000#64 })
  | .astabbase => .ok (s.setDev fun d => { d with astabbase := v &&& 0x000FFFFFFFFF8000#64 })
  | .hgbase => .ok (s.setDev fun d => { d with hgbase := v &&& 0x000FFFFFFFFFFE00#64 })
  | .elbase => .ok (s.setDev fun d => { d with elbase := v &&& 0x000FFFFFFFFFF000#64 })
  | .elctl => writeElctl s v g
  | .elhead => .ok (s.setDev fun d => { d with elhead := v })
  | .hmctl => .ok (writeHmctl s v g)
  | .hmmask => .ok (s.setDev fun d => { d with hmmask := v })
  | .freq => writeFreq s v
  | .rktbase => .ok (s.setDev fun d => { d with rktbase := v &&& 0x000FFFFFFFFE0000#64 })
  | .lcid | .tokens | .fst | .rgnpc | .bbd _ | .rptst | .gstate | .tbst | .bst _ | .cmapepoch | .eltail | .hmtick | .wtick
  | .chst => illegal s 4

/-! ## Major 0x78 -/

/-- The checks of R436 for an access: a listed register, the guest rule of R344, allocation, privilege, the Write mark, and
the hold of R270 for PREC and FWIN (assumption 32). -/
def sysAccess (s : State) (n : BitVec 12) (writes : Bool) : Ex SysReg :=
  match sysReg n.toNat with
  | none => illegal s 4
  | some r => do
    ensure (!(s.fib.guest && r.ofSkein)) (notGuest s)
    r.allocated s
    if r.readMark = .super || (writes && decide (r.writeMark = .super)) then supervisor s 1
    if writes then ensure (r.writeMark ≠ .none) (illegal s 4)
    if r = .prec ∨ r = .fwin then settled s
    .ok r

/-- `srd` (R436). -/
def execSrd (g : BitVec 3) (n : BitVec 12) (s : State) : Host.Outcome State Fault Refusal :=
  run s 1 do
    let r ← sysAccess s n false
    writeG s g (r.read s)

/-- `swr` (R436). -/
def execSwr (g : BitVec 3) (n : BitVec 12) (s : State) : Host.Outcome State Fault Refusal :=
  run s 1 do
    let r ← sysAccess s n true
    let v ← readG s g
    r.write s v v

/-- `sswp` (R436). -/
def execSswp (g : BitVec 3) (n : BitVec 12) (s : State) : Host.Outcome State Fault Refusal :=
  run s 1 do
    let r ← sysAccess s n true
    let v ← readG s g
    let t ← r.write s v v
    .ok (setG t g (r.read s))

/-- `sset` (R436). -/
def execSset (g : BitVec 3) (n : BitVec 12) (s : State) : Host.Outcome State Fault Refusal :=
  run s 1 do
    let r ← sysAccess s n true
    let v ← readG s g
    r.write s (r.read s ||| v) v

/-- `sclr` (R436). -/
def execSclr (g : BitVec 3) (n : BitVec 12) (s : State) : Host.Outcome State Fault Refusal :=
  run s 1 do
    let r ← sysAccess s n true
    let v ← readG s g
    r.write s (r.read s &&& ~~~v) v

/-! ## Register writes as behaviours of their own

Each is what a write of the register does to the fibre in focus, its skein, core, chiplet or the device, without an
instruction around it. -/

/-- REGISTER_WRITE (R436): the RW fields take the value. -/
def execRegisterWrite (reg : BitVec 12) (v : Word) (s : State) : Host.Outcome State Fault Refusal :=
  conclude (match sysReg reg.toNat with
    | none => illegal s 4
    | some r => r.write s v v)
/-- PREC_WRITE (R130). -/
def execPrecWrite (v : Word) (s : State) : Host.Outcome State Fault Refusal := conclude (writePrec s v)
/-- FWIN_WRITE (R128). -/
def execFwinWrite (v : Word) (s : State) : Host.Outcome State Fault Refusal := conclude (writeFwin s (bits v 0 3))
/-- SKMAP_WRITE (R140). -/
def execSkmapWrite (v : Word) (s : State) : Host.Outcome State Fault Refusal := conclude (writeSkmap s v)
/-- SPCFG_WRITE (R141). -/
def execSpcfgWrite (h : BitVec 4) (v : Word) (s : State) : Host.Outcome State Fault Refusal :=
  conclude (writeSpcfg s h.toNat v)
/-- BBCNT_WRITE (R136). -/
def execBbcntWrite (v : Word) (s : State) : Host.Outcome State Fault Refusal := .next (writeBbcnt s v)
/-- BBADDR_WRITE (R136). -/
def execBbaddrWrite (v : Word) (s : State) : Host.Outcome State Fault Refusal := .next (writeBbaddr s v)
/-- NETSEL_WRITE (R35). -/
def execNetselWrite (j : BitVec 3) (v : Word) (s : State) : Host.Outcome State Fault Refusal :=
  .next (writeNetsel s j.toNat v)
/-- SEM_WRITE (R145). -/
def execSemWrite (k : BitVec 6) (v : Word) (s : State) : Host.Outcome State Fault Refusal := .next (writeSem s k.toNat v)
/-- FREQ_WRITE (R454). -/
def execFreqWrite (v : Word) (s : State) : Host.Outcome State Fault Refusal := conclude (writeFreq s v)
/-- DELAYSEL_WRITE (R402). -/
def execDelayselWrite (v : Word) (s : State) : Host.Outcome State Fault Refusal := conclude (writeDelaysel s v)
/-- ELCTL_WRITE (R440). -/
def execElctlWrite (v g : Word) (s : State) : Host.Outcome State Fault Refusal := conclude (writeElctl s v g)
/-- HMCTL_WRITE (R442). -/
def execHmctlWrite (v g : Word) (s : State) : Host.Outcome State Fault Refusal := .next (writeHmctl s v g)

end Sys2Proof.Machine
end

