-- ==== Sys2Proof/Machine/Recovery.lean ====
section
/-! DEFINITION. Recovery of a core (R424, R425): it is fenced, what it injected completes, its state is read out and its number rebound,
and its skeins wait for their new places. -/

namespace Sys2Proof.Machine

/-- What a recovered fibre resumes with (R424): a restart at RGNPC, its PC, or none, which ends its launch. -/
def State.recoverFibre (s : State) (l : Launch) (f : Fibre) : Option State :=
  if (s.fibre? f.id).isNone then some s
  else if f.rgn.act then
    let t := s.focus f.id
    match restart t with
    | .ok u => some u
    | .error h =>
      match h.why with
      | .trap code sub val pa => some (raise h.st code sub val pa)
      | _ => some t
  else if l.rstr then some s
  else none

/-- Read out a skein of a fenced core into its checkpoint area (R424 step 3), where it waits for placement; a launch with a fibre that cannot
resume, or of whose state the read met an uncorrectable error, ends with status 4 (assumptions 34 and 48). -/
def State.readOut (s : State) (reason : Nat) (k : Skein) : State :=
  match s.launch? k.lid, s.skein? k.lid k.skn with
  | some l, some _ =>
    let r := (s.fibresOf k.lid k.skn).foldl (fun (a : Option State) f => a.bind fun t => t.recoverFibre l f) (some s)
    match (if Config.readOutError s.ctr k.core then none else r) with
    | none => s.endLaunch k.lid 4 reason
    | some t =>
      ((t.checkpointSkein l k ckptState).onLaunch l.lid fun x => { x with evicted := setIns k.skn x.evicted }).settleLaunch l.lid
  | _, _ => s

/-- Whether a core is to be recovered. -/
def State.recovering (s : State) (core : Nat) : Bool := s.dev.recover.any fun e => e.core == core

/-- A fibre of a core that is fenced: away from home it comes home, else what it waits for is withdrawn. -/
def State.callHome (s : State) (f : Fibre) : State :=
  match f.travel with
  | none => if f.guest then s.sendHome f.id else s.stopFibre f
  | some (.out _ _) => s.sendHome f.id
  | some (.waiting _ _) => s.sendHome f.id
  | _ => s

/-- Recovery of a core starts, with the reason and subcause of its log record (R424 steps 1 and 2): it is fenced and issues nothing more, the
stores that have not left its write-through buffer are discarded, what its fibres wait for is withdrawn, its own fibres that are away
come home, and those that visit it leave. -/
def State.startRecovery (s : State) (core reason sub : Nat) : State :=
  if s.recovering core || !s.coreLive core then s
  else
    let s := s.onCore core fun c => { c with status := .fenced, l1 := [], wtb := [] }
    let s := s.clearGuests fun n => n == core
    let s := (s.homeFibres core).foldl State.callHome s
    s.setDev fun d => { d with recover := d.recover ++ [{ core := core, reason := reason, sub := sub, since := s.ctr + 1 }] }

/-- Whether what a fenced core injected has completed, so that its state can be read (R26, R424 step 2): its fibres are at home, no store,
message, arrival, contribution, update or reply of it is on its way, nothing that its chiplet sent before the fence is, no copy writes a
region of its skeins, and a restart to come finds no register pending (R342) (assumption 34). -/
def State.coreDrained (s : State) (e : Recovering) : Bool :=
  let ks := s.skeinsOn e.core
  ((s.homeFibres e.core).all fun f => f.canStop && !(f.rgn.act && f.anyPending)) &&
    !(s.dev.posted.any fun p => p.core == e.core) && !(s.dev.flight.any fun m => m.srcCore == e.core) &&
    !(s.dev.arrivals.any fun m => m.srcCore == e.core) && !(s.dev.contribs.any fun m => ks.any fun k => k.is m.lid m.skn) &&
    !(s.dev.updates.any fun u => (s.homeFibres e.core).any fun f => f.id == u.fib) && !s.undelivered (e.core / 4) e.since &&
    ks.all fun k => match s.launch? k.lid with
      | some l => s.canStop l k
      | none => true

/-- Recovery of a drained core ends (R424 steps 3 to 5): its skeins are read out, its number is rebound, they are relocated to its new
holder, if any, and the recovery is logged. A chiplet whose last core this was is lost (R28) (assumption 34). -/
def State.endRecovery (s : State) (e : Recovering) : State :=
  let ks := s.skeinsOn e.core
  let s := s.setDev fun d => { d with recover := d.recover.filter fun x => x.core != e.core }
  let s := ks.foldl (fun s k => s.readOut e.reason k) s
  let r := match s.numberOf e.core with
    | some n => s.rebind n
    | none => (s.useCand (posOfCore e.core) none, none)
  let s := r.1.moveOn e.core r.2
  let s := match r.2 with
    | some core => ks.foldl (fun (t : State) (k : Skein) => t.relocate core k.lid k.skn) s
    | none => s
  let new := match r.2 with
    | some c => posOfCore c
    | none => posOfCore e.core
  let s := s.logAt 0x0B e.reason e.sub (coreBlk e.core) (coreLoc e.core) 0xFFFF 0 (posOfCore e.core + new * 2 ^ 16)
  if (coresOf (e.core / 4)).any s.coreLive then s else (s.loseChip (e.core / 4)).endLoss (e.core / 4)

/-- HUNG_CORE (R424): the core at a position has a ready fibre and retired nothing for 2^20 clocks, and its recovery starts; once such a
core has drained, its recovery ends. -/
def execHungCore (p : Nat) (s : State) : Host.Outcome State Fault Refusal :=
  let core := coreOfPos p
  match s.dev.recover.find? fun e => e.core == core with
  | some e => .next (if s.coreDrained e then s.endRecovery e else s)
  | none =>
    let ready := s.allFibres.any fun f => f.at_ == core && f.park.isNone && f.travel.isNone
    .next (if ready && s.clocksSince (chipNum core) (s.coreAt core).lastRetire (2 ^ 20) then s.startRecovery core 0x17 0 else s)

/-! ## Errors that arise by themselves -/

/-- An error of a syndrome in storage that is no memory word, found at once (R437, R438): one that can be corrected is, and is logged;
any other is logged, and `spoil` says what becomes of it (assumption 23). -/
def State.found (s : State) (blk loc : Nat) (syn : BitVec 8) (spoil : State → State) : State :=
  if correctable syn then s.logAt 0x01 0 0 blk loc 0xFFFF 0 syn.toNat
  else (spoil s).logAt 0x02 0 0 blk loc 0xFFFF 0 syn.toNat

/-- An element of a list by a free number. -/
def nthOf {α : Type} (l : List α) (n : Nat) : Option α := l[n % l.length]?

/-- An error in a register file of a fibre (R438): a general register takes a fault token, a window chunk, vector register or mask is
poisoned. -/
def Fibre.struck (f : Fibre) (n : Nat) : Fibre :=
  let i := n / 4
  match n % 4 with
  | 0 => f.setReg (BitVec.ofNat 3 i) 0x10006 Fill.token
  | 1 => { f with fbad := f.fbad.set! (i % 8) (BitVec.allOnes 32) }
  | 2 => { f with vbad := f.vbad.set! (i % 16) true }
  | _ => { f with mbad := f.mbad.set! (i % 7 + 1) true }

/-- A clean line or a translation leaves a cache, to be fetched again (R438). -/
def State.dropped (s : State) (blk loc addr : Nat) (syn : BitVec 8) : State := s.logAt 0x01 0 0 blk loc 0xFFFF addr syn.toNat

/-- An error arises (R437, R438), of the kind that the free choice `kind` names, none for most: in a memory word, in a clean line of an
L1, a slice or a memory-side cache, in a cached translation, in the pricking plane, the scale strip or an XACC column, in a register
file, or in the control state of a core (assumption 23). -/
def State.strike (s : State) (kind n : Nat) (syn : BitVec 8) : State :=
  let cores := s.core :: s.cores
  let chips := s.chip :: s.chips
  if syn = 0 then s else
  match kind with
  | 1 =>
    if paOk (8 * n) && !((s.dev.ecc ++ s.dev.soft).any fun e => e.1 == n) then s.setDev fun d => { d with soft := (n, syn) :: d.soft } else s
  | 2 =>
    match (nthOf cores n).bind fun c => (nthOf c.l1 (n / 2 ^ 11)).map fun e => (c.num, e.1) with
    | none => s
    | some (c, line) => (s.onCore c fun x => { x with l1 := assocDel line x.l1 }).dropped (coreBlk c) (coreLoc c) (128 * line) syn
  | 3 =>
    match nthOf (s.dev.slices.filter fun e => !(s.dev.below.any fun b => b.line == e.1)) n with
    | none => s
    | some e => (s.dropSlice e.1).dropped 10 e.2 (128 * e.1) syn
  | 4 =>
    match nthOf (s.dev.msc.filter fun m => !m.dirty) n with
    | none => s
    | some m => (s.dropMsc m).dropped 11 (256 + memChip (128 * m.line)) (128 * m.line) syn
  | 5 =>
    match (nthOf chips n).bind fun c => (nthOf c.tlb (n / 2 ^ 9)).map fun e => (c.num, e) with
    | none => s
    | some (c, e) => (s.onChip c fun x => { x with tlb := x.tlb.erase e }).dropped 12 (netChip c) 0 syn
  | 6 =>
    match nthOf (chips.filter fun c => decide (c.num < 256)) (n / 2 ^ 20) with
    | none => s
    | some c => s.found 5 c.num syn fun s => s.onChip c.num fun x =>
      if n % 2 = 0 then { x with planeBad := setIns (n / 2 % 2 ^ 19) x.planeBad } else { x with stripBad := setIns (n / 2 % 2 ^ 19) x.stripBad }
  | 7 =>
    match (nthOf chips n).bind fun c => (nthOf c.xacc (n / 2 ^ 9)).map fun e => (c.num, e.1) with
    | none => s
    | some (c, i) => s.found 5 c syn fun s => s.onChip c fun x => { x with xacc := updAll (fun e => e.1 == i) (fun e => (e.1, { e.2 with bad := true })) x.xacc }
  | 8 =>
    match nthOf s.allFibres n with
    | none => s
    | some f => s.found (coreBlk f.at_) (coreLoc f.at_) syn fun s => s.onFibre f.id fun x => x.struck (n / 2 ^ 20)
  | 9 =>
    match nthOf (cores.filter fun c => decide (c.num < 1024)) n with
    | none => s
    | some c => if correctable syn then s.found (coreBlk c.num) (coreLoc c.num) syn id else s.startRecovery c.num 0x06 0
  | _ => s

end Sys2Proof.Machine
end

