-- ==== Sys2Proof/Machine/Trap.lean ====
section
/-! DEFINITION. Trap instructions (major 0x79, R435), diagnostic instructions (major 0x7A, R445, R446), the hallmark latch
(R443, R444), and the two ways in which fetching gives no instruction (R172, R252). -/

namespace Sys2Proof.Machine

/-! ## Trap instructions -/

/-- `trap` (R435): TRAPPC is the address after it. With no address after it in the space, R251 faults first (assumption 17). -/
def execTrap (a : BitVec 3) (n : BitVec 8) (s : State) : Host.Outcome State Fault Refusal :=
  conclude (ending s 1 do
    let v ← readG s a
    .ok (raise (retireTo s (s.fib.pc + 4)) 0x20 n.toNat v false))

/-- The grid-stall fault of a launch is no longer outstanding after its handler's trap return (R423, R426). -/
def State.endStall (s : State) : State :=
  if bits s.fib.trap.tcause 0 8 = 0x15 then s.onLaunch s.fib.id.lid fun l => { l with stall := false } else s

/-- `tret` as an effect (R435). -/
def trapReturn (s : State) : State :=
  let pc := s.fib.trap.trappc &&& 0xFFFFFFFFFFFFFFFC#64
  returnTo (retireTo s.endStall pc) pc

/-- `tret` (R435). -/
def execTret (s : State) : Host.Outcome State Fault Refusal :=
  conclude do
    supervisor s 0
    ensure (bit s.fib.trap.tcause 63) (illegal s 6)
    .ok (trapReturn s)

/-- `tret.rgn` (R435): the restart of R342 from the interrupted instruction, or `tret` when two are done. -/
def execTretRgn (s : State) : Host.Outcome State Fault Refusal :=
  conclude do
    supervisor s 0
    ensure (bit s.fib.trap.tcause 63) (illegal s 6)
    ensure s.fib.rgn.act (illegal s 6)
    if s.fib.rgn.count ≥ 2 then .ok (trapReturn s)
    else match restart (trapReturn s) with
      | .ok t => .ok t
      | .error h => .error ⟨s, h.why⟩

/-- `hallmark` (R435, R443). -/
def execHallmark (s : State) : Host.Outcome State Fault Refusal := run s 1 (.ok (s.trigger 0))

/-! ## Diagnostic instructions -/

/-- A DRAM line leaves its home slice and the memory-side cache, written back, and the L1 of the core in focus (R445). -/
def State.cleanLine (s : State) (line : Nat) : State :=
  let s := (s.writeBackAll fun b => b.line == line).dropSlice line
  ((s.dev.msc.filter fun m => m.line == line).foldl State.dropMsc s).setCore fun c => { c with l1 := assocDel line c.l1 }

/-- The word that a diagnostic instruction addresses (R445): aligned, translated as a supervisor access, its line cleaned after the core's
own stores to it. -/
def diagPlace (s : State) (acc : Acc) (va : Word) : Ex (State × Piece) := do
  s.inSpace va 8
  ensure (va.toNat % 8 == 0) (trap s 0x03 0 va)
  let (t, ps) ← s.access acc va 8 false
  match ps with
  | [] => hold t .retry
  | p :: _ => do
    let t ← t.homeFirst [t.pieceWay p] [p] (if isDram p.pa then [p.pa / 128] else [])
    .ok (if isDram p.pa then t.cleanLine (p.pa / 128) else t, p)

/-- The stored word with its full/empty bit, as the code covers it (R437). -/
def State.codeWord (s : State) (w : Nat) : BitVec 65 :=
  BitVec.ofBool (!s.emptyWord w) ++ s.storedWord w

/-- The pending syndrome of a word. -/
def State.syndrome (s : State) (w : Nat) : BitVec 8 :=
  match s.dev.ecc.find? fun e => e.1 == w with
  | some e => e.2
  | none => 0

/-- Leave a syndrome pending at a word (R446). -/
def State.putSyndrome (s : State) (w : Nat) (syn : BitVec 8) : State :=
  s.setDev fun d => { d with ecc := if syn = 0 then assocDel w d.ecc else assocPut w syn d.ecc, soft := assocDel w d.soft }

/-- A diagnostic read meets the bits as they are stored: an error that arose by itself shows in them (R437, R445) (assumption 23). -/
def State.rawWord (s : State) (w : Nat) : State :=
  match s.dev.soft.find? fun e => e.1 == w with
  | none => s
  | some (_, syn) =>
    let t := s.putSyndrome w syn
    if isCheckColumn syn then t
    else match columnOf syn 65 with
      | some 64 => t.setFull w (t.emptyWord w)
      | some k => t.putStoredWord w (t.storedWord w ^^^ (1#64 <<< k))
      | none => t

/-- The write of `diag.stc` at a word that exists (R446): data, full/empty bit, check byte, no poison mark (assumption 23). -/
def State.storeCheck (s : State) (p : Piece) (v g : Word) (ct raw : Bool) : State :=
  let w := p.pa / 8
  let s := s.putSyndrome w 0
  let s := if ct && isDram p.pa then s.putStoredWord w v
    else (s.perform (keyArg p.leaf) p.pa (bytesOf 8 v.toNat)).cleanLine (p.pa / 128)
  let s := s.setDev fun d => { d with
    pois := setDel w d.pois, renewed := if s.onSpare w then setIns w d.renewed else d.renewed }
  let was := s.emptyWord w
  let s := s.setFull w (bit g 8)
  let syn := if raw then g.setWidth 8 ^^^ checkByte (s.codeWord w) 65 else g.setWidth 8
  let s := s.putSyndrome w syn
  if was && bit g 8 then s.makeFull w else s

/-- `diag.stc` (R446). -/
def execDiagStc (d a b : BitVec 3) (c r : BitVec 1) (s : State) : Host.Outcome State Fault Refusal :=
  run s 1 do
    supervisor s 0
    let va ← readG s a
    let v ← readG s b
    let g ← readG s d
    let (t, p) ← diagPlace s s.accStore va
    if t.absentPa p.pa then .ok (t.logWord 0x03 (p.pa / 8) 8) else .ok (t.storeCheck p v g (c == 1) (r == 1))

/-- `diag.ldc` (R445). -/
def execDiagLdc (d a : BitVec 3) (s : State) : Host.Outcome State Fault Refusal :=
  runLoad s 1 do
    supervisor s 0
    let va ← readG s a
    destG s d
    let (t, p) ← diagPlace s s.accLoad va
    let w := p.pa / 8
    let t := t.rawWord w
    let syn := t.syndrome w
    let check := checkByte (t.codeWord w) 65 ^^^ syn
    .ok (setG t d (wordOf [(17, 1, ofBool (t.poisonedWord w)), (16, 1, ofBool (!t.emptyWord w)), (8, 8, syn.toNat),
      (0, 8, check.toNat)]), t.parksFor [p])

/-- `diag.ldr` (R445). -/
def execDiagLdr (d a : BitVec 3) (s : State) : Host.Outcome State Fault Refusal :=
  runLoad s 1 do
    supervisor s 0
    let va ← readG s a
    destG s d
    let (t, p) ← diagPlace s s.accLoad va
    let t := t.rawWord (p.pa / 8)
    .ok (setG t d (t.storedWord (p.pa / 8)), t.parksFor [p])

/-- `diag.poison` (R445). -/
def execDiagPoison (a : BitVec 3) (s : State) : Host.Outcome State Fault Refusal :=
  run s 1 do
    supervisor s 0
    let va ← readG s a
    let (t, p) ← diagPlace s s.accStore va
    .ok (t.markPoison (p.pa / 8))

/-- `diag.fence` (R445): it completes once the core is fenced; a number to which no core is bound has none to recover. -/
def execDiagFence (a : BitVec 3) (s : State) : Host.Outcome State Fault Refusal :=
  match supervisor s 0, readG s a with
  | .error h, _ => stopped h
  | .ok _, .error h => stopped h
  | .ok _, .ok n =>
    runThen s 1 (do
      ensure (n.toNat < 1024) (illegal s 4)
      .ok s) fun t =>
        match t.boundCore n.toNat with
        | some core => t.startRecovery core 0x17 2
        | none => t

/-! ## Hallmarks -/

/-- The key under which a hallmark block stands: LOC and block of a selector (R444). -/
def hmKey (loc blk : Nat) : Nat := 32 * loc + blk

/-- The entry number of a fibre on the core it runs on: its home entry, or 256 plus its guest entry. -/
def Fibre.entry (f : Fibre) : Nat := if f.guest then 256 + f.guestEntry else f.homeEntry

/-- Hallmark words 1 to 4 of a core (R444). -/
def State.coreWords (s : State) (core : Nat) : List Word :=
  let c := s.coreAt core
  let fs := s.allFibres.filter fun f => f.at_ == core && f.travel.isNone
  let ready := (fs.filter fun f => f.park.isNone).length
  let parked := (fs.filter Fibre.parked).length
  let pc := match fs.find? fun f => f.entry == c.issuing with
    | some f => f.pc
    | none => 0
  [BitVec.ofNat 64 c.retired, wordOf [(16, 9, parked), (0, 9, ready)], BitVec.ofNat 64 c.issuing, pc]

/-- Hallmark words 1 to 4 of a unit from what it runs and what it holds for each core (R444). -/
def State.unitWords (s : State) (busy : Option (Nat × FibreId)) (held : Nat → Nat) (completed : Nat) : List Word :=
  let w := match busy with
    | none => 0
    | some e =>
      let entry := match s.fibre? e.2 with
        | some f => f.entry
        | none => 0
      wordOf [(63, 1, 1), (8, 2, e.1), (0, 8, entry)]
  [w, wordOf ((List.range 4).map fun i => (8 * i, 8, held i)), BitVec.ofNat 64 completed, 0]

/-- Hallmark words of a vector unit, array or engine. -/
def State.queueWords (s : State) (u : Unit_) : List Word :=
  s.unitWords u.busy (fun i => (u.queue.filter fun e => e.core == i).length) u.completed

/-- CUR of 32 streams of a router, two bits each (R396, R444). -/
def Chip.curWord (c : Chip) (mesh : Bool) (lo : Nat) : Word :=
  wordOf ((List.range 32).map fun i => (2 * i, 2, (c.route mesh (lo + i)).cur))

/-- What the posting-list engine of a chiplet runs (R325, R444): the multi-cursor instruction whose steps it takes. -/
def State.engineBusy (s : State) (ch : Nat) : Option (Nat × FibreId) :=
  (s.allFibres.find? fun f => chipNum f.at_ == ch && match f.park with
    | some (.engine j) => !j.waits
    | _ => false).map fun f => (f.at_ % 4, f.id)

/-- Words 1 to 4 of every block of a compute chiplet (R444); `free n` are counts that the manual does not fix. -/
def State.chipWords (s : State) (c : Chip) (free : Nat → Word) : List (Nat × List Word) :=
  let loc := c.num
  ((List.range 4).map fun i => (hmKey loc i, s.coreWords (4 * c.num + i))) ++
  [(hmKey loc 4, s.queueWords c.vunit), (hmKey loc 5, s.queueWords c.array),
   (hmKey loc 6, s.unitWords (c.copies.head?.map fun k => (k.core % 4, k.fib)) (fun i => (c.copies.filter fun k => k.core % 4 == i).length)
     c.copiesDone),
   (hmKey loc 7, s.queueWords { c.engine with busy := s.engineBusy c.num }),
   (hmKey loc 8, [free 0, free 1, c.curWord false 0, c.curWord false 32]),
   (hmKey loc 9, [free 2, free 3, c.curWord true 0, c.curWord true 32]),
   (hmKey loc 10, [free 4, free 5, free 6, 0]), (hmKey loc 12, [0, 0, 0, 0])]

/-- Words 1 to 4 of every block of a memory chiplet (R444). -/
def State.memChipWords (s : State) (m : Nat) (free : Nat → Word) : List (Nat × List Word) :=
  ((List.range 8).map fun k => (hmKey (256 + m) k, s.coreWords (1024 + 8 * m + k))) ++
  [(hmKey (256 + m) 11, [free 7, free 8, free 9, 0])]

/-- Every block of some live chiplets, named by LOC, latches (R443) (assumption 33). -/
def State.latchWords (s : State) (tick : Nat) (locs : List Nat) : List (Nat × List Word) :=
  let live := (s.chip :: s.chips).filter fun c => locs.contains c.num
  let free (loc n : Nat) : Word := Config.hallmarkCount s.ctr (16 * loc + n)
  let new := (live.flatMap fun c => s.chipWords c (free c.num)) ++
    ((List.range 64).filter fun m => locs.contains (256 + m)).flatMap fun m => s.memChipWords m (free (256 + m))
  new.map fun e => (e.1, BitVec.ofNat 64 tick :: e.2)

/-- HALLMARK_LATCH (R443, R457): the live chiplets whose own counters have reached TL latch their words, each once. The capture is held
when the last counters are there, and no tick passes beyond before (assumption 33). -/
def execHallmarkLatch (s : State) : Host.Outcome State Fault Refusal :=
  match s.dev.latch with
  | none => .next s
  | some l =>
    let due := s.liveLocs.filter fun c => !l.taken.contains c && decide (l.tick ≤ s.tickAt c)
    let new := s.latchWords l.tick due
    let t := s.setDev fun d => { d with
      latch := some { l with taken := l.taken ++ due }
      hmwords := new ++ d.hmwords.filter fun e => !(new.any fun x => x.1 == e.1) }
    .next (if l.tick ≤ s.dev.ticks then
      t.setDev fun d => { d with
        latch := none
        hmtick := BitVec.ofNat 64 l.tick
        hmctl := (d.hmctl &&& 0x1000000000000000#64) ||| wordOf [(63, 1, 1), (61, 2, l.src)] }
    else t)

/-- Whether a block exists on a chiplet that is present and not fenced (R444) (assumption 33). -/
def State.blockExists (s : State) (loc blk : Nat) : Bool :=
  match loc / 256 with
  | 0 => (s.chipAt loc).state != 6 && (decide (blk ≤ 10) || blk == 12)
  | 1 => decide (loc % 256 < 64) && !s.dev.memLost.contains (loc % 256) && (decide (blk < 8) || blk == 11)
  | _ => false

/-- `diag.hmrd` (R444): bits 63:18 of the selector set raise subcause 4. -/
def execDiagHmrd (d a : BitVec 3) (s : State) : Host.Outcome State Fault Refusal :=
  run s 1 do
    supervisor s 0
    let v ← readG s a
    ensure (bits v 18 46 == 0) (illegal s 4)
    let loc := bits v 0 10
    let blk := bits v 10 5
    writeG s d (
      if s.blockExists loc blk then (assoc (hmKey loc blk) [] s.dev.hmwords).getD (bits v 15 3) 0 else BitVec.allOnes 64)

/-! ## No instruction -/

/-- ILLEGAL_INSTRUCTION (R172, R173): TVAL holds the words (assumption 55). -/
def execIllegalInstruction (base ext : BitVec 32) (sub : Nat) (s : State) : Host.Outcome State Fault Refusal :=
  .next (raise s 0x01 sub (ext ++ base) false)

/-- INSTRUCTION_FETCH_FAULT (R252): a fault of the fetch; poison restarts an open region (R438). -/
def execInstructionFetchFault (code sub : Nat) (va : Word) (s : State) : Host.Outcome State Fault Refusal :=
  stopped ⟨s, if code = 0x06 then .poison sub va false else .trap code sub va false⟩

end Sys2Proof.Machine
end

