-- ==== Sys2Proof/Machine/Dispatch.lean ====
section
/-! DEFINITION. One arm for each constructor of Instr: the meaning it has. -/

namespace Sys2Proof.Machine

def exec (i : Instr) (s : State) : Host.Outcome State Fault Refusal :=
  match i with
  | .add d a b => Sys2Proof.Machine.execAdd d a b s
  | .sub d a b => Sys2Proof.Machine.execSub d a b s
  | .and d a b => Sys2Proof.Machine.execAnd d a b s
  | .or d a b => Sys2Proof.Machine.execOr d a b s
  | .xor d a b => Sys2Proof.Machine.execXor d a b s
  | .andn d a b => Sys2Proof.Machine.execAndn d a b s
  | .sll d a b x => Sys2Proof.Machine.execSll d a b x s
  | .srl d a b x => Sys2Proof.Machine.execSrl d a b x s
  | .sra d a b x => Sys2Proof.Machine.execSra d a b x s
  | .slt d a b => Sys2Proof.Machine.execSlt d a b s
  | .sltu d a b => Sys2Proof.Machine.execSltu d a b s
  | .min d a b => Sys2Proof.Machine.execMin d a b s
  | .max d a b => Sys2Proof.Machine.execMax d a b s
  | .minu d a b => Sys2Proof.Machine.execMinu d a b s
  | .maxu d a b => Sys2Proof.Machine.execMaxu d a b s
  | .mov d a => Sys2Proof.Machine.execMov d a s
  | .addi d a ix => Sys2Proof.Machine.execAddi d a ix s
  | .andi d a ix => Sys2Proof.Machine.execAndi d a ix s
  | .ori d a ix => Sys2Proof.Machine.execOri d a ix s
  | .xori d a ix => Sys2Proof.Machine.execXori d a ix s
  | .ldi d ix => Sys2Proof.Machine.execLdi d ix s
  | .ldiCat d ix => Sys2Proof.Machine.execLdiCat d ix s
  | .lea d a b sp_ => Sys2Proof.Machine.execLea d a b sp_ s
  | .leaF d a b => Sys2Proof.Machine.execLeaF d a b s
  | .bfExtu d a b => Sys2Proof.Machine.execBfExtu d a b s
  | .bfExts d a b => Sys2Proof.Machine.execBfExts d a b s
  | .bfIns d a b => Sys2Proof.Machine.execBfIns d a b s
  | .popc d a => Sys2Proof.Machine.execPopc d a s
  | .clz d a => Sys2Proof.Machine.execClz d a s
  | .ctz d a => Sys2Proof.Machine.execCtz d a s
  | .mul d a b => Sys2Proof.Machine.execMul d a b s
  | .mulh d a b => Sys2Proof.Machine.execMulh d a b s
  | .mulhu d a b => Sys2Proof.Machine.execMulhu d a b s
  | .div d a b => Sys2Proof.Machine.execDiv d a b s
  | .divu d a b => Sys2Proof.Machine.execDivu d a b s
  | .rem d a b => Sys2Proof.Machine.execRem d a b s
  | .remu d a b => Sys2Proof.Machine.execRemu d a b s
  | .bEq a b o => Sys2Proof.Machine.execBEq a b o s
  | .bNe a b o => Sys2Proof.Machine.execBNe a b o s
  | .bLt a b o => Sys2Proof.Machine.execBLt a b o s
  | .bGe a b o => Sys2Proof.Machine.execBGe a b o s
  | .bLtu a b o => Sys2Proof.Machine.execBLtu a b o s
  | .bGeu a b o => Sys2Proof.Machine.execBGeu a b o s
  | .bZ a o => Sys2Proof.Machine.execBZ a o s
  | .bNz a o => Sys2Proof.Machine.execBNz a o s
  | .jal l o => Sys2Proof.Machine.execJal l o s
  | .jr a => Sys2Proof.Machine.execJr a s
  | .jalr d a => Sys2Proof.Machine.execJalr d a s
  | .ret a => Sys2Proof.Machine.execRet a s
  | .rpt k n d a b c => Sys2Proof.Machine.execRpt k n d a b c s
  | .repeatReplay => Sys2Proof.Machine.execRepeatReplay s
  | .spawn d a b => Sys2Proof.Machine.execSpawn d a b s
  | .exit => Sys2Proof.Machine.execExit s
  | .yield => Sys2Proof.Machine.execYield s
  | .sleep a => Sys2Proof.Machine.execSleep a s
  | .evret => Sys2Proof.Machine.execEvret s
  | .evEn m => Sys2Proof.Machine.execEvEn m s
  | .evDis m => Sys2Proof.Machine.execEvDis m s
  | .evWait => Sys2Proof.Machine.execEvWait s
  | .rgnBegin => Sys2Proof.Machine.execRgnBegin s
  | .rgnEnd => Sys2Proof.Machine.execRgnEnd s
  | .topoGrid d => Sys2Proof.Machine.execTopoGrid d s
  | .topoSelf d => Sys2Proof.Machine.execTopoSelf d s
  | .topoCore d a => Sys2Proof.Machine.execTopoCore d a s
  | .topoDom d a => Sys2Proof.Machine.execTopoDom d a s
  | .topoState d a => Sys2Proof.Machine.execTopoState d a s
  | .topoLaunch d => Sys2Proof.Machine.execTopoLaunch d s
  | .launch d a b => Sys2Proof.Machine.execLaunch d a b s
  | .lchStat d a => Sys2Proof.Machine.execLchStat d a s
  | .ckpt => Sys2Proof.Machine.execCkpt s
  | .lqSet a b => Sys2Proof.Machine.execLqSet a b s
  | .lchAbort a => Sys2Proof.Machine.execLchAbort a s
  | .lchResume a => Sys2Proof.Machine.execLchResume a s
  | .ld z e d b ix w m => Sys2Proof.Machine.execLd z e d b ix w m s
  | .ldAcq z e d b ix w m => Sys2Proof.Machine.execLdAcq z e d b ix w m s
  | .ldFe z e d b ix w m => Sys2Proof.Machine.execLdFe z e d b ix w m s
  | .ldNt z e d b ix w m => Sys2Proof.Machine.execLdNt z e d b ix w m s
  | .st z g b ix w m => Sys2Proof.Machine.execSt z g b ix w m s
  | .stRel z g b ix w m => Sys2Proof.Machine.execStRel z g b ix w m s
  | .stFe z g b ix w m => Sys2Proof.Machine.execStFe z g b ix w m s
  | .stNt z g b ix w m => Sys2Proof.Machine.execStNt z g b ix w m s
  | .ldF f b ix w o m => Sys2Proof.Machine.execLdF f b ix w o m s
  | .stF f b ix w o m => Sys2Proof.Machine.execStF f b ix w o m s
  | .ldFAdv f b w o => Sys2Proof.Machine.execLdFAdv f b w o s
  | .vld z v b ix w o m => Sys2Proof.Machine.execVld z v b ix w o m s
  | .vldGather z v b j w o m => Sys2Proof.Machine.execVldGather z v b j w o m s
  | .vst z v b ix w o m => Sys2Proof.Machine.execVst z v b ix w o m s
  | .vstScatter z v b j w o m => Sys2Proof.Machine.execVstScatter z v b j w o m s
  | .vldF v b ix w o m => Sys2Proof.Machine.execVldF v b ix w o m s
  | .vldFGather v b j w o m => Sys2Proof.Machine.execVldFGather v b j w o m s
  | .vstF v b ix w o m => Sys2Proof.Machine.execVstF v b ix w o m s
  | .vstFScatter v b j w o m => Sys2Proof.Machine.execVstFScatter v b j w o m s
  | .ldFeTake d a => Sys2Proof.Machine.execLdFeTake d a s
  | .feClr a => Sys2Proof.Machine.execFeClr a s
  | .feSet a => Sys2Proof.Machine.execFeSet a s
  | .feTest d a => Sys2Proof.Machine.execFeTest d a s
  | .gEmpty d => Sys2Proof.Machine.execGEmpty d s
  | .pfL2 b ix m => Sys2Proof.Machine.execPfL2 b ix m s
  | .pfMsc b ix m => Sys2Proof.Machine.execPfMsc b ix m s
  | .pfL1 b ix m => Sys2Proof.Machine.execPfL1 b ix m s
  | .ldScoped d a w z e sc o ix m => Sys2Proof.Machine.execLdScoped d a w z e sc o ix m s
  | .stScoped g a w z sc o ix m => Sys2Proof.Machine.execStScoped g a w z sc o ix m s
  | .amoAdd d a b sp_ => Sys2Proof.Machine.execAmoAdd d a b sp_ s
  | .amoAnd d a b sp_ => Sys2Proof.Machine.execAmoAnd d a b sp_ s
  | .amoOr d a b sp_ => Sys2Proof.Machine.execAmoOr d a b sp_ s
  | .amoXor d a b sp_ => Sys2Proof.Machine.execAmoXor d a b sp_ s
  | .amoMin d a b sp_ => Sys2Proof.Machine.execAmoMin d a b sp_ s
  | .amoMax d a b sp_ => Sys2Proof.Machine.execAmoMax d a b sp_ s
  | .amoMinu d a b sp_ => Sys2Proof.Machine.execAmoMinu d a b sp_ s
  | .amoMaxu d a b sp_ => Sys2Proof.Machine.execAmoMaxu d a b sp_ s
  | .amoSwap d a b sp_ => Sys2Proof.Machine.execAmoSwap d a b sp_ s
  | .amoInc d a b sp_ => Sys2Proof.Machine.execAmoInc d a b sp_ s
  | .amoDec d a b sp_ => Sys2Proof.Machine.execAmoDec d a b sp_ s
  | .cas d a b sp_ c => Sys2Proof.Machine.execCas d a b sp_ c s
  | .updAdd a b sp_ => Sys2Proof.Machine.execUpdAdd a b sp_ s
  | .updAnd a b sp_ => Sys2Proof.Machine.execUpdAnd a b sp_ s
  | .updOr a b sp_ => Sys2Proof.Machine.execUpdOr a b sp_ s
  | .updXor a b sp_ => Sys2Proof.Machine.execUpdXor a b sp_ s
  | .updMin a b sp_ => Sys2Proof.Machine.execUpdMin a b sp_ s
  | .updMax a b sp_ => Sys2Proof.Machine.execUpdMax a b sp_ s
  | .updMinu a b sp_ => Sys2Proof.Machine.execUpdMinu a b sp_ s
  | .updMaxu a b sp_ => Sys2Proof.Machine.execUpdMaxu a b sp_ s
  | .migrate a => Sys2Proof.Machine.execMigrate a s
  | .migrateRet => Sys2Proof.Machine.execMigrateRet s
  | .amoScoped d a b w op sc o m => Sys2Proof.Machine.execAmoScoped d a b w op sc o m s
  | .casScoped d a b c w sp_ sc o m => Sys2Proof.Machine.execCasScoped d a b c w sp_ sc o m s
  | .barArr d a n => Sys2Proof.Machine.execBarArr d a n s
  | .barArrRlx d a n => Sys2Proof.Machine.execBarArrRlx d a n s
  | .barWait a n => Sys2Proof.Machine.execBarWait a n s
  | .barSync a n => Sys2Proof.Machine.execBarSync a n s
  | .barRmt a b r sp_ => Sys2Proof.Machine.execBarRmt a b r sp_ s
  | .remoteArrival k => Sys2Proof.Machine.execRemoteArrival k s
  | .semPost a sp_ => Sys2Proof.Machine.execSemPost a sp_ s
  | .semWait a sp_ => Sys2Proof.Machine.execSemWait a sp_ s
  | .semTry d a sp_ => Sys2Proof.Machine.execSemTry d a sp_ s
  | .semRd d sp_ => Sys2Proof.Machine.execSemRd d sp_ s
  | .fence sp_ => Sys2Proof.Machine.execFence sp_ s
  | .fenceAcq sp_ => Sys2Proof.Machine.execFenceAcq sp_ s
  | .fenceRel sp_ => Sys2Proof.Machine.execFenceRel sp_ s
  | .twait t => Sys2Proof.Machine.execTwait t s
  | .dbarArr d a l => Sys2Proof.Machine.execDbarArr d a l s
  | .dbarWait a l => Sys2Proof.Machine.execDbarWait a l s
  | .dbarSync a l => Sys2Proof.Machine.execDbarSync a l s
  | .dphase d l => Sys2Proof.Machine.execDphase d l s
  | .dphaseT d l => Sys2Proof.Machine.execDphaseT d l s
  | .dbarContribution k => Sys2Proof.Machine.execDbarContribution k s
  | .dbarPhaseFlood k => Sys2Proof.Machine.execDbarPhaseFlood k s
  | .fadd d a b => Sys2Proof.Machine.execFadd d a b s
  | .fsub d a b => Sys2Proof.Machine.execFsub d a b s
  | .fmul d a b => Sys2Proof.Machine.execFmul d a b s
  | .fdiv d a b => Sys2Proof.Machine.execFdiv d a b s
  | .fsqrt d a => Sys2Proof.Machine.execFsqrt d a s
  | .fmin d a b => Sys2Proof.Machine.execFmin d a b s
  | .fmax d a b => Sys2Proof.Machine.execFmax d a b s
  | .frint d a => Sys2Proof.Machine.execFrint d a s
  | .frintX d a => Sys2Proof.Machine.execFrintX d a s
  | .fma d a b c => Sys2Proof.Machine.execFma d a b c s
  | .fnma d a b c => Sys2Proof.Machine.execFnma d a b c s
  | .fms d a b c => Sys2Proof.Machine.execFms d a b c s
  | .fnms d a b c => Sys2Proof.Machine.execFnms d a b c s
  | .feq d a b => Sys2Proof.Machine.execFeq d a b s
  | .flt d a b => Sys2Proof.Machine.execFlt d a b s
  | .fle d a b => Sys2Proof.Machine.execFle d a b s
  | .fltQ d a b => Sys2Proof.Machine.execFltQ d a b s
  | .fleQ d a b => Sys2Proof.Machine.execFleQ d a b s
  | .fcmp d a b => Sys2Proof.Machine.execFcmp d a b s
  | .fclass d a => Sys2Proof.Machine.execFclass d a s
  | .precSet a => Sys2Proof.Machine.execPrecSet a s
  | .precP n => Sys2Proof.Machine.execPrecP n s
  | .precRm m => Sys2Proof.Machine.execPrecRm m s
  | .precGet d => Sys2Proof.Machine.execPrecGet d s
  | .precSwap d a => Sys2Proof.Machine.execPrecSwap d a s
  | .fflagsRd d => Sys2Proof.Machine.execFflagsRd d s
  | .fflagsClr m => Sys2Proof.Machine.execFflagsClr m s
  | .fwinSet sp_ => Sys2Proof.Machine.execFwinSet sp_ s
  | .fwinGet d => Sys2Proof.Machine.execFwinGet d s
  | .fmov d a => Sys2Proof.Machine.execFmov d a s
  | .fneg d a => Sys2Proof.Machine.execFneg d a s
  | .fabs d a => Sys2Proof.Machine.execFabs d a s
  | .fsgn d a b => Sys2Proof.Machine.execFsgn d a b s
  | .fsgnn d a b => Sys2Proof.Machine.execFsgnn d a b s
  | .fsgnx d a b => Sys2Proof.Machine.execFsgnx d a b s
  | .fconst d n => Sys2Proof.Machine.execFconst d n s
  | .vaddVf d a b sp_ w m n => Sys2Proof.Machine.execVaddVf d a b sp_ w m n s
  | .vsubVf d a b sp_ w m n => Sys2Proof.Machine.execVsubVf d a b sp_ w m n s
  | .vmulVf d a b sp_ w m n => Sys2Proof.Machine.execVmulVf d a b sp_ w m n s
  | .vdivVf d a b sp_ w m n => Sys2Proof.Machine.execVdivVf d a b sp_ w m n s
  | .vminVf d a b sp_ w m n => Sys2Proof.Machine.execVminVf d a b sp_ w m n s
  | .vmaxVf d a b sp_ w m n => Sys2Proof.Machine.execVmaxVf d a b sp_ w m n s
  | .vsqrtVf d a w m => Sys2Proof.Machine.execVsqrtVf d a w m s
  | .vnegVf d a w m => Sys2Proof.Machine.execVnegVf d a w m s
  | .vabsVf d a w m => Sys2Proof.Machine.execVabsVf d a w m s
  | .vrintVf d a w m => Sys2Proof.Machine.execVrintVf d a w m s
  | .vaddInt d a b sp_ w m n z => Sys2Proof.Machine.execVaddInt d a b sp_ w m n z s
  | .vsubInt d a b sp_ w m n z => Sys2Proof.Machine.execVsubInt d a b sp_ w m n z s
  | .vmulInt d a b sp_ w m n z => Sys2Proof.Machine.execVmulInt d a b sp_ w m n z s
  | .vadds d a b sp_ w m n z => Sys2Proof.Machine.execVadds d a b sp_ w m n z s
  | .vaddus d a b w m z => Sys2Proof.Machine.execVaddus d a b w m z s
  | .vsubs d a b w m z => Sys2Proof.Machine.execVsubs d a b w m z s
  | .vsubus d a b w m z => Sys2Proof.Machine.execVsubus d a b w m z s
  | .vand d a b w m z => Sys2Proof.Machine.execVand d a b w m z s
  | .vor d a b w m z => Sys2Proof.Machine.execVor d a b w m z s
  | .vxor d a b w m z => Sys2Proof.Machine.execVxor d a b w m z s
  | .vminInt d a b w m z => Sys2Proof.Machine.execVminInt d a b w m z s
  | .vmaxInt d a b w m z => Sys2Proof.Machine.execVmaxInt d a b w m z s
  | .vminu d a b w m z => Sys2Proof.Machine.execVminu d a b w m z s
  | .vmaxu d a b w m z => Sys2Proof.Machine.execVmaxu d a b w m z s
  | .vsll d a b w m z => Sys2Proof.Machine.execVsll d a b w m z s
  | .vsrl d a b w m z => Sys2Proof.Machine.execVsrl d a b w m z s
  | .vsra d a b w m z => Sys2Proof.Machine.execVsra d a b w m z s
  | .vmulh d a b w m z => Sys2Proof.Machine.execVmulh d a b w m z s
  | .vmulhu d a b w m z => Sys2Proof.Machine.execVmulhu d a b w m z s
  | .vfmaVf d a b sp_ w m n => Sys2Proof.Machine.execVfmaVf d a b sp_ w m n s
  | .vfmsVf d a b sp_ w m n => Sys2Proof.Machine.execVfmsVf d a b sp_ w m n s
  | .vfnmaVf d a b sp_ w m n => Sys2Proof.Machine.execVfnmaVf d a b sp_ w m n s
  | .vfnmsVf d a b sp_ w m n => Sys2Proof.Machine.execVfnmsVf d a b sp_ w m n s
  | .vmac d a b sp_ w m n z => Sys2Proof.Machine.execVmac d a b sp_ w m n z s
  | .vcmpEqVf d a b sp_ w m n => Sys2Proof.Machine.execVcmpEqVf d a b sp_ w m n s
  | .vcmpLtVf d a b sp_ w m n => Sys2Proof.Machine.execVcmpLtVf d a b sp_ w m n s
  | .vcmpLeVf d a b sp_ w m n => Sys2Proof.Machine.execVcmpLeVf d a b sp_ w m n s
  | .vcmpUnVf d a b sp_ w m n => Sys2Proof.Machine.execVcmpUnVf d a b sp_ w m n s
  | .vcmpEqInt d a b sp_ w m n z => Sys2Proof.Machine.execVcmpEqInt d a b sp_ w m n z s
  | .vcmpLtInt d a b sp_ w m n z => Sys2Proof.Machine.execVcmpLtInt d a b sp_ w m n z s
  | .vcmpLtuInt d a b sp_ w m n z => Sys2Proof.Machine.execVcmpLtuInt d a b sp_ w m n z s
  | .mand d a b w => Sys2Proof.Machine.execMand d a b w s
  | .mor d a b w => Sys2Proof.Machine.execMor d a b w s
  | .mxor d a b w => Sys2Proof.Machine.execMxor d a b w s
  | .mandn d a b w => Sys2Proof.Machine.execMandn d a b w s
  | .mnot d a w => Sys2Proof.Machine.execMnot d a w s
  | .mpopc d a w => Sys2Proof.Machine.execMpopc d a w s
  | .mfirst d a w => Sys2Proof.Machine.execMfirst d a w s
  | .mfromg d a b w => Sys2Proof.Machine.execMfromg d a b w s
  | .mtog d a h w => Sys2Proof.Machine.execMtog d a h w s
  | .vrsumVf d a w m => Sys2Proof.Machine.execVrsumVf d a w m s
  | .vrminVf d a w m => Sys2Proof.Machine.execVrminVf d a w m s
  | .vrmaxVf d a w m => Sys2Proof.Machine.execVrmaxVf d a w m s
  | .vscanVf d a w m => Sys2Proof.Machine.execVscanVf d a w m s
  | .vrsumInt d a w m z => Sys2Proof.Machine.execVrsumInt d a w m z s
  | .vrminInt d a w m z => Sys2Proof.Machine.execVrminInt d a w m z s
  | .vrmaxInt d a w m z => Sys2Proof.Machine.execVrmaxInt d a w m z s
  | .vrminu d a w m z => Sys2Proof.Machine.execVrminu d a w m z s
  | .vrmaxu d a w m z => Sys2Proof.Machine.execVrmaxu d a w m z s
  | .vrand d a w m z => Sys2Proof.Machine.execVrand d a w m z s
  | .vror d a w m z => Sys2Proof.Machine.execVror d a w m z s
  | .vrxor d a w m z => Sys2Proof.Machine.execVrxor d a w m z s
  | .vscanInt d a w m z => Sys2Proof.Machine.execVscanInt d a w m z s
  | .vperm d a b sp_ w m n k => Sys2Proof.Machine.execVperm d a b sp_ w m n k s
  | .vslideup d a b w m k => Sys2Proof.Machine.execVslideup d a b w m k s
  | .vslidedn d a b w m k => Sys2Proof.Machine.execVslidedn d a b w m k s
  | .vsplatInt d a w m z => Sys2Proof.Machine.execVsplatInt d a w m z s
  | .vsplatVf d a w m => Sys2Proof.Machine.execVsplatVf d a w m s
  | .vextInt d a b w z => Sys2Proof.Machine.execVextInt d a b w z s
  | .vextVf d a b w => Sys2Proof.Machine.execVextVf d a b w s
  | .vinsInt d a b w m z => Sys2Proof.Machine.execVinsInt d a b w m z s
  | .vinsVf d a b w m => Sys2Proof.Machine.execVinsVf d a b w m s
  | .vcompress d a w m k => Sys2Proof.Machine.execVcompress d a w m k s
  | .vmov d a w => Sys2Proof.Machine.execVmov d a w s
  | .vcvtVfInt d a h w m k => Sys2Proof.Machine.execVcvtVfInt d a h w m k s
  | .vcvtIntVf d a h w m k => Sys2Proof.Machine.execVcvtIntVf d a h w m k s
  | .vcvtIntVfRtz d a h w m k => Sys2Proof.Machine.execVcvtIntVfRtz d a h w m k s
  | .vcvtVfIeee d a h w m k => Sys2Proof.Machine.execVcvtVfIeee d a h w m k s
  | .vcvtIeeeVf d a h w m k => Sys2Proof.Machine.execVcvtIeeeVf d a h w m k s
  | .splWait n h => Sys2Proof.Machine.execSplWait n h s
  | .splRel n h => Sys2Proof.Machine.execSplRel n h s
  | .splRd d h => Sys2Proof.Machine.execSplRd d h s
  | .splWr d n h => Sys2Proof.Machine.execSplWr d n h s
  | .splCommit n h => Sys2Proof.Machine.execSplCommit n h s
  | .splFill d h => Sys2Proof.Machine.execSplFill d h s
  | .cvtVfInt a k f => Sys2Proof.Machine.execCvtVfInt a k f s
  | .cvtIntVf d k r f => Sys2Proof.Machine.execCvtIntVf d k r f s
  | .cvtVfIeee a k f => Sys2Proof.Machine.execCvtVfIeee a k f s
  | .cvtIeeeVf d k f => Sys2Proof.Machine.execCvtIeeeVf d k f s
  | .cvtVfE8m10 a f => Sys2Proof.Machine.execCvtVfE8m10 a f s
  | .cvtE8m10Vf d f => Sys2Proof.Machine.execCvtE8m10Vf d f s
  | .tblLoad a sp_ => Sys2Proof.Machine.execTblLoad a sp_ s
  | .tblLoadArr a sp_ => Sys2Proof.Machine.execTblLoadArr a sp_ s
  | .tblRd d a sp_ => Sys2Proof.Machine.execTblRd d a sp_ s
  | .tblInv sp_ => Sys2Proof.Machine.execTblInv sp_ s
  | .qntBf16 d a b sp_ => Sys2Proof.Machine.execQntBf16 d a b sp_ s
  | .qntF32 d a b sp_ => Sys2Proof.Machine.execQntF32 d a b sp_ s
  | .qntVf d a b sp_ => Sys2Proof.Machine.execQntVf d a b sp_ s
  | .qntFin d b sp_ => Sys2Proof.Machine.execQntFin d b sp_ s
  | .tritPack d a => Sys2Proof.Machine.execTritPack d a s
  | .tritUnpack d a => Sys2Proof.Machine.execTritUnpack d a s
  | .tritPackM d a b => Sys2Proof.Machine.execTritPackM d a b s
  | .tritUnpackM d a b => Sys2Proof.Machine.execTritUnpackM d a b s
  | .bsSeek a => Sys2Proof.Machine.execBsSeek a s
  | .bsGet d w => Sys2Proof.Machine.execBsGet d w s
  | .bsGets d w => Sys2Proof.Machine.execBsGets d w s
  | .bsPeek d w => Sys2Proof.Machine.execBsPeek d w s
  | .bsSkip w => Sys2Proof.Machine.execBsSkip w s
  | .bsGetr d b => Sys2Proof.Machine.execBsGetr d b s
  | .bsSkipr b => Sys2Proof.Machine.execBsSkipr b s
  | .bsRice d k => Sys2Proof.Machine.execBsRice d k s
  | .bsAlign => Sys2Proof.Machine.execBsAlign s
  | .bsPos d => Sys2Proof.Machine.execBsPos d s
  | .arrMv a b c w acc gm sp sph spn sl => Sys2Proof.Machine.execArrMv a b c w acc gm sp sph spn sl s
  | .arrMm a b c w acc gm sp sph spn sl nb => Sys2Proof.Machine.execArrMm a b c w acc gm sp sph spn sl nb s
  | .arrDrain a c w acc dk dst spn ns => Sys2Proof.Machine.execArrDrain a c w acc dk dst spn ns s
  | .arrAnchor a sp_ => Sys2Proof.Machine.execArrAnchor a sp_ s
  | .arrAnchorOs a b sp_ => Sys2Proof.Machine.execArrAnchorOs a b sp_ s
  | .arrClear n sp_ => Sys2Proof.Machine.execArrClear n sp_ s
  | .arrClearLd a b sp_ => Sys2Proof.Machine.execArrClearLd a b sp_ s
  | .arrStat d b sp_ => Sys2Proof.Machine.execArrStat d b sp_ s
  | .arrStatRec a b sp_ => Sys2Proof.Machine.execArrStatRec a b sp_ s
  | .arrWscaleRd d a => Sys2Proof.Machine.execArrWscaleRd d a s
  | .arrWscale a b => Sys2Proof.Machine.execArrWscale a b s
  | .plIsect d a b w nc out osp => Sys2Proof.Machine.execPlIsect d a b w nc out osp s
  | .plUnion d a b w nc out osp => Sys2Proof.Machine.execPlUnion d a b w nc out osp s
  | .plFuse d b w osp isp => Sys2Proof.Machine.execPlFuse d b w osp isp s
  | .plTopk d b w osp isp => Sys2Proof.Machine.execPlTopk d b w osp isp s
  | .plOpen d a b => Sys2Proof.Machine.execPlOpen d a b s
  | .plClose a => Sys2Proof.Machine.execPlClose a s
  | .plNext d a => Sys2Proof.Machine.execPlNext d a s
  | .plSkip d a b => Sys2Proof.Machine.execPlSkip d a b s
  | .plScore d a => Sys2Proof.Machine.execPlScore d a s
  | .plStat d a => Sys2Proof.Machine.execPlStat d a s
  | .plEngineStep f => Sys2Proof.Machine.execPlEngineStep f s
  | .cpPull a b c w fn esz tok lc nt sl fmt tr tc => Sys2Proof.Machine.execCpPull a b c w fn esz tok lc nt sl fmt tr tc s
  | .cpPush d a b c w fn tok scs nt sl fmt => Sys2Proof.Machine.execCpPush d a b c w fn tok scs nt sl fmt s
  | .cpGather d a b c w spl tok nt ixw rblk => Sys2Proof.Machine.execCpGather d a b c w spl tok nt ixw rblk s
  | .copyUnitDeliver ch k => Sys2Proof.Machine.execCopyUnitDeliver ch k s
  | .copySpoolPiece ch k => Sys2Proof.Machine.execCopySpoolPiece ch k s
  | .copyComplete ch k => Sys2Proof.Machine.execCopyComplete ch k s
  | .msgSend d a b c w tr rpl npl tag => Sys2Proof.Machine.execMsgSend d a b c w tr rpl npl tag s
  | .msgReply a b w => Sys2Proof.Machine.execMsgReply a b w s
  | .messageAccept f => Sys2Proof.Machine.execMessageAccept f s
  | .sendTryTimeout f => Sys2Proof.Machine.execSendTryTimeout f s
  | .sendQueueFull f => Sys2Proof.Machine.execSendQueueFull f s
  | .messageArrival k => Sys2Proof.Machine.execMessageArrival k s
  | .eventEntry f => Sys2Proof.Machine.execEventEntry f s
  | .replyArrival k => Sys2Proof.Machine.execReplyArrival k s
  | .registerFill f shadow r v nack => Sys2Proof.Machine.execRegisterFill f shadow r v nack s
  | .strSend a w lvl mrk mesh vs fs src v => Sys2Proof.Machine.execStrSend a w lvl mrk mesh vs fs src v s
  | .strRecv a w vs fs src v => Sys2Proof.Machine.execStrRecv a w vs fs src v s
  | .strBind a b n => Sys2Proof.Machine.execStrBind a b n s
  | .strUnbind n => Sys2Proof.Machine.execStrUnbind n s
  | .strExp b n => Sys2Proof.Machine.execStrExp b n s
  | .netDrain => Sys2Proof.Machine.execNetDrain s
  | .strRoute a b => Sys2Proof.Machine.execStrRoute a b s
  | .strRdroute d a => Sys2Proof.Machine.execStrRdroute d a s
  | .streamSlotSend f => Sys2Proof.Machine.execStreamSlotSend f s
  | .routerStreamPacket k => Sys2Proof.Machine.execRouterStreamPacket k s
  | .streamDeferredSend k => Sys2Proof.Machine.execStreamDeferredSend k s
  | .reductionLimitExpiry k => Sys2Proof.Machine.execReductionLimitExpiry k s
  | .streamPortArrival k => Sys2Proof.Machine.execStreamPortArrival k s
  | .srd g sp_ => Sys2Proof.Machine.execSrd g sp_ s
  | .swr g sp_ => Sys2Proof.Machine.execSwr g sp_ s
  | .sswp g sp_ => Sys2Proof.Machine.execSswp g sp_ s
  | .sset g sp_ => Sys2Proof.Machine.execSset g sp_ s
  | .sclr g sp_ => Sys2Proof.Machine.execSclr g sp_ s
  | .registerWrite reg v => Sys2Proof.Machine.execRegisterWrite reg v s
  | .precWrite v => Sys2Proof.Machine.execPrecWrite v s
  | .fwinWrite v => Sys2Proof.Machine.execFwinWrite v s
  | .skmapWrite v => Sys2Proof.Machine.execSkmapWrite v s
  | .spcfgWrite h v => Sys2Proof.Machine.execSpcfgWrite h v s
  | .bbcntWrite v => Sys2Proof.Machine.execBbcntWrite v s
  | .bbaddrWrite v => Sys2Proof.Machine.execBbaddrWrite v s
  | .netselWrite j v => Sys2Proof.Machine.execNetselWrite j v s
  | .semWrite k v => Sys2Proof.Machine.execSemWrite k v s
  | .freqWrite v => Sys2Proof.Machine.execFreqWrite v s
  | .delayselWrite v => Sys2Proof.Machine.execDelayselWrite v s
  | .elctlWrite v g => Sys2Proof.Machine.execElctlWrite v g s
  | .hmctlWrite v g => Sys2Proof.Machine.execHmctlWrite v g s
  | .trap a n => Sys2Proof.Machine.execTrap a n s
  | .tret => Sys2Proof.Machine.execTret s
  | .tretRgn => Sys2Proof.Machine.execTretRgn s
  | .hallmark => Sys2Proof.Machine.execHallmark s
  | .diagStc d a b c r => Sys2Proof.Machine.execDiagStc d a b c r s
  | .diagLdc d a => Sys2Proof.Machine.execDiagLdc d a s
  | .diagLdr d a => Sys2Proof.Machine.execDiagLdr d a s
  | .diagPoison a => Sys2Proof.Machine.execDiagPoison a s
  | .diagFence a => Sys2Proof.Machine.execDiagFence a s
  | .diagHmrd d a => Sys2Proof.Machine.execDiagHmrd d a s
  | .l1Inv => Sys2Proof.Machine.execL1Inv s
  | .l1Drain => Sys2Proof.Machine.execL1Drain s
  | .l2Wb a => Sys2Proof.Machine.execL2Wb a s
  | .l2Wbinv a => Sys2Proof.Machine.execL2Wbinv a s
  | .l2Inv a => Sys2Proof.Machine.execL2Inv a s
  | .l2WbinvSlice a => Sys2Proof.Machine.execL2WbinvSlice a s
  | .mscWbinvKey a => Sys2Proof.Machine.execMscWbinvKey a s
  | .cmSync => Sys2Proof.Machine.execCmSync s
  | .tlbInvVa a b => Sys2Proof.Machine.execTlbInvVa a b s
  | .tlbInvAs a => Sys2Proof.Machine.execTlbInvAs a s
  | .tlbInvAll => Sys2Proof.Machine.execTlbInvAll s
  | .tlbSync => Sys2Proof.Machine.execTlbSync s
  | .tlbProbe d a b => Sys2Proof.Machine.execTlbProbe d a b s
  | .invalidationComplete ch k => Sys2Proof.Machine.execInvalidationComplete ch k s
  | .maintenanceComplete k => Sys2Proof.Machine.execMaintenanceComplete k s
  | .walkerTakesMiss f => Sys2Proof.Machine.execWalkerTakesMiss f s
  | .dataDelivered f => Sys2Proof.Machine.execDataDelivered f s
  | .remoteStorePerformed p => Sys2Proof.Machine.execRemoteStorePerformed p s
  | .writeThroughDrain p k => Sys2Proof.Machine.execWriteThroughDrain p k s
  | .patrolScrub wd => Sys2Proof.Machine.execPatrolScrub wd s
  | .channelRetire mc k => Sys2Proof.Machine.execChannelRetire mc k s
  | .chipletLoss ch => Sys2Proof.Machine.execChipletLoss ch s
  | .migrationArrival f => Sys2Proof.Machine.execMigrationArrival f s
  | .guestInstructionLimit f => Sys2Proof.Machine.execGuestInstructionLimit f s
  | .guestParkLimit f => Sys2Proof.Machine.execGuestParkLimit f s
  | .guestReturnHome f => Sys2Proof.Machine.execGuestReturnHome f s
  | .remoteUpdateExecute k => Sys2Proof.Machine.execRemoteUpdateExecute k s
  | .sleepExpiry f => Sys2Proof.Machine.execSleepExpiry f s
  | .launchDoorbell q => Sys2Proof.Machine.execLaunchDoorbell q s
  | .recordAccept q => Sys2Proof.Machine.execRecordAccept q s
  | .launchAdmission lid => Sys2Proof.Machine.execLaunchAdmission lid s
  | .skeinPlacement lid skn => Sys2Proof.Machine.execSkeinPlacement lid skn s
  | .preemption lid => Sys2Proof.Machine.execPreemption lid s
  | .launchCompletion lid => Sys2Proof.Machine.execLaunchCompletion lid s
  | .completionRingRecheck q => Sys2Proof.Machine.execCompletionRingRecheck q s
  | .gridStall lid => Sys2Proof.Machine.execGridStall lid s
  | .hungCore p => Sys2Proof.Machine.execHungCore p s
  | .freqStepChange => Sys2Proof.Machine.execFreqStepChange s
  | .clockStretch ch => Sys2Proof.Machine.execClockStretch ch s
  | .syncPulse => Sys2Proof.Machine.execSyncPulse s
  | .powerOn => Sys2Proof.Machine.execPowerOn s
  | .bringupAdvance ch => Sys2Proof.Machine.execBringupAdvance ch s
  | .hallmarkLatch => Sys2Proof.Machine.execHallmarkLatch s
  | .rdmaWrite qp rkey va data => Sys2Proof.Machine.execRdmaWrite qp rkey va data s
  | .rdmaRead qp rkey va len => Sys2Proof.Machine.execRdmaRead qp rkey va len s
  | .rdmaInvalidOpcode qp op => Sys2Proof.Machine.execRdmaInvalidOpcode qp op s
  | .illegalInstruction base ext sub => Sys2Proof.Machine.execIllegalInstruction base ext sub s
  | .instructionFetchFault code sub va => Sys2Proof.Machine.execInstructionFetchFault code sub va s
  | .vectorInstructionComplete ch k => Sys2Proof.Machine.execVectorInstructionComplete ch k s
  | .arrayInstructionComplete ch k => Sys2Proof.Machine.execArrayInstructionComplete ch k s
  | .memoryChipletLoss mc => Sys2Proof.Machine.execMemoryChipletLoss mc s
  | .routerOrBondLoss mesh ch dst => Sys2Proof.Machine.execRouterOrBondLoss mesh ch dst s
  | .edgeIoChipletLoss e => Sys2Proof.Machine.execEdgeIoChipletLoss e s
  | .attestationRequest nonce => Sys2Proof.Machine.execAttestationRequest nonce s
  | .keySlotLoad slot key => Sys2Proof.Machine.execKeySlotLoad slot key s

end Sys2Proof.Machine
end

