-- ==== Sys2Proof/Machine/Assay.lean ====
section
/-! DEFINITION. The checks under which results are committed: the assay stage of each core (R439), and the residues of the vector
unit, the array, the copy engine and the posting-list engine (R288, R304, R439). How many checks fail is a free value
(assumption 2). -/

namespace Sys2Proof.Machine

/-- The check that covers an instruction. -/
inductive Check where
  /-- No check that software sees. -/
  | none
  /-- The assay stage of the core (R439). -/
  | stage
  /-- The residues of a unit, with the subcause of its assay fault (R430). -/
  | unit (sub : Nat)
  deriving DecidableEq, Repr

/-- Whether the core forms the address of a memory access for an instruction outside the majors of R439: loads, stores and atomics,
`launch`, `lq.set`, `migrate`, `arr.drain`, `arr.anchor.os`, the record forms of major 0x6A, `str.send`, `str.recv` and the diagnostic
accesses (assumption 14). -/
def formsAddress (m fn : Nat) : Bool :=
  match m with
  | 0x1C => fn == 0 || fn == 3
  | 0x33 => fn == 0
  | 0x69 | 0x75 => true
  | 0x6A => fn == 1 || fn == 3 || fn == 5
  | 0x7A => decide (fn < 4)
  | _ => decide (0x20 ≤ m) && decide (m ≤ 0x2B) || decide (0x30 ≤ m) && decide (m ≤ 0x32) || m == 0x34 || m == 0x35

/-- The check of the instruction with a base word: majors 0x01 to 0x12, 0x40 to 0x45, 0x60 to 0x64 and the addresses of memory accesses in
the assay stage, vector instructions, array passes and single-cursor instructions by the residues of their unit (assumption 14). -/
def checkOf (x : BitVec 32) : Check :=
  let m := (x.extractLsb' 25 7).toNat
  let within (lo hi : Nat) : Bool := decide (lo ≤ m) && decide (m ≤ hi)
  if within 0x01 0x12 || within 0x40 0x45 || within 0x60 0x64 || formsAddress m (x.extractLsb' 8 8).toNat then .stage
  else if within 0x50 0x56 then .unit 0
  else if m = 0x68 then .unit 1
  else if m = 0x6D then .unit 3
  else .none

/-- A record of the assay stage (R441): the physical address of the instruction, 0 where it does not translate, and the core
(assumption 14). -/
def State.logAssay (s : State) (kind : Nat) : State :=
  let pa := match s.agentLeaf s.fib.asid s.fib.pc.toNat with
    | some (_, pa) => pa
    | .none => 0
  s.log kind 0 0 pa s.coreIndex

/-- The core in focus is fenced by its assay stage (R439): recovered as R424 gives; a channel core, which holds only guests, sends
them home. -/
def State.assayFence (s : State) : State :=
  let s := (s.logAssay 0x09).logAssay 0x0A
  if s.core.num < 1024 then s.startRecovery s.core.num 0x17 1
  else (s.setCore fun c => { c with status := .fenced }).clearGuests fun n => n == s.core.num

/-- Run what an instruction does under its check. Where it would retire and one check fails it is computed once more; where a second
one fails as well, it does not commit: the stage fences the core, and a unit raises the assay fault (assumption 14). -/
def checked (x : BitVec 32) (s : State) (go : State → Host.Outcome State Fault Refusal) : Host.Outcome State Fault Refusal :=
  match s.upset with
  | 0 => go s
  | n + 1 =>
    match go s with
    | .next t =>
      if t.core.retired ≤ s.core.retired then .next t else
      match checkOf x with
      | .none => .next t
      | .stage => if n = 0 then go (s.logAssay 0x09) else .next s.assayFence
      | .unit sub =>
        if n = 0 then .next t
        else .next (raise (s.passTurn (if sub = 0 then .vector else if sub = 1 then .array else .engine)) 0x16 sub s.fib.pc false)
    | r => r

/-- Two failed checks of the posting-list engine: the assay fault, precise on the step (R326, R439). -/
def engineAssay (f : FibreId) (s : State) : Host.Outcome State Fault Refusal :=
  match (s.fibre? f).bind Fibre.engineJob with
  | .none => .next s
  | some _ =>
    let t := s.focus f
    if t.chip.engine.next.any fun e => e.fib == f then
      let u := servedEngine (t.setChip fun c => { c with engine := { c.engine with queue := c.engine.queue.filter fun e => e.fib != f } })
      .next (raise u 0x16 3 u.fib.pc false)
    else .next s

/-- Two failed checks of the copy engine: the copy stops before its next unit with the assay fault (R207, R209, R439). -/
def copyAssay (ch k : Nat) (s : State) : Host.Outcome State Fault Refusal :=
  match (s.chipAt ch).copies[k]? with
  | .none => .next s
  | some c => agentStep s do
    let (t, c, p) ← (s.focusCore c.core).planned ch k c
    match p.units with
    | [] => .ok t
    | u :: _ =>
      .ok ((c.closeTail t u.off).putCopy ch k { c with plan := some (p.after (some { code := 0x16, sub := 2, pt := 1, off := u.off })) })

/-- A step of an agent under the residues of its engine. -/
noncomputable def agentChecked (i : Instr) (s : State) : Host.Outcome State Fault Refusal :=
  if s.upset < 2 then exec i s
  else match i with
    | .plEngineStep f => engineAssay f s
    | .copyUnitDeliver ch k => copyAssay ch k s
    | .copySpoolPiece ch k => copyAssay ch k s
    | i => exec i s

end Sys2Proof.Machine
end

