-- ==== Sys2Proof/Machine/Fetch.lean ====
section
/-! DEFINITION. What stands around the execution of one instruction: which fibre may issue (R333), the fetch of its words (R149 to
R151, R252) and the capture of a repeat body (R162, R253), what agents may do next, and which fibre comes next. -/

namespace Sys2Proof.Machine

/-! ## Readiness -/

/-- Whether a fibre is at an instruction to execute: none that it waits for is under way. A held instruction, one that tests what it
waits for, and a queued one whose turn has come are tried again (R333, R334). -/
def State.atIssue (s : State) (f : Fibre) : Bool :=
  match f.park with
  | none => true
  | some .retry => true
  | some .wait => true
  | some (.drain _) => true
  | some (.queued k) => s.turnOf f k
  | _ => false

/-- Whether a fibre may issue: resident, not parked, not travelling, its core in use, no guest at its limit, and its skein not asked to
stop, but for a vector instruction that has entered its queue (R333, R343, R350, R418, R424). -/
def State.canIssue (s : State) (f : Fibre) : Bool :=
  f.live && f.travel.isNone && s.atIssue f && (!f.guest || decide (f.guestCount < 64)) &&
  (match s.skein? f.id.lid f.id.skn with
  | none => false
  | some k => k.resident && (!k.stopping || f.park == some (.queued .vector))) &&
  s.coreLive f.at_

/-! ## Fetch -/

/-- A fetch that stops: a fault with code, subcause and TVAL, a wait for a walker, or a hole where a walk reads. -/
inductive FetchStop where
  | trap (code sub : Nat) (val : Word)
  | park (p : Park)
  | hole (f : Fault)
  deriving DecidableEq, Repr

/-- The stop of an access as a stop of the fetch. -/
def Stop.atFetch (w : Stop) : FetchStop :=
  match w with
  | .trap code sub val _ => .trap code sub val
  | .poison sub val _ => .trap 0x06 sub val
  | .fault f => .hole f
  | .park p => .park p
  | .ship _ => .park .retry

/-- The writes up to the launch boundary from which on a fetch of the fibre in focus may miss one (R151) (assumption 15). -/
def State.fetchSince (s : State) : Nat :=
  match s.myLaunch with
  | some l => l.since
  | none => s.dev.writes

/-- The word that the fetch cache returns at an address: the newest value, or one that it had before a store since the latest launch
boundary (R151); none where that value is poisoned (assumption 15). -/
def State.fetchBytes (s : State) (key : BitVec 512) (pa : Nat) : Option (BitVec 32) :=
  let new := if s.poisonedWord (pa / 8) then none else some (BitVec.ofNat 32 (ofBytes (s.viewBytes key pa 4)))
  let was := (s.dev.past.filter fun e => decide (s.fetchSince ≤ e.at_) && e.word == pa / 8).map fun e =>
    if e.bad then none else some (e.was.extractLsb' (8 * (pa % 8)) 32)
  if was.isEmpty then new else was.getD (Config.staleFetch s.ctr pa % (was.length + 1)) new

/-- Fetch the word at a virtual address (R38, R46, R151, R252): the state after translation and detection, and the word or the
stop (assumption 15). -/
def State.fetchWord (s : State) (va : Word) : State × Except FetchStop (BitVec 32) :=
  let r : Ex (State × Piece) := do
    s.inSpace va 4
    let (t, l, pa) ← s.check s.accFetch va.toNat
    let p : Piece := { pa := pa, va := va.toNat, len := 4, leaf := l }
    let _ ← t.pieceHome p
    .ok (t, p)
  match r with
  | .error h => (h.st, .error h.why.atFetch)
  | .ok (t, p) =>
    let t := t.detect p.pa 4
    match t.fetchBytes (t.key (leafKey p.leaf)) p.pa with
    | none => (t, .error (.trap 0x06 0 va))
    | some x => (t, .ok x)

/-- Fetch an instruction: its base word and, after a long major, its extension word, else 0 (R149, R150). -/
def State.fetch (s : State) (pc : Word) : State × Except FetchStop (BitVec 32 × BitVec 32) :=
  match s.fetchWord pc with
  | (t, .error e) => (t, .error e)
  | (t, .ok x) =>
    if wordBytes x = 8 then
      match t.fetchWord (pc + 4) with
      | (u, .error e) => (u, .error e)
      | (u, .ok y) => (u, .ok (x, y))
    else (t, .ok (x, 0))

/-! ## Issue -/

/-- Whether a repeat body may hold an instruction of this base word (R162). -/
def bodyMajor (x : BitVec 32) : Bool :=
  let m := (x.extractLsb' 25 7).toNat
  (decide (0x40 ≤ m) && decide (m ≤ 0x42)) || m == 0x45 || (decide (0x50 ≤ m) && decide (m ≤ 0x56)) || m == 0x68 || m == 0x69

/-- Record the words in issue, which a trap reports (R430). -/
def State.setFetched (s : State) (x y : BitVec 32) : State :=
  s.setCore fun c => { c with fetched := x.toNat + (if wordBytes x = 8 then y.toNat * 2 ^ 32 else 0) }

/-- The captured words of an open frame when the body instruction at POS is fetched in iteration 0 (R253). -/
def Frame.capture (r : Frame) (x y : BitVec 32) : List (BitVec 32 × BitVec 32) := r.words.take r.pos ++ [(x, y)]

/-- Words of a captured body (R162). -/
def bodyWords (l : List (BitVec 32 × BitVec 32)) : Nat := (l.map fun w => wordsOf w.1).sum

/-- Whether R162 refuses fetched words in the capture of a frame: another major, or more than 16 words. -/
def Frame.refuses (r : Frame) (x y : BitVec 32) : Bool :=
  r.inBody && !(bodyMajor x && decide (bodyWords (r.capture x y) ≤ 16))

/-- Words that R162 refuses close the frame and trap (R162, R257). -/
noncomputable def refuseBody (s : State) (x y : BitVec 32) : Host.Outcome State Fault Refusal :=
  exec (.illegalInstruction x y 6) (s.setFib fun f => ({ f with rpt := f.rpt.close } : Fibre).touch Dirty.rpt)

/-- Run fetched words (R172, R253): a refused word traps; in the capture of a frame the word is checked under R162, at step 5 of R172, and
kept. What an instruction does is committed under its check (R439) (assumption 55). -/
noncomputable def issueWords (s : State) (x y : BitVec 32) : Host.Outcome State Fault Refusal :=
  let s := s.setFetched x y
  match decode x y with
  | .error sub => if sub = 6 ∧ s.fib.rpt.refuses x y then refuseBody s x y else exec (.illegalInstruction x y sub) s
  | .ok i =>
    if s.fib.rpt.refuses x y then refuseBody s x y
    else if s.fib.rpt.inBody then
      let words := s.fib.rpt.capture x y
      checked x (s.setFib fun f => ({ f with rpt := { f.rpt with words := words } } : Fibre).touch Dirty.rpt) (exec i)
    else checked x s (exec i)

/-- The fibre in focus takes its place in the order of issue of its core (R333, R338). -/
def State.takeSlot (s : State) : State := s.setCore fun c => { c with rr := s.fib.entry + 1, issuing := s.fib.entry }

/-- The fibre in focus issues, after the parts of its stores to its own scratchpad (R374): a replayed body instruction (R254), the
instruction with which it stands in a service queue (R272), or the one at its PC (assumption 55). -/
noncomputable def issue (s : State) : Host.Outcome State Fault Refusal :=
  let s := s.takeSlot.settleLocal
  if s.fib.rpt.inBody && decide (0 < s.fib.rpt.iter) then checked (s.fib.rpt.words.getD s.fib.rpt.pos (0, 0)).1 s (exec .repeatReplay)
  else
    match s.queuedWords with
    | some w => issueWords s w.1 w.2
    | none =>
    match s.fetch s.fib.pc with
    | (t, .error (.trap code sub val)) => exec (.instructionFetchFault code sub val) t
    | (t, .error (.park p)) => .next (parkAs t p)
    | (_, .error (.hole f)) => .fault f
    | (t, .ok (x, y)) => issueWords t x y

/-! ## What agents may do -/

/-- The steps of numbers below `n`. -/
def stepsBelow (n : Nat) (f : Nat → Instr) : List Instr := (List.range n).map f

/-- What may happen next to one fibre. -/
noncomputable def Fibre.pending (f : Fibre) : List Instr :=
  let id := f.id
  (match f.park with
  | none => []
  | some .retry => []
  | some .wait => []
  | some .data => [.dataDelivered id]
  | some (.table _ _ _) => [.dataDelivered id]
  | some .walker => [.walkerTakesMiss id]
  | some .fe => []
  | some (.sleep _ _) => [.sleepExpiry id]
  | some (.barrier _ _) => []
  | some (.drain _) => []
  | some .event => []
  | some (.sem _ _) => []
  | some (.queued _) => []
  | some .vector => []
  | some .array => []
  | some (.engine _) => [.plEngineStep id]
  | some (.send _ _ _ _) => [.messageAccept id, .sendTryTimeout id, .sendQueueFull id]
  | some (.slot _ _ _ _) => [.streamSlotSend id]
  | some (.recv _ _ _ _) => []) ++
  (if f.evf then [.eventEntry id] else []) ++
  (if f.guest then [.guestInstructionLimit id, .guestParkLimit id] else []) ++
  (if f.travel.isSome then [.migrationArrival id, .guestReturnHome id] else [])

/-- What may happen next on one core: the stores in its write-through buffer leave. -/
noncomputable def Core.pending (c : Core) : List Instr :=
  stepsBelow c.wtb.length fun k => .writeThroughDrain (nameOfCore c.num) k

/-- What may happen next on one chiplet. -/
noncomputable def Chip.pending (c : Chip) : List Instr :=
  (match c.vunit.busy with
  | none => []
  | some e => [.vectorInstructionComplete c.num e.1]) ++
  (match c.array.busy with
  | none => []
  | some e => [.arrayInstructionComplete c.num e.1]) ++
  ((List.range c.copies.length).flatMap fun k =>
    [.copyUnitDeliver c.num k, .copySpoolPiece c.num k, .copyComplete c.num k]) ++
  stepsBelow c.inval.length fun k => .invalidationComplete c.num k

/-- What may happen next to one launch. -/
noncomputable def Launch.pending (l : Launch) : List Instr :=
  let lid := l.lid
  [.launchAdmission lid, .launchCompletion lid, .preemption lid, .gridStall lid] ++ ((l.evicted ++ l.moved ++ l.late ++ [l.next]).map fun k => .skeinPlacement lid k)

/-- What may happen next in flight and in the dispatcher. -/
noncomputable def Device.pending (d : Device) : List Instr :=
  stepsBelow d.flight.length (fun k => .messageArrival k) ++ stepsBelow d.arrivals.length (fun k => .remoteArrival k) ++
  stepsBelow d.replies.length (fun k => .replyArrival k) ++ stepsBelow d.contribs.length (fun k => .dbarContribution k) ++
  stepsBelow d.floods.length (fun k => .dbarPhaseFlood k) ++ stepsBelow d.updates.length (fun k => .remoteUpdateExecute k) ++
  stepsBelow d.posted.length (fun k => .remoteStorePerformed k) ++ stepsBelow d.maint.length (fun k => .maintenanceComplete k) ++
  ((List.range d.packets.length).flatMap fun k => [.routerStreamPacket k, .streamDeferredSend k, .streamPortArrival k]) ++
  (d.ecc ++ d.soft).map (fun e => .patrolScrub e.1) ++ d.losing.map (fun e => .chipletLoss e.1) ++
  (if d.latch.isSome then [.hallmarkLatch] else []) ++ (if d.stepAt.isSome then [.freqStepChange] else []) ++
  (if d.powered && d.pulse.all fun t => decide (t ≤ d.ticks) then [.syncPulse] else []) ++
  ((List.range 16).flatMap fun q =>
    (if (d.queues.getD q Queue.off).en then [.launchDoorbell q, .recordAccept q] else []) ++
    if d.launches.any fun l => l.q == q && l.held then [.completionRingRecheck q] else []) ++
  d.launches.flatMap Launch.pending

/-- Every step of an agent that may come next; one whose condition does not hold changes nothing. -/
noncomputable def State.pending (s : State) : List Instr :=
  s.allFibres.flatMap Fibre.pending ++ (s.core :: s.cores).flatMap Core.pending ++ (s.chip :: s.chips).flatMap Chip.pending ++
  s.dev.pending ++ stepsBelow s.openReds.length (fun k => .reductionLimitExpiry k) ++
  stepsBelow (((s.allSkeins.filter Skein.resident).map fun k => (s.boundFirst k).length).sum)
    (fun k => .streamPortArrival (s.dev.packets.length + k)) ++
  ((List.range 256).filter fun c => s.dev.powered && decide ((s.chipAt c).state < 5)).map (fun c => .bringupAdvance c) ++
  ((s.allFibres.filter fun f => f.park.isNone && decide (f.at_ < 1024)).map fun f => .hungCore (posOfCore f.at_)) ++
  s.dev.recover.map fun e => .hungCore (posOfCore e.core)

/-- Whether a step is one of an agent or of the outside world: an instruction, and a part of one, are not. -/
noncomputable def ofAgent (i : Instr) : Bool :=
  match i with
  | .repeatReplay | .illegalInstruction _ _ _ | .instructionFetchFault _ _ _ => false
  | .registerFill _ _ _ _ _ | .registerWrite _ _ | .precWrite _ | .fwinWrite _ | .skmapWrite _ | .spcfgWrite _ _ => false
  | .bbcntWrite _ | .bbaddrWrite _ | .netselWrite _ _ | .semWrite _ _ | .freqWrite _ | .delayselWrite _ => false
  | .elctlWrite _ _ | .hmctlWrite _ _ => false
  | i => (encode i).isNone

/-- Run a step of an agent; any other step changes nothing (assumption 7). -/
noncomputable def runAgent (i : Instr) (s : State) : Host.Outcome State Fault Refusal :=
  if ofAgent i then agentChecked i s else .next s

/-- The rest of the module takes a step: the next one that `sched` lists, else one that may happen, or none (assumption 7). -/
noncomputable def deviceStep (s : State) : Host.Outcome State Fault Refusal :=
  match s.sched with
  | i :: rest => runAgent i { s with sched := rest }
  | [] =>
    let l := s.pending
    match l with
    | [] => .next s
    | _ =>
      match l[Config.pick s.ctr % (l.length + 1)]? with
      | none => .next s
      | some i => runAgent i s

/-! ## Which fibre comes next -/

/-- The live fibres that may issue, each named once by its first appearance. -/
def State.readyFibres (s : State) : List Fibre :=
  s.allFibres.filter fun f => match s.fibre? f.id with
    | some g => s.canIssue g
    | none => false

/-- The cores with a fibre that may issue. -/
def readyCores (l : List Fibre) : List Nat := l.foldl (fun cs f => setIns f.at_ cs) []

/-- The fibre of the lowest entry at or above `rr`, else of the lowest entry (R333). -/
def nextEntry (rr : Nat) (l : List Fibre) : Option Fibre :=
  let least (l : List Fibre) : Option Fibre := l.foldl (fun m f => match m with
    | none => some f
    | some g => if f.entry < g.entry then some f else some g) none
  match least (l.filter fun f => decide (rr ≤ f.entry)) with
  | some f => some f
  | none => least l

/-- The next fibre to issue comes into focus: any core with a ready fibre may be next (assumption 7), and on it the next in
round-robin order (R333). -/
def State.rotate (s : State) : State :=
  let ready := s.readyFibres
  let go (core : Nat) : State :=
    match nextEntry (s.coreAt core).rr (ready.filter fun f => f.at_ == core) with
    | none => s
    | some f => s.focus f.id
  match readyCores ready with
  | [] => s
  | [c] => go c
  | cs => go (cs.getD (Config.pick (s.ctr + 1) % cs.length) 0)

/-- What follows every outcome that goes on. -/
def onNext (f : State → State) (r : Host.Outcome State Fault Refusal) : Host.Outcome State Fault Refusal :=
  match r with
  | .next s => .next (f s)
  | .fault e => .fault e
  | .refused e => .refused e

/-- What comes next is the turn of a fibre, or that of the rest of the module, with the free values that it meets (assumption 2). -/
def State.turnTo (s : State) (t : Turn) : State :=
  { s with turn := t, ctr := s.ctr + 1, upset := Config.upset s.ctr, walkers := Config.busyWalkers s.ctr }

/-- After a fibre has issued, the rest of the module takes its turn. The parts of its next access come after this step (R82, R185)
(assumption 57). -/
def State.afterIssue (s : State) : State := (s.setFib fun f => { f with mark := s.dev.writes }).turnTo .device

/-- On a core without a ready fibre the count of R424 does not run. -/
def State.restCores (s : State) : State :=
  let rest (c : Core) : Core :=
    if s.allFibres.any fun f => f.at_ == c.num && f.park.isNone && f.travel.isNone then c
    else { c with lastRetire := s.clkAt (chipNum c.num) }
  { s with core := rest s.core, cores := s.cores.map rest }

/-- An error may have arisen (R437, R438) (assumption 23). -/
def State.struck (s : State) : State := s.strike (Config.strike s.ctr) (Config.strikeAt s.ctr) (Config.strikeSyndrome s.ctr)

/-- After the rest of the module, wafer ticks have passed (R456), an error may have arisen (R437), a cache may have evicted a line (R58,
R59), what a withdrawal or a departure made room for goes on (R363, R392), and the next fibre has its turn. -/
def State.afterDevice (s : State) : State :=
  ((((((s.pass (Config.elapsed s.ctr)).struck).evictLine (Config.evicted s.ctr)).serveLooks.pullAll).restCores).rotate).turnTo .issue

/-! ## Placing one instruction -/

/-- Where an instruction is placed for a next step: virtual and physical address. -/
def placeVa : Nat := 0x1000
/-- The physical address of the placed instruction: a 1 GiB page at 2^30 is mapped at virtual address 0. -/
def placePa : Nat := 2 ^ 30 + placeVa

/-- The tables that map virtual addresses 0 to 2^30 − 1 of ASID 0 to physical address 2^30, readable, writable and executable at
user level (R41 to R43): the address-space table at 0, the root table at 0x4000, the next table at 0x4100 (assumption 13). -/
def placeTables (m : List Host.Cell) : List Host.Cell :=
  let m := memPut m 0 (bytesOf 8 (2 ^ 63 + 0x4000))
  let m := memPut m 0x4000 (bytesOf 8 (0x4100 + 1))
  memPut m 0x4100 (bytesOf 8 (2 ^ 30 + 0x1F))

/-- The state with one fibre of skein 0 of launch 0 about to fetch the given bytes on core 0 of chiplet 0, which is LIVE
(assumption 13). -/
def State.place (s : State) (code : List Byte) : State :=
  let s := s.focusCore 0
  { s with
    turn := .issue
    upset := 0
    walkers := 0
    fib := { s.fib with
      id := { lid := 0, skn := 0, fix := 0 }, live := true, asid := 0, home := 0, at_ := 0, guest := false, park := none, travel := none
      walker := false, mark := s.dev.writes
      rpt := s.fib.rpt.close, pc := BitVec.ofNat 64 placeVa }
    skein := { s.skein with lid := 0, skn := 0, core := 0, resident := true, stopping := false }
    core := { s.core with status := .exposed }
    chip := { s.chip with state := 5, tlb := [] }
    dev := { s.dev with
      astabbase := 0
      mem := memPut (placeTables s.dev.mem) placePa code
      past := [], ecc := [], soft := [], pois := [], absent := [], spares := [], memLost := [], alts := []
      below := s.dev.below.filter fun b => b.line != placePa / 128
      slices := s.dev.slices.filter fun e => e.1 != placePa / 128
      msc := s.dev.msc.filter fun m => m.line != placePa / 128
      lineKey := if assoc (placePa / 128) 0 s.dev.lineKey = s.key 0 then s.dev.lineKey
        else assocPut (placePa / 128) (s.key 0) s.dev.lineKey } }

end Sys2Proof.Machine
end

