-- ==== Sys2Proof/Machine/Step.lean ====
section
/-! DEFINITION. One step of the module, and a state about to run one given instruction.

A step is one instruction of one fibre, or one step of an agent or of the outside world; the two alternate (assumption 7). -/

namespace Sys2Proof.Machine

/-- One step (assumption 7). -/
noncomputable def step (s : State) : Host.Outcome State Fault Refusal :=
  match s.turn with
  | .issue => if s.canIssue s.fib then onNext State.afterIssue (issue s) else .next s.afterIssue
  | .device => onNext State.afterDevice (deviceStep s)

/-- The state in which the next step fetches and runs the instruction whose bits are `w`, bit 0 the least significant of its first
word and every bit from `nbits` on 0 (assumption 13). -/
def State.withFetchWord (s : State) (nbits w : Nat) : State := s.place (bytesOf 8 (w % 2 ^ nbits))

end Sys2Proof.Machine
end

