-- ==== Sys2Proof/Safety.lean ====
section
/-! DEFINITION. What counts as a safe run, and the conditions on a state under which an instruction executes, in the terms that
statements use. -/

namespace Sys2Proof.Machine

/-! ## Outcomes -/

/-- The outcome goes on. -/
def GoesOn (o : Host.Outcome State Fault Refusal) : Prop := ∃ t, o = .next t

/-- The outcome goes on, or it is the one fault of the model: a reader met an address that does not exist (R39). -/
def GoesOnOrHole (o : Host.Outcome State Fault Refusal) : Prop := GoesOn o ∨ ∃ pa, o = .fault (.noSuchAddress pa)

/-- Issue is not held up (R333): at its turn the fibre in focus may issue, if any live fibre may. -/
def FocusReady (s : State) : Prop := s.turn = .issue → s.readyFibres ≠ [] → s.canIssue s.fib = true

/-- Memory is in its canonical form. -/
def MemoryOk (s : State) : Prop := Memory.wf s.dev.mem = true

/-! ## Operands -/

/-- The value of a general register of the bank that instructions name (R126, R144). -/
def State.g (s : State) (r : GReg) : Word := s.bank.val.getD r.toNat 0

/-- The register is full (R126). -/
abbrev IsFull (s : State) (r : GReg) : Prop := s.bank.fill.getD r.toNat 0 = Fill.full

/-- The next read of the register is the first one after a reply or a compressing copy filled it: an acquire (R377, R380). -/
abbrev FirstRead (s : State) (r : GReg) : Prop := s.bank.acq.getD r.toNat false = true

/-- A read of the register answers its value at once: it is full, and its first read is past (R126, R380). -/
def FullG (s : State) (r : GReg) : Prop := IsFull s r ∧ ¬FirstRead s r

/-- The register is not pending, so that it may be a destination (R127). -/
def FreeG (s : State) (r : GReg) : Prop := s.bank.fill.getD r.toNat 0 ≠ Fill.pending

/-- The index field names no register, or a full one (R157). -/
def FullIx (s : State) (i : BitVec 4) : Prop := i.toNat ≤ 7 → FullG s (i.setWidth 3)

/-- The value of the index field (R157). -/
def State.ix (s : State) (i : BitVec 4) : Word := if i.toNat ≤ 7 then s.g (i.setWidth 3) else 0

/-- The instruction of `n` words does not end at the top of the address space (R251). -/
def Room (s : State) (n : Nat) : Prop := endsSpace s n = false

/-- Nothing that the W bit waits for is outstanding or failed (R135). -/
def WaitOver (s : State) (w : BitVec 1) : Prop :=
  w = 1 → s.fib.tokens.busy s.fib.wmask = false ∧ s.fib.tokens.failed s.fib.wmask = none

/-- The state after the W hold: an acquire at chip scope where it waited for a token (R135). -/
def State.waited (s : State) (w : BitVec 1) : State :=
  if w = 1 ∧ s.fib.wmask ≠ 0 then (s.acquire 2).afterCopies s.fib.wmask else s

/-- A shared unit runs nothing and nothing waits for it (R273, R299, R325). -/
def UnitFree (s : State) (k : UnitKind) : Prop := (s.chip.unit k).busy = none ∧ (s.chip.unit k).queue = []

/-- The state in which a free unit has taken an instruction of the fibre in focus (R273). -/
def State.served (s : State) (k : UnitKind) : State :=
  s.setChip fun c => c.putUnit k { c.unit k with queue := [], last := s.coreIndex }

/-- A result in a general register, and the next instruction. -/
def wrote (s : State) (d : GReg) (v : Word) (n : Nat) : Host.Outcome State Fault Refusal := .next (retire (setG s d v) n)

/-- The end of a load of `n` words: its fibre parks where the data comes from DRAM or another chiplet (R66). -/
def landed (t : State) (parks : Bool) (n : Nat) : Host.Outcome State Fault Refusal :=
  .next (if parks then parkData (retire t n) else retire t n)

/-- The end of an instruction that a shared unit serves: it retires, the unit runs it, and its fibre parks (R272, R299). -/
def unitRuns (t : State) (n : Nat) (k : UnitKind) (p : Park) : Host.Outcome State Fault Refusal :=
  .next (occupy (retire t n) k p)

/-- The operands of a vector instruction are ready: its registers are allocated, its mask readable, the unit free. -/
def VecReady (s : State) (w : BitVec 1) (regs : List Nat) (m : MReg) (mask : Nat) : Prop :=
  Room s 1 ∧ WaitOver s w ∧ (∀ i ∈ regs, i < s.fib.nv) ∧ UnitFree s .vector ∧ readM s m.toNat = .ok mask

/-- The second operand of a vector instruction is ready and reads as `y` (R276): with SP = 0 a register; with SP = 1 the first 256 bytes
of the filled slots of a spool handle that its skein may use, with no word in doubt. -/
def SecondReady (s : State) (sp : BitVec 1) (b : VReg) (n : BitVec 4) (y : Nat) : Prop :=
  (sp = 0 → b.toNat < s.fib.nv ∧ readVec s b.toNat = .ok y) ∧
  (sp = 1 → s.fib.guest = false ∧ s.dev.ecc = [] ∧ s.dev.soft = [] ∧ ∃ h bs, spoolUse s b.toNat (n.toNat + 1) = .ok h ∧
    256 ≤ (n.toNat + 1) * (s.spool h).slotBytes ∧ n.toNat + 1 ≤ (s.spool h).fill ∧
    spoolBytes s (s.spool h) 0 256 = .ok bs ∧ y = ofBytes bs)

/-- The address of format M (R157). -/
def State.eaM (s : State) (b : GReg) (i : BitVec 4) (m : BitVec 9) (e : Nat) : Word :=
  s.g b + s.ix i * BitVec.ofNat 64 e + m.signExtend 64 * BitVec.ofNat 64 e

/-- The address of extension word XO (R190). -/
def State.eaX (s : State) (a : GReg) (i : BitVec 4) (m : BitVec 22) (e : Nat) : Word :=
  s.g a + s.ix i * BitVec.ofNat 64 e + m.signExtend 64

/-! ## What stays -/

/-- The same fibre but for its general registers, program counter, PREC, window, vector and mask registers, frame position and the
marks and counts that follow every instruction. -/
structure SameFibre (f g : Fibre) : Prop where
  id : g.id = f.id
  live : g.live = f.live
  asid : g.asid = f.asid
  place : g.home = f.home ∧ g.homeEntry = f.homeEntry ∧ g.at_ = f.at_ ∧ g.guestEntry = f.guestEntry ∧ g.guest = f.guest
  window : g.winSize = f.winSize ∧ g.nv = f.nv
  tokens : g.tokens = f.tokens ∧ g.wmask = f.wmask
  buffer : g.bb = f.bb
  region : g.rgn = f.rgn
  updout : g.updout = f.updout
  event : g.inev = f.inev ∧ g.evf = f.evf
  level : g.sup = f.sup
  trap : g.trap = f.trap
  wait : g.bwait = f.bwait
  travel : g.travel = f.travel

/-- PREC, the float window, the vector and the mask registers are as before. -/
def SameFloat (f g : Fibre) : Prop :=
  g.prec = f.prec ∧ g.flive = f.flive ∧ g.f = f.f ∧ g.fbad = f.fbad ∧ g.v = f.v ∧ g.vbad = f.vbad ∧ g.m = f.m ∧ g.mbad = f.mbad

/-- Everything outside the fibre, its skein and its core's counts is as before, memory included. -/
def SameModule (s t : State) : Prop :=
  t.fibres = s.fibres ∧ t.skeins = s.skeins ∧ t.cores = s.cores ∧ t.chip = s.chip ∧ t.chips = s.chips ∧ t.dev = s.dev

end Sys2Proof.Machine
end

