-- ==== Sys2Proof/Certificates/Slice0/Obligations.lean ====
section
/-! DEFINITION. The statements for the provers, from the numbered rules of the manual. A statement in several parts joins them
with ∧, each part with its own operands and conditions. -/

open Sys2Proof Sys2Proof.Machine

/-! ## Integer and control -/

/-- R240, R244 to R246: the result of every integer instruction with two register sources. R240 to R245: shifts, immediates, counts and
insertion. A shift by an immediate reads no second source. -/
def Obligations.IntegerResults : Prop :=
  (∀ (s : State) (d a b : GReg) (k : BitVec 2), Room s 1 → FullG s a → FullG s b → FreeG s d →
     let x := s.g a
     let y := s.g b
     let lo := bits y 0 6
     let wd := Nat.min (bits y 8 6 + 1) (64 - lo)
     let out (v : Word) := wrote s d v 1
     exec (.add d a b) s = out (x + y) ∧ exec (.sub d a b) s = out (x - y) ∧
     exec (.and d a b) s = out (x &&& y) ∧ exec (.or d a b) s = out (x ||| y) ∧
     exec (.xor d a b) s = out (x ^^^ y) ∧ exec (.andn d a b) s = out (x &&& ~~~y) ∧
     exec (.slt d a b) s = out (if x.toInt < y.toInt then 1 else 0) ∧
     exec (.sltu d a b) s = out (if x.toNat < y.toNat then 1 else 0) ∧
     exec (.min d a b) s = out (if x.toInt < y.toInt then x else y) ∧
     exec (.max d a b) s = out (if x.toInt < y.toInt then y else x) ∧
     exec (.minu d a b) s = out (if x.toNat < y.toNat then x else y) ∧
     exec (.maxu d a b) s = out (if x.toNat < y.toNat then y else x) ∧
     exec (.lea d a b k) s = out (x + (y <<< k.toNat)) ∧
     exec (.leaF d a b) s = out (x + y * BitVec.ofNat 64 (vfBytes (precP s.fib.prec))) ∧
     exec (.bfExtu d a b) s = out (BitVec.ofNat 64 (bits x lo wd)) ∧
     exec (.bfExts d a b) s = out (BitVec.ofInt 64 (toSigned wd (bits x lo wd))) ∧
     exec (.mul d a b) s = out (x * y) ∧
     exec (.mulh d a b) s = out (BitVec.ofInt 64 (x.toInt * y.toInt / 2 ^ 64)) ∧
     exec (.mulhu d a b) s = out (BitVec.ofNat 64 (x.toNat * y.toNat / 2 ^ 64)) ∧
     exec (.div d a b) s = out (if y = 0 then BitVec.allOnes 64 else BitVec.ofInt 64 (x.toInt.tdiv y.toInt)) ∧
     exec (.divu d a b) s = out (if y = 0 then BitVec.allOnes 64 else BitVec.ofNat 64 (x.toNat / y.toNat)) ∧
     exec (.rem d a b) s = out (if y = 0 then x else BitVec.ofInt 64 (x.toInt.tmod y.toInt)) ∧
     exec (.remu d a b) s = out (if y = 0 then x else BitVec.ofNat 64 (x.toNat % y.toNat))) ∧
  (∀ (s : State) (d a b : GReg) (i : BitVec 19) (x8 : BitVec 8), Room s 1 → FullG s a → FreeG s d →
     let x := s.g a
     let im : Word := i.signExtend 64
     let out (v : Word) := wrote s d v 1
     let amount := if bit x8 6 then bits x8 0 6 else bits (s.g b) 0 6
     ((bit x8 6 = true ∨ FullG s b) →
       exec (.sll d a b x8) s = out (x <<< amount) ∧ exec (.srl d a b x8) s = out (x >>> amount) ∧
       exec (.sra d a b x8) s = out (x.sshiftRight amount)) ∧
     exec (.mov d a) s = out x ∧
     exec (.addi d a i) s = out (x + im) ∧ exec (.andi d a i) s = out (x &&& im) ∧
     exec (.ori d a i) s = out (x ||| im) ∧ exec (.xori d a i) s = out (x ^^^ im) ∧
     exec (.ldi d i) s = out im ∧
     (FullG s d → exec (.ldiCat d i) s = out ((s.g d <<< 19) ||| i.setWidth 64)) ∧
     (FullG s b → FullG s d →
       let lo := bits (s.g b) 0 6
       let wd := Nat.min (bits (s.g b) 8 6 + 1) (64 - lo)
       let mask : Word := BitVec.ofNat 64 ((2 ^ wd - 1) <<< lo)
       exec (.bfIns d a b) s = out ((s.g d &&& ~~~mask) ||| ((x <<< lo) &&& mask))) ∧
     (∃ v, exec (.popc d a) s = out v ∧ v.toNat = ((List.range 64).filter fun j => x.getLsbD j).length) ∧
     (∃ v, exec (.clz d a) s = out v ∧ v.toNat ≤ 64 ∧ x.toNat < 2 ^ (64 - v.toNat) ∧ (v.toNat < 64 → 2 ^ (63 - v.toNat) ≤ x.toNat)) ∧
     (∃ v, exec (.ctz d a) s = out v ∧ v.toNat ≤ 64 ∧ x.toNat % 2 ^ v.toNat = 0 ∧ (v.toNat < 64 → x.getLsbD v.toNat = true)))

/-- R248, R159, R251: a conditional branch goes to PC + 4·offset when its condition holds, else to the next instruction; a taken branch
to an address at or above 2^57 raises the translation fault and does not execute, and so does one not taken whose next instruction
would stand at 2^57. R249 to R251: jumps write the link and go to their target with bits 1:0 clear; a target at or above 2^57 raises
the translation fault for that target and leaves the link unwritten. The target of `jalr` is read before its link is written. -/
def Obligations.BranchesAndJumps : Prop :=
  (∀ (s : State) (a b : GReg) (o : BitVec 15), FullG s a →
     let x := s.g a
     let y := s.g b
     let target := s.fib.pc + (o.signExtend 64 <<< 2)
     let goes (i : Instr) (c : Bool) : Prop :=
       (c = true → target.toNat < 2 ^ 57 → exec i s = .next (retireTo s (target &&& 0xFFFFFFFFFFFFFFFC#64))) ∧
       (c = true → 2 ^ 57 ≤ target.toNat → exec i s = .next (raise s 0x04 0 (target &&& 0xFFFFFFFFFFFFFFFC#64) false)) ∧
       (c = false → Room s 1 → exec i s = .next (retire s 1)) ∧
       (c = false → endsSpace s 1 = true → exec i s = .next (raise s 0x04 0 (BitVec.ofNat 64 (2 ^ 57)) false))
     (FullG s b → goes (.bEq a b o) (decide (x = y)) ∧ goes (.bNe a b o) (decide (x ≠ y)) ∧
       goes (.bLt a b o) (decide (x.toInt < y.toInt)) ∧ goes (.bGe a b o) (decide (y.toInt ≤ x.toInt)) ∧
       goes (.bLtu a b o) (decide (x.toNat < y.toNat)) ∧ goes (.bGeu a b o) (decide (y.toNat ≤ x.toNat))) ∧
     goes (.bZ a o) (decide (x = 0)) ∧ goes (.bNz a o) (decide (x ≠ 0))) ∧
  (∀ (s : State) (d a : GReg) (o : BitVec 22), FullG s a → FreeG s d →
     let there (t : State) (w : Word) := Host.Outcome.next (retireTo t (w &&& 0xFFFFFFFFFFFFFFFC#64))
     let far (w : Word) := Host.Outcome.next (raise s 0x04 0 (w &&& 0xFFFFFFFFFFFFFFFC#64) false)
     let link := setG s d (s.fib.pc + 4)
     let rel := s.fib.pc + (o.signExtend 64 <<< 2)
     encode (.jal d o) = some (FmtJ.pack { major := 0x11, l := d, o := o }, none) ∧
     (rel.toNat < 2 ^ 57 → exec (.jal d o) s = there link rel) ∧ (2 ^ 57 ≤ rel.toNat → exec (.jal d o) s = far rel) ∧
     ((s.g a).toNat < 2 ^ 57 → exec (.jr a) s = there s (s.g a) ∧ exec (.ret a) s = there s (s.g a) ∧
       exec (.jalr d a) s = there link (s.g a)) ∧
     (2 ^ 57 ≤ (s.g a).toNat → exec (.jr a) s = far (s.g a) ∧ exec (.ret a) s = far (s.g a) ∧ exec (.jalr d a) s = far (s.g a)))

/-- R253: `rpt` sets RPTST.ACT to 1, ITER and POS to 0 and WORD to its own word, and the next instruction follows in sequence. R254,
R161: a replayed instruction executes with its register fields advanced by iteration times stride, here for `fadd`, whose fields are
advanced by the D, A and B strides of the `rpt` word. R254, R255: when a body instruction retires, POS moves on; after the last,
ITER; after the last of the last iteration the frame is closed and the PC is past the body. -/
def Obligations.RepeatFrames : Prop :=
  (∀ (s : State) (k : BitVec 4) (n : BitVec 8) (d a b c : BitVec 3), Room s 1 → s.fib.rpt.inBody = false →
     ∃ t, exec (.rpt k n d a b c) s = .next t ∧ t.fib.pc = s.fib.pc + 4 ∧ t.fib.rpt.act = true ∧ t.fib.rpt.iter = 0 ∧
       t.fib.rpt.pos = 0 ∧ encode (.rpt k n d a b c) = some (t.fib.rpt.word, none) ∧ t.fib.rpt.words = [] ∧ t.fib.rpt.start = s.fib.pc ∧
       t.fib.bank = s.fib.bank ∧ t.fib.prec = s.fib.prec ∧ t.dev = s.dev) ∧
  (∀ (s : State) (d a b : FReg) (e : BitVec 32), Room s 1 → s.fib.rpt.inBody = true → 0 < s.fib.rpt.iter →
     s.fib.rpt.words[s.fib.rpt.pos]? = some (FmtF.pack { major := 0x40, d := d, a := a, b := b, fn := 0 }, e) →
     let r := s.fib.rpt
     let d' := d + BitVec.ofNat 6 (r.iter * bits r.word 10 3)
     let a' := a + BitVec.ofNat 6 (r.iter * bits r.word 7 3)
     let b' := b + BitVec.ofNat 6 (r.iter * bits r.word 4 3)
     ∀ x y, d'.toNat < s.k → a'.toNat < s.k → b'.toNat < s.k → readF s a'.toNat = .ok x → readF s b'.toNat = .ok y →
     ∃ t, exec .repeatReplay s = .next t ∧ t.fib = (retire (setF s d'.toNat (x.add y s.p s.rm)) 1).fib ∧ t.dev = s.dev) ∧
  (∀ (s : State) (pc : Word), s.fib.rpt.inBody = true → s.fib.rpt.pos < s.fib.rpt.k → s.fib.rpt.iter < s.fib.rpt.count →
     let r := s.fib.rpt
     let f := (retireTo s pc).fib
     (r.pos + 1 < r.k → f.rpt.act = true ∧ f.rpt.pos = r.pos + 1 ∧ f.rpt.iter = r.iter ∧ f.pc = r.addr (r.pos + 1)) ∧
     (r.pos + 1 = r.k → r.iter + 1 < r.count → f.rpt.act = true ∧ f.rpt.pos = 0 ∧ f.rpt.iter = r.iter + 1 ∧ f.pc = r.start + 4) ∧
     (r.pos + 1 = r.k → r.iter + 1 = r.count → f.rpt.act = false ∧ f.rpt.pos = 0 ∧ f.rpt.iter = 0 ∧ f.rpt.word = r.word ∧
       f.pc = r.start + BitVec.ofNat 64 (4 + 4 * bodyWords r.words)))

/-- R338: `yield` and `sleep` of 0 only retire; any other `sleep` parks until its tick. R340: `ev.en` and `ev.dis` set and clear event
enables, `ev.wait` parks the event fibre, and `evret` goes on at the shadow bank's g7 with INEV = 0. R341: `rgn.begin` opens a region
at the next instruction with a snapshot of the fibre's own general registers and PREC, and `rgn.end` closes it. R336: `spawn` with
room adds a fibre to the skein on the issuing core, with the lowest index of 0 to FM1 that no fibre of the skein holds, a home entry
that no fibre of the core holds, g0 the argument, g7 the address of the launch's arguments, every other register 0 and full, the PC
the entry with bits 1:0 clear, the launch's PREC, window size and NV, and the spawner's level; it answers the entry number, after
every store that the spawner made before. Without room it answers all ones and adds none. R337: `exit` with no copy, update or fill
outstanding and no failed token leaves; while other fibres of its skein remain, an event fibre's part passes to the one of the lowest
index, whose shadow bank is then to be saved; when none remains the skein exits. -/
def Obligations.Fibres : Prop :=
  (∀ (s : State) (a : GReg), Room s 1 →
     exec .yield s = .next (retire s 1) ∧
     (FullG s a → s.g a = 0 → exec (.sleep a) s = .next (retire s 1)) ∧
     (FullG s a → s.g a ≠ 0 → exec (.sleep a) s = .next (parkAs s (.sleep (s.now + (s.g a).toNat) (s.skein.evPend &&& s.skein.evEn))))) ∧
  (∀ (s : State) (m : BitVec 4), Room s 1 → s.fib.guest = false →
     exec (.evEn m) s = .next (retire (s.setSkein fun k => { k with evEn := k.evEn ||| m }) 1) ∧
     exec (.evDis m) s = .next (retire (s.setSkein fun k => { k with evEn := k.evEn &&& ~~~m }) 1) ∧
     (s.fib.evf = true → exec .evWait s = .next (parkAs s .event)) ∧
     (s.fib.inev = true → FullG s 7 →
       exec .evret s = .next (retireTo (s.setFib fun f => { f with inev := false }) (s.g 7 &&& 0xFFFFFFFFFFFFFFFC#64))) ∧
     (settled s = .ok () → s.fib.anyPending = false → ∃ t, exec .rgnBegin s = .next t ∧ t.fib.rgn.act = true ∧ t.fib.rgn.pc = s.fib.pc + 4 ∧
       t.fib.rgn.snap = s.fib.bank ∧ t.fib.rgn.prec = s.fib.prec ∧ t.fib.rgn.count = 0 ∧ t.fib.bank = s.fib.bank ∧ t.dev = s.dev) ∧
     exec .rgnEnd s = .next (retire (s.setFib fun f => { f with rgn := { f.rgn with act := false } }) 1)) ∧
  (∀ (s : State) (d a b : GReg) (l : Launch), Room s 1 → s.fib.guest = false → FullG s a → FullG s b → FreeG s d → s.myLaunch = some l →
     let held (i : Nat) : Prop := ∃ g ∈ s.allFibres, g.id.lid = s.fib.id.lid ∧ g.id.skn = s.fib.id.skn ∧ g.id.fix = i
     (∀ fix, fix ≤ l.fm1 → ¬held fix → (∀ i < fix, held i) → s.roomFor s.core.num l 1 = true → s.fib.updout = 0 →
       s.behindMessage false = false →
       ∃ f t, exec (.spawn d a b) s = wrote { s.settle with fibres := s.settle.fibres ++ [f] } d (BitVec.ofNat 64 f.homeEntry) 1 ∧
         exec (.spawn d a b) s = .next t ∧ f.id = { s.fib.id with fix := fix } ∧ f.live = true ∧ f.homeEntry < 256 ∧
         (∀ g ∈ s.homeFibres s.core.num, g.homeEntry ≠ f.homeEntry) ∧ f.home = s.core.num ∧ f.at_ = s.core.num ∧
         f.pc = (s.g a &&& 0xFFFFFFFFFFFFFFFC#64) ∧ f.bank.val.getD 0 0 = s.g b ∧
         f.bank.val.getD 7 0 = BitVec.ofNat 64 l.args ∧ (∀ i, 0 < i → i < 7 → f.bank.val.getD i 0 = 0) ∧
         (∀ i, i < 8 → f.bank.fill.getD i 0 = Fill.full) ∧ f.asid = l.asid ∧ f.prec = l.prec ∧ f.winSize = l.win ∧ f.flive = 0 ∧
         f.nv = l.nv ∧ f.sup = s.fib.sup ∧ f.evf = false ∧ f.inev = false ∧ f.guest = false ∧ f.updout = 0 ∧
         f.dirty = Vector.replicate 48 true) ∧
     ((∀ i ≤ l.fm1, held i) ∨ s.roomFor s.core.num l 1 = false → exec (.spawn d a b) s = wrote s d (BitVec.allOnes 64) 1)) ∧
  (∀ (s : State), Room s 1 → s.fib.guest = false → s.fib.inev = false → s.fib.tokens.busy 0xFF = false → s.fib.updout = 0 →
     s.fib.anyPending = false → s.behindMessage false = false → s.settle.fib.tokens.failed 0xFF = none →
     let u := s.settle
     let left := u.fibres.filter fun x => x.id.lid == u.fib.id.lid && x.id.skn == u.fib.id.skn
     ∃ t v, exec .exit s = .next t ∧ v.fib = { u.fib with live := false, park := none } ∧ v.fibres = u.fibres ∧ v.skein = u.skein ∧
       v.skeins = u.skeins ∧ v.dev.mem = u.dev.mem ∧
       (left = [] → t = v.exitSkein u.skein) ∧
       (left ≠ [] → u.fib.evf = false → t = v) ∧
       (left ≠ [] → u.fib.evf = true → t.fib = v.fib ∧ t.skein = v.skein ∧ t.dev = v.dev ∧
         ∀ g ∈ left, g.id.fix < 256 → (∀ h ∈ left, g.id.fix ≤ h.id.fix) → ({ g with evf := true } : Fibre).touch Dirty.shadow ∈ t.fibres))

/-- R346: topology queries answer from the shape of the grid, the fibre's home core, the core map and the launch. -/
def Obligations.TopologyQueries : Prop :=
  ∀ (s : State) (d a : GReg), Room s 1 → FullG s a → FreeG s d →
    let c := s.coreAt s.fib.home
    let n := (s.g a).toNat
    let out (v : Word) := wrote s d v 1
    exec (.topoGrid d) s = out (wordOf [(0, 10, (gradeShape s.dev.grade).1), (10, 6, (gradeShape s.dev.grade).2.1),
      (16, 5, (gradeShape s.dev.grade).2.2), (21, 2, s.dev.grade)]) ∧
    exec (.topoSelf d) s = out (wordOf [(0, 10, c.lnum), (10, 8, s.fib.home / 4), (18, 2, s.fib.home % 4), (20, 8, s.fib.homeEntry),
      (28, 20, s.fib.id.skn)]) ∧
    (s.exposed ≤ n → exec (.topoCore d a) s = out (BitVec.allOnes 64)) ∧
    (n < s.exposed → exec (.topoCore d a) s = out (wordOf [(0, 8, coreOfPos (mapPos (s.mapEntry n)) / 4), (8, 2, mapState (s.mapEntry n))])) ∧
    (n = 1 → exec (.topoDom d a) s = out (wordOf [(0, 10, bits c.memb 0 8), (10, 1, 1)])) ∧
    (n = 2 → exec (.topoDom d a) s = out (wordOf [(0, 10, bits c.memb 12 10), (10, 1, bits c.memb 22 1)])) ∧
    (n = 3 → exec (.topoDom d a) s = out (wordOf [(0, 10, bits c.memb 23 10), (10, 1, bits c.memb 33 1)])) ∧
    (n = 4 → exec (.topoDom d a) s = out (wordOf [(0, 10, bits c.memb 34 10), (10, 1, bits c.memb 44 1)])) ∧
    (n = 0 ∨ 4 < n → exec (.topoDom d a) s = out (BitVec.allOnes 64)) ∧
    exec (.topoState d a) s = out (BitVec.ofNat 64 (s.chipAt (bits (s.g a) 0 8)).state) ∧
    (∀ l, s.myLaunch = some l → exec (.topoLaunch d) s = out (wordOf [(0, 20, l.nsk), (20, 9, l.fm1 + 1)]))

/-! ## Loads and stores, memory and atomics -/

/-- R189, R190, R199: an integer load in format M takes its bytes in little-endian order, extends them into gd, and its fibre parks
where they come from DRAM or another chiplet; `ld.acq` acquires at chip scope between translation and the load. R189, R190, R199: an
integer store in format M stores the low bytes of gs in little-endian order once there is room for its parts; `st.rel` releases at
chip scope first. R190: the loads and stores of major 0x2B, of two words, acquire or release at the scope they name. R200: a prefetch
always retires and changes no register, fibre or byte of memory (but for a bit that detection corrects); a register of its address that
a reply filled is read for the first time, which is an acquire; where a register of its
address cannot be read, or its address cannot be loaded, or lies in a scratchpad, it does nothing more; else `pf.l2` leaves the line in its
home slice, `pf.msc` in the memory-side cache, and `pf.l1` in the L1 of a fibre at home, unless the line holds poison. -/
def Obligations.IntegerMemory : Prop :=
  (∀ (s t x u : State) (z : BitVec 2) (e : BitVec 1) (d b : GReg) (i : BitVec 4) (w : BitVec 1) (m : BitVec 9) (ps : List Piece)
     (bs : List Byte), Room s 1 → WaitOver s w → FullG s b → FullIx s i → FreeG s d →
     let n := sizeBytes z
     let v := s.waited w
     v.access v.accLoad (s.eaM b i m n) n false = .ok (t, ps) →
     let out := landed (setG u d (if e = 1 then BitVec.ofInt 64 (toSigned (8 * n) (ofBytes bs)) else BitVec.ofNat 64 (ofBytes bs)))
       (u.parksFor ps) 1
     (t.ownFirst false ps = .ok x → x.loadPieces false ps = .ok (u, bs) → exec (.ld z e d b i w m) s = out) ∧
     ((t.acquire 2).ownFirst false ps = .ok x → x.loadPieces false ps = .ok (u, bs) → exec (.ldAcq z e d b i w m) s = out) ∧
     (t.ownFirst true ps = .ok x → x.loadPieces true ps = .ok (u, bs) → exec (.ldNt z e d b i w m) s = out)) ∧
  (∀ (s t : State) (z : BitVec 2) (g b : GReg) (i : BitVec 4) (w : BitVec 1) (m : BitVec 9) (ps : List Piece),
     Room s 1 → WaitOver s w → FullG s g → FullG s b → FullIx s i →
     let n := sizeBytes z
     let v := s.waited w
     v.access v.accStore (s.eaM b i m n) n false = .ok (t, ps) →
     let bs := bytesOf n (s.g g).toNat
     (t.storeRoom ps = .ok () → exec (.st z g b i w m) s = .next (retire (t.settleLocal.storePieces ps bs) 1) ∧
       exec (.stNt z g b i w m) s = .next (retire (t.settleLocal.storePieces ps bs) 1)) ∧
     (t.fib.updout = 0 → t.behindMessage true = false →
       let x := t.settle.drain
       x.storeRoom ps = .ok () → exec (.stRel z g b i w m) s = .next (retire (x.settleLocal.storePieces ps bs) 1))) ∧
  (∀ (s t x u : State) (z : BitVec 2) (e : BitVec 1) (d a : GReg) (sc : BitVec 4) (o : BitVec 2) (i : BitVec 4) (w : BitVec 1)
     (m : BitVec 22) (ps : List Piece) (bs : List Byte), Room s 2 → WaitOver s w → FullG s a → FullIx s i →
     let n := sizeBytes z
     let v := s.waited w
     let ea := s.eaX a i m n
     (FreeG s d → v.access v.accLoad ea n false = .ok (t, ps) →
       (if o = 1 then t.acquire sc.toNat else t).ownFirst false ps = .ok x → x.loadPieces false ps = .ok (u, bs) →
       exec (.ldScoped d a w z e sc o i m) s = landed (setG u d (extendLoad n (e == 1) (ofBytes bs))) (u.parksFor ps) 2) ∧
     (FullG s d → v.access v.accStore ea n false = .ok (t, ps) → (if o = 2 then t.release sc.toNat else .ok t) = .ok u →
       u.storeRoom ps = .ok () →
       exec (.stScoped d a w z sc o i m) s = .next (retire (u.settleLocal.storePieces ps (bytesOf n (s.g d).toNat)) 2))) ∧
  (∀ (s : State) (b : GReg) (i : BitVec 4) (m : BitVec 9), Room s 1 → ∃ t1 t2 t3,
     let named (r : GReg) : Prop := r = b ∨ (i.toNat ≤ 7 ∧ r = i.setWidth 3)
     let r := firstReads s (b :: if i.toNat ≤ 7 then [i.setWidth 3] else [])
     exec (.pfL1 b i m) s = .next (retire t1 1) ∧ exec (.pfL2 b i m) s = .next (retire t2 1) ∧
     exec (.pfMsc b i m) s = .next (retire t3 1) ∧
     (r.bank.val = s.bank.val ∧ r.bank.fill = s.bank.fill ∧ r.dev = s.dev ∧
       (∀ g, named g → IsFull s g → ¬FirstRead r g ∧ (FirstRead s g → r.core.l1 = []))) ∧
     ((∀ g, named g → ¬FirstRead s g) → r = s) ∧
     (∀ t ∈ [t1, t2, t3], t.fib = r.fib ∧ t.fibres = s.fibres ∧ t.skein = r.skein ∧ t.skeins = s.skeins ∧
       (s.dev.ecc = [] → s.dev.soft = [] → t.dev.mem = s.dev.mem ∧ t.dev.empt = s.dev.empt ∧ t.dev.pois = s.dev.pois)) ∧
     ((¬IsFull s b ∨ (i.toNat ≤ 7 ∧ ¬IsFull s (i.setWidth 3)) ∨ ∃ h, r.access r.accLoad (s.eaM b i m 128) 1 false = .error h) →
       t1 = r ∧ t2 = r ∧ t3 = r) ∧
     (IsFull s b → (i.toNat ≤ 7 → IsFull s (i.setWidth 3)) → ∀ u p ps, r.access r.accLoad (s.eaM b i m 128) 1 false = .ok (u, p :: ps) →
       (isPad p.pa = true → t1 = r ∧ t2 = r ∧ t3 = r) ∧
       (isDram p.pa = true → p.len = 1 → leafByp p.leaf = false → (t2.dev.slices.any fun e => e.1 == p.pa / 128) = true ∧
         (t3.dev.msc.any fun x => x.line == p.pa / 128) = true ∧
         (s.fib.guest = false → u.dev.ecc = [] → u.dev.soft = [] → (u.firstPoison (128 * (p.pa / 128)) 128) = none →
           (t1.core.l1.any fun e => e.1 == p.pa / 128) = true))))

/-- R196, R197: full/empty loads. A full word gives its bytes after an acquire at chip scope, and a take leaves it empty; on an empty word
the request waits at the word's home and the fibre parks. R196, R197: full/empty stores and bit operations. `st.fe` releases at chip
scope and its store leaves the core as every store does, posted to another chiplet's scratchpad, performed at once in its own, and
through the write-through buffer to DRAM; with its bytes the word becomes full. `fe.set` releases at chip scope and makes it full;
`fe.clr`, relaxed, makes it empty; `fe.test`, relaxed, reads the bit; and `g.empty` empties a register. Making a word full where
nothing waits changes no other bit. -/
def Obligations.FullEmptyMemory : Prop :=
  (∀ (s t u : State) (z : BitVec 2) (e : BitVec 1) (d b : GReg) (i : BitVec 4) (w : BitVec 1) (m : BitVec 9) (p : Piece)
     (bs : List Byte), Room s 1 → FullG s b → FreeG s d →
     let n := sizeBytes z
     let v := s.waited w
     (WaitOver s w → FullIx s i → fePiece v v.accLoad (s.eaM b i m n) n = .ok (t, p) →
       (t.emptyWord (p.pa / 8) = false → t.loadPieces true [p] = .ok (u, bs) →
         exec (.ldFe z e d b i w m) s =
           landed (setG (u.acquire 2) d (extendLoad n (e == 1) (ofBytes bs))) ((u.acquire 2).parksFor [p]) 1) ∧
       (t.emptyWord (p.pa / 8) = true → ∃ r : FeWait, r.fib = t.fib.id ∧ r.pa = p.pa ∧ r.len = n ∧ r.take = false ∧ r.d = d ∧
         r.signed = (e == 1) ∧ r.asid = t.fib.asid ∧
         exec (.ldFe z e d b i w m) s = .next (parkAs (t.setDev fun x => { x with feWait := x.feWait ++ [r] }) .fe))) ∧
     (fePiece s s.accAtomic (s.g b) 8 = .ok (t, p) →
       (t.emptyWord (p.pa / 8) = false → t.loadPieces true [p] = .ok (u, bs) →
         let x := ((u.acquire 2).touchBit (keyArg p.leaf) p.pa).setFull (p.pa / 8) false
         exec (.ldFeTake d b) s = landed (setG x d (extendLoad 8 false (ofBytes bs))) (x.parksFor [p]) 1) ∧
       (t.emptyWord (p.pa / 8) = true → ∃ r : FeWait, r.fib = t.fib.id ∧ r.pa = p.pa ∧ r.len = 8 ∧ r.take = true ∧ r.d = d ∧
         exec (.ldFeTake d b) s = .next (parkAs (t.setDev fun x => { x with feWait := x.feWait ++ [r] }) .fe)))) ∧
  (∀ (s t : State) (z : BitVec 2) (g b : GReg) (i : BitVec 4) (w : BitVec 1) (m : BitVec 9) (p : Piece), Room s 1 →
     let v := s.waited w
     let n := sizeBytes z
     let bs := bytesOf n (s.g g).toNat
     (FullG s b → WaitOver s w → FullIx s i → FullG s g → fePlace v v.accStore (s.eaM b i m n) n = .ok (t, p) → t.fib.updout = 0 →
       t.behindMessage true = false → t.settle.drain.storeRoom [p] = .ok () →
       let x := t.settle.drain.settleLocal
       (x.remote p = true → exec (.stFe z g b i w m) s = .next (retire (x.setDev fun d => { d with
         posted := d.posted ++ [{ fib := x.fib.id, core := x.core.num, seq := x.ctr, src := x.chip.num, pa := p.pa, data := bs
                                  setFull := true, hop := x.hop (padChip p.pa) }] }) 1)) ∧
       (x.remote p = false → isPad p.pa = true →
         exec (.stFe z g b i w m) s = .next (retire ((x.writeHome p.pa bs).makeFull (p.pa / 8)) 1)) ∧
       (isPad p.pa = false → exec (.stFe z g b i w m) s = .next (retire (x.setCore fun c => { c with
         wtb := c.wtb ++ [{ fib := x.fib.id, seq := x.ctr, key := keyArg p.leaf, pa := p.pa, data := bs, full := true }]
         l1 := putL1 p.pa bs c.l1 }) 1))) ∧
     (FullG s b → fePiece s s.accStore (s.g b) 8 = .ok (t, p) →
       exec (.feClr b) s = .next (retire ((t.touchBit (keyArg p.leaf) p.pa).setFull (p.pa / 8) false) 1)) ∧
     (∀ u, FullG s b → fePlace s s.accStore (s.g b) 8 = .ok (t, p) → t.fib.updout = 0 → t.behindMessage true = false →
       t.settle.drain.homeFirst [t.settle.drain.pieceWay p] [p] [] = .ok u →
       exec (.feSet b) s = .next (retire (((u.detect p.pa p.len).touchBit (keyArg p.leaf) p.pa).makeFull (p.pa / 8)) 1)) ∧
     (FullG s b → FreeG s g → fePiece s s.accLoad (s.g b) 8 = .ok (t, p) →
       exec (.feTest g b) s = landed (setG t g (if t.emptyWord (p.pa / 8) then 0 else 1)) (t.parksFor [p]) 1) ∧
     (FreeG s g → exec (.gEmpty g) s = .next (retire (setFill s g (s.g g) Fill.empty) 1))) ∧
  (∀ (s : State) (b : Buffered), b.full = true →
     s.performEntry b = ((s.perform b.key b.pa b.data).touchBit b.key b.pa).makeFull (b.pa / 8)) ∧
  (∀ (s : State) (w : Nat), (∀ e ∈ s.dev.feWait, e.pa / 8 ≠ w) → (s.dev.empt.Nodup → (s.makeFull w).emptyWord w = false) ∧
     (s.makeFull w).fib = s.fib ∧ (s.makeFull w).dev.mem = s.dev.mem ∧ ∀ x, x ≠ w → (s.makeFull w).emptyWord x = s.emptyWord x)

/-- R191, R192: a VF load reads the length code of the value's first byte, then the value, and rounds it to P into fd; `ld.f.adv` also
moves its base past the value; `st.f` stores the encoding held at P. R193 to R195: vector loads and stores, each lane an access of its
own. Contiguous lanes lie at EA + e·i, gathered and scattered ones at base + offset·e + imm9·e with an offset of −2^31 skipping its
lane; a load writes 0 (VF: +0) to a skipped lane; the parts of scattered lanes leave in increasing order of lane. An acquire of a VF
load comes before its lanes' length codes are read; a store is made once there is room for it. -/
def Obligations.FloatAndVectorMemory : Prop :=
  (∀ (s t t0 t1 t2 t2' t3 : State) (f : FReg) (b : GReg) (i : BitVec 4) (w : BitVec 1) (o : BitVec 2) (m : BitVec 9)
     (ps qs : List Piece) (b0 bs : List Byte) (x : Nat), Room s 1 → WaitOver s w → FullG s b → f.toNat < s.k →
     let v := s.waited w
     let n := ofBytes b0 % 16 + 1
     let reads (ea : Word) := v.access v.accLoad ea 1 false = .ok (t, ps) ∧
       (if o = 1 then t.acquire 2 else t).ownFirst (o == 3) ps = .ok t0 ∧ t0.readParts (o == 3) (some 0) ps = .ok (t1, b0) ∧
       2 ≤ ofBytes b0 % 16 ∧ t1.access t1.accLoad ea n (crosses ea n) = .ok (t2, qs) ∧ t2.ownFirst (o == 3) qs = .ok t2' ∧
       t2'.loadParts (o == 3) (some 0) qs = .ok (t3, bs)
     let y := setF t3 f.toNat ((vfDecode (ofBytes bs)).convert (Fmt.vf t3.p) t3.rm)
     (FullIx s i → reads (s.eaM b i m s.n) → exec (.ldF f b i w o m) s = landed y (t3.parksFor qs) 1) ∧
     (reads (s.g b) → exec (.ldFAdv f b w o) s = landed (setG y b (s.g b + BitVec.ofNat 64 n)) (t3.parksFor qs) 1) ∧
     (FullIx s i → readV0 v f.toNat = .ok x →
       let ea := s.eaM b i m s.n
       let u := if o = 1 then t.settle.drain else t
       v.access v.accStore ea s.n (crosses ea s.n) = .ok (t, ps) → (o = 1 → t.fib.updout = 0 ∧ t.behindMessage true = false) →
       u.storeRoom ps = .ok () →
       exec (.stF f b i w o m) s = .next (retire (u.settleLocal.storePieces ps (bytesOf s.n x)) 1))) ∧
  (∀ (s t x' u : State) (z : BitVec 2) (v : VReg) (b j : GReg) (i : BitVec 4) (w : BitVec 1) (o : BitVec 2) (m : BitVec 9)
     (ps : List (Nat × List Piece)) (got : List (Nat × Nat)) (x offs : Nat), Room s 1 → WaitOver s w → FullG s b →
     v.toNat < s.fib.nv →
     let r := s.waited w
     let e := sizeBytes z
     let l := 256 / e
     let k := vfLanes s.n
     let all := ps.flatMap Prod.snd
     let acq (y : State) := if o = 1 then y.acquire 2 else y
     let rel (y : State) := if o = 1 then y.settle.drain else y
     let loads (lanes : List (Nat × Word)) :=
       laneAccess r.accLoad e noCheck lanes r = .ok (t, ps) ∧ (acq t).ownFirst (o == 3) all = .ok x' ∧ laneLoads (o == 3) ps x' = .ok (u, got)
     let loadsF (lanes : List (Nat × Word)) :=
       laneAccess r.accLoad s.n (memLaneOk s.n (o == 3)) lanes (acq r) = .ok (t, ps) ∧ laneLoads (o == 3) ps t = .ok (u, got)
     let stores (e : Nat) (chk : LaneCheck) (lanes : List (Nat × Word)) :=
       readVec r v.toNat = .ok x ∧ laneAccess r.accStore e chk lanes r = .ok (t, ps) ∧
       (o = 1 → t.fib.updout = 0 ∧ t.behindMessage true = false) ∧ (rel t).storeRoom all = .ok ()
     let parks := ps.any fun q => u.parksFor q.2
     let ints := setVec u v.toNat (packLanes e (placeLanes l got 0))
     let q := roundLanes s.p s.rm got
     let vfs := raiseFlags (setVec u v.toNat (packLanes s.n (placeLanes k q.1 (vfEncode s.p FV.zero)))) q.2
     let row (e l : Nat) := rowLanes (s.eaM b i m e) e l
     let jump (e l : Nat) := jumpLanes (s.g b) offs m e l
     let stored (e : Nat) (scatter : Bool) := Host.Outcome.next (retire (laneStores (rel t).settleLocal e x scatter ps) 1)
     (FullIx s i →
       (loads (row e l) → exec (.vld z v b i w o m) s = landed ints parks 1) ∧
       (loadsF (row s.n k) → exec (.vldF v b i w o m) s = landed vfs parks 1) ∧
       (stores e noCheck (row e l) → exec (.vst z v b i w o m) s = stored e false) ∧
       (stores s.n (regLaneOk s.n x) (row s.n k) → exec (.vstF v b i w o m) s = stored s.n false)) ∧
     (j.toNat < s.fib.nv → readVec r j.toNat = .ok offs →
       (loads (jump e l) → exec (.vldGather z v b j w o m) s = landed ints parks 1) ∧
       (loadsF (jump s.n (Nat.min k 64)) → exec (.vldFGather v b j w o m) s = landed vfs parks 1) ∧
       (stores e noCheck (jump e l) → exec (.vstScatter z v b j w o m) s = stored e true) ∧
       (stores s.n (regLaneOk s.n x) (jump s.n (Nat.min k 64)) → exec (.vstFScatter v b j w o m) s = stored s.n true)))

/-- R189, R384: the frame of a store at home: the bytes stored take their value, where no word is absent or poisoned and no syndrome is
pending, and every other byte of memory and every register is as before. R57, R384: a store of less than a word to a poisoned or
absent word is lost and logged, and a whole-word store clears the poison of a word that is present. R61, R65, R371: a store within
one 64-byte block to the issuing chiplet's scratchpad is performed at once; one to another chiplet's is posted and changes no byte;
one to DRAM enters the write-through buffer and changes no byte at home until the buffer drains. R82, R185: a store to DRAM that
crosses blocks enters the buffer in parts, each within one block, which together are its bytes. R372, R187: a load within one block
that takes nothing from the L1 takes the bytes at home, where nothing is buffered, no word is poisoned and no slice holds the line under
another key, and a poisoned word makes
the load consume poison at the address of its first byte. -/
def Obligations.WhereAccessesGo : Prop :=
  (∀ (s : State) (pa : Nat) (bs : List Byte), s.dev.ecc = [] → s.dev.soft = [] → (∀ i, i < bs.length → s.absentPa (pa + i) = false) →
     (∀ i, i < bs.length → s.poisonedWord ((pa + i) / 8) = false) → Memory.wf s.dev.mem = true →
     let t := s.writeHome pa bs
     (∀ i, (h : i < bs.length) → memRead t.dev.mem (pa + i) = bs[i]) ∧
     (∀ a, (a < pa ∨ pa + bs.length ≤ a) → memRead t.dev.mem a = memRead s.dev.mem a) ∧ t.fib = s.fib ∧ t.fibres = s.fibres ∧
     t.skein = s.skein ∧ t.core = s.core ∧ t.chip = s.chip ∧ Memory.wf t.dev.mem = true) ∧
  (∀ (s : State) (pa : Nat) (bs : List Byte), s.dev.ecc = [] → s.dev.soft = [] →
     (s.poisonedWord (pa / 8) = true → bs.length < 8 → s.writeWord pa bs = s.logWord 0x03 (pa / 8) bs.length) ∧
     (s.absentPa pa = true → s.writeWord pa bs = s.logWord 0x03 (pa / 8) bs.length) ∧
     (s.absentPa pa = false → s.onSpare (pa / 8) = false → pa % 8 = 0 → bs.length = 8 → s.dev.pois.Nodup →
       (s.writeWord pa bs).poisonedWord (pa / 8) = false)) ∧
  (∀ (s : State) (p : Piece) (bs : List Byte), bs.length = p.len → 0 < p.len → p.pa % 64 + p.len ≤ 64 →
     (isPad p.pa = true → padChip p.pa = s.chip.num → s.storePieces [p] bs = s.writeHome p.pa bs) ∧
     (isPad p.pa = true → padChip p.pa ≠ s.chip.num → s.storePieces [p] bs = s.setDev fun d => { d with posted := d.posted ++
       [{ fib := s.fib.id, core := s.core.num, seq := s.ctr, src := s.chip.num, pa := p.pa, data := bs, setFull := false
          hop := s.hop (padChip p.pa) }] }) ∧
     (isPad p.pa = false → s.storePieces [p] bs = s.setCore fun c => { c with
       wtb := c.wtb ++ [{ fib := s.fib.id, seq := s.ctr, key := keyArg p.leaf, pa := p.pa, data := bs, full := false }], l1 := putL1 p.pa bs c.l1 })) ∧
  (∀ (s : State) (ps : List Piece) (bs : List Byte), (∀ p ∈ ps, isDram p.pa = true ∧ p.pa % 2 ^ 16 + p.len ≤ 2 ^ 16) →
     (ps.map Piece.len).sum = bs.length →
     (s.storePieces ps bs).dev = s.dev ∧ (s.storePieces ps bs).fib = s.fib ∧
     ((storeParts ps bs).map StorePart.data).flatten = bs ∧
     ∃ add, (s.storePieces ps bs).core.wtb = s.core.wtb ++ add ∧
       (∀ e ∈ add, e.fib = s.fib.id ∧ e.pa % 64 + e.data.length ≤ 64) ∧
       (add.map (fun e => (e.pa, e.data)) = (storeParts ps bs).map (fun e => (e.pa, e.data)) ∨
         add.map (fun e => (e.pa, e.data)) = (storeParts ps bs).reverse.map (fun e => (e.pa, e.data)))) ∧
  (∀ (s : State) (p : Piece) (nt : Bool), s.usesL1 p nt = false → s.core.wtb = [] → s.dev.ecc = [] → s.dev.soft = [] → p.pa % 64 + p.len ≤ 64 →
     (isDram p.pa = true → s.lineKeyOf (p.pa / 128) = s.key (leafKey p.leaf) ∧ s.altLine (p.pa / 128) = none) →
     (s.firstPoison p.pa p.len = none → ∃ t, s.loadPieces nt [p] = .ok (t, memBytes s.dev.mem p.pa p.len) ∧ t.fib = s.fib ∧
       t.core = s.core ∧ t.dev.mem = s.dev.mem) ∧
     (∀ x, s.firstPoison p.pa p.len = some x →
       s.loadPieces nt [p] = .error ⟨s, .poison 0 (BitVec.ofNat 64 (p.va + x - p.pa)) false⟩))

/-- R350, R352, R353: where the executing core is the issuing one's chiplet, an atomic reads the old value into gd and writes the new
one, indivisibly, at the width that S gives, after the earlier stores of its fibre to the place and the buffered ones of its core to
its line. R354: the atomics of major 0x35, of two words, at ga + imm22 with a release before and
an acquire after at the scope they name. R358, R359: a remote update leaves its fibre free to go on, after those same earlier stores:
one more update outstanding, on its way to the executing core. R358, R359: a remote update that reaches its executing core waits
behind an earlier update or store of its fibre to the same place; then it takes a free guest entry, applies its operation (on poison
it does no store and is logged) and lowers UPDOUT of its fibre by one, in its registers or in its checkpoint. -/
def Obligations.Atomics : Prop :=
  (∀ (s t u e : State) (d a b c : GReg) (z : BitVec 1) (p : Piece) (h o : Nat), Room s 1 → FullG s a → FullG s b → FreeG s d →
     let n := 4 * 2 ^ z.toNat
     let w := 8 * n
     let y := (s.g b).toNat % 2 ^ w
     atomicHome s s.accAtomic (s.g a) n n = .ok (t, p, h) → h = t.chip.num →
     t.settleLocal.homeFirst [] [p] (if isDram p.pa then [p.pa / 128] else []) = .ok e →
     let m := e.reachSlice p
     let done (v : Nat) := retire (setG (u.setCore fun k => { k with l1 := putL1 p.pa (bytesOf n v) k.l1 }) d (BitVec.ofNat 64 o)) 1
     let op (i : Instr) (f : Nat → Nat) :=
       m.rmw (keyArg p.leaf) p.pa n (fun x => some (f x)) = (u, some o) → exec i s = .next (done (f o))
     op (.amoAdd d a b z) (fun x => (x + y) % 2 ^ w) ∧ op (.amoAnd d a b z) (fun x => x &&& y) ∧
     op (.amoOr d a b z) (fun x => x ||| y) ∧ op (.amoXor d a b z) (fun x => x ^^^ y) ∧
     op (.amoMin d a b z) (fun x => if toSigned w x ≤ toSigned w y then x else y) ∧
     op (.amoMax d a b z) (fun x => if toSigned w x ≥ toSigned w y then x else y) ∧
     op (.amoMinu d a b z) (fun x => Nat.min x y) ∧ op (.amoMaxu d a b z) (fun x => Nat.max x y) ∧
     op (.amoSwap d a b z) (fun _ => y) ∧ op (.amoInc d a b z) (fun x => if x ≥ y then 0 else x + 1) ∧
     op (.amoDec d a b z) (fun x => if x = 0 ∨ x > y then y else x - 1) ∧
     (FullG s c → m.rmw (keyArg p.leaf) p.pa n (fun x => if x = y then some ((s.g c).toNat % 2 ^ w) else none) = (u, some o) →
       exec (.cas d a b z c) s = if o = y then .next (done ((s.g c).toNat % 2 ^ w))
         else .next (retire (setG u d (BitVec.ofNat 64 o)) 1))) ∧
  (∀ (s t r e u : State) (d a b c : GReg) (w z : BitVec 1) (op : BitVec 6) (sc : BitVec 4) (o : BitVec 2) (m : BitVec 22) (p : Piece)
     (x : Nat), Room s 2 → WaitOver s w → FullG s a → FullG s b → FreeG s d →
     let v := s.waited w
     let ea := s.g a + m.signExtend 64
     let rel : Ex State := if bit o 1 then t.release sc.toNat else .ok t
     let mine := r.settleLocal.homeFirst [] [p] (if isDram p.pa then [p.pa / 128] else [])
     let acq (y : State) := if bit o 0 then y.acquire sc.toNat else y
     let done (n y : Nat) := retire (setG ((acq u).setCore fun k => { k with l1 := putL1 p.pa (bytesOf n y) k.l1 }) d (BitVec.ofNat 64 x)) 2
     (let n := 4 * 2 ^ (op.toNat % 2)
      let f (y : Nat) := amoValue (op.toNat / 2) (8 * n) y ((s.g b).toNat % 2 ^ (8 * n))
      atomicHome v v.accAtomic ea n n = .ok (t, p, r.chip.num) → rel = .ok r → mine = .ok e →
      (e.reachSlice p).rmw (keyArg p.leaf) p.pa n (fun y => some (f y)) = (u, some x) →
      exec (.amoScoped d a b w op sc o m) s = .next (done n (f x))) ∧
     (FullG s c →
      let n := 4 * 2 ^ z.toNat
      let f (y : Nat) := if y = (s.g b).toNat % 2 ^ (8 * n) then some ((s.g c).toNat % 2 ^ (8 * n)) else none
      atomicHome v v.accAtomic ea n n = .ok (t, p, r.chip.num) → rel = .ok r → mine = .ok e →
      (e.reachSlice p).rmw (keyArg p.leaf) p.pa n f = (u, some x) →
      exec (.casScoped d a b c w z sc o m) s = match f x with
        | some y => .next (done n y)
        | none => .next (retire (setG (acq u) d (BitVec.ofNat 64 x)) 2))) ∧
  (∀ (s t e : State) (a b : GReg) (z : BitVec 1) (p : Piece) (h : Nat), Room s 1 → FullG s a → FullG s b →
     let n := 4 * 2 ^ z.toNat
     atomicHome s s.accAtomic (s.g a) n n = .ok (t, p, h) → t.fib.updout < 65535 →
     t.homeFirst [] [p] (if isDram p.pa then [p.pa / 128] else []) = .ok e →
     let core := t.execCore h p.pa
     let send (i : Instr) (op : Nat) := exec i s = .next (retire ((e.setDev fun d => { d with updates := d.updates ++
       [{ fib := t.fib.id, op := op, size := n, b := BitVec.ofNat 64 ((s.g b).toNat % 2 ^ (8 * n)), pa := p.pa, key := keyArg p.leaf
          core := core, asid := t.fib.asid, va := p.va, hop := t.hop (chipNum core) }] }).setFib fun f =>
         { f with updout := f.updout + 1 }) 1)
     send (.updAdd a b z) 0 ∧ send (.updAnd a b z) 1 ∧ send (.updOr a b z) 2 ∧ send (.updXor a b z) 3 ∧
     send (.updMin a b z) 4 ∧ send (.updMax a b z) 5 ∧ send (.updMinu a b z) 6 ∧ send (.updMaxu a b z) 7) ∧
  (∀ (s t : State) (k : Nat) (o : Option Nat) (u : Update), s.dev.updates[k]? = some u →
     let behind := (s.dev.updates.take k).any (fun e => e.fib == u.fib && e.pa / 8 == u.pa / 8) ||
       s.dev.posted.any (fun p => p.fib == u.fib && decide (p.pa < u.pa + u.size) && decide (u.pa < p.pa + p.data.length)) ||
       s.migHops.any (fun h => h.before u.hop)
     (behind = true → exec (.remoteUpdateExecute k) s = .next s) ∧
     (behind = false → (∀ f ∈ s.allFibres, f.waitsAt u.core = false) → (s.freeEntry u.core).isSome = true →
       (s.setDev fun d => { d with updates := dropAt d.updates k }).rmw u.key u.pa u.size
         (fun x => some (amoValue u.op (8 * u.size) x u.b.toNat)) = (t, o) →
       let v := if o.isSome then t else
         t.logAt 0x03 0 0 (coreBlk u.core) (coreLoc u.core) u.fib.lid (8 * (u.pa / 8)) u.size
       ((v.fibre? u.fib).isSome = true →
         exec (.remoteUpdateExecute k) s = .next (v.onFibre u.fib fun f => { f with updout := f.updout - 1 })) ∧
       (v.fibre? u.fib = none → exec (.remoteUpdateExecute k) s = .next (v.onImage u.fib 8 fun w => w - 2 ^ 48))))

/-- R350, R343, R357: `migrate` and an atomic whose executing core lies on another chiplet ship the fibre there, after a release at
chip scope; where the executing core lies on the same chiplet `migrate` has no effect; `migrate.ret` sends a guest home, and does
nothing at home. R332, R343: a travelling fibre takes the lowest free guest entry of the core it goes to, or waits there for one; a
guest that has retired 64 instructions or been parked for 4096 clocks is sent home. R351: it departs with UPDOUT = 0 and after a
release at chip scope, and arrives at its home entry, no guest, with an acquire at chip scope; there it takes the trap or the restart
that it carries. -/
def Obligations.Migration : Prop :=
  (∀ (s t : State) (d a b : GReg) (z : BitVec 1) (p : Piece) (h : Nat), Room s 1 → FullG s a →
     (atomicHome s s.accLoad (s.g a) 1 1 = .ok (t, p, h) →
       (h = t.chip.num → exec (.migrate a) s = .next (retire t 1)) ∧
       (h ≠ t.chip.num → t.fib.updout = 0 → t.behindMessage true = false →
         exec (.migrate a) s = .next (shipTo t.settle.drain (t.settle.drain.execCore h p.pa)))) ∧
     (FullG s b → FreeG s d → atomicHome s s.accAtomic (s.g a) (4 * 2 ^ z.toNat) (4 * 2 ^ z.toNat) = .ok (t, p, h) →
       h ≠ t.chip.num → t.fib.updout = 0 → t.behindMessage true = false →
       exec (.amoAdd d a b z) s = .next (shipTo t.settle.drain (t.settle.drain.execCore h p.pa))) ∧
     (s.fib.guest = true → s.fib.updout = 0 → s.behindMessage true = false → s.reach (chipNum s.fib.home) = .ok () →
       exec .migrateRet s = .next ((retire s.settle.drain 1).setFib fun f => { f with travel := some .home })) ∧
     (s.fib.guest = false → exec .migrateRet s = .next (retire s 1))) ∧
  (∀ (s : State) (core : Nat), ∃ h, (shipTo s core).fib = { s.fib with park := none, travel := some (.out core h) } ∧
     h.dst = netChip (chipNum core) ∧ h.src = netChip s.chip.num) ∧
  (∀ (s : State) (core e : Nat), s.freeEntry core = some e ↔
     e < guestRoom core ∧ (∀ y ∈ s.allFibres, y.holdsEntry core = true → y.guestEntry ≠ e) ∧
     ∀ i < e, ∃ y ∈ s.allFibres, y.holdsEntry core = true ∧ y.guestEntry = i) ∧
  (∀ (s : State) (f : Fibre), s.fib.live = true → s.fib = f →
     (∀ core h, f.travel = some (.out core h) →
       ((s.migHops.any fun e => e.before h) = true → exec (.migrationArrival f.id) s = .next s) ∧
       ((s.migHops.any fun e => e.before h) = false → (∀ y ∈ s.allFibres, y.waitsAt core = false) →
         (∀ e, s.freeEntry core = some e → ∃ t, exec (.migrationArrival f.id) s = .next t ∧ t.core.num = core ∧
           t.fib = { f with at_ := core, guest := true, guestEntry := e, guestCount := 0, travel := none, park := none }) ∧
         (s.freeEntry core = none → ∃ t since, exec (.migrationArrival f.id) s = .next t ∧
           t.fib.travel = some (.waiting core since) ∧ t.fib.bank = f.bank ∧ t.fib.pc = f.pc))) ∧
     (f.guest = true → f.travel = none → 64 ≤ f.guestCount → ∃ t, exec (.guestInstructionLimit f.id) s = .next t ∧
       t.fib = { f with park := none, travel := some .home }) ∧
     (f.guest = true → f.travel = none → f.parked = true → s.clocksSince (chipNum f.at_) f.parkedAt 4096 = true →
       ∃ t, exec (.guestParkLimit f.id) s = .next t ∧ t.fib = { f with park := none, travel := some .home }) ∧
     (∀ why, f.travel = some why → (why = .home ∨ why = .homeRestart ∨ ∃ c b v p, why = .homeTrap c b v p) →
       let u := (s.focus f.id).settle.drain
       let arrived (t : State) : Prop := t.fib = { u.fib with at_ := u.fib.home, guest := false, guestEntry := 0, guestCount := 0
                                                              travel := none, park := none } ∧ t.core.num = u.fib.home ∧ t.core.l1 = []
       (f.updout ≠ 0 → exec (.guestReturnHome f.id) s = .next s) ∧
       (f.updout = 0 → (s.focus f.id).behindMessage true = false → ((s.focus f.id).migHops.any fun e => e.along ((s.focus f.id).hop (chipNum f.home))) = false →
         ∃ t, arrived t ∧
           (why = .home → exec (.guestReturnHome f.id) s = .next t) ∧
           (why = .homeRestart → exec (.guestReturnHome f.id) s = conclude (restart t)) ∧
           (∀ c b v p, why = .homeTrap c b v p → exec (.guestReturnHome f.id) s = .next (takeTrap t c b v p true)))))

/-! ## Synchronisation -/

/-- R142, R361: an arrival. The last of COUNT arrivals flips the parity, clears the counts and keeps the widest scope of its phase for
that phase's waits; a COUNT of 0 or above 256 has subcause 1 and one that differs from the phase's has subcause 0. R360, R361, R370:
`bar.arr` (releasing at core scope) and `bar.arr.rlx` give the parity of the phase joined; `bar.wait` completes with an acquire once
the parity differs and parks while it is the same; `bar.sync` arrives and then waits, and does not arrive again while it waits; a
refused arrival raises the barrier participant fault with the count in TVAL. The arrival that completes a phase lets every fibre
of the core that is parked for it go on, and no other. -/
def Obligations.Barriers : Prop :=
  (∀ (b : Barrier) (count scope : Nat),
     ((count = 0 ∨ 256 < count) → b.arrive count scope = .error 1) ∧
     (1 ≤ count → count ≤ 256 → b.npart ≠ 0 → b.npart ≠ count → b.arrive count scope = .error 0) ∧
     (1 ≤ count → count ≤ 256 → (b.npart = 0 ∨ b.npart = count) → ∃ v, b.arrive count scope = .ok v ∧
       (b.arr + 1 = count → v.ph = !b.ph ∧ v.npart = 0 ∧ v.arr = 0 ∧ v.scope = 0 ∧ v.last = max b.scope scope) ∧
       (b.arr + 1 ≠ count → v.ph = b.ph ∧ v.npart = count ∧ v.arr = b.arr + 1 ∧ v.scope = max b.scope scope))) ∧
  (∀ (s : State) (d a : GReg) (n : BitVec 5) (b : Nat) (v : Barrier), Room s 1 → s.fib.guest = false → FullG s a →
     barNo s.skein n.toNat = some b →
     let count := (s.g a).toNat
     let old := (s.bar b).ph
     let u := s.settle
     let joined (w : BarWait) : State := (u.setBar u.core.num b v).setFib fun f => { f with bwait := some w }
     (FreeG s d → (s.bar b).arrive count 0 = .ok v →
       exec (.barArrRlx d a n) s = .next (retire (setG (s.setBar s.core.num b v) d (if old then 1 else 0)) 1)) ∧
     (FreeG s d → s.fib.updout = 0 → s.behindMessage false = false → u.bar b = s.bar b → (s.bar b).arrive count 1 = .ok v →
       exec (.barArr d a n) s = .next (retire (setG (u.setBar u.core.num b v) d (if old then 1 else 0)) 1)) ∧
     (∀ sub, (s.bar b).arrive count 1 = .error sub →
       (FreeG s d → exec (.barArr d a n) s = .next (raise s 0x14 sub (s.g a) false) ∧
         exec (.barArrRlx d a n) s = .next (raise s 0x14 sub (s.g a) false)) ∧
       (s.waiting false = none → exec (.barSync a n) s = .next (raise s 0x14 sub (s.g a) false))) ∧
     (old ≠ (s.g a).getLsbD 0 → exec (.barWait a n) s =
       .next (retire ((s.acquire (max 1 (s.bar b).last)).setFib fun f => { f with bwait := none }) 1)) ∧
     (old = (s.g a).getLsbD 0 → exec (.barWait a n) s = .next (parkAs s (.barrier b old))) ∧
     (s.waiting false = none → s.fib.updout = 0 → s.behindMessage false = false → u.bar b = s.bar b →
       (s.bar b).arrive count 1 = .ok v → b < 32 →
       ∃ w : BarWait, w.at_ = (u.setBar u.core.num b v).fib.pc ∧ w.domain = false ∧ w.parity = old ∧
         (v.ph ≠ old → exec (.barSync a n) s =
           .next (retire (((joined w).acquire (max 1 v.last)).setFib fun f => { f with bwait := none }) 1)) ∧
         (v.ph = old → exec (.barSync a n) s = .next (parkAs (joined w) (.barrier b old)))) ∧
     (∀ w : BarWait, s.waiting false = some w →
       (old ≠ w.parity → exec (.barSync a n) s =
         .next (retire ((s.acquire (max 1 (s.bar b).last)).setFib fun f => { f with bwait := none }) 1)) ∧
       (old = w.parity → exec (.barSync a n) s = .next (parkAs s (.barrier b old))))) ∧
  (∀ (s : State) (core b : Nat) (v : Barrier), b < 32 → (s.allFibres.map Fibre.id).Nodup →
     let old := ((s.coreAt core).bars.getD b Barrier.zero).ph
     let parked (f : Fibre) : Prop := f.at_ = core ∧ f.park = some (.barrier b old)
     let t := s.setBar core b v
     (t.coreAt core).bars.getD b Barrier.zero = v ∧
     (v.ph = old → t.fib = s.fib ∧ t.fibres = s.fibres) ∧
     (v.ph ≠ old → ∀ f ∈ s.allFibres, (¬parked f → f ∈ t.allFibres) ∧
       (parked f → ∃ g ∈ t.allFibres, g.id = f.id ∧ g.at_ = f.at_ ∧ g.park = none ∧ g.pc = f.pc + 4 ∧ g.bwait = none ∧ g.bank = f.bank)))

/-- R362: `bar.rmt` sends an arrival with its count, barrier and release scope towards a skein of the launch; a release one performs the
fibre's earlier stores first. A destination outside the launch raises the destination fault. R362, R142: a remote arrival at a
resident skein of a live launch, with nothing waiting before it, arrives at the barrier it names: the last one flips the parity. R362,
R393: a refused one, with a bad count, a barrier beyond the skein's range or a count that differs from the phase's, leaves every
barrier as it was and is written to the dead-letter log, where that has room, with code 0x14 and subcause 1, 3 or 0 in the record's
word 3. -/
def Obligations.RemoteBarriers : Prop :=
  (∀ (s : State) (a b : GReg) (r : BitVec 1) (sc : BitVec 3) (l : Launch), Room s 1 → s.fib.guest = false → FullG s a → FullG s b →
     s.myLaunch = some l →
     let dst := s.g a
     let rel := if sc = 0 then s else if sc = 1 then s.settle else s.settle.drain
     let t := if r = 1 then rel.settle.drain else s
     (bits dst 25 39 = 0 → bits dst 0 20 < l.nsk → s.reach (s.skeinPlace s.fib.id.lid (bits dst 0 20)) = .ok () →
       (r = 1 → sc ≠ 0 → s.fib.updout = 0 ∧ s.behindMessage (sc.toNat != 1) = false) → (r = 1 → rel.behindMessage true = false) →
       ∃ m : Msg, m.kind = 1 ∧ m.dstLid = t.fib.id.lid ∧ m.dstSkn = bits dst 0 20 ∧ m.srcFib = t.fib.id ∧
         m.pay = [s.g b, BitVec.ofNat 64 (bits dst 20 5), BitVec.ofNat 64 (sc.toNat + 8 * r.toNat), 0] ∧ m.aux = sc.toNat + 8 * r.toNat ∧
         m.hop = t.hop (s.skeinPlace s.fib.id.lid (bits dst 0 20)) ∧
         exec (.barRmt a b r sc) s = .next (retire (t.setDev fun v => { v with arrivals := v.arrivals ++ [m] }) 1)) ∧
     ((bits dst 25 39 ≠ 0 ∨ l.nsk ≤ bits dst 0 20) → exec (.barRmt a b r sc) s = .next (raise s 0x10 1 dst false))) ∧
  (∀ (s : State) (k : Nat) (m : Msg) (l : Launch) (x : Skein), s.dev.arrivals[k]? = some m →
     (earlierMsg s.dev.arrivals k m = true ∨ s.ctlBefore m.hop = true → exec (.remoteArrival k) s = .next s) ∧
     (earlierMsg s.dev.arrivals k m = false → s.ctlBefore m.hop = false → m.kind = 1 → s.liveLaunch? m.dstLid = some l → m.dstSkn ∉ l.exited →
       s.receiver? m.dstLid m.dstSkn = some x → s.backlog l m.dstSkn = false → s.pullOverflow m.dstLid m.dstSkn = s →
       exec (.remoteArrival k) s = .next ((s.countRemote l x m).setDev fun d => { d with arrivals := dropAt d.arrivals k }))) ∧
  (∀ (s : State) (l : Launch) (k : Skein) (m : Msg) (v : Barrier),
     let count := (m.pay.getD 0 0).toNat
     let b := bits (m.pay.getD 1 0) 0 5
     let old := (s.coreAt k.core).bars.getD (k.bb + b) Barrier.zero
     1 ≤ count → count ≤ 256 → b < k.bn →
     old.arrive count (if bit (BitVec.ofNat 4 m.aux) 3 then m.aux % 8 else 0) = .ok v →
     s.countRemote l k m = s.setBar k.core (k.bb + b) v) ∧
  (∀ (s : State) (l : Launch) (k : Skein) (m : Msg) (sub : Nat),
     let count := (m.pay.getD 0 0).toNat
     let b := bits (m.pay.getD 1 0) 0 5
     let old := (s.coreAt k.core).bars.getD (k.bb + b) Barrier.zero
     let bad := count = 0 ∨ 256 < count
     ((bad ∧ sub = 1) ∨ (¬bad ∧ k.bn ≤ b ∧ sub = 3) ∨ (¬bad ∧ b < k.bn ∧ old.npart ≠ 0 ∧ old.npart ≠ count ∧ sub = 0)) →
     let r := { m with pay := m.pay.take 3 ++ [BitVec.ofNat 64 (0x14 + 2 ^ 16 * sub)] }
     let tail := s.ringWord l 2
     let t := s.countRemote l k m
     t.core = s.core ∧ t.cores = s.cores ∧ t.fib = s.fib ∧ t.fibres = s.fibres ∧
     (tail - s.ringWord l 4 < 2 ^ l.rnl → t = (s.agentWrite l.asid (l.deadAt tail) r.record).putRing l 2 (tail + 1)))

/-- R145, R363, R364: `sem.post` releases at chip scope and adds, at most to 2^32 − 1 with a log record for what is lost, with waiters
served in order; `sem.wait` takes its count at once when nobody waits and the count suffices, and otherwise joins the line; `sem.try`
never waits; `sem.rd` reads. R364: the head of a line whose request the count satisfies is served with an acquire, and the next one
becomes the head. R365, R366, R375: a fence releases and then acquires at its scope, its halves do the one or the other, and at fibre
scope it has no effect; `twait` waits for the tokens it names, after whose
copies the fibre's next loads come, and raises the token fault for one that failed, with its record in
TVAL. -/
def Obligations.SemaphoresFencesTokens : Prop :=
  (∀ (s : State) (d a : GReg) (k : BitVec 6), Room s 1 → FullG s a → (s.g a).toNat < 2 ^ 32 →
     let n := (s.g a).toNat
     let c := (s.sem k.toNat).count
     let took := (s.onSem k.toNat fun v => { v with count := v.count - n }).acquire 2
     (s.fib.updout = 0 → s.behindMessage true = false →
       let r := s.settle.drain
       let sum := (r.sem k.toNat).count + n
       let u := if sum < 2 ^ 32 then r else r.log 0x0F 0 0 0 k.toNat
       let t := retire (u.onSem k.toNat fun m => { m with count := min sum (2 ^ 32 - 1) }) 1
       exec (.semPost a k) s = .next (t.serveLine t.chip.num k.toNat (t.sem k.toNat).line.length)) ∧
     (s.fib.updout ≠ 0 → exec (.semPost a k) s = .next (parkAs s .retry)) ∧
     (n = 0 → exec (.semWait a k) s = .next (retire (s.acquire 2) 1)) ∧
     (0 < n → (s.sem k.toNat).line = [] → n ≤ c → exec (.semWait a k) s = .next (retire took 1)) ∧
     (0 < n → ((s.sem k.toNat).line ≠ [] ∨ c < n) → exec (.semWait a k) s =
       .next (parkAs (s.onSem k.toNat fun v => { v with line := v.line ++ [(s.fib.id, n)] }) (.sem k.toNat n))) ∧
     (FreeG s d → (s.sem k.toNat).line = [] → n ≤ c → exec (.semTry d a k) s = .next (retire (setG took d 1) 1)) ∧
     (FreeG s d → ((s.sem k.toNat).line ≠ [] ∨ c < n) → exec (.semTry d a k) s = wrote s d 0 1) ∧
     (FreeG s d → exec (.semRd d k) s = wrote s d (BitVec.ofNat 64 c) 1)) ∧
  (∀ (s : State) (k fuel n : Nat) (id : FibreId) (rest : List (FibreId × Nat)), (s.sem k).line = (id, n) :: rest →
     (n ≤ (s.sem k).count → k < 64 → ∃ t : State, s.serveLine s.chip.num k (fuel + 1) = ((t.acquireFor id).finish id 1).serveLine s.chip.num k fuel ∧
       t = s.onSem k fun m => { m with count := m.count - n, line := rest }) ∧
     ((s.sem k).count < n → s.serveLine s.chip.num k (fuel + 1) = s)) ∧
  (∀ (s : State) (sc : BitVec 3) (m : BitVec 8), Room s 1 →
     let rel := if sc = 0 then s else if sc = 1 then s.settle else s.settle.drain
     ((sc = 0 ∨ (s.fib.updout = 0 ∧ s.behindMessage (sc.toNat != 1) = false)) →
       exec (.fence sc) s = .next (retire (rel.acquire sc.toNat) 1) ∧ exec (.fenceRel sc) s = .next (retire rel 1)) ∧
     ((sc = 0 ∨ s.fib.updout = 0) → exec (.fenceAcq sc) s = .next (retire (s.acquire sc.toNat) 1)) ∧
     (s.fib.updout ≠ 0 → sc ≠ 0 → exec (.fence sc) s = .next (parkAs s .retry) ∧ exec (.fenceAcq sc) s = .next (parkAs s .retry) ∧
       exec (.fenceRel sc) s = .next (parkAs s .retry)) ∧
     (s.fib.tokens.busy m = true → exec (.twait m) s = .next (parkAs s .wait)) ∧
     (s.fib.tokens.busy m = false → s.fib.tokens.failed m = none →
       exec (.twait m) s = .next (retire (if m = 0 then s else
         (s.acquire 2).setFib fun f => { f with mark := max f.mark (f.tokens.latest m) }) 1)) ∧
     (∀ i, s.fib.tokens.busy m = false → s.fib.tokens.failed m = some i →
       exec (.twait m) s = .next (raise s 0x13 0 (s.fib.tokens.record.getD i 0) false)))

/-- R367, R368: domain barriers of a cooperative launch. An arrival joins the open phase, whose number it gives; the last of a skein
contributes; `dbar.sync` arrives and then waits, and arrives once; the wait completes with an acquire at the level's scope once the
phase number differs; `dphase` and `dphase.t` read the
phase number and TP as flooded to the skein. R367: a contribution that completes a phase raises the phase number by 1 modulo 2^32,
sets TP to the root's tick and floods both to every participant; one that does not is kept. Contributions and floods keep the order
of their way (R31). A flood that reaches a skein starts its
arrivals afresh. -/
def Obligations.LaunchBarriers : Prop :=
  (∀ (s : State) (d a lv : BitVec 3) (l : Launch) (e dom : Nat), Room s 1 → s.fib.guest = false → FullG s a → s.myLaunch = some l →
     l.coop = true → domOf s.core.memb lv.toNat = (e, dom) →
     let n := (s.g a).toNat
     let k := s.skein.dbar e
     let ph := s.phaseSeen l s.fib.id.skn e dom
     (FreeG s d → exec (.dphase d lv) s = wrote s d (BitVec.ofNat 64 ph) 1 ∧
       exec (.dphaseT d lv) s = wrote s d (BitVec.ofNat 64 (s.tpSeen l s.fib.id.skn e dom)) 1) ∧
     (ph ≠ bits (s.g a) 0 32 → exec (.dbarWait a lv) s =
       .next (retire ((s.acquire (levelScope e)).setFib fun f => { f with bwait := none }) 1)) ∧
     (ph = bits (s.g a) 0 32 → exec (.dbarWait a lv) s = .next (parkAs s .wait)) ∧
     (1 ≤ n → n ≤ 256 → (k.need = 0 ∨ k.need = n) → k.sent = false → s.fib.updout = 0 → s.behindMessage true = false →
       let t := s.settle.drain
       t.skein = s.skein → t.phaseSeen l t.fib.id.skn e dom = ph →
       let last := k.arrived + 1 == n
       let u := t.setSkein fun x => x.putDbar { level := e, need := n, arrived := k.arrived + 1, sent := last }
       let u := if last then u.setDev fun v => { v with contribs := v.contribs ++
         [{ lid := l.lid, skn := t.fib.id.skn, level := e, dom := dom, phase := ph, tp := 0, scope := levelScope e
            hop := u.hop (rootOf (u.participants l.lid e dom)) }] } else u
       (FreeG s d → exec (.dbarArr d a lv) s = .next (retire (setG u d (BitVec.ofNat 64 ph)) 1)) ∧
       (s.waiting true = none → u.myLaunch = some l → domOf u.core.memb lv.toNat = (e, dom) → u.fib.guest = false → ∃ w : BarWait,
         w.at_ = u.fib.pc ∧ w.domain = true ∧ w.phase = ph ∧
         exec (.dbarSync a lv) s = .next (parkAs (u.setFib fun f => { f with bwait := some w }) .wait))) ∧
     (∀ w : BarWait, s.fib.bwait = some w → w.at_ = s.fib.pc → w.domain = true → ph ≠ w.phase → exec (.dbarSync a lv) s =
       .next (retire ((s.acquire (levelScope e)).setFib fun f => { f with bwait := none }) 1)) ∧
     (∀ w : BarWait, s.fib.bwait = some w → w.at_ = s.fib.pc → w.domain = true → ph = w.phase →
       exec (.dbarSync a lv) s = .next (parkAs s .wait))) ∧
  (∀ (s : State) (k : Nat) (m : DbarMsg),
     (s.dev.contribs[k]? = some m → s.ctlBefore m.hop = true → exec (.dbarContribution k) s = .next s) ∧
     (s.dev.contribs[k]? = some m → s.ctlBefore m.hop = false → ∃ t, exec (.dbarContribution k) s = .next t ∧ t.dev.contribs = dropAt s.dev.contribs k ∧
       (∀ l, (s.dev.launches.filter fun l => l.lid == m.lid) = [l] →
         let p := l.phaseOf m.level m.dom
         let part := s.participants m.lid m.level m.dom
         let all := part.all fun x => (setIns m.skn p.contrib).contains x.skn
         ∃ l', t.launch? m.lid = some l' ∧
           (all = true → part ≠ [] → (l'.phaseOf m.level m.dom).phase = (p.phase + 1) % 2 ^ 32 ∧
             (l'.phaseOf m.level m.dom).tp = s.wtick (rootOf part) ∧ (l'.phaseOf m.level m.dom).contrib = [] ∧
             t.dev.floods.length = s.dev.floods.length + part.length) ∧
           (all = false → (l'.phaseOf m.level m.dom).phase = p.phase ∧ (l'.phaseOf m.level m.dom).contrib = setIns m.skn p.contrib ∧
             t.dev.floods = s.dev.floods))) ∧
     (s.dev.floods[k]? = some m → s.ctlBefore m.hop = true → exec (.dbarPhaseFlood k) s = .next s) ∧
     (s.dev.floods[k]? = some m → s.ctlBefore m.hop = false → exec (.dbarPhaseFlood k) s = .next ((s.setDev fun d => { d with floods := dropAt d.floods k }).onSkein
       m.lid m.skn fun x => x.putDbar { level := m.level, need := 0, arrived := 0, sent := false })))

/-! ## Floats and precision -/

/-- R259, R262 to R265: scalar arithmetic computes at P and RM and writes the rounded result and the union of flags. -/
def Obligations.FloatArithmetic : Prop :=
  ∀ (s : State) (d a b c : FReg) (x y z : FV), Room s 1 → d.toNat < s.k → a.toNat < s.k → readF s a.toNat = .ok x →
    let out (r : FV × FFlags) := Host.Outcome.next (retire (setF s d.toNat r) 1)
    let p := s.p
    let rm := s.rm
    exec (.fsqrt d a) s = out (x.sqrt p rm) ∧ exec (.frint d a) s = out (FV.rint false x p rm) ∧
    exec (.frintX d a) s = out (FV.rint true x p rm) ∧
    (b.toNat < s.k → readF s b.toNat = .ok y →
      exec (.fadd d a b) s = out (x.add y p rm) ∧ exec (.fsub d a b) s = out (x.add (if y.isNan then y else y.neg) p rm) ∧
      exec (.fmul d a b) s = out (x.mul y p rm) ∧ exec (.fdiv d a b) s = out (x.div y p rm) ∧
      exec (.fmin d a b) s = out (FV.pick true x y p rm) ∧ exec (.fmax d a b) s = out (FV.pick false x y p rm) ∧
      (c.toNat < s.k → readF s c.toNat = .ok z →
        exec (.fma d a b c) s = out (x.fma y z p rm) ∧
        (x.isNan = false → y.isNan = false → z.isNan = false →
          exec (.fnma d a b c) s = out (x.neg.fma y z.neg p rm) ∧ exec (.fms d a b c) s = out (x.fma y z.neg p rm) ∧
          exec (.fnms d a b c) s = out (x.neg.fma y z p rm)) ∧
        ((x.isNan || y.isNan || z.isNan) = true →
          exec (.fnma d a b c) s = out (x.fma y z p rm) ∧ exec (.fms d a b c) s = out (x.fma y z p rm) ∧
          exec (.fnms d a b c) s = out (x.fma y z p rm))))

/-- R129, R259: an f index at or above k raises the precision-exhausted trap with the index in TVAL, and a register at or above FLIVE
reads as +0. R129, R147, R259: the frame of an instruction whose result is a float register: every general register, every other
float register as it is read (one below the result that was never written becomes live as +0) and all of memory are as before, and
PREC takes only the flags raised. -/
def Obligations.FloatWindow : Prop :=
  (∀ (s : State) (d a b : FReg) (v : Nat), Room s 1 →
     (s.k ≤ d.toNat → exec (.fadd d a b) s = .next (raise s 0x07 0 (BitVec.ofNat 64 d.toNat) false)) ∧
     (d.toNat < s.k → s.k ≤ a.toNat → exec (.fadd d a b) s = .next (raise s 0x07 0 (BitVec.ofNat 64 a.toNat) false)) ∧
     (s.fib.flive ≤ a.toNat → 2 ≤ s.p → s.p ≤ 113 → ∃ e, readF s a.toNat = .ok (.fin false 0 e)) ∧
     (v < 2 ^ 128 → let t := setV0 s a.toNat v
       a.toNat < t.fib.flive ∧
       ((∀ c, s.fib.fbad.getD c 0 = 0) → readV0 t a.toNat = .ok v ∧
         (2 ≤ s.p → s.p ≤ 113 → ∀ i, i < 64 → i ≠ a.toNat → ∀ x, readV0 s i = .ok x → readV0 t i = .ok x)) ∧
       t.fib.prec = s.fib.prec ∧ t.fib.bank = s.fib.bank)) ∧
  (∀ (s : State) (d : FReg) (r : FV × FFlags) (n : Nat),
     let t := retire (setF s d.toNat r) n
     SameFibre s.fib t.fib ∧ SameModule s t ∧ t.fib.bank = s.fib.bank ∧ t.skein = s.skein ∧ t.fib.v = s.fib.v ∧ t.fib.m = s.fib.m ∧
     t.fib.prec = s.fib.prec ||| (r.2.setWidth 64 <<< 11) ∧ t.fib.flive = max s.fib.flive (d.toNat + 1) ∧
     (∀ i, i < 64 → i ≠ d.toNat → (i < s.fib.flive ∨ d.toNat < i) → t.fib.f.getD i 0 = s.fib.f.getD i 0) ∧
     (∀ i, s.fib.flive ≤ i → i < d.toNat → t.fib.f.getD i 0 = BitVec.ofNat 128 (vfEncode s.p FV.zero)) ∧
     (∀ pa, memRead t.dev.mem pa = memRead s.dev.mem pa))

/-- R266: compares write 0 or 1 (`fcmp`: 0 equal, 1 less, 2 greater, 3 unordered) and `fclass` a one-hot class; NV is raised for a
signalling NaN, and by `flt` and `fle` for any NaN. R267, R268: moves copy an encoding with the sign bit as given and raise no flag,
and `fconst` writes its constant rounded at P. -/
def Obligations.FloatComparesAndMoves : Prop :=
  (∀ (s : State) (d : GReg) (a b : FReg) (x y : FV), Room s 1 → a.toNat < s.k → b.toNat < s.k → readF s a.toNat = .ok x →
     readF s b.toNat = .ok y → FreeG s d →
     let snan := x.isSnan || y.isSnan
     let nan := x.isNan || y.isNan
     let out (v : Word) (nv : Bool) := Host.Outcome.next (retire (raiseFlags (setG s d v) (if nv then FFlags.nv else 0)) 1)
     let truth (c : Bool) : Word := if c then 1 else 0
     let o := x.cmp y
     exec (.feq d a b) s = out (truth (o == some .eq)) snan ∧ exec (.flt d a b) s = out (truth (o == some .lt)) (snan || nan) ∧
     exec (.fle d a b) s = out (truth (o == some .lt || o == some .eq)) (snan || nan) ∧
     exec (.fltQ d a b) s = out (truth (o == some .lt)) snan ∧
     exec (.fleQ d a b) s = out (truth (o == some .lt || o == some .eq)) snan ∧
     (o = some .eq → exec (.fcmp d a b) s = out 0 snan) ∧ (o = some .lt → exec (.fcmp d a b) s = out 1 snan) ∧
     (o = some .gt → exec (.fcmp d a b) s = out 2 snan) ∧ (o = none → exec (.fcmp d a b) s = out 3 snan) ∧
     exec (.fclass d a) s = wrote s d (1#64 <<< x.classBit) 1) ∧
  (∀ (s : State) (d a b n : FReg) (v u : Nat), Room s 1 → d.toNat < s.k →
     let out (w : Nat) := Host.Outcome.next (retire (setV0 s d.toNat w) 1)
     let sign (g : Bool) : Nat := if v.testBit 4 = g then v else v ^^^ 16
     exec (.fconst d n) s = .next (retire (setF s d.toNat (constant n.toNat s.p s.rm)) 1) ∧
     (a.toNat < s.k → readV0 s a.toNat = .ok v →
       exec (.fmov d a) s = out v ∧ exec (.fneg d a) s = out (v ^^^ 16) ∧ exec (.fabs d a) s = out (sign false) ∧
       (b.toNat < s.k → readV0 s b.toNat = .ok u →
         exec (.fsgn d a b) s = out (sign (u.testBit 4)) ∧ exec (.fsgnn d a b) s = out (sign !(u.testBit 4)) ∧
         exec (.fsgnx d a b) s = out (sign (v.testBit 4 != u.testBit 4)))))

/-- R130, R131, R137: writing PREC refuses a bad value with subcause 4, traps when a live register would not fit, keeps the window when
P stays, and otherwise re-encodes every live register, adds the flags of that and closes an open region. It reads those registers, so
that it consumes the poison of one that is marked (R438). R128, R269, R270: the
instructions of PREC and FWIN, which wait for copies with a dequantise or quantise stage. -/
def Obligations.Precision : Prop :=
  (∀ (s : State) (v : Word),
     (precOk v = false → writePrec s v = illegal s 4) ∧
     (precOk v = true → winRegs s.fib.winSize (precP v) < s.fib.flive → writePrec s v = trap s 0x07 0 v) ∧
     (precOk v = true → s.fib.flive ≤ winRegs s.fib.winSize (precP v) →
       (precP v = precP s.fib.prec → writePrec s v = .ok (s.setFib fun f => { f with prec := v })) ∧
       (∀ i, s.fib.firstFPoison v = some i → precP v ≠ precP s.fib.prec ∧ i < s.fib.flive ∧
         writePrec s v = .error ⟨s, .poison 1 (BitVec.ofNat 64 i) false⟩) ∧
       (precP v ≠ precP s.fib.prec → s.fib.firstFPoison v = none → ∃ t, writePrec s v = .ok t ∧
         (let r := reencode s.fib.f (precP v) (precRm v) s.fib.flive
          t.fib.f = r.1 ∧ t.fib.prec = v ||| (r.2.setWidth 64 <<< 11)) ∧ t.fib.flive = s.fib.flive ∧
         (0 < s.fib.flive → t.fib.rgn.act = false) ∧ (s.fib.flive = 0 → t.fib.rgn.act = s.fib.rgn.act) ∧
         t.fib.bank = s.fib.bank ∧ t.fib.pc = s.fib.pc ∧ t.dev = s.dev))) ∧
  (∀ (s t : State) (d a : GReg) (n : BitVec 7) (m z : BitVec 3) (fl : BitVec 5), Room s 1 → settled s = .ok () →
     let c := s.fib.prec
     (FullG s a → writePrec s (s.g a) = .ok t → exec (.precSet a) s = .next (retire t 1) ∧
       (FreeG s d → exec (.precSwap d a) s = .next (retire (setG t d c) 1))) ∧
     (writePrec s ((c &&& ~~~(0x7F#64)) ||| n.setWidth 64) = .ok t → exec (.precP n) s = .next (retire t 1)) ∧
     (writePrec s ((c &&& ~~~(0x380#64)) ||| (m.setWidth 64 <<< 7)) = .ok t → exec (.precRm m) s = .next (retire t 1)) ∧
     (writePrec s ((c &&& ~~~(0xF800#64)) ||| ((precFlags c &&& ~~~fl).setWidth 64 <<< 11)) = .ok t →
       exec (.fflagsClr fl) s = .next (retire t 1)) ∧
     (FreeG s d → exec (.precGet d) s = wrote s d c 1 ∧ exec (.fflagsRd d) s = wrote s d ((precFlags c).setWidth 64) 1 ∧
       exec (.fwinGet d) s = wrote s d s.fib.fwin 1) ∧
     (∀ l, s.myLaunch = some l → z.toNat ≤ 4 → winBytes z.toNat ≤ winBytes l.win → ∃ u, exec (.fwinSet z) s = .next u ∧
       u.fib.winSize = z.toNat ∧ u.fib.flive = 0 ∧ u.fib.pc = (retire s 1).fib.pc ∧ u.fib.prec = c ∧ u.fib.bank = s.fib.bank) ∧
     (4 < z.toNat → exec (.fwinSet z) s = .next (raise s 0x01 4 (BitVec.ofNat 64 s.core.fetched) false)) ∧
     (∀ l, s.myLaunch = some l → z.toNat ≤ 4 → winBytes l.win < winBytes z.toNat →
       exec (.fwinSet z) s = .next (raise s 0x07 0 (BitVec.ofNat 64 z.toNat) false)))

/-- R234 to R236: conversions between general and float registers round at P and RM with their flags; packed trits convert five digits a
byte. A packed byte of 243 or more, an int8 that is no trit and an element with both mask bits raise the illegal trit byte fault, whose
TVAL is the number of the lowest such byte, for a pair of masks of the packed byte that the element would go to. -/
def Obligations.Conversions : Prop :=
  ∀ (s : State) (a d e : GReg) (f : FReg) (k : BitVec 2) (r : BitVec 1) (x : FV), Room s 1 →
    let into (v : FV) := Host.Outcome.next (retire (setF s f.toNat (v.convert (Fmt.vf s.p) s.rm)) 1)
    let outof (v : Nat × FFlags) := Host.Outcome.next (retire (raiseFlags (setG s d (BitVec.ofNat 64 v.1)) v.2) 1)
    let w := if k.toNat < 2 then 32 else 64
    let b := (s.g a).toNat
    (FullG s a → f.toNat < s.k →
      exec (.cvtVfInt a k f) s = into (FV.ofInt (if k.toNat % 2 = 0 then toSigned w b else ((b % 2 ^ w : Nat) : Int))) ∧
      exec (.cvtVfIeee a k f) s = into ((ieeeKind k.toNat).decode (b % 2 ^ (8 * ieeeBytes k.toNat))) ∧
      exec (.cvtVfE8m10 a f) s = into (Ieee.e8m10.decode (b % 2 ^ 19))) ∧
    (f.toNat < s.k → readF s f.toNat = .ok x → FreeG s d →
      (let v := x.toInt (intRange k.toNat).1 (intRange k.toNat).2 (if r = 1 then .rtz else s.rm)
       exec (.cvtIntVf d k r f) s = .next (retire (raiseFlags (setG s d (BitVec.ofInt 64 v.1)) v.2) 1)) ∧
      exec (.cvtIeeeVf d k f) s = outof ((ieeeKind k.toNat).of x s.rm) ∧
      exec (.cvtE8m10Vf d f) s = outof (Ieee.e8m10.of x s.rm)) ∧
    (FullG s a → FreeG s d →
      ((∀ i, i < 5 → (byteDigit (BitVec.ofNat 8 (b / 256 ^ i))).isSome = true) → ∃ v : Word, exec (.tritPack d a) s = wrote s d v 1 ∧
        v.toNat < 243 ∧ ∀ i, i < 5 → byteDigit (BitVec.ofNat 8 (b / 256 ^ i)) = some (v.toNat / 3 ^ i % 3)) ∧
      (b % 256 < 243 → exec (.tritUnpack d a) s =
        wrote s d (BitVec.ofNat 64 (ofBytes ((List.range 5).map fun i => digitByte (b % 256 / 3 ^ i % 3)))) 1) ∧
      (FullG s e → (∀ i, i < 40 → ¬((s.g a).getLsbD i = true ∧ (s.g e).getLsbD i = true)) →
        ∃ v : Word, exec (.tritPackM d a e) s = wrote s d v 1 ∧
          ∀ i, i < 40 → tritDigit (bits v (8 * (i / 5)) 8) (i % 5) =
            if (s.g a).getLsbD i then 1 else if (s.g e).getLsbD i then 2 else 0) ∧
      (FreeG s e → (∀ j, j < 8 → bits (s.g a) (8 * j) 8 < 243) →
        exec (.tritUnpackM d a e) s = .next (retire (setG (setG s d (digitMask (s.g a) 1)) e (digitMask (s.g a) 2)) 1))) ∧
    (FullG s a →
      let bad (i : Instr) (n : Nat) : Prop := exec i s = .next (raise s 0x09 0 (BitVec.ofNat 64 n) false)
      let both (i : Nat) : Prop := (s.g a).getLsbD i = true ∧ (s.g e).getLsbD i = true
      (∀ j, j < 5 → byteDigit (BitVec.ofNat 8 (b / 256 ^ j)) = none →
        (∀ i, i < j → (byteDigit (BitVec.ofNat 8 (b / 256 ^ i))).isSome = true) → bad (.tritPack d a) j) ∧
      (243 ≤ b % 256 → bad (.tritUnpack d a) 0) ∧
      (∀ j, FullG s e → j < 40 → both j → (∀ i, i < j → ¬both i) → bad (.tritPackM d a e) (j / 5)) ∧
      (∀ j, j < 8 → 243 ≤ bits (s.g a) (8 * j) 8 → (∀ i, i < j → bits (s.g a) (8 * i) 8 < 243) → bad (.tritUnpackM d a e) j))

/-! ## Vectors -/

/-- R275, R277, R278, R280: VF lanes. Each active lane is the scalar operation on the lanes of its operands, inactive lanes keep their
bytes, flags are the union over the active lanes, and a compare writes 1 for a lane that is active and for which it holds. R276: the
second operand is a register, or with SP = 1 the first 256 bytes of a spool handle's slots. -/
def Obligations.VectorFloat : Prop :=
  ∀ (s : State) (d a b : VReg) (w sp : BitVec 1) (m e : MReg) (n : BitVec 4) (mask x y z : Nat),
    VecReady s w [d.toNat, a.toNat] m mask → readVec s a.toNat = .ok x →
    let t := (s.waited w).served .vector
    let k := s.n
    let l := vfLanes k
    let act := activeLanes mask l
    let put (f : Nat → Nat × FFlags) := unitRuns (putLanes t d.toNat
      (newLanes k l (s.oldVec d.toNat) fun i => if active mask l i then some (f i) else none) (act.length == l)) 1 .vector .vector
    let enc (r : FV × FFlags) := (vfEncode s.p r.1, r.2)
    let cmp (f : FV → FV → Bool × FFlags) :=
      let r := act.foldr (fun i acc => (acc.1 + (if (f (vfLane x k i) (vfLane y k i)).1 then 2 ^ i else 0),
        (f (vfLane x k i) (vfLane y k i)).2 ||| acc.2)) ((0 : Nat), (0 : FFlags))
      unitRuns (raiseFlags (setM t e.toNat r.1) r.2) 1 .vector .vector
    (lanesOk t k act [x] = .ok () →
      exec (.vsqrtVf d a w m) s = put (fun i => enc ((vfLane x k i).sqrt s.p s.rm)) ∧
      exec (.vrintVf d a w m) s = put (fun i => enc (FV.rint true (vfLane x k i) s.p s.rm)) ∧
      exec (.vnegVf d a w m) s = put (fun i => (putSign (lane x k i) !((lane x k i).testBit 4), 0)) ∧
      exec (.vabsVf d a w m) s = put (fun i => (putSign (lane x k i) false, 0))) ∧
    (SecondReady s sp b n y → lanesOk t k act [x, y] = .ok () →
      let two (f : FOp2) := put (fun i => enc (f (vfLane x k i) (vfLane y k i) s.p s.rm))
      exec (.vaddVf d a b sp w m n) s = two FV.add ∧ exec (.vsubVf d a b sp w m n) s = two FV.sub ∧
      exec (.vmulVf d a b sp w m n) s = two FV.mul ∧ exec (.vdivVf d a b sp w m n) s = two FV.div ∧
      exec (.vminVf d a b sp w m n) s = two (FV.pick true) ∧ exec (.vmaxVf d a b sp w m n) s = two (FV.pick false) ∧
      exec (.vcmpEqVf e a b sp w m n) s = cmp (fun u v => (u.cmp v == some .eq, cmpFlags u v false)) ∧
      exec (.vcmpLtVf e a b sp w m n) s = cmp (fun u v => (u.cmp v == some .lt, cmpFlags u v true)) ∧
      exec (.vcmpLeVf e a b sp w m n) s = cmp (fun u v => (u.cmp v == some .lt || u.cmp v == some .eq, cmpFlags u v true)) ∧
      exec (.vcmpUnVf e a b sp w m n) s = cmp (fun u v => (u.isNan || v.isNan, cmpFlags u v false))) ∧
    (SecondReady s sp b n y → readVec s d.toNat = .ok z → lanesOk t k act [x, y, z] = .ok () →
      let three (np na : Bool) := put (fun i => enc (FV.fused np na (vfLane x k i) (vfLane y k i) (vfLane z k i) s.p s.rm))
      exec (.vfmaVf d a b sp w m n) s = three false false ∧ exec (.vfmsVf d a b sp w m n) s = three false true ∧
      exec (.vfnmaVf d a b sp w m n) s = three true true ∧ exec (.vfnmsVf d a b sp w m n) s = three true false)

/-- R278 to R280: integer lanes of 8 to 64 bits. Sums and products wrap, saturating forms clamp, shifts take the low log2 bits of their
amount, and inactive lanes keep their bytes. R276: the second operand of the forms that can take it is a register, or with SP = 1 the
first 256 bytes of a spool handle's slots. R438: `vmac` reads its addend as an operand, so that one with the poison mark is consumed. -/
def Obligations.VectorInteger : Prop :=
  ∀ (s : State) (d a b : VReg) (w sp : BitVec 1) (m e : MReg) (n : BitVec 4) (z : BitVec 2)
    (mask x y : Nat), VecReady s w [d.toNat, a.toNat] m mask → readVec s a.toNat = .ok x → SecondReady s sp b n y →
    let t := (s.waited w).served .vector
    let k := 2 ^ z.toNat
    let W := 8 * k
    let l := 256 / k
    let act := activeLanes mask l
    let put (f : Nat → Nat → Nat → Nat) := unitRuns (putLanes t d.toNat (newLanes k l (s.oldVec d.toNat) fun i =>
      if active mask l i then some (f (lane (s.oldVec d.toNat) k i) (lane x k i) (lane y k i), 0) else none) (act.length == l)) 1
        .vector .vector
    let cmp (f : Nat → Nat → Bool) := unitRuns (setM t e.toNat
      (act.foldr (fun i acc => acc + if f (lane x k i) (lane y k i) then 2 ^ i else 0) 0)) 1 .vector .vector
    let S (v : Nat) := toSigned W v
    exec (.vaddInt d a b sp w m n z) s = put (fun _ u v => (u + v) % 2 ^ W) ∧
    exec (.vsubInt d a b sp w m n z) s = put (fun _ u v => wrap W ((u : Int) - v)) ∧
    exec (.vmulInt d a b sp w m n z) s = put (fun _ u v => u * v % 2 ^ W) ∧
    (readVec s d.toNat = .ok (s.oldVec d.toNat) → exec (.vmac d a b sp w m n z) s = put (fun o u v => (o + u * v) % 2 ^ W)) ∧
    (s.fib.vbad.getD d.toNat false = true → exec (.vmac d a b sp w m n z) s =
      stopped ⟨t, .poison 1 (BitVec.ofNat 64 d.toNat) false⟩) ∧
    exec (.vadds d a b sp w m n z) s = put (fun _ u v => clampS W (S u + S v)) ∧
    exec (.vcmpEqInt e a b sp w m n z) s = cmp (fun u v => u == v) ∧
    exec (.vcmpLtInt e a b sp w m n z) s = cmp (fun u v => decide (S u < S v)) ∧
    exec (.vcmpLtuInt e a b sp w m n z) s = cmp (fun u v => decide (u < v)) ∧
    (sp = 0 →
      exec (.vaddus d a b w m z) s = put (fun _ u v => Nat.min (u + v) (2 ^ W - 1)) ∧
      exec (.vsubs d a b w m z) s = put (fun _ u v => clampS W (S u - S v)) ∧
      exec (.vsubus d a b w m z) s = put (fun _ u v => u - v) ∧
      exec (.vand d a b w m z) s = put (fun _ u v => u &&& v) ∧ exec (.vor d a b w m z) s = put (fun _ u v => u ||| v) ∧
      exec (.vxor d a b w m z) s = put (fun _ u v => u ^^^ v) ∧
      exec (.vminInt d a b w m z) s = put (fun _ u v => if S u ≤ S v then u else v) ∧
      exec (.vmaxInt d a b w m z) s = put (fun _ u v => if S u ≥ S v then u else v) ∧
      exec (.vminu d a b w m z) s = put (fun _ u v => Nat.min u v) ∧ exec (.vmaxu d a b w m z) s = put (fun _ u v => Nat.max u v) ∧
      exec (.vsll d a b w m z) s = put (fun _ u v => u * 2 ^ (v % W) % 2 ^ W) ∧
      exec (.vsrl d a b w m z) s = put (fun _ u v => u / 2 ^ (v % W)) ∧
      exec (.vsra d a b w m z) s = put (fun _ u v => wrap W (S u / 2 ^ (v % W))) ∧
      exec (.vmulh d a b w m z) s = put (fun _ u v => wrap W (S u * S v / 2 ^ W)) ∧
      exec (.vmulhu d a b w m z) s = put (fun _ u v => u * v / 2 ^ W))

/-- R272, R273: what each vector instruction does in common: its checks and the W hold, made once, give the state `t`. An idle unit
serves it at once; a busy one takes it into the sub-queue of its core, which holds 8, and it is held at issue while that is full. The
effect comes when the unit serves it, and it runs there until VECTOR_INSTRUCTION_COMPLETE, which frees the unit and makes the fibre
ready. R276: with SP = 1 the second
operand is the first 256 bytes of the handle's slots from RIX on; an instruction whose slots are not filled waits, and one that
takes them changes no slot. R140, R141, R286, R287: spool advance. Waits need N filled slots, producers N free ones on a handle that
no stream feeds; `spl.rel` gives back slots from RIX, `spl.commit` fills them from WIX, `spl.rd` and `spl.wr` give the scratchpad
offsets, `spl.fill` the count. -/
def Obligations.VectorUnitAndSpools : Prop :=
  ((∀ (s t u v : State) (before : Ex State) (body : State → Ex State) (q : Queued), Room s 1 →
     (s.entered .vector = false → before = .ok t → UnitFree t .vector → body (t.served .vector) = .ok u →
       vecRun s before body = unitRuns u 1 .vector .vector) ∧
     (s.entered .vector = false → before = .ok t → t.entered .vector = false → t.chip.vunit.busy.isSome = true →
       ((t.chip.vunit.queue.filter fun e => e.core == t.coreIndex).length < 8 → vecRun s before body = .next (parkAs
         (t.setChip fun c => { c with vunit := { c.vunit with queue := c.vunit.queue ++ [t.capture] } }) (.queued .vector))) ∧
       (8 ≤ (t.chip.vunit.queue.filter fun e => e.core == t.coreIndex).length →
         vecRun s before body = .next (parkAs t .retry))) ∧
     (s.entered .vector = true → takeTurn s .vector = .ok (t, q) → body t = .ok u →
       vecRun s before body = unitRuns u 1 .vector .vector) ∧
     (unitRuns u 1 .vector .vector = .next v → v.fib.park = some .vector ∧ v.chip.vunit.busy = some (u.coreIndex, u.fib.id))) ∧
   (∀ (s : State) (f : Fibre), s.fib = f → f.live = true → f.park = some .vector → s.chip.num = chipNum f.at_ →
     s.chip.vunit.busy = some (s.coreIndex, f.id) →
     ∃ t, exec (.vectorInstructionComplete s.chip.num s.coreIndex) s = .next t ∧ t.fib = { f with park := none } ∧
       t.chip.vunit.busy = none ∧ t.dev = s.dev ∧ t.fibres = s.fibres)) ∧
  (∀ (s : State) (d a b : VReg) (m : MReg) (n : BitVec 4) (z : BitVec 2) (h mask x : Nat) (bs : List Byte), s.fib.guest = false →
     VecReady s 0 [d.toNat, a.toNat] m mask → readVec s a.toNat = .ok x → spoolUse s b.toNat (n.toNat + 1) = .ok h →
     spoolNo s b.toNat = .ok h → 256 ≤ (n.toNat + 1) * (s.spool h).slotBytes →
     let k := 2 ^ z.toNat
     ((s.spool h).fill < n.toNat + 1 → exec (.vaddInt d a b 1 0 m n z) s = .next (parkAs s .wait)) ∧
     (n.toNat + 1 ≤ (s.spool h).fill → s.dev.ecc = [] → s.dev.soft = [] → spoolBytes s (s.spool h) 0 256 = .ok bs →
       exec (.vaddInt d a b 1 0 m n z) s = unitRuns (putLanes (s.served .vector) d.toNat (newLanes k (256 / k) (s.oldVec d.toNat) fun i =>
         if active mask (256 / k) i then some ((lane x k i + lane (ofBytes bs) k i) % 2 ^ (8 * k), 0) else none)
         ((activeLanes mask (256 / k)).length == 256 / k)) 1 .vector .vector)) ∧
  (∀ (s : State) (d : GReg) (n h : BitVec 4) (p : Nat), Room s 1 → s.fib.guest = false → spoolUse s h.toNat (n.toNat + 1) = .ok p →
     let k := n.toNat + 1
     let q := s.spool p
     (k ≤ q.fill → exec (.splWait n h) s = .next (retire s 1) ∧
       exec (.splRel n h) s = .next (retire (s.onSpool p fun x =>
         { x with fill := x.fill - k, rix := (x.rix + k) % x.nslot }) 1)) ∧
     (q.fill < k → exec (.splWait n h) s = .next (parkAs s .wait) ∧ exec (.splRel n h) s = .next (parkAs s .wait)) ∧
     (q.bnd = false → k + q.fill ≤ q.nslot → exec (.splCommit n h) s = .next (retire (s.countSlots s.core.num p k) 1) ∧
       (FreeG s d → exec (.splWr d n h) s = wrote s d (BitVec.ofNat 64 (q.base + q.wix * q.slotBytes)) 1)) ∧
     (q.bnd = false → q.nslot < k + q.fill → exec (.splCommit n h) s = .next (parkAs s .wait) ∧
       (FreeG s d → exec (.splWr d n h) s = .next (parkAs s .wait))) ∧
     (q.bnd = true → exec (.splCommit n h) s = .next (raise s 0x12 0 (BitVec.ofNat 64 h.toNat) false) ∧
       (FreeG s d → exec (.splWr d n h) s = .next (raise s 0x12 0 (BitVec.ofNat 64 h.toNat) false))) ∧
     (n = 0 → FreeG s d → exec (.splRd d h) s = wrote s d (BitVec.ofNat 64 (q.base + q.rix % q.nslot * q.slotBytes)) 1 ∧
       exec (.splFill d h) s = wrote s d (BitVec.ofNat 64 q.fill) 1))

/-- R134, R281: mask instructions act on all 128 bits; m0 reads as all ones and a write of it is discarded. R121, R282, R283: reductions
combine the active lanes pairwise into lane 0, with the other lanes 0 (VF: +0), and a scan writes to each active lane the running
combination. -/
def Obligations.MasksAndReductions : Prop :=
  (∀ (s : State) (d a b : MReg) (g h : GReg) (w hi : BitVec 1) (x y : Nat), Room s 1 → WaitOver s w → UnitFree s .vector →
     readM s a.toNat = .ok x → x < 2 ^ 128 →
     let t := (s.waited w).served .vector
     let put (v : Nat) := unitRuns (setM t d.toNat v) 1 .vector .vector
     let get (v : Nat) := unitRuns (setG t g (BitVec.ofNat 64 v)) 1 .vector .vector
     (readM s b.toNat = .ok y → y < 2 ^ 128 →
       exec (.mand d a b w) s = put (x &&& y) ∧ exec (.mor d a b w) s = put (x ||| y) ∧ exec (.mxor d a b w) s = put (x ^^^ y) ∧
       exec (.mandn d a b w) s = put (x &&& (2 ^ 128 - 1 - y))) ∧
     exec (.mnot d a w) s = put (2 ^ 128 - 1 - x) ∧
     (FreeG s g → exec (.mpopc g a w) s = get ((List.range 128).filter fun i => x.testBit i).length ∧
       (∀ i, i < 128 → x.testBit i = true → (∀ j, j < i → x.testBit j = false) → exec (.mfirst g a w) s = get i) ∧
       (x = 0 → exec (.mfirst g a w) s = get 128) ∧
       exec (.mtog g a hi w) s = get (x / 2 ^ (64 * hi.toNat) % 2 ^ 64)) ∧
     (FullG s g → FullG s h → exec (.mfromg d g h w) s = put ((s.g g).toNat + 2 ^ 64 * (s.g h).toNat)) ∧
     readM s 0 = .ok (2 ^ 128 - 1) ∧ setM s 0 x = s) ∧
  (∀ (s : State) (d a : VReg) (w : BitVec 1) (m : MReg) (z : BitVec 2) (mask x : Nat),
     VecReady s w [d.toNat, a.toNat] m mask → readVec s a.toNat = .ok x →
     let t := (s.waited w).served .vector
     let k := 2 ^ z.toNat
     let W := 8 * k
     let l := 256 / k
     let S (v : Nat) := toSigned W v
     let lanes := presentLanes mask l x k
     let int (f : Nat → Nat → Nat) (empty : Nat) :=
       unitRuns (setVec t d.toNat ((treeReduce (fun u v => (f u v, (0 : FFlags))) 8 lanes).1.getD empty % 2 ^ W)) 1 .vector .vector
     let n := s.n
     let vl := vfLanes n
     let vlanes := presentLanes mask vl x n
     let vf (f : FOp2) (empty : FV) :=
       let r := treeReduce (encOp2 f s.p s.rm) 8 vlanes
       unitRuns (raiseFlags (setVec t d.toNat (packLanes n (r.1.getD (vfEncode s.p empty) ::
         List.replicate (vl - 1) (vfEncode s.p FV.zero)))) r.2) 1 .vector .vector
     exec (.vrsumInt d a w m z) s = int (fun u v => (u + v) % 2 ^ W) 0 ∧
     exec (.vrminInt d a w m z) s = int (fun u v => if S u ≤ S v then u else v) (2 ^ (W - 1) - 1) ∧
     exec (.vrmaxInt d a w m z) s = int (fun u v => if S u ≥ S v then u else v) (2 ^ (W - 1)) ∧
     exec (.vrminu d a w m z) s = int Nat.min (2 ^ W - 1) ∧ exec (.vrmaxu d a w m z) s = int Nat.max 0 ∧
     exec (.vrand d a w m z) s = int (fun u v => u &&& v) (2 ^ W - 1) ∧ exec (.vror d a w m z) s = int (fun u v => u ||| v) 0 ∧
     exec (.vrxor d a w m z) s = int (fun u v => u ^^^ v) 0 ∧
     exec (.vscanInt d a w m z) s =
       unitRuns (putScan t d.toNat k l (scanFrom (fun u v => ((u + v) % 2 ^ W, 0)) none lanes)) 1 .vector .vector ∧
     (lanesOk t n (activeLanes mask vl) [x] = .ok () →
       exec (.vrsumVf d a w m) s = vf FV.add FV.zero ∧ exec (.vrminVf d a w m) s = vf (FV.pick true) (.inf false) ∧
       exec (.vrmaxVf d a w m) s = vf (FV.pick false) (.inf true) ∧
       exec (.vscanVf d a w m) s = unitRuns (putScan t d.toNat n vl (scanFrom (encOp2 FV.add s.p s.rm) none vlanes)) 1 .vector .vector))

/-- R284: permutes, slides, splats, extracts, inserts, compress and the whole-register move, on integer lanes and on VF lanes (of which
those that an active destination lane takes are checked, assumption 20, DEDUCED). R276: the indices of `vperm` come from a register, or
with SP = 1 from the first 256 bytes of a spool handle's slots. R235, R236, R285: lane conversions between VF and integers or IEEE
formats. Part h of the longer side is converted; a lane without a source is zero. -/
def Obligations.LaneMovesAndConversions : Prop :=
  (∀ (s : State) (d a b : VReg) (g h : GReg) (f : VReg) (w sp : BitVec 1) (m : MReg) (n : BitVec 4) (z : BitVec 2)
     (mask x y : Nat), VecReady s w [d.toNat, a.toNat] m mask → readVec s a.toNat = .ok x →
     let t := (s.waited w).served .vector
     let k := 2 ^ z.toNat
     let l := 256 / k
     let old := s.oldVec d.toNat
     let act := activeLanes mask l
     let ends (u : State) := unitRuns u 1 .vector .vector
     let put (src : Nat → Nat) := ends (putLanes t d.toNat
       (newLanes k l old fun i => if active mask l i then some (src i, 0) else none) (act.length == l))
     let kind : BitVec 3 := z.setWidth 3
     let gi := (s.g g).toNat
     exec (.vmov d a w) s = ends (setVec t d.toNat x) ∧
     (SecondReady s sp b n y →
       exec (.vperm d a b sp w m n kind) s = put (fun i => if lane y k i < l then lane x k (lane y k i) else 0)) ∧
     (FullG s g →
       exec (.vslideup d a g w m kind) s = put (fun i => if gi ≤ i then lane x k (i - gi) else 0) ∧
       exec (.vslidedn d a g w m kind) s = put (fun i => if i + gi < l then lane x k (i + gi) else 0) ∧
       exec (.vsplatInt d g w m z) s = put (fun _ => gi) ∧
       (FreeG s h → exec (.vextInt h a g w z) s = ends (setG t h (if gi < l then BitVec.ofNat 64 (lane x k gi) else 0))) ∧
       (FullG s h → (l ≤ (s.g h).toNat → exec (.vinsInt d g h w m z) s = ends t) ∧
         ((s.g h).toNat < l → active mask l (s.g h).toNat = true → exec (.vinsInt d g h w m z) s =
           ends (putLanes t d.toNat (newLanes k l old fun i => if i = (s.g h).toNat then some (gi, 0) else none) false)))) ∧
     exec (.vcompress d a w m kind) s = ends (setVec t d.toNat (packLanes k ((act.map fun i => lane x k i) ++
       List.replicate (l - act.length) 0))) ∧
     (FullG s g → f.toNat < s.k →
       (gi < vfLanes s.n → lanesOk t s.n [gi] [x] = .ok () → exec (.vextVf f a g w) s = ends (setV0 t f.toNat (lane x s.n gi))) ∧
       (vfLanes s.n ≤ gi → exec (.vextVf f a g w) s = ends (setV0 t f.toNat (vfEncode s.p FV.zero))) ∧
       ∀ v, readV0 s f.toNat = .ok v →
         exec (.vsplatVf d f w m) s = ends (putLanes t d.toNat (newLanes s.n (256 / s.n) old fun i =>
           if active mask (256 / s.n) i then some (v, 0) else none) ((activeLanes mask (256 / s.n)).length == 256 / s.n)) ∧
         (gi < 256 / s.n → active mask (256 / s.n) gi = true → exec (.vinsVf d f g w m) s = ends (putLanes t d.toNat
           (newLanes s.n (256 / s.n) old fun i => if i = gi then some (v, 0) else none) false)))) ∧
  (∀ (s : State) (d a b : VReg) (g : GReg) (w sp : BitVec 1) (m : MReg) (n : BitVec 4) (mask x y : Nat),
     VecReady s w [d.toNat, a.toNat] m mask → readVec s a.toNat = .ok x →
     let t := (s.waited w).served .vector
     let l := 256 / s.n
     let act := activeLanes mask l
     let z0 := vfEncode s.p FV.zero
     let taken (src : Nat → Nat) := lanesOk t s.n ((List.range l).filter fun j => act.any fun i => decide (src i = j)) [x]
     let put (src : Nat → Nat) := unitRuns (putLanes t d.toNat (newLanes s.n l (s.oldVec d.toNat) fun i =>
       if active mask l i then some (if src i < l then lane x s.n (src i) else z0, 0) else none) (act.length == l)) 1 .vector .vector
     (SecondReady s sp b n y → taken (lane y 1) = .ok () → exec (.vperm d a b sp w m n 4) s = put (lane y 1)) ∧
     (FullG s g →
       let up := fun i => if (s.g g).toNat ≤ i then i - (s.g g).toNat else l
       let dn := fun i => i + (s.g g).toNat
       (taken up = .ok () → exec (.vslideup d a g w m 4) s = put up) ∧
       (taken dn = .ok () → exec (.vslidedn d a g w m 4) s = put dn)) ∧
     (lanesOk t s.n act [x] = .ok () → exec (.vcompress d a w m 4) s = unitRuns (setVec t d.toNat (packLanes s.n
       ((act.map fun i => lane x s.n i) ++ List.replicate (l - act.length) z0))) 1 .vector .vector)) ∧
  (∀ (s : State) (d a h : VReg) (w : BitVec 1) (m : MReg) (k3 : BitVec 3) (k : BitVec 2) (mask x : Nat),
     VecReady s w [d.toNat, a.toNat] m mask → readVec s a.toNat = .ok x →
     let t := (s.waited w).served .vector
     let conv (es ed none_ : Nat) (f : Nat → Nat × FFlags) :=
       let src := fun i => if active mask (256 / ed) i then partLane (256 / es) (256 / ed) h.toNat i else none
       unitRuns (putLanes t d.toNat (newLanes ed (256 / ed) (s.oldVec d.toNat) fun i => (src i).map fun j => match j with
         | some j => f (lane x es j)
         | none => (none_, 0)) ((List.range (256 / ed)).all fun i => (src i).isSome)) 1 .vector .vector
     let vfOk (ed : Nat) := lanesOk t s.n ((List.range (256 / s.n)).filter fun j => (activeLanes mask (256 / ed)).any fun i =>
       (if active mask (256 / ed) i then partLane (256 / s.n) (256 / ed) h.toNat i else none) == some (some j)) [x] = .ok ()
     let int (mode : RMode) (v : Nat) := (wrap 64 (vfToInt k.toNat mode v).1, (vfToInt k.toNat mode v).2)
     exec (.vcvtVfInt d a h w m k3) s = conv (intKindBytes k3.toNat) s.n (vfEncode s.p FV.zero) (intToVf k3.toNat s.p s.rm) ∧
     exec (.vcvtVfIeee d a h w m k) s = conv (ieeeBytes k.toNat) s.n (vfEncode s.p FV.zero) (ieeeToVf k.toNat s.p s.rm) ∧
     (vfOk (outKindBytes k.toNat) → exec (.vcvtIntVf d a h w m k) s = conv s.n (outKindBytes k.toNat) 0 (int s.rm) ∧
       exec (.vcvtIntVfRtz d a h w m k) s = conv s.n (outKindBytes k.toNat) 0 (int .rtz)) ∧
     (vfOk (ieeeBytes k.toNat) → exec (.vcvtIeeeVf d a h w m k) s =
       conv s.n (ieeeBytes k.toNat) 0 (fun v => (ieeeKind k.toNat).of (vfDecode v) s.rm)))

/-! ## Tables, bit streams, the array and the posting engine -/

/-- R143, R228 to R230: loading a table captures its 1024 bytes after the content checks, with AD for `tbl.load.arr`, which also needs
an admissible table. The slot takes the image at once where nothing is to be waited for, else when the data of the load is delivered.
`tbl.rd` reads an entry, `tbl.inv` clears the slot, and a use of an invalid slot raises the decode table fault with subcause 7. R140:
a slot that the skein has not been allocated is an illegal instruction with subcause 3, before a register is read (R172, R431). -/
def Obligations.DecodeTables : Prop :=
  (∀ (s t : State) (d a : GReg) (sl : BitVec 2) (p : Nat) (image : List Byte) (ps : List Piece), Room s 1 → s.fib.guest = false →
     slotNo s sl.toNat = .ok p →
     let put (ad : Bool) := t.setCore fun c => { c with slots := c.slots.set! p (slotOf image ad) }
     let load (ad : Bool) : Host.Outcome State Fault Refusal :=
       .next (if t.parksFor ps then parkAs (retire t 1) (.table p ad image) else retire (put ad) 1)
     let fails (sub : Nat) : Host.Outcome State Fault Refusal := .next (raise t 0x0C sub (s.g a) false)
     (FullG s a → (s.g a).toNat % 64 = 0 → s.loadAt (s.g a) 1024 false true = .ok (t, image, ps) →
       (contentSub image = none → exec (.tblLoad a sl) s = load false ∧
         (arrayAdmissible image = true → exec (.tblLoadArr a sl) s = load true) ∧
         (arrayAdmissible image = false → exec (.tblLoadArr a sl) s = fails 4)) ∧
       (∀ sub, contentSub image = some sub → exec (.tblLoad a sl) s = fails sub ∧ exec (.tblLoadArr a sl) s = fails sub)) ∧
     (FullG s a → (s.g a).toNat % 64 ≠ 0 → exec (.tblLoad a sl) s = .next (raise s 0x0C 5 (s.g a) false) ∧
       exec (.tblLoadArr a sl) s = .next (raise s 0x0C 5 (s.g a) false)) ∧
     exec (.tblInv sl) s = .next (retire (s.setCore fun c => { c with slots := c.slots.set! p TableSlot.zero }) 1) ∧
     (FullG s a → FreeG s d →
       ((s.core.slots.getD p TableSlot.zero).valid = true → exec (.tblRd d a sl) s = wrote s d
         (BitVec.ofNat 64 (field (s.core.slots.getD p TableSlot.zero).image (4 * ((s.g a).toNat % 256)) 4)) 1) ∧
       ((s.core.slots.getD p TableSlot.zero).valid = false →
         exec (.tblRd d a sl) s = .next (raise s 0x0C 7 (BitVec.ofNat 64 sl.toNat) false)))) ∧
  (∀ (s : State) (d a : GReg) (sl : BitVec 2), Room s 1 → s.fib.guest = false → bits s.skein.skmap 23 3 ≤ sl.toNat →
     let fault := Host.Outcome.next (raise s 0x01 3 (BitVec.ofNat 64 s.core.fetched) false)
     exec (.tblLoad a sl) s = fault ∧ exec (.tblLoadArr a sl) s = fault ∧ exec (.tblRd d a sl) s = fault ∧
       exec (.tblInv sl) s = fault) ∧
  (∀ (s : State) (p : Nat) (ad : Bool) (image : List Byte), s.fib.live = true → s.fib.at_ = s.core.num → p < 4 →
     s.fib.park = some (.table p ad image) →
     let t := s.delivered s.fib.id
     t.fib = { s.fib with park := none } ∧ t.core.slots.getD p TableSlot.zero = slotOf image ad ∧
       (∀ q, q ≠ p → t.core.slots.getD q TableSlot.zero = s.core.slots.getD q TableSlot.zero) ∧ t.dev = s.dev)

/-- R231, R232: a quantisation that its checks let through writes 32 codes, a scale and the trailer's AMAX and SAT, raises NX when an
element is inexact, and moves its source register past the block and the block number up by 1. R90, R232: `qnt.fin` pads the tile
with zeros and writes the CRC, the block count, the slot number and format 1 behind it. -/
def Obligations.Quantisation : Prop :=
  (∀ (s t1 t2 t3 t4 t5 t6 : State) (d a b : GReg) (sl : BitVec 2) (k : Nat) (slot : TableSlot) (pe pc pk pt : List Piece)
     (raw old : List Byte) (xs : List FV) (q : QBlock), Room s 1 → s.fib.guest = false → FullG s d → FullG s a → FullG s b →
     (∃ p, slotNo s sl.toNat = .ok p) → quantSlot s sl = .ok slot → controlOk (s.g b) false = true →
     let nb := bits (s.g b) 16 13
     let j := bits (s.g b) 0 12
     let n := elementBytes s k
     let tile := s.g d
     s.access s.accLoad (s.g a) (32 * n) true = .ok (t1, pe) →
     t1.access t1.accStore (tile + BitVec.ofNat 64 (32 * j)) 32 true = .ok (t2, pc) →
     t2.access t2.accStore (tile + BitVec.ofNat 64 (32 * nb + j)) 1 true = .ok (t3, pk) →
     t3.access (if j = 0 then t3.accStore else t3.accAtomic) (tile + BitVec.ofNat 64 (16 * ((33 * nb + 15) / 16))) 8 true = .ok (t4, pt) →
     t4.loadPieces false pe = .ok (t5, raw) →
     (if j = 0 then .ok (t5, List.replicate 8 (0 : Byte)) else t5.loadPieces false pt) = (.ok (t6, old) : Ex (State × List Byte)) →
     t6.storeRoom (pc ++ pk ++ pt) = .ok () → elementValues k n raw = .ok xs → quantiseBlock slot.image xs = some q →
     let am := mergeAmax (Ieee.f32.decode (field old 0 4)) q.amax
     let sat := Nat.min (field old 4 4 + q.sat) (2 ^ 32 - 1)
     let u := ((t6.storePieces pc q.code).storePieces pk [BitVec.ofNat 8 q.scale]).storePieces pt
       (bytesOf 4 (Ieee.f32.encode am) ++ bytesOf 4 sat)
     let u := raiseFlags u (if q.nx then FFlags.nx else 0)
     let next := s.g a + BitVec.ofNat 64 (32 * n)
     let cw := if a = b then next else s.g b
     let u := setG (setG u a next) b ((cw &&& ~~~0x1FFF#64) ||| BitVec.ofNat 64 (j + 1))
     let done (i : Instr) (kind : Nat) := k = kind → exec i s = landed u (u.parksFor (pe ++ pt)) 1
     done (.qntBf16 d a b sl) 0 ∧ done (.qntF32 d a b sl) 1 ∧ done (.qntVf d a b sl) 2) ∧
  (∀ (s t1 t2 t3 t4 : State) (d b : GReg) (sl : BitVec 2) (slot : TableSlot) (pb pp pt : List Piece) (body : List Byte), Room s 1 →
     s.fib.guest = false → FullG s d → FullG s b → (∃ p, slotNo s sl.toNat = .ok p) → quantSlot s sl = .ok slot →
     controlOk (s.g b) true = true →
     let nb := bits (s.g b) 16 13
     let size := 16 * ((33 * nb + 15) / 16)
     let tile := s.g d
     s.access s.accLoad tile (33 * nb) true = .ok (t1, pb) →
     t1.access t1.accStore (tile + BitVec.ofNat 64 (33 * nb)) (size - 33 * nb) true = .ok (t2, pp) →
     t2.access t2.accStore (tile + BitVec.ofNat 64 (size + 8)) 8 true = .ok (t3, pt) → t3.loadPieces false pb = .ok (t4, body) →
     t4.storeRoom (pp ++ pt) = .ok () →
     let u := (t4.storePieces pp (List.replicate (size - 33 * nb) 0)).storePieces pt
       (bytesOf 4 (crc32c body) ++ bytesOf 2 nb ++ bytesOf 1 sl.toNat ++ bytesOf 1 1)
     exec (.qntFin d b sl) s = landed u (u.parksFor pb) 1)

/-- R136, R223 to R226: bits come from BBUF lowest first, after a refill that goes on while CNT ≤ 119 and the next byte can be taken; what
is taken leaves the buffer, and `bs.peek` takes nothing; where too few bits stand there, the fault of the byte that cannot be taken is
raised, and a refill that waits for a walker parks the fibre (R50). R224, R226: `bs.seek` empties the buffer, sets its address and
drops the bits below the position; `bs.rice` reads q one bits, a zero and k bits as q · 2^k + x, and 65 ones give all ones and take
nothing. -/
def Obligations.BitStreams : Prop :=
  (∀ (s t : State) (d b : GReg) (w : BitVec 8) (buf : BitBuf), Room s 1 → FreeG s d →
     (∀ h, refilled s s.fib.bb = .error h → exec (.bsGet d w) s = stopped h ∧ exec (.bsGets d w) s = stopped h ∧
       exec (.bsPeek d w) s = stopped h ∧ exec (.bsSkip w) s = stopped h) ∧
     (refilled s s.fib.bb = .ok (t, buf) →
     let n := w.toNat
     let got (n : Nat) := buf.data.toNat % 2 ^ n
     let left (n : Nat) : BitBuf := { buf with data := buf.data >>> n, cnt := buf.cnt - n }
     (n ≤ buf.cnt →
       exec (.bsGet d w) s = .next (retire (setG (setBuf t (left n)) d (BitVec.ofNat 64 (got n))) 1) ∧
       exec (.bsGets d w) s = .next (retire (setG (setBuf t (left n)) d (BitVec.ofInt 64 (toSigned n (got n)))) 1) ∧
       exec (.bsPeek d w) s = .next (retire (setG (setBuf t buf) d (BitVec.ofNat 64 (got n))) 1) ∧
       exec (.bsSkip w) s = .next (retire (setBuf t (left n)) 1)) ∧
     (∀ h, buf.cnt < n → streamByte t buf.addr = .error h → exec (.bsGet d w) s = stopped h ∧ exec (.bsGets d w) s = stopped h ∧
       exec (.bsPeek d w) s = stopped h ∧ exec (.bsSkip w) s = stopped h) ∧
     (FullG s b → s.g b ≠ 0 → Nat.min (s.g b).toNat 64 ≤ buf.cnt →
       let n := Nat.min (s.g b).toNat 64
       exec (.bsGetr d b) s = .next (retire (setG (setBuf t (left n)) d (BitVec.ofNat 64 (got n))) 1) ∧
       exec (.bsSkipr b) s = .next (retire (setBuf t (left n)) 1))) ∧
     (FullG s b → s.g b = 0 → exec (.bsGetr d b) s = wrote s d 0 1 ∧ exec (.bsSkipr b) s = .next (retire s 1)) ∧
     exec (.bsAlign) s = .next (retire (setBuf s { s.fib.bb with
       data := s.fib.bb.data >>> (s.fib.bb.cnt % 8), cnt := s.fib.bb.cnt - s.fib.bb.cnt % 8 }) 1) ∧
     exec (.bsPos d) s = wrote s d (s.fib.bb.addr * 8 - BitVec.ofNat 64 s.fib.bb.cnt) 1) ∧
  (∀ (s t : State) (d a : GReg) (k : BitVec 4) (buf : BitBuf) (q : Nat), Room s 1 →
     (FullG s a → bits (s.g a) 60 4 = 0 → refilled s { data := 0, cnt := 0, addr := BitVec.ofNat 64 (bits (s.g a) 3 57) } = .ok (t, buf) →
       bits (s.g a) 0 3 ≤ buf.cnt → exec (.bsSeek a) s = .next (retire (setBuf t { buf with
         data := buf.data >>> bits (s.g a) 0 3, cnt := buf.cnt - bits (s.g a) 0 3 }) 1)) ∧
     (FullG s a → bits (s.g a) 60 4 ≠ 0 → exec (.bsSeek a) s = .next (raise s 0x04 0 (s.g a >>> 3) false)) ∧
     (FreeG s d → refilled s s.fib.bb = .ok (t, buf) → (∀ i, i < q → buf.data.getLsbD i = true) →
       (q < 65 → buf.data.getLsbD q = false → q + 1 + k.toNat ≤ buf.cnt → exec (.bsRice d k) s = .next (retire (setG (setBuf t { buf with
         data := buf.data >>> (q + 1) >>> k.toNat, cnt := buf.cnt - (q + 1) - k.toNat }) d
         (BitVec.ofNat 64 (q * 2 ^ k.toNat + (buf.data >>> (q + 1)).toNat % 2 ^ k.toNat))) 1)) ∧
       (q = 65 → 65 ≤ buf.cnt → exec (.bsRice d k) s = .next (retire (setG (setBuf t buf) d (BitVec.allOnes 64)) 1))))

/-- R299, R301, R302: what array instructions do in common: one that enters its service queue waits for every earlier store of its
fibre to be performed, held while a message is on the way of one; served at once, or at its turn, it takes its effect with the ACCMAP,
ACCEN and slots that it captured then. Its completion makes the fibre ready, and a
spool-fed pass then gives back its slots. R295 to R298, R303: a pass whose checks at issue hold enters the array, and one whose
operands and tiles its checks accept there enters the groups of every vector in its sets, all or nothing, and remembers what undoes
it. -/
def Obligations.ArrayPasses : Prop :=
  ((∀ (s t u : State) (n : Nat) (before : Ex State) (body : State → Ex State) (q : Queued), Room s n → t.fib.guest = false →
     (s.entered .array = false → before = .ok t →
       (t.behindMessage true = true → arrayRun s n before body = .next (parkAs t .retry)) ∧
       (t.behindMessage true = false → let v := t.settle.drain
         UnitFree v .array → captured (v.served .array) v.capture body = .ok u → arrayRun s n before body = unitRuns u n .array .array)) ∧
     (∀ v, s.entered .array = true → s.fib.guest = false → takeTurn s .array = .ok (v, q) → captured v q body = .ok u →
       arrayRun s n before body = unitRuns u n .array .array) ∧
     (body (t.withMaps q.accmap q.accen q.slots) = .ok u →
       captured t q body = .ok (u.withMaps t.core.accmap t.core.accen t.core.slots))) ∧
   (∀ (s : State) (f : Fibre) (release : Option (Nat × Nat)), s.fib = f → f.live = true → f.park = some .array → f.at_ = s.core.num →
     s.chip.array.busy = some (s.coreIndex, f.id) → s.chip.array.release = release →
     ∃ t, exec (.arrayInstructionComplete s.chip.num s.coreIndex) s = .next t ∧ t.fib = { f with park := none } ∧
       t.chip.array.busy = none ∧ t.chip.array.undo = [] ∧ t.dev = s.dev ∧
       t.core.spools = match release with
         | none => s.core.spools
         | some (h, n) => s.core.spools.set! h ((s.core.spools.getD h Spool.zero).release n))) ∧
  (∀ (s t u : State) (a b c : GReg) (w : BitVec 1) (acc gm sph spn nb : BitVec 4) (sp : BitVec 1) (sl : BitVec 2) (k : Nat) (y : PassArgs),
     Room s 2 → WaitOver s w → s.fib.guest = false → (sp = 0 → FullG s a) → FullG s b → FullG s c → s.entered .array = false →
     (∃ i, slotNo s sl.toNat = .ok i) → (sp = 1 → ∃ i, spoolNo s sph.toNat = .ok i) →
     let p : Pass := {
       acc := acc.toNat, nv := k + 1, g := gm.toNat + 1, slot := sl.toNat,
       spool := if sp = 1 then some (sph.toNat, spn.toNat + 1) else none, addr := if sp = 1 then 0 else s.g a, beats := s.g b,
       cols := s.g c }
     passChecks (s.waited w) p = .ok (t, y) → t.fib.guest = false → t.behindMessage true = false →
     let v := t.settle.drain
     UnitFree v .array → v.bank = s.bank → captured (v.served .array) v.capture (fun r => passBody r p) = .ok u →
     (k = 0 → exec (.arrMv a b c w acc gm sp sph spn sl) s = unitRuns u 2 .array .array) ∧
     (k = nb.toNat → exec (.arrMm a b c w acc gm sp sph spn sl nb) s = unitRuns u 2 .array .array)) ∧
  (∀ (r r1 r2 : State) (p : Pass) (x : PassArgs) (tiles : List (List Byte)), passChecks r p = .ok (r1, x) →
     liveSets r1 x.sets = .ok () → passTiles r1 p x.feed 0 (p.nv * x.nb) = .ok (r2, tiles) →
     let cols := (List.range x.nc).map fun i => x.col + i
     planeBreak r2.chip cols ((List.range x.nb).map fun j => x.row + j) = none →
     (∀ off, stripBreak r2.chip cols (passGroups x.row x.nb p.g) = some off →
       passBody r p = .error ⟨r2, .trap 0x0E 4 (BitVec.ofNat 64 off) false⟩) ∧
     (stripBreak r2.chip cols (passGroups x.row x.nb p.g) = none →
       let undo := (x.sets.eraseDups.map fun g => cols.map fun col => (256 * g + col, r2.chip.xcol g col)).flatten
       let release := match x.feed with
         | .slots h n => some (h, n * p.nv * x.nb)
         | .pad _ => none
       passBody r p = .ok (r2.setChip fun ch =>
         let ch := passSums ch p x tiles
         { ch with array := { ch.array with undo := undo, back := some (r2.fib.pc, r2.fib.rpt), release := release } })))

/-- R104, R105: XaccEnter adds an exact term to ACC, sets UR when bits below the anchor are lost, OP or ON when the term is too large, and
both for a NaN; every enter counts one term. R306: a drain whose checks pass rounds ACC times the output scale of each column of each
set once, writes the rows to vector registers, memory or a spool, and raises the union of their flags. As R301 has it, an instruction
acts after every earlier access of its fibre, with the ACCMAP, ACCEN and slots that it captured at issue, which it leaves as they
were. R307 to R310: set and strip maintenance. -/
def Obligations.Accumulators : Prop :=
  (∀ (x : XCol) (v e : Int),
     (x.enter none e).op = true ∧ (x.enter none e).on = true ∧ (x.enter none e).acc = x.acc ∧
     (∀ t, (x.enter t e).tc = x.tc + 1 ∧ (x.enter t e).anchor = x.anchor ∧ (x.enter t e).os = x.os) ∧
     (x.anchor ≤ e → v.natAbs * 2 ^ (e - x.anchor).toNat < 2 ^ 100 →
       (x.enter (some v) e).acc = x.acc + BitVec.ofInt 128 (v * 2 ^ (e - x.anchor).toNat) ∧ (x.enter (some v) e).ur = x.ur ∧
       (x.enter (some v) e).op = x.op ∧ (x.enter (some v) e).on = x.on) ∧
     (e < x.anchor → v.natAbs < 2 ^ (x.anchor + 100 - e).toNat →
       (x.enter (some v) e).acc = x.acc + BitVec.ofInt 128 (v.tdiv (2 ^ (x.anchor - e).toNat)) ∧
       ((x.enter (some v) e).ur = true ↔ x.ur = true ∨ ¬(2 ^ (x.anchor - e).toNat : Int) ∣ v)) ∧
     (x.anchor ≤ e → 2 ^ 100 ≤ v.natAbs * 2 ^ (e - x.anchor).toNat → (x.enter (some v) e).acc = x.acc ∧
       (0 < v → (x.enter (some v) e).op = true ∧ (x.enter (some v) e).on = x.on) ∧
       (v < 0 → (x.enter (some v) e).on = true ∧ (x.enter (some v) e).op = x.op))) ∧
  (∀ (s t u : State) (a c : GReg) (w : BitVec 1) (acc dst spn ns : BitVec 4) (dk : BitVec 3) (sets : List Nat) (col nc : Nat)
     (ps ps' : List Piece), Room s 2 → WaitOver s w → s.fib.guest = false → (2 ≤ dk.toNat → FullG s a) → FullG s c →
     s.entered .array = false →
     (dk = 0 → dst.toNat + ns.toNat < s.fib.nv) → (dk = 1 → ∃ i, spoolNo s dst.toNat = .ok i) →
     let v := s.waited w
     let va := if dk.toNat < 2 then 0 else s.g a
     setNames v acc.toNat (ns.toNat + 1) = .ok sets → columnRange v (s.g c) = .ok (col, nc) →
     drainPlace v va (s.g c) nc (ns.toNat + 1) dk.toNat dst.toNat (spn.toNat + 1) = .ok (t, ps) → t.fib.guest = false →
     t.behindMessage true = false → UnitFree t.settle.drain .array →
     let r := t.settle.drain.served .array
     r.bank = s.bank → r.fib.guest = false → setNames r acc.toNat (ns.toNat + 1) = .ok sets →
     ∀ r', drainPlace r va (s.g c) nc (ns.toNat + 1) dk.toNat dst.toNat (spn.toNat + 1) = .ok (r', ps') → liveSets r' sets = .ok () →
     residueChecks r' col nc sets = .ok () →
     let rows := sets.map fun g => drainRow r' dk.toNat g col nc
     drainWrite r' (rows.map fun x => x.1) nc dk.toNat dst.toNat (spn.toNat + 1) ps' = .ok u →
     exec (.arrDrain a c w acc dk dst spn ns) s = unitRuns ((raiseFlags u (rows.foldl (fun fl x => fl ||| x.2) 0)).withMaps
       r.core.accmap r.core.accen r.core.slots) 2 .array .array) ∧
  (∀ (s : State) (d a b : GReg) (n sp : BitVec 4) (g col nc : Nat) (an : Int), Room s 1 → s.fib.guest = false → UnitFree s .array →
     s.behindMessage true = false → UnitFree s.settle.drain .array → FullG s a → FullG s b → FreeG s d →
     let r := s.settle.drain.served .array
     r.bank = s.bank → r.core.accmap = s.core.accmap → r.core.accen = s.core.accen →
     let ends (u : State) := unitRuns (u.withMaps r.core.accmap r.core.accen r.core.slots) 1 .array .array
     (setNames s sp.toNat 1 = .ok [g] →
       (anchorOf r g (s.g a) = .ok an → exec (.arrAnchor a sp) s = ends (r.setChip fun c => c.mapSet g fun x =>
           { x with anchor := an, os := oneAt24 }) ∧
         ∀ t os, loadScales r (s.g b) 256 = .ok (t, os) → exec (.arrAnchorOs a b sp) s = ends (raiseFlags (t.setChip fun c =>
           (os.zipIdx).foldl (fun c o => c.putXcol g o.2 { c.xcol g o.2 with anchor := an, os := BitVec.ofNat 128 o.1.1 }) c)
           (os.foldl (fun fl o => fl ||| o.2) 0))) ∧
       (columnRange r (s.g b) = .ok (col, nc) →
         exec (.arrStat d b sp) s = ends (setG r d (statWord r.chip g col nc)) ∧
         ((s.g a).toNat % 32 = 0 →
           (∀ t ps, localAccess r r.accStore (s.g a) (32 * nc) = .ok (t, ps) → residueCheck t g col nc = .ok () →
             exec (.arrStatRec a b sp) s = ends (putLocal t ps (((List.range nc).map fun i => (t.chip.xcol g (col + i)).record).flatten))) ∧
           (∀ t u ps bs, localAccess r r.accLoad (s.g a) (32 * nc) = .ok (t, ps) → recordBytes t ps = .ok (u, bs) →
             recordChecks u (s.g a) (u.chip.xcol g 0).anchor bs 0 nc = .ok () → u.chip.setBad g = false →
             exec (.arrClearLd a b sp) s = ends (u.setChip fun c => (List.range nc).foldl (fun c i =>
               c.putXcol g (col + i) (recordCol (slice bs (32 * i) 32) (c.xcol g (col + i)))) c))))) ∧
     (∀ sets, setNames s sp.toNat (n.toNat + 1) = .ok sets →
       exec (.arrClear n sp) s = ends (r.setChip fun c => sets.foldl (fun c g => c.mapSet g XCol.cleared) c)) ∧
     (bits (s.g a) 19 45 = 0 → (s.g a).toNat ∉ r.chip.stripBad →
       exec (.arrWscaleRd d a) s = ends (setG r d (BitVec.ofNat 64 (r.chip.stripEntry (s.g a).toNat)))) ∧
     (bits (s.g a) 19 45 = 0 → bits (s.g b) 8 56 = 0 →
       exec (.arrWscale a b) s = ends (r.setChip fun c => c.putStrip (s.g a).toNat ((s.g b).setWidth 8))))

/-- R313 to R319: the single-cursor instructions, served by an idle engine after every earlier store of their fibre is performed:
`pl.open` opens the lowest closed cursor or answers all ones, `pl.next` and `pl.skip` move a cursor and give its posting or all ones,
`pl.score` gives its term, `pl.stat` its status word, and `pl.close` closes it. A register that names no cursor of the skein raises
the posting block fault with subcause 4. R318: a cursor before its first posting of a list of no block ends at once; a cursor past its
last posting stays; and a skip to a document at or below the current one leaves the cursor. R320 to R326: a multi-cursor instruction
runs a step when an idle engine serves it: where that step is its last, gd takes its count and the instruction retires; otherwise the
fibre parks between steps, and PL_ENGINE_STEP runs the next. R325: PL_ENGINE_STEP runs the next step of a fibre parked between steps
when it is the engine's turn to serve it, and does nothing before that. -/
def Obligations.Postings : Prop :=
  (∀ (s t u : State) (d a b : GReg) (c x : Cursor) (desc sc : List Byte) (f : FV), Room s 1 → s.fib.guest = false →
     s.behindMessage true = false → UnitFree s .engine → UnitFree s.settle.drain .engine → FullG s a → FullG s b → FreeG s d →
     let r := s.settle.drain.served .engine
     let va := (s.g a).toNat
     let ends (v : State) := Host.Outcome.next (retire (v.setChip fun y => { y with engine := y.engine.oneMore }) 1)
     r.bank = s.bank →
     (va % 32 = 0 → engineRead r va 32 = .ok (t, desc) → descriptorOk desc = true → scoringBlock t (s.g b).toNat = .ok (u, sc) →
       ((∀ n, n < 32 → (u.cursor? n).isSome = true) → exec (.plOpen d a b) s = ends (setG u d (BitVec.allOnes 64))) ∧
       (∀ n, n < 32 → u.cursor? n = none → (∀ m, m < n → (u.cursor? m).isSome = true) → ∃ k : Cursor, k.num = n ∧ k.lid = u.fib.id.lid ∧
         k.skn = u.fib.id.skn ∧ k.desc = desc ∧ k.scoring = sc ∧ k.sc = (s.g b != 0) ∧ k.st = Cursor.before ∧ k.block = [] ∧
         exec (.plOpen d a b) s =
           ends (setG (u.setChip fun y => { y with cursors := y.cursors ++ [k] }) d (BitVec.ofNat 64 n)))) ∧
     (cursorOf r (s.g a) = .ok c →
       exec (.plClose a) s = ends (r.setChip fun y => { y with cursors := y.cursors.filter fun z => z.num != c.num }) ∧
       exec (.plStat d a) s = ends (setG r d (BitVec.ofNat 64 c.status)) ∧
       (Cursor.next r c = .ok (t, x) → exec (.plNext d a) s = ends (setG (t.putCursor x) d x.posting)) ∧
       ((s.g b).toNat < 2 ^ 32 → Cursor.skipTo r c (s.g b).toNat = .ok (t, x) →
         exec (.plSkip d a b) s = ends (setG (t.putCursor x) d x.posting)) ∧
       (c.st = Cursor.at_ → Cursor.term r c = .ok (t, f) →
         exec (.plScore d a) s = ends (setG t d (BitVec.ofNat 64 (scoreBits f))))) ∧
     (32 ≤ va → exec (.plNext d a) s = .next (raise r 0x0D 4 (s.g a) false) ∧
       exec (.plStat d a) s = .next (raise r 0x0D 4 (s.g a) false)) ∧
     (va < 32 → r.cursor? va = none → exec (.plStat d a) s = ends (setG r d 0))) ∧
  (∀ (s : State) (c : Cursor) (target : Nat),
     (c.st = Cursor.before → c.nblk = 0 → Cursor.next s c = .ok (s, c.toEnd) ∧ Cursor.skipTo s c target = .ok (s, c.toEnd)) ∧
     (c.st = Cursor.ended → Cursor.next s c = .ok (s, c) ∧ Cursor.skipTo s c target = .ok (s, c) ∧ c.posting = BitVec.allOnes 64) ∧
     (c.st = Cursor.at_ → target ≤ c.doc → Cursor.skipTo s c target = .ok (s, c)) ∧
     (c.st = Cursor.at_ → c.known = true → c.i + 1 < c.cnt → c.block ≠ [] →
       ∃ x, Cursor.next s c = .ok (s, x) ∧ x.st = Cursor.at_ ∧ (x.doc, x.tf) = c.block.getD (c.i + 1) (0, 0))) ∧
  (∀ (s t : State) (d a b : GReg) (w out : BitVec 1) (nc : BitVec 3) (osp isp : BitVec 4) (k : EngineJob) (n : Word), Room s 2 →
     s.fib.guest = false → WaitOver s w → s.entered .engine = false → (s.waited w).behindMessage true = false →
     UnitFree (s.waited w).settle.drain .engine → FullG s a → FullG s b → FreeG s d →
     let r := (s.waited w).settle.drain.served .engine
     let job (kind nc : Nat) (ga : Word) (o : Option Nat) (i : Nat) : EngineJob :=
       { kind := kind, d := d, ga := ga, gb := s.g b, nc := nc, osp := o, isp := i, out := 0, first := true, lex := none, map := none,
         waits := false }
     let list (kind : Nat) := job kind (nc.toNat + 1) (s.g a) (if out = 1 then some osp.toNat else none) 0
     let stream (kind : Nat) := job kind 0 0 (some osp.toNat) isp.toNat
     let ends := Host.Outcome.next (retire (setG (servedEngine (t.setChip fun c => { c with engine := { c.engine with
       queue := c.engine.queue.filter fun e => e.fib != t.fib.id, completed := c.engine.completed + 1 } })) k.d n) 2)
     let runs (i : Instr) (j : EngineJob) :=
       (engineStep r j = .ok (some (t, k, some n)) → exec i s = ends) ∧
       (engineStep r j = .ok (some (t, k, none)) → exec i s = .next (parkEngine (servedEngine t) { k with waits := false })) ∧
       (engineStep r j = .ok none → exec i s = .next (parkEngine (servedEngine r) { j with waits := true }))
     ((out = 1 → ∃ h, spoolNo s osp.toNat = .ok h) →
       runs (.plIsect d a b w nc out osp) (list 0) ∧ runs (.plUnion d a b w nc out osp) (list 1)) ∧
     ((∃ h, spoolNo s osp.toNat = .ok h) → (∃ h, spoolNo s isp.toNat = .ok h) →
       runs (.plFuse d b w osp isp) (stream 2) ∧ runs (.plTopk d b w osp isp) (stream 3))) ∧
  (∀ (s t : State) (j k : EngineJob) (n : Word), s.fib.live = true → s.fib.park = some (.engine j) → s.focus s.fib.id = s →
     let turn := s.chip.engine.next.any fun e => e.fib == s.fib.id
     let gone (v : State) (out : Nat) := v.setChip fun c => { c with engine := { c.engine with
       queue := c.engine.queue.filter fun e => e.fib != s.fib.id, completed := c.engine.completed + out } }
     (turn = true →
       (engineStep s j = .ok (some (t, k, none)) → exec (.plEngineStep s.fib.id) s = .next (parkEngine (servedEngine t) { k with waits := false })) ∧
       (engineStep s j = .ok none → exec (.plEngineStep s.fib.id) s = .next (parkEngine (servedEngine s) { j with waits := true })) ∧
       (t.fib.id = s.fib.id → engineStep s j = .ok (some (t, k, some n)) →
         exec (.plEngineStep s.fib.id) s = .next (retire (setG (servedEngine (gone t 1)) k.d n) 2)) ∧
       (∀ c sub v p, engineStep s j = .error ⟨t, .trap c sub v p⟩ →
         exec (.plEngineStep s.fib.id) s = .next (raise (servedEngine (gone t 0)) c sub v p)) ∧
       (∀ p, engineStep s j = .error ⟨t, .park p⟩ → exec (.plEngineStep s.fib.id) s = .next s)) ∧
     (turn = false → exec (.plEngineStep s.fib.id) s = .next s))

/-! ## Copies, messages and streams -/

/-- R201 to R204: an accepted copy joins the chiplet's copies with the operands captured at issue, counts in its token, and the fibre
goes on at once. R207, R216, R219: the steps of a copy. A planned copy to an address delivers its next unit; a copy to a spool fills the
next free slot, which it counts, and waits while none is free. The model's choice, and no rule of the manual: the first step of a copy
reads the source and forms all its units at one moment (assumption 42), and a copy to a spool whose skein is gone with its aborted
launch runs to its end without the spool (assumption 48). -/
def Obligations.CopiesIssueAndDeliver : Prop :=
  (∀ (s u : State) (d a b c : GReg) (w nt spl : BitVec 1) (fn2 : BitVec 2) (fn6 : BitVec 6) (esz tok lc scs fmt : BitVec 3)
     (sl ixw : BitVec 2) (tr tc rblk : BitVec 6), Room s 2 → WaitOver s w → FullG s a → FullG s b → FullG s c →
     let v := s.waited w
     let taken (i : Instr) (major : BitVec 7) (rd : Word) := exec i s = .next (retire u 2) ∧ ∃ old k, u.chip.copies = old ++ [k] ∧
       k.ra = s.g a ∧ k.rb = s.g b ∧ k.rc = s.g c ∧ k.rd = rd ∧ k.base.extractLsb' 25 7 = major ∧ k.token = tok.toNat ∧ k.plan = none ∧
       k.ntf = (nt == 1) ∧ k.prec = s.fib.prec ∧ k.asid = s.fib.asid ∧ k.fib = s.fib.id
     let xc (lc scs fmt : BitVec 3) (sl ixw : BitVec 2) (tr tc rblk : BitVec 6) : FmtXC :=
       { lc := lc, scs := scs, nt := nt, sl := sl, fmt := fmt, tr := tr, tc := tc, ixw := ixw, rblk := rblk }
     let base (major : BitVec 7) (d : GReg) (fn : BitVec 6) (x : BitVec 6) : FmtL :=
       { major := major, d := d, a := a, b := b, c := c, w := w, fn := fn, x := x }
     ((lc.getLsbD 1 = true → ∃ p, slotNo s sl.toNat = .ok p) →
       acceptCopy v (newCopy v (base 0x70 0 (fn2.setWidth 6) (esz ++ tok)) (xc lc 0 fmt sl 0 tr tc 0) (s.g a) (s.g b) (s.g c) 0 none)
         (lc.getLsbD 1) = .ok u → taken (.cpPull a b c w fn2 esz tok lc nt sl fmt tr tc) 0x70 0) ∧
     ((scs.getLsbD 1 = true → ∃ p, slotNo s sl.toNat = .ok p) → (scs.getLsbD 0 = true → FreeG s d) →
       acceptCopy v (newCopy v (base 0x71 d fn6 (0#3 ++ tok)) (xc 0 scs fmt sl 0 0 0 0) (s.g a) (s.g b) (s.g c) 0
         (if scs.getLsbD 0 then some d else none)) (scs.getLsbD 1) = .ok u →
       taken (.cpPush d a b c w fn6 tok scs nt sl fmt) 0x71 0) ∧
     (FullG s d → acceptCopy v (newCopy v (base 0x72 d (if spl = 1 then 3 else 0) (0#3 ++ tok)) (xc 0 0 0 0 ixw 0 0 rblk) (s.g a) (s.g b)
         (s.g c) (s.g d) none) false = .ok u → taken (.cpGather d a b c w spl tok nt ixw rblk) 0x72 (s.g d))) ∧
  (∀ (s t : State) (k : Nat) (c : Copy) (p : CopyPlan), s.core.num < 1024 → s.chip.num = chipNum s.core.num →
     s.chip.copies[k]? = some c → c.core = s.core.num → c.plan = none → c.makePlan s = .ok (t, p) →
     let u := t.putCopy s.chip.num k { c with plan := some p }
     (c.toSpool = true → exec (.copyUnitDeliver s.chip.num k) s = .next u) ∧
     (p.units = [] → exec (.copyUnitDeliver s.chip.num k) s = .next u)) ∧
  (∀ (s t : State) (k : Nat) (c : Copy) (p : CopyPlan) (x : CopyUnit) (rest : List CopyUnit), s.core.num < 1024 →
     s.chip.num = chipNum s.core.num → s.chip.copies[k]? = some c → c.plan = some p → p.units = x :: rest → c.core = s.core.num →
     (c.toSpool = false → c.deliver s x = .ok (t, none) → rest ≠ [] → exec (.copyUnitDeliver s.chip.num k) s =
       .next (t.putCopy s.chip.num k { c with plan := some { p with units := rest }, done := c.done + 1 })) ∧
     (∀ f, c.toSpool = false → c.deliver s x = .ok (t, some f) → exec (.copyUnitDeliver s.chip.num k) s =
       .next ((c.closeTail t x.off).putCopy s.chip.num k { c with plan := some { p with units := [], fault := some f } })) ∧
     (∀ sk, c.toSpool = true → s.skein? c.fib.lid c.fib.skn = some sk →
       let h := sk.spb + c.rb.toNat
       let q := s.spool h
       (q.en = true → q.fill < q.nslot → exec (.copySpoolPiece s.chip.num k) s =
         .next (((markSlot (s.fillSlot c.core h 0 x.data) (padAddr s.chip.num q.writeOff) x.bad).countSlots c.core h 1).putCopy s.chip.num k
           { c with plan := some { p with units := rest }, done := c.done + 1 })) ∧
       (q.nslot ≤ q.fill → exec (.copySpoolPiece s.chip.num k) s = .next s)) ∧
     (c.toSpool = true → s.skein? c.fib.lid c.fib.skn = none → exec (.copySpoolPiece s.chip.num k) s =
       .next (s.putCopy s.chip.num k { c with plan := some { p with units := rest }, done := c.done + 1 })))

/-- R205, R209, R220, R221: a copy that has delivered everything completes: its flags join PREC of its fibre, its token counts one fewer
and takes the record of a fault, a compressing push fills its register with the coded length, or with a token of its fault, and NTF
makes the copy event pending. R380: the first read of a register so filled is an acquire. -/
def Obligations.CopiesComplete : Prop :=
  ∀ (s : State) (k : Nat) (c : Copy) (p : CopyPlan), s.core.num < 1024 → s.chip.num = chipNum s.core.num → s.chip.copies[k]? = some c →
    c.plan = some p → p.units = [] → c.core = s.core.num → s.fib.live = true → c.fib = s.fib.id → c.token < 8 →
    s.fib.tokens.err.getD c.token false = false →
    ∃ t, exec (.copyComplete s.chip.num k) s = .next t ∧ t.chip.copies = dropAt s.chip.copies k ∧
      t.chip.copiesDone = s.chip.copiesDone + 1 ∧ t.fib.prec = s.fib.prec ||| (p.flags.setWidth 64 <<< 11) ∧ t.fib.pc = s.fib.pc ∧
      t.fib.tokens.count.getD c.token 0 = s.fib.tokens.count.getD c.token 0 - 1 ∧
      (∀ i, i < 8 → i ≠ c.token → t.fib.tokens.count.getD i 0 = s.fib.tokens.count.getD i 0) ∧
      (p.fault = none → t.fib.tokens.err = s.fib.tokens.err) ∧ (p.fault = none → c.gd = none → c.ntf = false → t.dev = s.dev) ∧
      (∀ f, p.fault = some f → t.fib.tokens.err.getD c.token false = true ∧ t.fib.tokens.record.getD c.token 0 = f.record c.token) ∧
      (c.gd = none → t.fib.bank = s.fib.bank ∧ (c.ntf = false → t.skein = s.skein)) ∧
      (∀ d : GReg, c.gd = some (false, d) → s.fib.bank.fill.getD d.toNat 0 = Fill.pending →
        (p.fault = none → t.fib.bank.val.getD d.toNat 0 = p.coded ∧ t.fib.bank.fill.getD d.toNat 0 = Fill.full ∧
          t.fib.bank.acq.getD d.toNat false = true) ∧
        (∀ f, p.fault = some f → t.fib.bank.val.getD d.toNat 0 = BitVec.ofNat 64 (f.code + 2 ^ 16 * f.sub) ∧
          t.fib.bank.fill.getD d.toNat 0 = Fill.token)) ∧
      (c.ntf = true → s.skein.is c.fib.lid c.fib.skn = true → s.skein.resident = true → t.skein.evPend.getLsbD 1 = true ∧
        (p.fault = none → c.gd = none → t.dev = s.dev))

/-- R387, R388: a send releases, makes gd pending where it expects a reply, gives its status in gc for `msg.send.try`, and puts its
message on its way to a resident skein while its core has fewer than 16 packets on their way; one that is not accepted parks with its
message. A reply goes on its way to the fibre and register that its header names, or raises the destination fault of a chiplet that
cannot be reached. R387, R392, R394: a waiting send completes when its message is accepted; after 4096 clocks a `msg.send.try` gives 0
and each further 4096 clocks of a blocking send make the send-queue-full event pending. R36: a waiting send meets the network check again
where its message would leave. -/
def Obligations.MessageSends : Prop :=
  (∀ (s : State) (d a b c : GReg) (w tr rpl : BitVec 1) (npl : BitVec 3) (tag : BitVec 8) (lid skn place : Nat), Room s 2 → WaitOver s w →
     FullG s a → s.fib.updout = 0 → (s.waited w).behindMessage true = false →
     let v := s.waited w
     let t := v.settle.drain
     let m : Msg := { dstLid := lid, dstSkn := skn, dest := s.g a, srcFib := t.fib.id, rreg := if rpl = 1 then d else 0
                      shadow := t.fib.inev, rpl := rpl == 1, tag := tag.toNat, npl := npl.toNat
                      pay := (List.range npl.toNat).map fun i => s.g (b + BitVec.ofNat 3 i), kind := 0, aux := 0, srcCore := t.core.num
                      hop := t.hop (t.skeinPlace lid skn) }
     let gc := if tr = 1 then some c else none
     ((∀ i, i < npl.toNat → FullG s (b + BitVec.ofNat 3 i)) → (rpl = 1 → FreeG s d) → (tr = 1 → FreeG s c) →
       resolve v (s.g a) = .ok (lid, skn) →
       (∀ u, t.acceptMsg m = some u → exec (.msgSend d a b c w tr rpl npl tag) s = .next (retire (u.sent m gc) 2)) ∧
       (t.acceptMsg m = none → exec (.msgSend d a b c w tr rpl npl tag) s = .next (parkAs t (.send m gc t.clk 0))) ∧
       (∀ l, t.liveLaunch? lid = some l → skn ∉ l.exited →
         (∀ x, t.receiver? lid skn = some x →
           (t.reqQueued t.core.num < 16 → t.acceptMsg m = some (t.setDev fun y => { y with flight := y.flight ++ [m] })) ∧
           (16 ≤ t.reqQueued t.core.num → t.acceptMsg m = none)) ∧
         (t.receiver? lid skn = none → (∀ y ∈ t.dev.flight, ¬(y.dstLid = lid ∧ y.dstSkn = skn)) → t.acceptMsg m = t.overflow l m))) ∧
     (FullG s b →
       let id : FibreId := { lid := bits (s.g a) 21 12, skn := bits (s.g a) 44 20, fix := bits (s.g a) 36 8 }
       (place = match v.fibre? id with
         | some f => chipNum f.at_
         | none => v.chip.num) →
       (v.reach place = .ok () → exec (.msgReply a b w) s = .next (retire (t.setDev fun x => { x with replies := x.replies ++
         [{ fib := id, shadow := bit (s.g a) 14, r := BitVec.ofNat 3 (bits (s.g a) 33 3), v := s.g b, nack := false,
            hop := t.hop place }] }) 2)) ∧
       (netChip place ≠ netChip v.chip.num → v.netselOf (netChip place) = 3 →
         exec (.msgReply a b w) s = .next (raise v 0x10 0 (BitVec.ofNat 64 (netChip place)) false)))) ∧
  (∀ (s t : State) (m : Msg) (g : GReg) (gc : Option GReg) (since told : Nat), s.fib.live = true →
     (s.fib.park = some (.send m gc since told) → s.focus s.fib.id = s →
       (∀ x, s.receiver? m.dstLid m.dstSkn = some x → netChip (chipNum x.core) ≠ netChip s.chip.num →
         s.netselOf (netChip (chipNum x.core)) = 3 → exec (.messageAccept s.fib.id) s =
           .next (raise s 0x10 0 (BitVec.ofNat 64 (netChip (chipNum x.core))) false)) ∧
       (s.sendReach m = .ok () →
         (s.acceptMsg m = some t → exec (.messageAccept s.fib.id) s = .next ((t.sent m gc).finish s.fib.id 2)) ∧
         (s.acceptMsg m = none → exec (.messageAccept s.fib.id) s = .next s))) ∧
     (s.fib.park = some (.send m (some g) since told) →
       (s.clocksSince (chipNum s.fib.at_) since 4096 = true → exec (.sendTryTimeout s.fib.id) s =
         .next (((s.putReg s.fib.id m.shadow g 0 Fill.full).pendEvent s.fib.id.lid s.fib.id.skn 2).finish s.fib.id 2)) ∧
       (s.clocksSince (chipNum s.fib.at_) since 4096 = false → exec (.sendTryTimeout s.fib.id) s = .next s)) ∧
     (s.fib.park = some (.send m none since told) →
       (s.clocksSince (chipNum s.fib.at_) since (4096 * (told + 1)) = true → exec (.sendQueueFull s.fib.id) s =
         .next ((s.pendEvent s.fib.id.lid s.fib.id.skn 2).onFibre s.fib.id fun y =>
           { y with park := some (.send m none since (told + 1)) })) ∧
       (s.clocksSince (chipNum s.fib.at_) since (4096 * (told + 1)) = false → exec (.sendQueueFull s.fib.id) s = .next s)))

/-- R389, R392: a message that reaches a resident skein of a live launch, with nothing before it, joins its core's inbound queue of 32 and
makes the message event pending; a full queue keeps it on its way, one for a checkpointed skein joins the overflow queue, one for a
skein that has exited goes to the dead-letter log. The model's choice, and no row of R392 (assumption 44): delivery is decided again
where the message arrives, and one for a launch that has ended by then goes with a fault token for the reply it expects. R31, R391: a
message waits for the earlier ones of its sender to its skein, and for what was sent before it on its way. R339, R340, R389, R390: an
entry on the event fibre sets INEV, clears the event's pending bit, saves the PC in the shadow bank's g7 and goes to EVEC, with the
event's kind in g6, or for a message its header in g6 and its payload from g0 on; the fibre's own bank stays, and the entry is an
acquire (R377). A fibre that waits in `ev.wait` or `sleep` has completed it. R127, R335, R380, R388: a fill writes a pending register,
with a fault token where it is negative, else with an acquire at its first read, and is discarded and logged where the register is not
pending; `sleep` ends when its time has come or an event has become pending since. -/
def Obligations.MessageArrivals : Prop :=
  (∀ (s : State) (k : Nat) (m : Msg), s.dev.flight[k]? = some m →
     let gone (t : State) : Host.Outcome State Fault Refusal := .next (t.setDev fun d => { d with flight := dropAt d.flight k })
     (earlierMsg s.dev.flight k m = true ∨ (∃ p ∈ s.dev.posted, p.hop.before m.hop = true) → exec (.messageArrival k) s = .next s) ∧
     (earlierMsg s.dev.flight k m = false → (∀ p ∈ s.dev.posted, p.hop.before m.hop = false) →
       (s.liveLaunch? m.dstLid = none → exec (.messageArrival k) s = gone (s.nack m)) ∧
       (∀ l, s.liveLaunch? m.dstLid = some l → m.dstSkn ∈ l.exited → exec (.messageArrival k) s = gone ((s.deadLetter l m).nack m)) ∧
       (∀ l, s.liveLaunch? m.dstLid = some l → m.dstSkn ∉ l.exited → s.receiver? m.dstLid m.dstSkn = none →
         (∀ t, s.overflow l m = some t → exec (.messageArrival k) s = gone t) ∧
         (s.overflow l m = none → exec (.messageArrival k) s = .next s)) ∧
       (∀ l x, s.liveLaunch? m.dstLid = some l → m.dstSkn ∉ l.exited → s.receiver? m.dstLid m.dstSkn = some x →
         s.backlog l m.dstSkn = false → s.pullOverflow m.dstLid m.dstSkn = s → m.kind ≠ 1 →
         ((s.coreAt x.core).inbound.length < 32 → exec (.messageArrival k) s =
           gone ((s.onCore x.core fun c => { c with inbound := c.inbound ++ [m] }).onSkein x.lid x.skn fun y =>
             { y with evPend := y.evPend ||| 1 })) ∧
         (32 ≤ (s.coreAt x.core).inbound.length → exec (.messageArrival k) s = .next s)))) ∧
  (∀ (s : State), s.fib.live = true → s.resident? s.fib.id.lid s.fib.id.skn = some s.skein → s.coreLive s.fib.at_ = true →
     s.focus s.fib.id = s → s.fib.canEnter s.skein = true →
     let kind := s.skein.firstEvent
     let pc := if s.endsByEvent s.fib then s.fib.pc + 4 else s.fib.pc
     (kind ≠ 0 → ∃ t, exec (.eventEntry s.fib.id) s = .next t ∧ t.fib.inev = true ∧ t.fib.pc = s.skein.evec ∧ t.fib.park = none ∧
       t.fib.bank = s.fib.bank ∧ t.skein.evPend = s.skein.evPend &&& ~~~(1#4 <<< kind) ∧ t.skein.shadow.val.getD 7 0 = pc ∧
       t.skein.shadow.val.getD 6 0 = BitVec.ofNat 64 kind ∧ t.skein.shadow.fill.getD 7 0 = Fill.full ∧ t.dev.mem = s.dev.mem ∧
       t.fib.mark = s.dev.writes ∧ t.core.l1 = [] ∧
       (∀ i, i < 6 → t.skein.shadow.val.getD i 0 = s.skein.shadow.val.getD i 0)) ∧
     (kind = 0 → ∀ m rest, s.core.inbound = m :: rest → m.dstLid = s.fib.id.lid → m.dstSkn = s.fib.id.skn → m.npl ≤ 6 →
       ∃ u : State, u.fib.bank = s.fib.bank ∧ u.fib.park = none ∧ u.core.inbound = rest ∧
         u.skein.evPend = s.skein.evPend &&& ~~~1#4 ∧ u.dev.mem = s.dev.mem ∧
         u.skein.shadow.val.getD 6 0 = m.header ∧ (∀ i, i < m.npl → u.skein.shadow.val.getD i 0 = m.pay.getD i 0 ∧
           u.skein.shadow.fill.getD i 0 = Fill.full) ∧
         let v := u.pullCore s.core.num
         let more := (v.core.inbound.any fun x => x.dstLid == s.fib.id.lid && x.dstSkn == s.fib.id.skn) || !v.skein.held.isEmpty
         exec (.eventEntry s.fib.id) s = .next ((((if more then v.setSkein fun k => k.pend 0 else v).setSkein fun k =>
           k.setReg 7 pc Fill.full).setFib fun y => ({ y with inev := true, pc := s.skein.evec, mark := v.dev.writes } : Fibre).touch Dirty.shadow).acquire 6))) ∧
  (∀ (s : State) (k u : Nat) (seen : BitVec 4) (r : GReg) (v : Word) (nack : Bool) (p : Reply), s.fib.live = true →
     let filled (v : Word) (nack : Bool) := s.setFib fun f => { f.setReg r v (if nack then Fill.token else Fill.full) with
       bank := (f.bank.put r v (if nack then Fill.token else Fill.full)).mark r (!nack) }
     (s.fib.bank.fill.getD r.toNat 0 = Fill.pending →
       exec (.registerFill s.fib.id false r v nack) s = .next (filled v nack) ∧
       (s.dev.replies[k]? = some p → p.fib = s.fib.id → p.shadow = false → p.r = r →
         (∀ x ∈ s.dev.replies.take k, x.hop.along p.hop = false) → exec (.replyArrival k) s =
         .next ((filled p.v p.nack).setDev fun d => { d with replies := dropAt d.replies k }))) ∧
     (s.dev.replies[k]? = some p → (∃ x ∈ s.dev.replies.take k, x.hop.along p.hop = true) → exec (.replyArrival k) s = .next s) ∧
     (s.fib.bank.fill.getD r.toNat 0 ≠ Fill.pending → ∃ t, exec (.registerFill s.fib.id false r v nack) s = .next t ∧ t.fib = s.fib ∧
       t.skein = s.skein) ∧
     (s.fib.park = some (.sleep u seen) →
       (u ≤ s.wtick (chipNum s.fib.at_) → exec (.sleepExpiry s.fib.id) s = .next (s.finish s.fib.id 1)) ∧
       (∀ x, s.resident? s.fib.id.lid s.fib.id.skn = some x → s.fib.evf = true → (x.evPend &&& x.evEn) &&& ~~~seen ≠ 0 →
         exec (.sleepExpiry s.fib.id) s = .next (s.finish s.fib.id 1)) ∧
       (s.wtick (chipNum s.fib.at_) < u → s.fib.evf = false → exec (.sleepExpiry s.fib.id) s = .next s)))

/-- R400 to R402: `str.send` reads its data at issue and parks until its slot, the first start tp + 1024 + f·SL + OFF + n·4096·SL at or
after now while its level's phase is odd; a send whose phase is even waits for it.
STREAM_SLOT_SEND puts the packet on its way at that tick and the instruction completes. -/
def Obligations.StreamSends : Prop :=
  ∀ (s t : State) (a : GReg) (w : BitVec 1) (lvl : BitVec 3) (mrk mesh : BitVec 1) (vs : BitVec 6) (fs : BitVec 12) (src : BitVec 1)
    (v : BitVec 4) (l : Launch) (data : List Byte) (off : Int), Room s 2 → WaitOver s w → s.fib.guest = false →
    (src = 0 → v.toNat < s.fib.nv) → s.myLaunch = some l → l.coop = true → sendData (s.waited w) a src v = .ok (t, data) →
    slotOffset t fs.toNat = .ok off →
    let p : Packet := { src := t.chip.num, vs := vs.toNat, fslot := fs.toNat, phase := 0, mrk := mrk == 1, cnt := 1, pbm := 0
                        mesh := mesh == 1, chip := t.chip.num, port := 4 + t.coreIndex, ready := 0, reached := 0
                        slotLen := 2 ^ bits t.core.delaysel 4 4, sent := 0, data := data, bad := [] }
    (∀ ph at_, t.slotOpen lvl.toNat p off = some (ph, at_) → exec (.strSend a w lvl mrk mesh vs fs src v) s =
      .next (parkAs t (.slot { p with phase := ph } lvl.toNat off (some at_)))) ∧
    (t.slotOpen lvl.toNat p off = none → exec (.strSend a w lvl mrk mesh vs fs src v) s =
      .next (parkAs t (.slot p lvl.toNat off none))) ∧
    (∀ q n f at_, s.fib.live = true → s.fib.park = some (.slot q n f (some at_)) →
      let now := s.wtick (chipNum s.fib.at_)
      (at_ ≤ now → exec (.streamSlotSend s.fib.id) s =
        .next ((s.setDev fun d => { d with packets := d.packets ++ [{ q with ready := at_, reached := now, sent := s.ctr }] }).finish
          s.fib.id 2)) ∧
      (now < at_ → exec (.streamSlotSend s.fib.id) s = .next s)) ∧
    (∀ q n f, s.fib.live = true → s.focus s.fib.id = s → s.fib.park = some (.slot q n f none) →
      (s.slotOpen n q f = none → exec (.streamSlotSend s.fib.id) s = .next s) ∧
      (∀ ph at_, s.slotOpen n q f = some (ph, at_) → exec (.streamSlotSend s.fib.id) s =
        .next (s.setFib fun y => { y with park := some (.slot { q with phase := ph } n f (some at_)) }))) ∧
    (∀ tp now f sl : Nat, ∀ o : Int, 0 < sl → 0 ≤ (tp : Int) + 1024 + f * sl + o → now ≤ slotStart tp now f sl o ∧
      ∃ n : Nat, (slotStart tp now f sl o : Int) = tp + 1024 + f * sl + o + n * (4096 * sl) ∧
        (n ≠ 0 → slotStart tp now f sl o < now + 4096 * sl))

/-- R398, R399, R404: `str.recv` takes a buffered packet of its stream and frame slot, into va or into 256 bytes of scratchpad whose
words become full; with none buffered it parks, or arms 256 bytes whose words become empty. R419: it is held while 256 receives are
armed. On a bound stream it raises the spool fault. R398, R399: a packet that reaches the port of a core fills a slot of the spool that
its stream is bound to, lands in an armed buffer, goes to the receive that has waited longest, or is buffered while the core holds fewer
than 8. The oldest buffered packet of a bound stream fills a slot once there is room. -/
def Obligations.StreamReceives : Prop :=
  (∀ (s t : State) (a : GReg) (w : BitVec 1) (vs : BitVec 6) (fs : BitVec 12) (v : BitVec 4) (ps : List Piece), Room s 2 → WaitOver s w →
     s.fib.guest = false →
     let u := s.waited w
     let here (q : Packet) : Bool := q.vs == vs.toNat && q.fslot == fs.toNat
     let gone (x : State) (i : Nat) : State := x.setSkein fun k => { k with port := dropAt k.port i }
     (u.boundTo u.skein vs.toNat = none →
       (v.toNat < s.fib.nv →
         (∀ i q, u.skein.port.findIdx? here = some i → u.skein.port[i]? = some q → exec (.strRecv a w vs fs 0 v) s =
           .next (retire (gone (u.setFib fun f => f.takePacket v.toNat q) i) 2)) ∧
         (u.skein.port.findIdx? here = none → exec (.strRecv a w vs fs 0 v) s =
           .next (parkAs u (.recv vs.toNat fs.toNat v.toNat u.ctr)))) ∧
       (FullG s a → streamPlace u u.accStore (s.g a) = .ok (t, ps) →
         (∀ i q, u.skein.port.findIdx? here = some i → u.skein.port[i]? = some q → exec (.strRecv a w vs fs 1 v) s =
           .next (retire (gone (t.landPacket q (ps.map fun p => (p.pa, p.len)) 0) i) 2)) ∧
         (u.skein.port.findIdx? here = none → 256 ≤ u.skein.armed.length →
           exec (.strRecv a w vs fs 1 v) s = .next (parkAs t .retry)) ∧
         (u.skein.port.findIdx? here = none → u.skein.armed.length < 256 → exec (.strRecv a w vs fs 1 v) s =
           .next (retire ((ps.foldl (fun x p => (List.range (p.len / 8)).foldl (fun x i => x.setFull (p.pa / 8 + i) false) x) t).setSkein
             fun x => { x with armed := x.armed ++ [{ vs := vs.toNat, fslot := fs.toNat, va := s.g a, pa := (ps.map Piece.pa).headD 0
                                                      next := (ps.map Piece.pa).getLastD 0 }] }) 2)))) ∧
     (∀ h, u.boundTo u.skein vs.toNat = some h → v.toNat < s.fib.nv →
       exec (.strRecv a w vs fs 0 v) s = .next (raise u 0x12 0 (BitVec.ofNat 64 (h - u.skein.spb)) false))) ∧
  (∀ (s : State) (k : Nat) (p : Packet) (x : Skein), s.dev.packets[k]? = some p → 8 ≤ p.port → p.port < 12 →
     s.portSkein (4 * p.chip + (p.port - 8)) p.vs = some x → bits (assoc p.vs 0 x.expw) 11 2 = 0 →
     let d := s.setDev fun d => { d with packets := dropAt d.packets k }
     let armed := x.armed.findIdx? fun a => a.vs == p.vs && a.fslot == p.fslot
     (d.boundTo x p.vs = none →
       (∀ i a, armed = some i → x.armed[i]? = some a → exec (.streamPortArrival k) s =
         .next ((d.landPacket p a.places 0).onSkein x.lid x.skn fun y => { y with armed := dropAt y.armed i })) ∧
       (∀ id v, armed = none → oldestReceiver (d.receivers x p.vs p.fslot) = some (id, v) → exec (.streamPortArrival k) s =
         .next ((d.onFibre id fun f => f.takePacket v p).finish id 2)) ∧
       (armed = none → d.receivers x p.vs p.fslot = [] → d.buffered x.core < 8 → exec (.streamPortArrival k) s =
         .next (d.onSkein x.lid x.skn fun y => { y with port := y.port ++ [p] })) ∧
       (armed = none → d.receivers x p.vs p.fslot = [] → 8 ≤ d.buffered x.core → exec (.streamPortArrival k) s = .next s)) ∧
     (∀ h t, d.boundTo x p.vs = some h → (x.port.any fun q => q.vs == p.vs) = false → d.fillBound x h p = some t →
       exec (.streamPortArrival k) s = .next t)) ∧
  (∀ (s t : State) (j i h : Nat) (p : Packet) (x : Skein),
     ((s.allSkeins.filter fun y => y.resident).flatMap fun y => (s.boundFirst y).map fun n => (y, n))[j]? = some (x, i) →
     x.port[i]? = some p → s.boundTo x p.vs = some h →
     (s.fillBound x h p = some t → exec (.streamPortArrival (s.dev.packets.length + j)) s =
       .next (t.onSkein x.lid x.skn fun y => { y with port := dropAt y.port i })) ∧
     (s.fillBound x h p = none → exec (.streamPortArrival (s.dev.packets.length + j)) s = .next s))

/-- R396, R397, R403: a packet at a router whose current entry is valid and takes its input port leaves on every port of OUTS; any other
is discarded and logged, and one that another reached the router before waits. A reducing entry holds what the first arrival of a key
gives; each further port adds its data, its CNT and itself to PBM; once every port of INS has arrived, or at its limit, the entry
forwards the combination. A packet of a key already forwarded, or a second one on a port, is forwarded alone. A packet that meets a slot
taken by a deferred one that came first is deferred by a frame and logged, and leaves when its frame comes. The model's choice: CUR steps
once a packet with MRK has left on every port, a deferred one included (assumption 45). R396, R399, R405: binding, expectation and router
entries of streams, and `net.drain`, which waits for what its chiplet injected before it; which packets those are is the model's choice
(assumption 46). Only supervisor level writes and reads router entries; ALT 0 sets CUR to 0. -/
def Obligations.StreamRouters : Prop :=
  (∀ (s : State) (k : Nat) (p : Packet), s.dev.packets[k]? = some p →
     let d := s.setDev fun d => { d with packets := dropAt d.packets k }
     let r := (s.chipAt p.chip).route p.mesh p.vs
     let e := r.alt.getD r.cur 0
     let now := s.wtick p.chip
     (p.port < 8 → (now < p.ready ∨ now ≤ p.reached ∨ earlierPacket s.dev.packets p = true) →
       exec (.routerStreamPacket k) s = .next s) ∧
     (p.port < 8 → p.ready ≤ now → p.reached < now → earlierPacket s.dev.packets p = false →
       ((bit e 63 = false ∨ bit e (16 + p.port) = false) → exec (.routerStreamPacket k) s = .next (d.logRouter p)) ∧
       (bit e 63 = true → bit e (16 + p.port) = true → bits e 60 3 = 0 → exec (.routerStreamPacket k) s = .next (d.forward p e)) ∧
       (bit e 63 = true → bit e (16 + p.port) = true → bits e 60 3 ≠ 0 → portsIn (bits e 16 8) (2 ^ p.port) = false →
         (∀ q, q ∈ (s.chipAt p.chip).reds → q.is r.cur p = false) → ∃ t q, exec (.routerStreamPacket k) s = .next t ∧
           t.dev.packets = d.dev.packets ∧ q ∈ (t.chipAt p.chip).reds ∧ q.is r.cur p = true ∧ q.sent = false ∧ q.since = now ∧
           q.pkt.cnt = p.cnt ∧ q.pkt.pbm = 2 ^ p.port ∧ q.pkt.data = enterData (bits e 60 3) p.data) ∧
       (∀ q, bit e 63 = true → bit e (16 + p.port) = true → bits e 60 3 ≠ 0 →
         ((s.chipAt p.chip).reds.find? fun x => x.is r.cur p) = some q →
         let c := { q.pkt with data := combineData (bits e 60 3) q.pkt.data p.data, bad := combineBad (bits e 60 3) q.pkt.bad p.bad
                               cnt := q.pkt.cnt + p.cnt, pbm := q.pkt.pbm ||| 2 ^ p.port, mrk := q.pkt.mrk || p.mrk
                               ready := max q.pkt.ready p.ready }
         ((q.sent = true ∨ q.pkt.pbm.testBit p.port = true) → exec (.routerStreamPacket k) s = .next (d.forward p e)) ∧
         (q.sent = false → q.pkt.pbm.testBit p.port = false →
           (portsIn (bits e 16 8) c.pbm = true → exec (.routerStreamPacket k) s =
             .next ((d.onChip p.chip fun x => x.putRed { q with pkt := c, sent := true }).forward c e)) ∧
           (portsIn (bits e 16 8) c.pbm = false → exec (.routerStreamPacket k) s =
             .next (d.onChip p.chip fun x => x.putRed { q with pkt := c, sent := false }))))) ∧
     (16 ≤ p.port → p.ready ≤ now → exec (.streamDeferredSend k) s = .next ((d.leaveOn p (p.port % 4)).stepCur p)) ∧
     (∀ o, 4 ≤ o → (d.leaveOn p o).dev.packets = d.dev.packets ++ [{ p with port := 4 + o }]) ∧
     (∀ o q, o < 4 → q ∈ d.dev.packets → 16 ≤ q.port → q.port % 4 = o → q.first p = true → sameSlot q.ready p.ready p.slotLen = true →
       d.leaveOn p o = (d.setDev fun x => { x with packets := x.packets ++
         [{ p with port := 16 + 4 * p.inPort + o, ready := p.ready + 4096 * p.slotLen }] }).logRouter p) ∧
     (∀ n ch q, s.openReds[n]? = some (ch, q) →
       let g := (s.chipAt ch).route q.mesh q.vs
       let h := g.alt.getD q.alt 0
       (bits h 32 16 ≠ 0 → q.since + bits h 32 16 ≤ s.wtick ch → exec (.reductionLimitExpiry n) s =
         .next ((s.onChip ch fun c => c.putRed { q with sent := true }).forward q.pkt h)) ∧
       ((bits h 32 16 = 0 ∨ s.wtick ch < q.since + bits h 32 16) → exec (.reductionLimitExpiry n) s = .next s))) ∧
  (∀ (s : State) (d a b : GReg) (n : BitVec 6), Room s 1 → FullG s a → FullG s b →
     let i := s.g a
     let e := s.g b
     let h := s.skein.spb + bits i 0 4
     let r := s.chip.route (bit i 8) (bits i 0 6)
     (s.fib.guest = false → expwOk e = true →
       exec (.strExp b n) s = .next (retire (s.setSkein fun k => { k with expw := assocPut n.toNat e k.expw }) 1) ∧
       (bits i 0 4 < s.skein.spn → (s.spool h).en = true → 256 ≤ (s.spool h).slotBytes → (s.spool h).bnd = false →
         (∀ j, j < 16 → j ≠ h → ¬((s.spool j).en = true ∧ (s.spool j).bnd = true ∧ bits (s.spool j).cfg 56 6 = n.toNat)) →
         exec (.strBind a b n) s = .next (retire ((s.onSpool h fun p =>
           { p with cfg := (p.cfg &&& ~~~0x3F00000000000000#64) ||| wordOf [(62, 1, 1), (56, 6, n.toNat)] }).setSkein fun k =>
             { k with expw := assocPut n.toNat e k.expw }) 1))) ∧
     (s.fib.guest = false → s.boundTo s.skein n.toNat = none → exec (.strUnbind n) s = .next (retire s 1)) ∧
     (∀ j, s.fib.guest = false → s.boundTo s.skein n.toNat = some j → exec (.strUnbind n) s =
       .next (retire (s.onSpool j fun p => { p with cfg := p.cfg &&& ~~~0x4000000000000000#64 }) 1)) ∧
     (s.fib.guest = false → expwOk e = false → exec (.strExp b n) s =
       .next (raise s 0x01 4 (BitVec.ofNat 64 s.core.fetched) false)) ∧
     (let since := match s.fib.park with
        | some (.drain n) => n
        | _ => s.ctr
      (s.undelivered (netChip s.chip.num) since = false → exec .netDrain s = .next (retire s 1)) ∧
      (s.undelivered (netChip s.chip.num) since = true → exec .netDrain s = .next (parkAs s (.drain since)))) ∧
     (s.fib.sup = true → bits i 9 55 = 0 →
       (FreeG s d → exec (.strRdroute d a) s = wrote s d (r.alt.getD (bits i 6 2) 0) 1) ∧
       (bits e 60 3 ≤ 2 → bits e 48 12 = 0 → bits e 24 8 = 0 → bits e 0 8 = 0 → exec (.strRoute a b) s = .next (retire (s.setChip fun c =>
         c.putRoute { r with alt := r.alt.set! (bits i 6 2) e, cur := if bits i 6 2 = 0 then 0 else r.cur }) 1))) ∧
     (s.fib.sup = false → exec (.strRoute a b) s = .next (raise s 0x02 0 s.baseWord false) ∧
       exec (.strRdroute d a) s = .next (raise s 0x02 0 s.baseWord false)))

/-! ## The system -/

/-- R436: the five instructions of major 0x78, each on a register whose access checks pass: `srd` reads, `swr` writes, `sswp` does both,
`sset` and `sclr` write the OR and the AND NOT of the old value; gd keeps its fill rules. R436, R344, R452: the checks of an access.
A number that names no register has subcause 4; a supervisor register at user level has the privileged fault with subcause 1; a
read-only register written has subcause 4; a handle or barrier beyond the skein's share has subcause 3; a guest meets the migration
fault at a register of its skein. -/
def Obligations.SystemRegisterAccess : Prop :=
  (∀ (s t : State) (d : BitVec 3) (n : BitVec 12) (r : SysReg), Room s 1 →
     (sysAccess s n false = .ok r → FreeG s d → exec (.srd d n) s = wrote s d (r.read s) 1) ∧
     (sysAccess s n true = .ok r → FullG s d →
       let v := s.g d
       (r.write s v v = .ok t → exec (.swr d n) s = .next (retire t 1) ∧
         exec (.sswp d n) s = .next (retire (setG t d (r.read s)) 1)) ∧
       (r.write s (r.read s ||| v) v = .ok t → exec (.sset d n) s = .next (retire t 1)) ∧
       (r.write s (r.read s &&& ~~~v) v = .ok t → exec (.sclr d n) s = .next (retire t 1)))) ∧
  (∀ (s : State) (d : BitVec 3) (n : BitVec 12), Room s 1 →
     (sysReg n.toNat = none → exec (.srd d n) s = .next (raise s 0x01 4 (BitVec.ofNat 64 s.core.fetched) false) ∧
       exec (.swr d n) s = .next (raise s 0x01 4 (BitVec.ofNat 64 s.core.fetched) false)) ∧
     (∀ r, sysReg n.toNat = some r →
       (s.fib.guest = true → r.ofSkein = true → exec (.srd d n) s = .next (raise s 0x11 0 s.baseWord false) ∧
         exec (.swr d n) s = .next (raise s 0x11 0 s.baseWord false)) ∧
       (r.ofSkein = false →
         (s.fib.sup = false → r.readMark = .super → exec (.srd d n) s = .next (raise s 0x02 1 s.baseWord false)) ∧
         (s.fib.sup = false → r.writeMark = .super → exec (.swr d n) s = .next (raise s 0x02 1 s.baseWord false)) ∧
         (s.fib.sup = true → r.writeMark = .none →
           exec (.swr d n) s = .next (raise s 0x01 4 (BitVec.ofNat 64 s.core.fetched) false)) ∧
         ((r.readMark = .user ∨ s.fib.sup = true) → r ≠ .prec → r ≠ .fwin → sysAccess s n false = .ok r ∧
           (r.writeMark = .user ∨ (r.writeMark = .super ∧ s.fib.sup = true) → sysAccess s n true = .ok r))) ∧
       (s.fib.guest = false → (∀ h, (r = .spcfg h ∨ r = .spst h) → s.skein.spn ≤ h →
         exec (.srd d n) s = .next (raise s 0x01 3 (BitVec.ofNat 64 s.core.fetched) false)) ∧
         (∀ b, r = .bst b → s.skein.bn ≤ b → exec (.srd d n) s = .next (raise s 0x01 3 (BitVec.ofNat 64 s.core.fetched) false)))))

/-- R136, R145, R402, R428, R440, R442, R454: what a write of each register does, as the register-write rows run it: RW fields take the
value, W1C fields clear where the operand has 1, and the others stay. R34, R35, R128, R130, R140, R141: writes of NETSEL, PREC,
FWIN, SKMAP and SPCFG. NETSEL stores 0b11 for 0b10 but at the chiplet's own entry; SKMAP refuses ranges above the core's totals;
SPCFG refuses EN with a bad geometry and clears FILL, WIX and RIX. That a register-write row acts on the fibre, core or chiplet in focus,
with no privilege check and the PC as it is, is the model's choice (assumption 32, DESIGN CHOICE). -/
def Obligations.SystemRegisterWrites : Prop :=
  (∀ (s : State) (v g : Word) (k : BitVec 6),
     (∀ (n : BitVec 12) (r : SysReg), sysReg n.toNat = some r →
       (∀ t, r.write s v v = .ok t → exec (.registerWrite n v) s = .next t)) ∧
     (∃ t, exec (.bbcntWrite v) s = .next t ∧ t.fib.bb.cnt = bits v 0 7 ∧ t.fib.bb.addr = s.fib.bb.addr ∧ t.fib.bank = s.fib.bank ∧
       t.fib.pc = s.fib.pc ∧ t.dev = s.dev) ∧
     (∃ t, exec (.bbaddrWrite v) s = .next t ∧ t.fib.bb.addr = v &&& 0x01FFFFFFFFFFFFFF#64 ∧ t.fib.bb.cnt = s.fib.bb.cnt ∧
       t.fib.pc = s.fib.pc ∧ t.dev = s.dev) ∧
     (∃ t, exec (.semWrite k v) s = .next t ∧ (t.sem k.toNat).count = bits v 0 32 ∧ (t.sem k.toNat).line = (s.sem k.toNat).line ∧
       t.fib = s.fib ∧ t.fibres = s.fibres ∧ t.dev = s.dev) ∧
     (bits v 4 4 ≤ 6 → exec (.delayselWrite v) s = .next (s.setCore fun c => { c with delaysel := v &&& 0x000FFFFFFFFFE0FF#64 })) ∧
     (6 < bits v 4 4 → exec (.delayselWrite v) s = .next (raise s 0x01 4 (BitVec.ofNat 64 s.core.fetched) false)) ∧
     (s.dev.stepAt = none → exec (.freqWrite v) s = .next (s.setDev fun d =>
       { d with stepTarget := bits v 0 4, stepAt := some (1024 * ((s.now + 1023) / 1024) + 2048) })) ∧
     (s.dev.stepAt ≠ none → exec (.freqWrite v) s = .next (parkAs s .retry)) ∧
     (8 ≤ bits v 32 5 → bits v 32 5 ≤ 24 → ∃ t, exec (.elctlWrite v g) s = .next t ∧ bit t.dev.elctl 63 = bit v 63 ∧
       bits t.dev.elctl 32 5 = bits v 32 5 ∧ (∀ i, i < 32 → bit t.dev.elctl i = (bit s.dev.elctl i && !bit g i)) ∧
       t.dev.eltail = s.dev.eltail ∧ t.dev.mem = s.dev.mem ∧ t.fib = s.fib) ∧
     ((bits v 32 5 < 8 ∨ 24 < bits v 32 5) → exec (.elctlWrite v g) s =
       .next (raise s 0x01 4 (BitVec.ofNat 64 s.core.fetched) false)) ∧
     (∃ t, exec (.hmctlWrite v g) s = .next t ∧ bit t.dev.hmctl 60 = bit v 60 ∧ bit t.dev.hmctl 63 = (bit s.dev.hmctl 63 && !bit g 63) ∧
       bits t.dev.hmctl 61 2 = bits s.dev.hmctl 61 2 ∧ t.fib = s.fib ∧ t.dev.mem = s.dev.mem)) ∧
  (∀ (s : State) (v : Word) (h : BitVec 4) (j : BitVec 3),
     (s.chip.num < 256 → ∃ t, exec (.netselWrite j v) s = .next t ∧ t.fib = s.fib ∧ t.dev = s.dev ∧ ∀ i, i < 32 →
       bits (t.chip.netsel.getD j.toNat 0) (2 * i) 2 = if bits v (2 * i) 2 = 2 ∧ 32 * j.toNat + i ≠ s.chip.num then 3 else bits v (2 * i) 2) ∧
     (∀ t, writePrec s v = .ok t → exec (.precWrite v) s = .next t) ∧
     (∀ l, s.myLaunch = some l → bits v 0 3 ≤ 4 → winBytes (bits v 0 3) ≤ winBytes l.win → ∃ t, exec (.fwinWrite v) s = .next t ∧
       t.fib.winSize = bits v 0 3 ∧ t.fib.flive = 0 ∧ t.fib.pc = s.fib.pc ∧ t.fib.bank = s.fib.bank) ∧
     (bits v 21 2 + bits v 23 3 ≤ 4 → bits v 10 5 + bits v 15 6 ≤ 32 → bits v 1 4 + bits v 5 5 ≤ 16 →
       exec (.skmapWrite v) s = .next (s.setSkein fun k => { k with skmap := v &&& 0x3FFFFFE#64 })) ∧
     ((4 < bits v 21 2 + bits v 23 3 ∨ 32 < bits v 10 5 + bits v 15 6 ∨ 16 < bits v 1 4 + bits v 5 5) →
       exec (.skmapWrite v) s = .next (raise s 0x01 4 (BitVec.ofNat 64 s.core.fetched) false)) ∧
     (h.toNat < s.skein.spn →
       ((bit v 63 = false ∨ spcfgOk v = true) → exec (.spcfgWrite h v) s = .next (s.onSpool (s.skein.spb + h.toNat) fun _ =>
         { cfg := v &&& spcfgMask, fill := 0, wix := 0, rix := 0 })) ∧
       (bit v 63 = true → spcfgOk v = false → exec (.spcfgWrite h v) s = .next (raise s 0x12 0 (BitVec.ofNat 64 h.toNat) false))))

/-- R432, R429: taking a trap saves the PC, the value and the cause, makes TCAUSE.TB 1 with the level, frame and address marks, goes to
TVEC at supervisor level, and leaves every register of the fibre and all of memory as they are. R432: a trap taken while TCAUSE.TB
is 1 ends the launch with status 3 and the code as its reason, and stops every fibre of it. -/
def Obligations.TrapEntry : Prop :=
  (∀ (s : State) (code sub : Nat) (val : Word) (pa : Bool), s.fib.guest = false → bit s.fib.trap.tcause 63 = false →
     code < 256 → sub < 256 →
     let t := raise s code sub val pa
     t.fib.trap.trappc = s.fib.pc ∧ t.fib.trap.tval = val ∧ t.fib.trap.tscr = s.fib.trap.tscr ∧ bit t.fib.trap.tcause 63 = true ∧
     bit t.fib.trap.tcause 62 = s.fib.sup ∧ bit t.fib.trap.tcause 61 = s.fib.rpt.act ∧ bit t.fib.trap.tcause 60 = false ∧
     bit t.fib.trap.tcause 59 = pa ∧ bits t.fib.trap.tcause 8 8 = sub ∧ bits t.fib.trap.tcause 0 8 = code ∧ t.fib.sup = true ∧
     t.fib.pc = s.core.tvec &&& 0x01FFFFFFFFFFFFFC#64 ∧ t.fib.park = none ∧ t.fib.bank = s.fib.bank ∧ SameFloat s.fib t.fib ∧
     t.fib.rgn = s.fib.rgn ∧ t.fib.bb = s.fib.bb ∧ t.fib.updout = s.fib.updout ∧ t.dev.mem = s.dev.mem ∧ t.dev.launches = s.dev.launches) ∧
  (∀ (s : State) (code sub : Nat) (val : Word) (pa : Bool) (l : Launch), s.fib.guest = false → bit s.fib.trap.tcause 63 = true →
     l ∈ s.dev.launches → l.lid = s.fib.id.lid →
     let t := raise s code sub val pa
     t.fib.live = false ∧ (∀ f, f ∈ t.fibres → f.id.lid ≠ s.fib.id.lid) ∧
     ∃ m, m ∈ t.dev.launches ∧ m.lid = l.lid ∧ m.state = .ended 3 code)

/-- R435, R443: `trap` raises the environment call with its subcause, its operand in TVAL and the next instruction in TRAPPC; `tret`
goes to TRAPPC at the level that the trap came from, with TCAUSE.TB 0; `tret.rgn` after two restarts does the same; `hallmark` asks
for a capture. R172, R173, R252, R430: words that are no instruction raise the illegal-instruction trap with both words in TVAL, and
a fault of the fetch raises that fault at the address. -/
def Obligations.TrapInstructions : Prop :=
  (∀ (s : State) (a : BitVec 3) (n : BitVec 8),
     (Room s 1 → FullG s a → s.fib.rpt.inBody = false → s.fib.guest = false → bit s.fib.trap.tcause 63 = false →
       ∃ t, exec (.trap a n) s = .next t ∧ t.fib.trap.trappc = s.fib.pc + 4 ∧ t.fib.trap.tval = s.g a ∧
         bits t.fib.trap.tcause 0 8 = 0x20 ∧ bits t.fib.trap.tcause 8 8 = n.toNat ∧ t.fib.sup = true ∧
         t.fib.pc = s.core.tvec &&& 0x01FFFFFFFFFFFFFC#64) ∧
     (s.fib.sup = true → bit s.fib.trap.tcause 63 = true → s.fib.rpt.inBody = false →
       let back (i : Instr) : Prop := ∃ t, exec i s = .next t ∧ t.fib.pc = s.fib.trap.trappc &&& 0xFFFFFFFFFFFFFFFC#64 ∧
         t.fib.sup = bit s.fib.trap.tcause 62 ∧ bit t.fib.trap.tcause 63 = false ∧ t.fib.trap.tval = s.fib.trap.tval ∧
         t.fib.bank = s.fib.bank ∧ t.fib.rgn = s.fib.rgn ∧ SameFloat s.fib t.fib ∧ t.dev.mem = s.dev.mem
       back .tret ∧ (s.fib.rgn.act = true → 2 ≤ s.fib.rgn.count → back .tretRgn)) ∧
     (s.fib.sup = true → bit s.fib.trap.tcause 63 = true → s.fib.rpt.inBody = false → s.fib.rgn.act = true → s.fib.rgn.count < 2 →
       s.fib.anyPending = false → precP s.fib.rgn.prec = precP s.fib.prec → precOk s.fib.rgn.prec = true →
       s.fib.flive ≤ winRegs s.fib.winSize (precP s.fib.prec) →
       ∃ t, exec .tretRgn s = .next t ∧ t.fib.pc = s.fib.rgn.pc ∧ t.fib.bank = s.fib.rgn.snap ∧ t.fib.prec = s.fib.rgn.prec ∧
         t.fib.rgn.count = s.fib.rgn.count + 1 ∧ t.fib.rpt.act = false ∧ t.fib.sup = bit s.fib.trap.tcause 62 ∧
         bit t.fib.trap.tcause 63 = false) ∧
     (Room s 1 → exec .hallmark s = .next (retire (s.trigger 0) 1))) ∧
  (∀ (s : State) (x y : BitVec 32) (code sub : Nat) (va : Word), exec (.illegalInstruction x y sub) s = .next (raise s 0x01 sub (y ++ x) false) ∧
     (code ≠ 0x06 → exec (.instructionFetchFault code sub va) s = .next (raise s code sub va false)) ∧
     ((s.fib.rgn.act = false ∨ s.fib.inev = true) → exec (.instructionFetchFault 0x06 sub va) s = .next (raise s 0x06 sub va false)))

/-- R437, R445, R446: the diagnostic instructions, with the place that translation gives: a stored word with its check byte, the loaded
check, the raw word, a poison mark, and the start of the recovery of a core; a region's own words of a hallmark, or all ones where no
block is. The model's choice: `diag.fence` of a number that no live core is bound to has no effect (assumption 34), and the words read
0 before the first latch (assumption 33). R443, R457: a live chiplet whose counter has reached the tick of the pending capture latches
its words, which begin with the tick; once the last counter has reached it, HMTICK takes it, HMCTL.HELD is 1 with the source, and ARM
stays. R288, R304, R326, R439: the checks of results. Nothing changes where none fails or the instruction does not retire; after one
failure it is computed once more, which the assay stage logs; after two the stage fences its core, and the vector unit, the array and
the posting-list engine raise the assay fault with the address of the instruction, which has had its turn there. Which instructions a
check covers beyond the listed majors is the model's reading (assumption 14). -/
def Obligations.Diagnostics : Prop :=
  (∀ (s t : State) (d a b : BitVec 3) (c r : BitVec 1) (p : Piece), Room s 1 → s.fib.sup = true → FullG s a →
     (diagPlace s s.accStore (s.g a) = .ok (t, p) →
       (FullG s b → FullG s d → t.absentPa p.pa = false → exec (.diagStc d a b c r) s =
         .next (retire (t.storeCheck p (s.g b) (s.g d) (c == 1) (r == 1)) 1)) ∧
       (FullG s b → FullG s d → t.absentPa p.pa = true → exec (.diagStc d a b c r) s = .next (retire (t.logWord 0x03 (p.pa / 8) 8) 1)) ∧
       exec (.diagPoison a) s = .next (retire (t.markPoison (p.pa / 8)) 1)) ∧
     (diagPlace s s.accLoad (s.g a) = .ok (t, p) → FreeG s d →
       let w := p.pa / 8
       let u := t.rawWord w
       (∃ v : Word, exec (.diagLdc d a) s = landed (setG u d v) (u.parksFor [p]) 1 ∧ bit v 17 = u.poisonedWord w ∧
         bit v 16 = !u.emptyWord w ∧ bits v 8 8 = (u.syndrome w).toNat ∧
         bits v 0 8 = (checkByte (u.codeWord w) 65 ^^^ u.syndrome w).toNat) ∧
       exec (.diagLdr d a) s = landed (setG u d (u.storedWord w)) (u.parksFor [p]) 1 ∧ (t.dev.soft = [] → u = t)) ∧
     ((s.g a).toNat < 1024 →
       (s.boundCore (s.g a).toNat = none → exec (.diagFence a) s = .next (retire s 1)) ∧
       (∀ core, s.boundCore (s.g a).toNat = some core → exec (.diagFence a) s = .next ((retire s 1).startRecovery core 0x17 2))) ∧
     (1024 ≤ (s.g a).toNat → exec (.diagFence a) s = .next (raise s 0x01 4 (BitVec.ofNat 64 s.core.fetched) false)) ∧
     (FreeG s d → bits (s.g a) 18 46 = 0 →
       (s.blockExists (bits (s.g a) 0 10) (bits (s.g a) 10 5) = false → exec (.diagHmrd d a) s = wrote s d (BitVec.allOnes 64) 1) ∧
       (s.blockExists (bits (s.g a) 0 10) (bits (s.g a) 10 5) = true → exec (.diagHmrd d a) s = wrote s d
         ((assoc (32 * bits (s.g a) 0 10 + bits (s.g a) 10 5) [] s.dev.hmwords).getD (bits (s.g a) 15 3) 0) 1))) ∧
  (∀ (s : State) (l : Latch), s.dev.latch = some l → l.src < 4 →
     let due := s.liveLocs.filter fun c => !l.taken.contains c && decide (l.tick ≤ s.tickAt c)
     ∃ t, exec .hallmarkLatch s = .next t ∧ t.dev.mem = s.dev.mem ∧ t.fib = s.fib ∧ t.fibres = s.fibres ∧
     (s.dev.ticks < l.tick → t.dev.latch = some { l with taken := l.taken ++ due } ∧ t.dev.hmtick = s.dev.hmtick ∧
       t.dev.hmctl = s.dev.hmctl) ∧
     (l.tick ≤ s.dev.ticks → t.dev.latch = none ∧ t.dev.hmtick = BitVec.ofNat 64 l.tick ∧ bit t.dev.hmctl 63 = true ∧
       bits t.dev.hmctl 61 2 = l.src ∧ bit t.dev.hmctl 60 = bit s.dev.hmctl 60) ∧
     (due = [] → t.dev.hmwords = s.dev.hmwords) ∧
     (s.chip.num < 256 → s.chip.state = 5 → l.taken.contains s.chip.num = false → l.tick ≤ s.tickAt s.chip.num → ∀ k, (k ≤ 10 ∨ k = 12) →
       (assoc (32 * s.chip.num + k) [] t.dev.hmwords).head? = some (BitVec.ofNat 64 l.tick))) ∧
  (∀ (s t : State) (x : BitVec 32) (go : State → Host.Outcome State Fault Refusal) (f : FibreId),
     (s.upset = 0 → checked x s go = go s) ∧
     (go s = .next t → t.core.retired ≤ s.core.retired → checked x s go = .next t) ∧
     (go s = .next t → s.core.retired < t.core.retired →
       (checkOf x = .none → checked x s go = .next t) ∧
       (checkOf x = .stage → (s.upset = 1 → checked x s go = go (s.logAssay 0x09)) ∧
         (2 ≤ s.upset → checked x s go = .next s.assayFence)) ∧
       (∀ sub, checkOf x = .unit sub → (s.upset = 1 → checked x s go = .next t) ∧
         (2 ≤ s.upset → checked x s go =
         .next (raise (s.passTurn (if sub = 0 then .vector else if sub = 1 then .array else .engine)) 0x16 sub s.fib.pc false)))) ∧
     (∀ k, (s.passTurn k).fib = s.fib ∧ ((s.passTurn k).chip.unit k).last = s.coreIndex ∧
       ((s.passTurn k).chip.unit k).queue.any (fun e => e.fib == s.fib.id) = false) ∧
     (∀ m, x.extractLsb' 25 7 = BitVec.ofNat 7 m →
       (((1 ≤ m ∧ m ≤ 0x12) ∨ (0x40 ≤ m ∧ m ≤ 0x45) ∨ (0x60 ≤ m ∧ m ≤ 0x64)) → checkOf x = .stage) ∧
       ((0x50 ≤ m ∧ m ≤ 0x56) → checkOf x = .unit 0) ∧ (m = 0x68 → checkOf x = .unit 1) ∧ (m = 0x6D → checkOf x = .unit 3)) ∧
     (∀ j, s.fib.live = true → s.fib.id = f → s.fib.park = some (.engine j) → s.focus f = s → (s.chip.engine.next.any fun e => e.fib == f) = true →
       2 ≤ s.upset → ∃ u, agentChecked (.plEngineStep f) s = .next (raise u 0x16 3 s.fib.pc false) ∧ u.fib = s.fib))

/-- R70, R71: `l1.inv` acts at once, `l1.drain` waits until the write-through buffer of its core is empty; the other cache operations
start, `cm.sync` waits for those of its own fibre, and a completed one writes back its lines (and drops them from the slice, for all
but `l2.wb`), or for `l2.inv` drops them unwritten; `l2.wbinv.slice` loses no store that came before it started; `msc.wbinv.key`
leaves no line of the key in a memory-side cache, a dirty one stored under the key. The privileged ones trap at user level. R48, R53,
R54: translation maintenance. An invalidation starts on every chiplet and completes there once the accesses of the chiplet's cores are
performed or translate again, dropping the entries it covers; `tlb.sync` waits for those of its own fibre, and reads the hash groups
again after the `tlb.inv.all` of that fibre (assumption 36: the manual does not say whose); `tlb.probe` gives the leaf and physical
address, or twice the subcause of the fault, and a miss of it waits for a walker (R50). -/
def Obligations.CachesAndTranslation : Prop :=
  (∀ (s t : State) (a : BitVec 3) (l : Word) (pa h : Nat), Room s 1 → FullG s a →
     let start (u : State) (kind arg : Nat) := Host.Outcome.next (retire (u.setDev fun d =>
       { d with maint := d.maint ++ [{ by_ := u.fib.id, kind := kind, arg := arg, since := u.ctr }] }) 1)
     exec .l1Inv s = .next (retire (s.setCore fun c => { c with l1 := [] }) 1) ∧
     (s.core.wtb = [] → exec .l1Drain s = .next (retire s 1)) ∧ (s.core.wtb ≠ [] → exec .l1Drain s = .next (parkAs s .wait)) ∧
     ((s.g a).toNat < 2 ^ 57 → s.check s.accLoad (s.g a).toNat = .ok (t, l, pa) →
       (isPad pa = false → leafByp l = false → t.pieceHome { pa := pa, va := (s.g a).toNat, len := 1, leaf := l } = .ok h →
         exec (.l2Wb a) s = start t 0x32 (pa / 128) ∧ exec (.l2Wbinv a) s = start t 0x33 (pa / 128) ∧
         (s.fib.sup = true → exec (.l2Inv a) s = start t 0x34 (pa / 128))) ∧
       ((isPad pa = true ∨ leafByp l = true) → exec (.l2Wb a) s = .next (retire t 1) ∧ exec (.l2Wbinv a) s = .next (retire t 1) ∧
         (s.fib.sup = true → exec (.l2Inv a) s = .next (retire t 1)))) ∧
     (s.fib.sup = true →
       (s.reach (bits (s.g a) 0 8) = .ok () → exec (.l2WbinvSlice a) s = start s 0x35 (bits (s.g a) 0 8)) ∧
       exec (.mscWbinvKey a) s = start s 0x36 (bits (s.g a) 0 12)) ∧
     (s.fib.sup = false → exec (.l2Inv a) s = .next (raise s 0x02 0 s.baseWord false) ∧
       exec (.l2WbinvSlice a) s = .next (raise s 0x02 0 s.baseWord false) ∧
       exec (.mscWbinvKey a) s = .next (raise s 0x02 0 s.baseWord false)) ∧
     ((∀ m, m ∈ s.dev.maint → m.by_ ≠ s.fib.id) → exec .cmSync s = .next (retire (s.setDev fun d => { d with purge := { d.purge with
       complete := d.purge.keys.foldl (fun l k => setIns k l) d.purge.complete } }) 1)) ∧
     (∀ m, m ∈ s.dev.maint → m.by_ = s.fib.id → exec .cmSync s = .next (parkAs s .wait)) ∧
     (∀ k m, s.dev.maint[k]? = some m → exec (.maintenanceComplete k) s =
         .next (((s.doMaint m).purged m).setDev fun d => { d with maint := dropAt d.maint k }) ∧
       ((m.kind = 0x32 ∨ m.kind = 0x33 ∨ m.kind = 0x36) → (s.doMaint m).dev.mem = s.dev.mem) ∧
       (m.kind = 0x35 → (∀ b, b ∈ s.dev.below → b.home = m.arg → b.since < m.since) → (s.doMaint m).dev.mem = s.dev.mem ∧
         (∀ e, e ∈ (s.doMaint m).dev.slices ↔ e ∈ s.dev.slices ∧ e.2 ≠ m.arg)) ∧
       ((m.kind = 0x32 ∨ m.kind = 0x33) → ∀ b, b ∈ (s.doMaint m).dev.below ↔ b ∈ s.dev.below ∧ b.line ≠ m.arg) ∧
       (m.kind = 0x32 → (s.doMaint m).dev.slices = s.dev.slices) ∧
       ((m.kind = 0x33 ∨ m.kind = 0x34) → ∀ e, e ∈ (s.doMaint m).dev.slices ↔ e ∈ s.dev.slices ∧ e.1 ≠ m.arg) ∧
       (∀ b, m.kind = 0x34 → s.dev.feWait = [] → (s.dev.below.filter fun x => x.line == m.arg) = [b] →
         (s.doMaint m).dev.mem = memPut s.dev.mem (128 * b.line) b.data) ∧
       (m.kind = 0x35 → (∀ b, b ∈ (s.doMaint m).dev.below → b ∈ s.dev.below ∧ b.home ≠ m.arg) ∧
         (∀ e, e ∈ (s.doMaint m).dev.slices → e ∈ s.dev.slices ∧ e.2 ≠ m.arg)) ∧
       (m.kind = 0x36 → (∀ x, x ∈ (s.doMaint m).dev.msc → x.key ≠ m.arg) ∧
         (∀ x, (s.dev.msc.filter fun x => x.key == m.arg) = [x] → x.dirty = true →
           assoc x.line 0 (s.doMaint m).dev.lineKey = s.key x.key)))) ∧
  (∀ (s t : State) (d a b : BitVec 3), Room s 1 → s.fib.sup = true → FullG s a → FullG s b →
     let started (i : Instr) (kind asid : Nat) (va : Word) : Prop := ∃ t, exec i s = .next t ∧
       t.chip.inval = s.chip.inval ++ [{ by_ := s.fib.id, kind := kind, asid := asid, va := va }] ∧
       (t.chips.map fun c => c.inval) = s.chips.map (fun c => c.inval ++ [{ by_ := s.fib.id, kind := kind, asid := asid, va := va }]) ∧
       t.fib.pc = (retire s 1).fib.pc ∧ t.fib.bank = s.fib.bank ∧ t.dev = s.dev ∧ t.chip.tlb = s.chip.tlb
     started (.tlbInvVa a b) 0 (bits (s.g a) 0 12) (s.g b) ∧ started (.tlbInvAs a) 1 (bits (s.g a) 0 12) 0 ∧ started .tlbInvAll 2 0 0 ∧
     ((∀ c, c ∈ s.chip :: s.chips → ∀ v, v ∈ c.inval → v.by_ ≠ s.fib.id) → ∃ t, exec .tlbSync s = .next t ∧ t.dev = s.dev ∧
       t.fib.pc = (retire s 1).fib.pc ∧ t.chip.tlb = s.chip.tlb ∧
       (s.fib.id ∈ s.chip.regroup → ∀ g, g < 16 → t.chip.groups.getD g 0 =
         BitVec.ofNat 256 (ofBytes (s.homeBytes (bits s.dev.hgbase 9 43 * 2 ^ 9 + 32 * g) 32))) ∧
       (s.fib.id ∉ s.chip.regroup → t.chip.groups = s.chip.groups)) ∧
     (∀ c v, c ∈ s.chip :: s.chips → v ∈ c.inval → v.by_ = s.fib.id → exec .tlbSync s = .next (parkAs s .wait)) ∧
     (FreeG s d →
       (2 ^ 57 ≤ (s.g b).toNat → exec (.tlbProbe d a b) s = wrote s d 0 1) ∧
       ((s.g b).toNat < 2 ^ 57 → walkMissed s (walk s (bits (s.g a) 0 12) (s.g b).toNat) = true → s.walkersBusy = true →
         exec (.tlbProbe d a b) s = .next (parkAs s .walker)) ∧
       ((s.g b).toNat < 2 ^ 57 →
         (walkMissed s (walk s (bits (s.g a) 0 12) (s.g b).toNat) = false ∨ s.walkersBusy = false) →
         (∀ sub, walk s (bits (s.g a) 0 12) (s.g b).toNat = (.fail sub, t) → FreeG t d →
           exec (.tlbProbe d a b) s = wrote t d (BitVec.ofNat 64 (2 * sub)) 1) ∧
         (∀ l pa, walk s (bits (s.g a) 0 12) (s.g b).toNat = (.leaf l pa, t) → FreeG t d → isDram pa = true → t.homeOf l pa = none →
           exec (.tlbProbe d a b) s = wrote t d 10 1) ∧
         (∀ l pa, walk s (bits (s.g a) 0 12) (s.g b).toNat = (.leaf l pa, t) → FreeG t d → (isPad pa = true ∨ ∃ h, t.homeOf l pa = some h) →
           ∃ w, exec (.tlbProbe d a b) s = wrote t d w 1 ∧ bit w 0 = true ∧ bits w 16 36 = pa / 2 ^ 16 % 2 ^ 36))) ∧
     (∀ k v, s.chip.inval[k]? = some v →
       (s.invalWaits s.chip.num v = true → exec (.invalidationComplete s.chip.num k) s = .next s) ∧
       (s.invalWaits s.chip.num v = false → ∃ t, exec (.invalidationComplete s.chip.num k) s = .next t ∧
         t.chip.tlb = s.chip.tlb.filter (fun e => !v.covers e) ∧ t.chip.inval = dropAt s.chip.inval k ∧
         (s.core.wtb = [] → s.cores = [] → s.dev.posted = [] → s.dev.feWait = [] → (∀ k, k ∈ s.allSkeins → k.armed = []) →
           t.dev = s.dev ∧ t.fib = s.fib))))

/-- R14, R53, R429, R435, R445: at user level the privileged instructions raise the privileged fault, with the base word in TVAL. R344,
R361: a guest cannot name the handles, slots, ports, events or barriers of its skein. Each instruction that does raises the migration
fault with the base word in TVAL, wherever it stands in the address space: those of majors 0x19, 0x57, 0x61, 0x62, 0x38 and 0x3C,
`str.bind`, `str.unbind`, `str.exp`, `str.send`, `str.recv`, `ckpt`, a vector instruction with S = 1, and an access to a system register
of the skein. R343: so do `spawn`, `exit`, the region instructions and, once their registers are read and the names they give are
allocated (R204, R298, R325), the instructions of the copy engine, the array and the posting-list engine. -/
def Obligations.PrivilegeAndGuests : Prop :=
  (∀ (s : State) (d a b : BitVec 3) (c r : BitVec 1), Room s 1 → s.fib.sup = false →
     ∀ i ∈ [Instr.tlbInvVa a b, .tlbInvAs a, .tlbInvAll, .tlbSync, .tlbProbe d a b, .diagStc d a b c r, .diagLdc d a, .diagLdr d a,
       .diagPoison a, .diagFence a, .diagHmrd d a, .lqSet a b, .lchAbort a, .lchResume a, .tret, .tretRgn],
     exec i s = .next (raise s 0x02 0 s.baseWord false)) ∧
  (∀ (s : State) (d a b : GReg) (h n : BitVec 4) (z x : BitVec 2) (br : BitVec 5) (c w : BitVec 1) (k : BitVec 3) (vs : BitVec 6)
     (fs : BitVec 12) (v y u : VReg) (m e : MReg), s.fib.guest = true →
     let no := Host.Outcome.next (raise s 0x11 0 s.baseWord false)
     (∀ i ∈ [Instr.evret, .evEn n, .evDis n, .evWait, .splWait n h, .splRel n h, .splRd d h, .splWr d n h, .splCommit n h,
        .splFill d h, .tblLoad a z, .tblLoadArr a z, .tblRd d a z, .tblInv z, .qntBf16 d a b z, .qntF32 d a b z, .qntVf d a b z,
        .qntFin d b z], exec i s = no) ∧
     (∀ i ∈ [Instr.barArr d a br, .barArrRlx d a br, .barWait a br, .barSync a br, .barRmt a b c k, .dbarArr d a k, .dbarWait a k,
        .dbarSync a k, .dphase d k, .dphaseT d k], exec i s = no) ∧
     (∀ i ∈ [Instr.strBind a b vs, .strUnbind vs, .strExp b vs, .strSend a w k c 0 vs fs 0 v, .strSend a w k c 0 vs fs 1 v,
        .strSend a w k c 1 vs fs 0 v, .strSend a w k c 1 vs fs 1 v, .strRecv a w vs fs c v, .ckpt, .spawn d a b, .exit, .rgnBegin,
        .rgnEnd], exec i s = no) ∧
     (s.entered .vector = false → ∀ i ∈ [Instr.vaddVf u v y 1 w m n, .vsubVf u v y 1 w m n, .vmulVf u v y 1 w m n,
        .vdivVf u v y 1 w m n, .vminVf u v y 1 w m n, .vmaxVf u v y 1 w m n, .vfmaVf u v y 1 w m n, .vfmsVf u v y 1 w m n,
        .vfnmaVf u v y 1 w m n, .vfnmsVf u v y 1 w m n, .vaddInt u v y 1 w m n x, .vsubInt u v y 1 w m n x, .vmulInt u v y 1 w m n x,
        .vadds u v y 1 w m n x, .vmac u v y 1 w m n x, .vcmpEqVf e v y 1 w m n, .vcmpLtVf e v y 1 w m n, .vcmpLeVf e v y 1 w m n,
        .vcmpUnVf e v y 1 w m n, .vcmpEqInt e v y 1 w m n x, .vcmpLtInt e v y 1 w m n x, .vcmpLtuInt e v y 1 w m n x,
        .vperm u v y 1 w m n k], exec i s = no) ∧
     (∀ r : SysReg, (r.ofSkein = true ↔ r = .evec ∨ r = .evmask ∨ r = .skmap ∨ r = .tbst ∨ ∃ j, r = .spcfg j ∨ r = .spst j ∨ r = .bst j) ∧
       ∀ q : BitVec 12, sysReg q.toNat = some r → r.ofSkein = true →
         ∀ i ∈ [Instr.srd d q, .swr d q, .sswp d q, .sset d q, .sclr d q], exec i s = no)) ∧
  (∀ (s : State) (d a b c : GReg) (h n j o : BitVec 4) (z : BitVec 2) (f : BitVec 6) (k t : BitVec 3) (u : BitVec 1) (q r : BitVec 6)
     (v : BitVec 3), s.fib.guest = true → (∀ g, FullG s g) → h.toNat < bits s.skein.skmap 5 5 → n.toNat < bits s.skein.skmap 5 5 →
     z.toNat < bits s.skein.skmap 23 3 →
     let no := Host.Outcome.next (raise s 0x11 0 s.baseWord false)
     (∀ i ∈ [Instr.cpPull a b c 0 z k t v u z k q r, .cpPush d a b c 0 f t k u z v, .cpGather d a b c 0 u t u z q], exec i s = no) ∧
     (∀ i ∈ [Instr.arrMv a b c 0 j o u h n z, .arrMm a b c 0 j o u h n z o, .arrDrain a c 0 j 1 h o n, .arrDrain a c 0 j 2 h o n,
        .arrAnchor a o, .arrAnchorOs a b o, .arrClear n o, .arrClearLd a b o, .arrStat d b o, .arrStatRec a b o, .arrWscaleRd d a,
        .arrWscale a b], s.entered .array = false → exec i s = no) ∧
     (∀ i ∈ [Instr.plOpen d a b, .plClose a, .plNext d a, .plSkip d a b, .plScore d a, .plStat d a, .plIsect d a b 0 k u h,
        .plUnion d a b 0 k u h, .plFuse d b 0 h n, .plTopk d b 0 h n], exec i s = no))


/-- R50, R54, R62, R65, R66, R230, R437: the ends of memory traffic. Delivered data makes its fibre ready, and completes a table load; a
free walker makes its fibre execute again. R31, R65, R185: a remote store is performed behind every earlier packet of its way and every
earlier store of its fibre to the same bytes, parts of one store excepted; until then it waits. R62: a buffered store leaves behind
every earlier one to its line, but for other parts of the same store (R185), and arrives behind what was sent before on its way (R31);
when buffered stores leave is assumption 19 (DESIGN CHOICE). The patrol detects at one word: an error that can be corrected is logged
and its value restored, any other poisons the word, in the code of assumption 22 and with the errors of assumption 23 (DESIGN CHOICE).
R22, R28, R57: losses. The first channel that a memory chiplet loses is replaced by its spare, whose words read as poisoned and full
(their value 0 is assumption 1, DESIGN CHOICE); the range of a further one is absent; an absent memory chiplet's cores are dead; a lost
edge I/O chiplet or link is recorded, and no loss happens twice. R26, R49: a lost compute chiplet is fenced at once, and its numbers are
rebound and its hash groups changed once what it sent has arrived. How a loss is named, and what becomes of what was on its way, is
assumption 37 (DEDUCED). -/
def Obligations.MemoryTrafficAndLosses : Prop :=
  (∀ (s : State) (k w : Nat),
     (s.fib.live = true → s.fib.park = some .data → exec (.dataDelivered s.fib.id) s = .next (s.setFib fun f => { f with park := none })) ∧
     (∀ p ad image, s.fib.live = true → s.fib.park = some (.table p ad image) → s.fib.at_ = s.core.num →
       exec (.dataDelivered s.fib.id) s = .next
         ((s.setCore fun c => { c with slots := c.slots.set! p (slotOf image ad) }).setFib fun f => { f with park := none })) ∧
     (s.fib.live = true → s.fib.park = some .walker →
       exec (.walkerTakesMiss s.fib.id) s = .next (s.setFib fun f => { f with park := some .retry, walker := true })) ∧
     (s.fib.live = true → s.fib.park ≠ some .walker → exec (.walkerTakesMiss s.fib.id) s = .next s) ∧
     (s.fib.live = true → s.fib.park ≠ some .data → (∀ p ad image, s.fib.park ≠ some (.table p ad image)) →
       exec (.dataDelivered s.fib.id) s = .next s) ∧
     (∀ e, s.dev.posted[k]? = some e →
       let meets (q : Posted) : Prop := q.pa < e.pa + e.data.length ∧ e.pa < q.pa + q.data.length
       ((∀ q, q ∈ s.dev.posted.take k → q.hop.along e.hop = false ∧ ¬(q.fib = e.fib ∧ q.seq ≠ e.seq ∧ meets q)) →
         (∀ m, m ∈ s.dev.flight → m.hop.before e.hop = false) → exec (.remoteStorePerformed k) s =
           .next ((s.setDev fun d => { d with posted := dropAt d.posted k }).performPosted e)) ∧
       (∀ q, q ∈ s.dev.posted.take k → (q.hop.along e.hop = true ∨ (q.fib = e.fib ∧ q.seq ≠ e.seq ∧ meets q)) →
         exec (.remoteStorePerformed k) s = .next s) ∧
       (∀ m, m ∈ s.dev.flight → m.hop.before e.hop = true → exec (.remoteStorePerformed k) s = .next s)) ∧
     (∀ p b, (s.coreAt (coreNamed p)).wtb[k]? = some b →
       let first (q : Buffered) : Prop := q.pa / 128 = b.pa / 128 ∧
         (q.seq ≠ b.seq ∨ (q.pa < b.pa + b.data.length ∧ b.pa < q.pa + q.data.length))
       let t := s.performDue fun q => q.hop.along (s.hopFrom (chipNum (coreNamed p)) (s.entryHome b))
       ((∀ q, q ∈ (s.coreAt (coreNamed p)).wtb.take k → ¬first q) → s.entryBehind (coreNamed p) b = false →
         exec (.writeThroughDrain p k) s = .next
           (((t.performEntry b).onCore (coreNamed p) fun c => { c with wtb := dropAt c.wtb k }).remarkCore (coreNamed p))) ∧
       (∀ q, q ∈ (s.coreAt (coreNamed p)).wtb.take k → first q → exec (.writeThroughDrain p k) s = .next s) ∧
       (s.entryBehind (coreNamed p) b = true → exec (.writeThroughDrain p k) s = .next s)) ∧
     (paOk (8 * w) = true → exec (.patrolScrub w) s = .next (s.detectWord w)) ∧
     (∀ i < 65, dataColumn i ∈ oddColumns ∧ columnOf (dataColumn i) 65 = some i) ∧
     (∀ syn, syn ∉ oddColumns → columnOf syn 65 = none) ∧
     (let given := s.dev.ecc.find? fun e => e.1 == w
      let arose := s.dev.soft.find? fun e => e.1 == w
      let u := s.setDev fun d => { d with ecc := assocDel w d.ecc }
      let v := s.setDev fun d => { d with soft := assocDel w d.soft }
      let spoilt (x : State) (syn : BitVec 8) := (x.setDev fun d => { d with pois := setIns w d.pois }).logWord 0x02 w syn.toNat
      (given = none → arose = none → s.detectWord w = s) ∧
      (∀ syn, given = some (w, syn) →
        (isCheckColumn syn = true → s.detectWord w = u.logWord 0x01 w syn.toNat) ∧
        (isCheckColumn syn = false →
          (columnOf syn 65 = some 64 → s.detectWord w = (u.setFull w (u.emptyWord w)).logWord 0x01 w syn.toNat) ∧
          (∀ i < 64, columnOf syn 65 = some i →
            s.detectWord w = (u.putStoredWord w (u.storedWord w ^^^ (1#64 <<< i))).logWord 0x01 w syn.toNat) ∧
          (columnOf syn 65 = none → s.detectWord w = spoilt u syn))) ∧
      (∀ syn, given = none → arose = some (w, syn) → s.detectWord w =
        if correctable syn then v.logWord 0x01 w syn.toNat else spoilt v syn) ∧
      ∀ x syn, bit x.dev.elctl 63 = false → (spoilt x syn).poisonedWord w = true)) ∧
  (∀ (s : State) (mc k e ch dst : Nat) (mesh : Bool), mc < 64 → k < 8 →
     (mc ∉ s.dev.memLost → (mc, k) ∉ s.dev.absent →
       ((∀ x, x ∈ s.dev.spares → x.1 ≠ mc) → ∃ t, exec (.channelRetire mc k) s = .next t ∧ (mc, k) ∈ t.dev.spares ∧
         t.dev.absent = s.dev.absent ∧
         (bit s.dev.elctl 63 = false → s.dev.feWait = [] → t.fib = s.fib ∧ ∀ w, isDram (8 * w) = true → memChip (8 * w) = mc → channelOf (8 * w) = k →
           t.poisonedWord w = true ∧ t.emptyWord w = false ∧ memRead t.dev.mem (8 * w) = 0)) ∧
       (∀ x, x ∈ s.dev.spares → x.1 = mc → ∃ t, exec (.channelRetire mc k) s = .next t ∧ t.dev.absent = (mc, k) :: s.dev.absent ∧
         t.dev.spares = s.dev.spares ∧ ∀ pa, isDram pa = true → memChip pa = mc → channelOf pa = k → t.absentPa pa = true)) ∧
     (mc ∉ s.dev.memLost → ∃ t, exec (.memoryChipletLoss mc) s = .next t ∧ t.dev.memLost = mc :: s.dev.memLost ∧ t.dev.mem = s.dev.mem ∧
       (∀ i, i < 8 → (t.coreAt (1024 + 8 * mc + i)).status = .dead) ∧ ∀ pa, isDram pa = true → memChip pa = mc → t.absentPa pa = true) ∧
     (mc ∈ s.dev.memLost → exec (.channelRetire mc k) s = .next s ∧ exec (.memoryChipletLoss mc) s = .next s) ∧
     (e < 8 → ∃ t, exec (.edgeIoChipletLoss e) s = .next t ∧ (∀ x, x ∈ t.dev.edgeLost ↔ x = e ∨ x ∈ s.dev.edgeLost) ∧ t.fib = s.fib ∧
       t.dev.mem = s.dev.mem) ∧
     (ch < 256 → (mesh, ch, dst) ∉ s.dev.bondLost → ∃ t, exec (.routerOrBondLoss mesh ch dst) s = .next t ∧
       t.dev.bondLost = (mesh, ch, dst) :: s.dev.bondLost ∧ t.fib = s.fib ∧ t.dev.mem = s.dev.mem) ∧
     (ch < 256 → (s.chipAt ch).state = 6 → exec (.chipletLoss ch) s = .next (s.endLoss ch)) ∧
     (ch < 256 → (s.chipAt ch).state ≠ 6 → ∃ t, exec (.chipletLoss ch) s = .next t ∧ (t.chipAt ch).state = 6 ∧ (t.chipAt ch).copies = [] ∧
       (t.chipAt ch).tlb = [] ∧ (t.chipAt ch).cursors = []) ∧
     (let waiting := s.dev.losing.find? fun e => e.1 == ch
      (waiting = none → s.endLoss ch = s) ∧
      (∀ n, waiting = some (ch, n) →
        let held := s.undelivered ch n = true ∨ s.dev.updates ≠ [] ∨ s.behindAny = true
        let u := (coresOf ch).foldl State.rebindLost (s.setDev fun d => { d with losing := d.losing.filter fun e => e.1 != ch })
        (held → s.endLoss ch = s) ∧ (¬held → s.endLoss ch = if u.dev.hgbase = 0 then u else u.ungroup ch))))

/-! ## Launches and the device -/

/-- R409, R426, R427: the instructions of launch queues. `launch` gives all ones where the ring is full, and reads nothing then; else it
copies its 64-byte record into the ring at TAIL, which rises by one and becomes full, and gives the record's number. `lch.stat` gives
the state and status of a launch of the same address space, or 0. `ckpt` writes the fibre's image and clears its dirty marks; that the
image has the address of the next instruction is assumption 48 (DEDUCED). `lq.set` enables a queue with what its descriptor holds, or
disables it. `lch.abort` ends a launch with status 2 while a grid-stall fault is outstanding, else 3, with the reasons 0x15 and 0 of
assumption 48; `lch.resume` places each relocated skein on the core that took its number, and one without room there stays as it is
(assumption 48). R410, R412, R413, R458: the doorbell takes TAIL, which becomes empty, stops a queue whose TAIL is out of range, and has
the wait counters read again; the next record is accepted with the next free launch identifier, HEAD rises by one, and the launch waits
or is refused with status 1. -/
def Obligations.LaunchQueues : Prop :=
  (∀ (s t u w : State) (d a b : GReg) (ps : List Piece) (rec_ : List Byte) (l : Launch), Room s 1 → FullG s a → FullG s b → FreeG s d →
     let qn := bits (s.g b) 0 4
     let q := s.queue qn
     (bits (s.g b) 4 60 = 0 → (s.g a).toNat % 64 = 0 → q.en = true → (s.fib.sup = true ∨ q.uen = true) → q.asid = s.fib.asid →
       s.release 6 = .ok t →
       let i := t.descWord qn 24
       (2 ^ q.rl ≤ i - q.head → exec (.launch d a b) s = wrote t d (BitVec.allOnes 64) 1) ∧
       (i - q.head < 2 ^ q.rl → t.access t.accLoad (s.g a) 64 false = .ok (u, ps) → u.ownFirst false ps = .ok w →
         ∀ v, w.loadPieces false ps = .ok (v, rec_) →
         let x := v.agentWrite q.asid (q.ring + 64 * (i % 2 ^ q.rl)) rec_
         let x := (x.putDesc qn 24 (i + 1)).makeFull ((q.pa + 24) / 8)
         exec (.launch d a b) s = landed (setG x d (BitVec.ofNat 64 i)) (x.parksFor ps) 1)) ∧
     (bits (s.g a) 12 52 = 0 →
       (s.launch? (s.g a).toNat = none → exec (.lchStat d a) s = wrote s d 0 1) ∧
       (s.launch? (s.g a).toNat = some l →
         (l.asid ≠ s.fib.asid → exec (.lchStat d a) s = wrote s d 0 1) ∧
         (l.asid = s.fib.asid → (∀ st r, l.state ≠ .ended st r) →
           exec (.lchStat d a) s = wrote s d (BitVec.ofNat 64 l.state.code) 1) ∧
         (∀ st r, l.asid = s.fib.asid → l.state = .ended st r → st < 256 →
           exec (.lchStat d a) s = wrote s d (BitVec.ofNat 64 (6 + 256 * st)) 1))) ∧
     (s.fib.guest = false → settled s = .ok () → s.fib.anyPending = false →
       (s.fib.evf = true → s.skein.anyPending = false) → s.myLaunch = some l → s.release 6 = .ok t →
       exec .ckpt s = .next (retire ((t.saveFibre l { t.fib with pc := t.fib.pc + 4 } t.skein).setFib fun f =>
         { f with dirty := Vector.replicate 48 false }) 1)) ∧
     (s.fib.sup = true →
       (s.g b = 0 → exec (.lqSet a b) s = .next (retire (s.onQueue (bits (s.g a) 0 4) fun x => { x with en := false }) 1)) ∧
       (∀ leaf pa x v m, s.g b ≠ 0 → (s.g b).toNat % 64 = 0 → (s.g b).toNat < 2 ^ 57 →
         s.check { s.accLoad with store := true } (s.g b).toNat = .ok (t, leaf, pa) → isDram pa = true → bit leaf 5 = true →
         let p : Piece := { pa := pa, va := (s.g b).toNat, len := 64, leaf := leaf }
         t.pieceHome p = .ok x → t.ownFirst true [p] = .ok u → u.loadPieces true [p] = .ok (v, m) → descriptorGood m = true →
         exec (.lqSet a b) s = .next (retire (v.onQueue (bits (s.g a) 0 4) fun _ =>
           { en := field m 10 1 % 2 == 1, pa := pa, ring := field m 0 8, rl := field m 8 1, pmax := field m 9 1
             uen := field m 10 1 / 2 % 2 == 1, sup := field m 10 1 / 4 % 2 == 1, cl := field m 11 1, asid := field m 12 2
             head := field m 16 8, tail := field m 16 8, cring := field m 32 8, ctail := field m 40 8, badHead := none
             stopped := false, served := (v.queue (bits (s.g a) 0 4)).served }) 1)) ∧
       ((s.liveLaunch? (s.g a).toNat) = none → exec (.lchAbort a) s = .next (retire s 1) ∧ exec (.lchResume a) s = .next (retire s 1)) ∧
       (∀ m, s.liveLaunch? (s.g a).toNat = some m → exec (.lchAbort a) s =
         .next ((retire s 1).endLaunch (s.g a).toNat (if m.stall then 2 else 3) (if m.stall then 0x15 else 0))) ∧
       (∀ m, s.liveLaunch? (s.g a).toNat = some m → m.moved = [] →
         exec (.lchResume a) s = .next (retire (s.settleLaunch m.lid) 1)) ∧
       (∀ m skn k, s.liveLaunch? (s.g a).toNat = some m → m.moved = [skn] → s.skein? m.lid skn = some k →
         (s.fitsBack m k = true → exec (.lchResume a) s = .next (retire ((s.restoreSkein m skn k.core).settleLaunch m.lid) 1)) ∧
         (s.fitsBack m k = false → exec (.lchResume a) s = .next (retire (s.settleLaunch m.lid) 1))))) ∧
  (∀ (s : State) (q : Nat), q < 16 → (s.queue q).en = true →
     let d := s.queue q
     let w := (d.pa + 24) / 8
     let v := s.descWord q 24
     (s.emptyWord w = false → s.poisonedWord w = false → d.stopped = false →
       (d.head ≤ v → v ≤ d.head + 2 ^ d.rl → exec (.launchDoorbell q) s =
         .next (((s.setFull w false).onQueue q fun x => { x with tail := v }).readWaits)) ∧
       ((v < d.head ∨ d.head + 2 ^ d.rl < v) → ∃ t, exec (.launchDoorbell q) s = .next t ∧ (t.queue q).stopped = true ∧
         (t.queue q).tail = d.tail ∧ (t.queue q).head = d.head ∧ t.fib = s.fib)) ∧
     (s.emptyWord w = false → s.poisonedWord w = false → d.stopped = true →
       exec (.launchDoorbell q) s = .next (s.setFull w false).readWaits) ∧
     ((s.emptyWord w = true ∨ s.poisonedWord w = true) → exec (.launchDoorbell q) s = .next s) ∧
     ((d.stopped = true ∨ d.tail ≤ d.head ∨ s.broughtUp = false ∨ s.freeLid = none) → exec (.recordAccept q) s = .next s) ∧
     (∀ lid, d.stopped = false → d.head < d.tail → s.broughtUp = true → s.freeLid = some lid → ∃ t, exec (.recordAccept q) s = .next t ∧
       (t.queue q).head = d.head + 1 ∧ (t.queue q).tail = d.tail ∧ t.dev.lastLid = lid ∧ t.fib = s.fib ∧
       ∃ l, l ∈ t.dev.launches ∧ l.lid = lid ∧ l.q = q ∧ l.recno = d.head ∧ l.asid = d.asid ∧
         l.record = (s.agentDetect d.asid (d.ring + 64 * (d.head % 2 ^ d.rl)) 64).agentRead d.asid (d.ring + 64 * (d.head % 2 ^ d.rl)) 64 ∧ l.prio ≤ d.pmax ∧
         (l.state = .waiting ∨ ∃ r, l.state = .ended 1 r)))

/-- R414, R415, R417: the launch that comes first among those that may be admitted is admitted, a cooperative one placed whole; the next
skein of a launch is placed on the first core of its set with room, and none is placed where there is no room, where it is not the
next, before admission, where another launch takes the room first, or back while a launch of higher priority waits. Who takes the room
of whom is assumption 47 (DEDUCED). A launch that finds no room pre-empts one skein of a launch of lower priority on a core of its set,
which is checkpointed where it can stop and else is asked to: one skein at each step, with a request to stop, is assumption 49 (DEDUCED).
One that fits or wants nothing pre-empts nobody. R415, R336: the first placement of a skein gives it a fibre 0 at ENTRY on the core, with
its skein number in g0, ARGS in g7, every other register 0 and full, PREC and the window of the launch. -/
def Obligations.Placement : Prop :=
  (∀ (s : State) (l : Launch) (skn : Nat), s.launch? l.lid = some l →
     (s.admissible l = false → exec (.launchAdmission l.lid) s = .next s) ∧
     (s.admissible l = true → s.heldBack l = false → (l.coop = true → s.roomPromised l = false) →
       let t := (((s.setDev fun d => { d with admitted := d.admitted + 1 }).onQueue l.q fun q =>
         { q with served := s.dev.admitted + 1 }).onLaunch l.lid fun x =>
           { x with state := .placing, order := s.dev.admitted + 1, since := s.dev.writes })
       (l.coop = false → exec (.launchAdmission l.lid) s = .next (t.settleLaunch l.lid)) ∧
       (∀ u, l.coop = true → t.placeAll l.lid l.nsk = some u → exec (.launchAdmission l.lid) s = .next (u.settleLaunch l.lid))) ∧
     ((s.heldBack l = true ∨ (l.coop = true ∧ s.roomPromised l = true)) → exec (.launchAdmission l.lid) s = .next s) ∧
     (s.heldBack l = true ↔ ∃ x ∈ s.dev.launches, x.lid ≠ l.lid ∧ x.state = .waiting ∧ x.ready = true ∧ s.before x l = true ∧
       (l.prio < x.prio ∨ x.q = l.q ∨ s.admissible x = true)) ∧
     (∀ x ∈ s.dev.launches, x.lid ≠ l.lid → x.live = true → x.state ≠ .waiting → l.prio < x.prio →
       (∀ n, x.coop = false → x.nextSkein = some n → (s.coreFor x n).isSome = true → s.roomPromised l = true) ∧
       (x.coop = true → 0 < x.unplaced → (s.placeAll x.lid x.unplaced).isSome = true → s.roomPromised l = true)) ∧
     ((l.live = false ∨ l.state = .waiting ∨ l.nextSkein ≠ some skn ∨ s.roomPromised l = true ∨
       (l.stored skn = true ∧ s.higherWaits l = true)) → exec (.skeinPlacement l.lid skn) s = .next s) ∧
     (l.live = true → l.state ≠ .waiting → l.nextSkein = some skn → s.roomPromised l = false → l.coop = false → l.stored skn = false →
       (s.coreFor l skn = none → exec (.skeinPlacement l.lid skn) s = .next s) ∧
       (∀ core, s.coreFor l skn = some core → exec (.skeinPlacement l.lid skn) s =
         .next ((s.placeFirst l skn core).settleLaunch l.lid))) ∧
     (l.live = true → l.state ≠ .waiting → l.nextSkein = some skn → s.roomPromised l = false → l.coop = false → l.stored skn = true →
       s.higherWaits l = false → ∀ core, s.coreFor l skn = some core → exec (.skeinPlacement l.lid skn) s =
         .next ((s.restoreSkein l skn core).settleLaunch l.lid)) ∧
     (l.live = true → l.state ≠ .waiting → l.nextSkein = some skn → s.roomPromised l = false → l.coop = true →
       (l.stored skn = true → s.higherWaits l = false) →
       (s.placeAll l.lid l.unplaced = none → exec (.skeinPlacement l.lid skn) s = .next s) ∧
       (∀ u, s.placeAll l.lid l.unplaced = some u → exec (.skeinPlacement l.lid skn) s = .next (u.settleLaunch l.lid))) ∧
     ((s.lacksRoom l = false ∨ s.victim l = none) → exec (.preemption l.lid) s = .next s.letGo) ∧
     (∀ v k, s.lacksRoom l = true → s.victim l = some (v, k) →
       exec (.preemption l.lid) s = .next (s.preempt v (if v.coop then s.residents v.lid else [k]))) ∧
     ((l.live = false ∨ (l.state = .waiting ∧ l.ready = false) ∨ (l.state ≠ .waiting ∧ l.unplaced = 0)) → s.lacksRoom l = false) ∧
     (l.live = true → l.state = .waiting → l.ready = true → l.coop = false → l.nextSkein = some skn →
       s.lacksRoom l = (s.coreFor l skn).isNone) ∧
     (∀ v k, s.victim l = some (v, k) → v ∈ s.dev.launches ∧ v.prio < l.prio ∧ v.live = true ∧ k ∈ s.residents v.lid ∧
       k.core ∈ (s.placementSet l).map fun p => p.2) ∧
     (∀ k, (s.canStop l k = true → s.preempt l [k] = ((s.checkpointSkein l k ckptState).onLaunch l.lid fun x =>
         { x with evicted := setIns k.skn x.evicted }).settleLaunch l.lid) ∧
       (s.canStop l k = false → s.preempt l [k] = s.askStop k))) ∧
  (∀ (s : State) (l : Launch) (skn core : Nat),
     let t := s.placeFirst l skn core
     ∃ f, t.fibres = s.fibres ++ [f] ∧ f.id = { lid := l.lid, skn := skn, fix := 0 } ∧ f.live = true ∧ f.home = core ∧ f.at_ = core ∧
       f.homeEntry = s.freeHome core ∧ f.pc = (BitVec.ofNat 64 l.entry &&& 0xFFFFFFFFFFFFFFFC#64) ∧
       f.bank.val.getD 0 0 = BitVec.ofNat 64 skn ∧ f.bank.val.getD 7 0 = BitVec.ofNat 64 l.args ∧
       (∀ i, 0 < i → i < 7 → f.bank.val.getD i 0 = 0) ∧ (∀ i, i < 8 → f.bank.fill.getD i 0 = Fill.full) ∧ f.prec = l.prec ∧
       f.winSize = l.win ∧ f.nv = l.nv ∧ f.asid = l.asid ∧ f.sup = l.sup ∧ f.evf = true ∧ f.guest = false)

/-- R381, R413, R416, R348, R423, R424: completion, stalled grids and hung cores. A launch with a result and nothing on its way signals
once, which fixes the tick of its record; the record is written, or held while the ring is full or an earlier record of its queue is
held, and the launch is removed once it is written. A stalled grid that may be evicted gives up a skein until its next one fits; another
takes the grid-stall fault on the event fibre of its lowest skein. A core with a ready fibre that retired nothing for 2^20 clocks is
fenced, what its write-through buffer held is discarded, and it is recovered once what it injected has completed. How a recovery goes and
what counts as drained is assumption 34, that a misaligned or poisoned signal word fails is assumption 48, and that a skein is asked to
stop is assumption 49 (all DEDUCED). -/
def Obligations.LaunchEnds : Prop :=
  ∀ (s : State) (l : Launch) (q p : Nat),
    (s.launch? l.lid = some l →
      (l.result = none → exec (.launchCompletion l.lid) s = .next s) ∧
      ((l.held = true ∨ s.busyLaunch l.lid = true ∨ s.behindAny = true) → exec (.launchCompletion l.lid) s = .next s) ∧
      (∀ st r, l.result = some (st, r) → l.held = false → s.busyLaunch l.lid = false → s.behindAny = false →
        exec (.launchCompletion l.lid) s = .next (s.complete l st r)) ∧
      (s.stalled l = false → exec (.gridStall l.lid) s = .next s) ∧
      (∀ k f, s.stalled l = true → l.evic = false → s.residents l.lid = [k] → (s.fibresOf l.lid k.skn).find? Fibre.evf = some f →
        exec (.gridStall l.lid) s = .next (raise (((((s.forgetWaits fun id => id == f.id).onFibre f.id fun x =>
          { x with park := none }).focus f.id).onLaunch l.lid fun x => { x with stall := true })) 0x15 0 (BitVec.ofNat 64 l.lid) false)) ∧
      (s.stalled l = true → l.evic = true → s.nextFits l = true → exec (.gridStall l.lid) s = .next s) ∧
      (∀ k, s.stalled l = true → l.evic = true → s.nextFits l = false → s.residents l.lid = [k] → s.canStop l k = false →
        exec (.gridStall l.lid) s = .next (s.askStop k)) ∧
      (∀ k, s.stalled l = true → l.evic = true → s.nextFits l = false → s.residents l.lid = [k] → s.canStop l k = true →
        exec (.gridStall l.lid) s = .next (((s.checkpointSkein l k ckptState).onLaunch l.lid fun x =>
          { x with late := setIns k.skn x.late }).settleLaunch l.lid))) ∧
    (s.firstHeld q = none → exec (.completionRingRecheck q) s = .next s) ∧
    (∀ st r, s.firstHeld q = some l → l.result = some (st, r) → exec (.completionRingRecheck q) s = .next (s.complete l st r)) ∧
    (∀ st r, l.signalled = false →
      let g := s.quiet.signal l
      let m : Launch := { l with signalled := true, state := .ended st (if g.2 || st == 1 then r else 6), done := some (s.dev.ticks, s.ctr) }
      s.complete l st r =
        (g.1.onLaunch l.lid fun x => { x with signalled := true, state := m.state, done := m.done }).complete m st r) ∧
    (∀ st r, l.signalled = true → l.state = .ended st r →
      let d := s.queue l.q
      let chead := s.descWord l.q 48
      let before := ∃ x ∈ s.dev.launches, x.q = l.q ∧ x.held = true ∧ x.lid ≠ l.lid ∧ x.doneBefore l = true
      let keep (t : State) := if l.held then t else (t.logQueue l.q l.recno).onLaunch l.lid fun x => { x with held := true }
      (before → s.complete l st r = keep s) ∧
      (¬before → chead ≤ d.ctail → d.ctail - chead < 2 ^ d.cl →
        let b := bytesOf 2 l.lid ++ bytesOf 1 st ++ bytesOf 1 r ++ bytesOf 4 l.recno ++ bytesOf 8 ((l.done.map Prod.fst).getD s.dev.ticks)
        let t := ((s.agentWrite d.asid (d.cring + 16 * (d.ctail % 2 ^ d.cl)) b).putDesc l.q 40 (d.ctail + 1)).onQueue l.q fun x =>
          { x with ctail := x.ctail + 1, badHead := none }
        s.complete l st r = (t.setDev fun v => { v with launches := v.launches.filter fun x => x.lid != l.lid }) ∧
        ∀ x ∈ (s.complete l st r).dev.launches, x.lid ≠ l.lid) ∧
      (¬before → chead ≤ d.ctail → 2 ^ d.cl ≤ d.ctail - chead → s.complete l st r = keep s) ∧
      (¬before → d.ctail < chead → s.complete l st r = keep (if d.badHead = some chead then s
        else (s.logQueue l.q l.recno).onQueue l.q fun x => { x with badHead := some chead }))) ∧
    (l.sigc = 0 → s.signal l = (s, true)) ∧
    (l.sigc ≠ 0 → (s.agentOk l.asid l.sigc true = false ∨ l.sigc % 8 ≠ 0 ∨ s.agentBad l.asid l.sigc 8 = true) →
      s.signal l = (s.logQueue l.q l.recno, false)) ∧
    (l.sigc ≠ 0 → s.agentOk l.asid l.sigc true = true → l.sigc % 8 = 0 → s.agentBad l.asid l.sigc 8 = false →
      s.signal l = ((s.agentPut l.asid l.sigc (s.agentWord l.asid l.sigc - 1)).readWaits, true)) ∧
    (let core := coreOfPos p
      let late := s.clocksSince (chipNum core) (s.coreAt core).lastRetire (2 ^ 20)
      ((∀ e ∈ s.dev.recover, e.core ≠ core) →
        (∀ f ∈ s.allFibres, f.at_ = core → f.park = none → f.travel = none → late = true →
          exec (.hungCore p) s = .next (s.startRecovery core 0x17 0)) ∧
        (late = false ∨ (∀ f ∈ s.allFibres, f.at_ = core → f.park ≠ none ∨ f.travel ≠ none) → exec (.hungCore p) s = .next s)) ∧
      (∀ e, (s.dev.recover.find? fun e => e.core == core) = some e →
        (s.coreDrained e = false → exec (.hungCore p) s = .next s) ∧
        (s.coreDrained e = true → exec (.hungCore p) s = .next (s.endRecovery e))) ∧
      (s.coreLive core = true → s.recovering core = false → ∀ why sub,
        ((s.startRecovery core why sub).coreAt core).status = .fenced ∧ ((s.startRecovery core why sub).coreAt core).wtb = [] ∧
        ∃ e ∈ (s.startRecovery core why sub).dev.recover, e.core = core ∧ e.reason = why ∧ e.sub = sub))

/-- R454 to R458: the frequency step changes at its tick, which a chiplet reads as done once its own counter is there, and a chiplet whose
counter was there earlier keeps its clocks. A stretch comes at most once in 16 periods, and nothing changes but that packets at a
crossing may move to a later frame. The first sync pulse starts the count; each later one comes when 2^20 ticks have passed, and lets no
time base fall back. Power-on brings every chiplet to OFF with every register at reset, and keeps what is lost: that DRAM then lists
nothing is assumption 1, and that losses outlast a power-on is assumption 37 (both DESIGN CHOICE). Bring-up takes a chiplet to its next
state once its neighbours nearer the edge have reached it and what that state waits for is there (assumptions 38 and 39, DEDUCED). -/
def Obligations.DeviceSteps : Prop :=
  ∀ (s : State) (ch : Nat), ch < 256 →
    (s.dev.stepAt = none → s.freq = wordOf [(0, 4, s.dev.step)] ∧ exec .freqStepChange s = .next s) ∧
    (∀ n, s.dev.stepAt = some n →
      (s.now < n → s.freq = wordOf [(4, 1, 1), (0, 4, s.dev.step)]) ∧ (n ≤ s.now → s.freq = wordOf [(0, 4, s.dev.stepTarget)]) ∧
      (s.dev.ticks < n → exec .freqStepChange s = .next s) ∧
      (n ≤ s.dev.ticks → exec .freqStepChange s = .next ((s.allChips fun c => { c with lead := c.lead + s.leadNow c.num }).setDev fun d =>
        { d with step := d.stepTarget, stepAt := none }))) ∧
    (let due := (s.chipAt ch).stretched = 0 ∨ s.clocksSince ch ((s.chipAt ch).stretched - 1) 16 = true
     (¬due → exec (.clockStretch ch) s = .next s) ∧
     (due → ∃ t, exec (.clockStretch ch) s = .next t ∧ t.fib = s.fib ∧ (t.chipAt ch).stretched = s.clkAt ch + 1 ∧
       t.dev.packets.length = s.dev.packets.length ∧ ∀ (i : Nat) (p : Packet), s.dev.packets[i]? = some p → t.dev.packets[i]? = some p ∨
         (p.crossing ch = true ∧ t.dev.packets[i]? = some { p with ready := p.ready + 4096 * p.slotLen }))) ∧
    (s.dev.pulse = none → exec .syncPulse s = .next (s.setDev fun d => { d with pulse := some (d.ticks + 2 ^ 20) })) ∧
    (∀ n, s.dev.pulse = some n → (s.dev.ticks < n → exec .syncPulse s = .next s) ∧
      (n ≤ s.dev.ticks → ∃ t, exec .syncPulse s = .next t ∧ t.fib = s.fib ∧ t.dev = { s.dev with pulse := some (n + 2 ^ 20) } ∧
        ∀ c, s.wtick c ≤ t.wtick c ∧ ((s.chipAt c).state = 0 → t.chipAt c = s.chipAt c) ∧
          ((s.chipAt c).state ≠ 0 → (t.chipAt c).skew < 3))) ∧
    (∃ t, exec .powerOn s = .next t ∧ t.fib.live = false ∧ t.fibres = [] ∧ t.skeins = [] ∧ t.dev.launches = [] ∧ t.dev.mem = [] ∧
      t.dev.pulse = none ∧ (∀ n, (t.chipAt n).state = 0) ∧ t.dev.memLost = s.dev.memLost ∧ t.dev.edgeLost = s.dev.edgeLost ∧
      t.dev.grade = s.dev.grade ∧ t.dev.absent = s.dev.absent ∧ t.dev.spares = s.dev.spares ∧ t.dev.bondLost = s.dev.bondLost ∧
      ∀ m ∈ s.dev.memLost, ∀ i < 8, t.coreLive (1024 + 8 * m + i) = false) ∧
    (let next := (s.chipAt ch).state + 1
     let ready := s.dev.powered = true ∧ next ≤ 5 ∧ s.rimReady ch next = true ∧ s.setUpFor ch next = true
     (¬ready → exec (.bringupAdvance ch) s = .next s) ∧
     (ready → ∃ t, exec (.bringupAdvance ch) s = .next t ∧ (t.chipAt ch).state = next ∧ t.fib = s.fib) ∧
     (s.setUpFor ch 1 = true ↔ s.dev.pulse ≠ none ∧ Config.depth ch ≤ s.dev.ticks) ∧
     (s.setUpFor ch 4 = true ↔ ch / 4 ∈ s.dev.dramSet ∨ ch / 4 ∈ s.dev.memLost))

/-- R20, R382, R460 to R463: RDMA and firmware. Without an edge I/O chiplet, on a queue pair that firmware did not set up, or where none
reaches the homes of the bytes, nothing answers (assumption 12 says which one carries an access). A refused access is logged and
answered by a NAK; a write into a hallmark region requests a capture, another stores its bytes block by block and is acknowledged; a read
returns bytes at their homes; another opcode is answered by a NAK. A nonce of up to 64 bytes is answered by a report of what R463 lists,
with its signature. A key fills one of 4096 slots once the steps of R69 for it are complete, and takes their completion with it
(assumptions 40 and 41, DEDUCED). -/
def Obligations.RdmaAndFirmware : Prop :=
  ∀ (s : State) (qp op len slot : Nat) (rkey : BitVec 32) (va : Word) (data nonce : List Byte) (key : BitVec 512),
    let b := s.registration rkey.toNat
    let asid := field b 16 2
    ((s.edgeFor [] = none ∨ s.queuePair qp = false) → exec (.rdmaWrite qp rkey va data) s = .next s ∧ exec (.rdmaRead qp rkey va len) s = .next s ∧
      exec (.rdmaInvalidOpcode qp op) s = .next s) ∧
    (s.queuePair qp = true ↔ ∃ q ∈ s.dev.qps, q.num = qp) ∧
    (∀ e, s.edgeFor [] = some e → s.queuePair qp = true →
      (∀ r, s.rdmaRefusal rkey.toNat va.toNat data.length true = some r →
        exec (.rdmaWrite qp rkey va data) s = .next (s.rdmaRefuse e qp rkey.toNat r)) ∧
      (∀ r, s.rdmaRefusal rkey.toNat va.toNat len false = some r →
        exec (.rdmaRead qp rkey va len) s = .next (s.rdmaRefuse e qp rkey.toNat r)) ∧
      (s.rdmaRefusal rkey.toNat va.toNat data.length true = none → (field b 18 1).testBit 3 = true →
        exec (.rdmaWrite qp rkey va data) s = .next ((s.trigger 2).answer (.ack qp))) ∧
      (s.rdmaRefusal rkey.toNat va.toNat data.length true = none → (field b 18 1).testBit 3 = false →
        (s.edgeFor (s.rdmaHomes asid va.toNat data.length) = none → exec (.rdmaWrite qp rkey va data) s = .next s) ∧
        (∀ x, s.edgeFor (s.rdmaHomes asid va.toNat data.length) = some x →
          (∃ t : State, exec (.rdmaWrite qp rkey va data) s = .next (t.answer (.ack qp))) ∧
          (data ≠ [] → va.toNat % 64 + data.length ≤ 64 → exec (.rdmaWrite qp rkey va data) s =
            .next ((s.rdmaBlock asid va.toNat data (data.length == 8)).answer (.ack qp))))) ∧
      (s.rdmaRefusal rkey.toNat va.toNat len false = none →
        (s.edgeFor (s.rdmaHomes asid va.toNat len) = none → exec (.rdmaRead qp rkey va len) s = .next s) ∧
        (∀ x, s.edgeFor (s.rdmaHomes asid va.toNat len) = some x →
          let t := s.agentDetect asid va.toNat len
          exec (.rdmaRead qp rkey va len) s = .next (t.answer
            (.data qp ((List.range len).map fun i => t.rdmaByte asid (va.toNat + i)))))) ∧
      exec (.rdmaInvalidOpcode qp op) s = .next (s.answer (.nakInvalid qp))) ∧
    (64 < nonce.length → exec (.attestationRequest nonce) s = .next s) ∧
    (nonce.length ≤ 64 → ∃ r : Report, exec (.attestationRequest nonce) s =
        .next (s.setDev fun d => { d with reports := d.reports ++ [r] }) ∧
      r.part = Config.partNumber ∧ r.grade = s.dev.grade ∧ r.serial = Config.serialNumber ∧ r.firmware = Config.firmwareDigests ∧
      r.map = Config.mapDigest (s.homeBytes (s.mapAt 0) 8192) ∧ r.epoch = s.dev.cmapepoch ∧ r.nonce = nonce ∧
      r.signature = Config.signature r.body) ∧
    (slot < 4096 → slot ∈ s.dev.purge.complete → ∃ t, exec (.keySlotLoad slot key) s = .next t ∧ t.key slot = key ∧
      (∀ i, i ≠ slot → t.key i = s.key i ∧ (i ∈ t.dev.purge.complete ↔ i ∈ s.dev.purge.complete)) ∧ slot ∉ t.dev.purge.complete ∧
      t.dev.mem = s.dev.mem) ∧
    ((4096 ≤ slot ∨ slot ∉ s.dev.purge.complete) → exec (.keySlotLoad slot key) s = .next s)

/-! ## The whole machine -/

/-- R126, R128, R136, R137, R138, R140, R428, R429, R440, R442, R458: what reset leaves, of the values that the manual's register tables
give. -/
def Obligations.ResetState : Prop :=
  let s := State.reset
  (∀ r, r < 8 → s.fib.bank.fill.getD r 0 = Fill.full) ∧ s.fib.bank.gstate = 0 ∧ s.fib.trap.tcause = 0 ∧ s.fib.flive = 0 ∧
  s.fib.rgn.act = false ∧ s.fib.rpt.act = false ∧ s.fib.updout = 0 ∧ s.fib.inev = false ∧ s.fib.tokens.word = 0 ∧ s.skein.skmap = 0 ∧
  s.dev.elctl = 0 ∧ s.dev.eltail = 0 ∧ s.dev.elhead = 0 ∧ s.dev.hmctl = 0 ∧ s.dev.hmmask = 0 ∧ s.dev.cmapepoch = 0 ∧
  (∀ ch, ch < 256 → (s.chipAt ch).state = 0) ∧ s.allFibres = [] ∧ s.dev.launches = []

/-- R149, R152, R154: words of the manual's examples decode to the instructions that they stand for. -/
def Obligations.DecodeWords : Prop :=
  decodeTableWord 32 0xF2180007 = some (.trap 3 7) ∧ decodeTableWord 32 0xF2000100 = some .tret ∧
  decodeTableWord 32 0x23C000C0 = some (.jal 7 0xC0) ∧ decodeTableWord 32 0x25D80100 = some (.jalr 7 3) ∧
  decodeTableWord 32 0x24380200 = some (.ret 7) ∧ decodeTableWord 32 0x30530000 = some (.spawn 1 2 3) ∧
  decodeTableWord 64 0x24190600EA000004 = some (.strSend 0 0 4 0 0 9 100 0 3) ∧
  decodeTableWord 32 0 = none

/-- R149 to R172: decoding gives back every well-formed instruction from the words that encode it, with every operand. -/
def Obligations.EncodeDecode : Prop :=
  ∀ (i : Instr) (w : BitVec 32) (e : Option (BitVec 32)), i.wf = true → encode i = some (w, e) → decode w (e.getD 0) = .ok i

/-- R172: decoding gives only well-formed instructions, and never a step of an agent, which no word encodes. R172, R173: words that
decode to nothing raise the illegal-instruction trap with the subcause; the all-zero word has subcause 0. R162: in the capture of a
repeat body a word that R162 refuses closes the frame, and traps with subcause 6. -/
def Obligations.DecodeRefuses : Prop :=
  (∀ (x e : BitVec 32) (i : Instr), decode x e = .ok i → i.wf = true ∧ (encode i).isSome = true) ∧
  (∀ (s : State) (x y : BitVec 32), decode 0 y = .error 0 ∧
     (∀ c, decode x y = .error c → c ≤ 6 ∧
       (¬(c = 6 ∧ s.fib.rpt.refuses x y = true) → issueWords s x y = .next (raise (s.setFetched x y) 0x01 c (y ++ x) false))) ∧
     (∀ i, s.fib.rpt.refuses x y = true → (decode x y = .ok i ∨ decode x y = .error 6) → issueWords s x y = .next (raise
       ((s.setFetched x y).setFib fun f => ({ f with rpt := f.rpt.close } : Fibre).touch Dirty.rpt) 0x01 6 (y ++ x) false)))

/-- R149, R150, R162, R172, R253, R333, R439: a step at which the fibre in focus may issue first performs the parts of its stores to its
own scratchpad (R374), then fetches the words at its PC, or takes those with which it stands in a service queue (R272), and executes
the instruction they decode to, which its check may repeat or undo, and just it where no check fails; in the first iteration of a
repeat body it captures them, later it replays captured ones; refused words and faults of the fetch trap, and words that R162 refuses
close the frame first; a fetch that finds no walker parks. At the turn of the rest of the module an agent takes a step. The turns are
the model's choice (assumption 7), and so is where `withFetchWord` places an instruction (assumption 13). -/
def Obligations.StepRuns : Prop :=
  ∀ (s t : State) (x y : BitVec 32) (i : Instr),
    (s.turn = .issue → s.canIssue s.fib = true →
      let v := s.takeSlot.settleLocal
      (v.fib.rpt.inBody = true → 0 < v.fib.rpt.iter → step s = onNext State.afterIssue
        (checked (v.fib.rpt.words.getD v.fib.rpt.pos (0, 0)).1 v (exec .repeatReplay))) ∧
      ((v.fib.rpt.inBody = false ∨ v.fib.rpt.iter = 0) →
        ((v.queuedWords = some (x, y) ∧ t = v) ∨ (v.queuedWords = none ∧ v.fetch v.fib.pc = (t, .ok (x, y))) →
          let u := t.setFetched x y
          let closed := u.setFib fun f => ({ f with rpt := f.rpt.close } : Fibre).touch Dirty.rpt
          (∀ c, decode x y = .error c → ¬(c = 6 ∧ t.fib.rpt.refuses x y = true) →
            step s = onNext State.afterIssue (exec (.illegalInstruction x y c) u)) ∧
          (t.fib.rpt.refuses x y = true → (decode x y = .ok i ∨ decode x y = .error 6) →
            step s = onNext State.afterIssue (exec (.illegalInstruction x y 6) closed)) ∧
          (decode x y = .ok i → t.fib.rpt.refuses x y = false →
            (t.fib.rpt.inBody = false → step s = onNext State.afterIssue (checked x u (exec i)) ∧
              (t.upset = 0 → step s = onNext State.afterIssue (exec i u))) ∧
            (t.fib.rpt.inBody = true → step s = onNext State.afterIssue (checked x (u.setFib fun f =>
              ({ f with rpt := { f.rpt with words := t.fib.rpt.capture x y } } : Fibre).touch Dirty.rpt) (exec i))))) ∧
        (∀ code sub val, v.queuedWords = none → v.fetch v.fib.pc = (t, .error (.trap code sub val)) →
          step s = onNext State.afterIssue (exec (.instructionFetchFault code sub val) t)) ∧
        (∀ p, v.queuedWords = none → v.fetch v.fib.pc = (t, .error (.park p)) → step s = .next (parkAs t p).afterIssue) ∧
        (∀ e, v.queuedWords = none → v.fetch v.fib.pc = (t, .error (.hole e)) → step s = .fault e))) ∧
    (s.turn = .issue → s.canIssue s.fib = false → step s = .next s.afterIssue) ∧
    (t.fib.rpt.refuses x y = true ↔ t.fib.rpt.inBody = true ∧ (bodyMajor x = false ∨ 16 < bodyWords (t.fib.rpt.capture x y))) ∧
    (∀ rest, s.turn = .device → s.sched = i :: rest → ofAgent i = true → s.upset < 2 →
      step s = onNext State.afterDevice (exec i { s with sched := rest })) ∧
    (∀ n w, (s.withFetchWord n w).turn = .issue ∧ (s.withFetchWord n w).upset = 0 ∧ (s.withFetchWord n w).fib.pc = 0x1000#64 ∧
      (s.withFetchWord n w).fib.bank = s.fib.bank)

/-- R126: an instruction whose source is an empty or pending register parks, with nothing changed; one whose source holds a fault
token raises the fault that the token names; R127: a pending destination holds it. R377, R380: the first read of a register that a reply
or a compressing copy filled is an acquire, which empties the L1 before the instruction executes. R12, R126, R147: the frame of an
instruction whose only result is a general register: the other registers, the rest of the fibre, its skein but for the bank that
instructions name, and everything else, memory included, are as before; the PC is the next instruction's. A fibre in a repeat frame goes
on in it. -/
def Obligations.RegisterFrame : Prop :=
  (∀ (s : State) (d a b : GReg), Room s 1 →
     (¬IsFull s a → s.bank.fill.getD a.toNat 0 ≠ Fill.token → exec (.add d a b) s = .next (parkAs s .wait) ∧
       exec (.mov d a) s = .next (parkAs s .wait) ∧ exec (.jr a) s = .next (parkAs s .wait)) ∧
     (IsFull s a → FirstRead s a →
       let t := parkAs ((unmark s a).setCore fun c => { c with l1 := [] }) .retry
       exec (.add d a b) s = .next t ∧ exec (.mov d a) s = .next t ∧ exec (.jr a) s = .next t ∧ FullG t a ∧ t.core.l1 = [] ∧
         t.g a = s.g a ∧ t.fib.pc = s.fib.pc) ∧
     (FullG s a → FullG s b → ¬FreeG s d → exec (.add d a b) s = .next (parkAs s .retry)) ∧
     (s.bank.fill.getD a.toNat 0 = Fill.token → ¬(bits (s.g a) 0 16 = 6 ∧ bits (s.g a) 16 8 = 1) →
       exec (.mov d a) s = .next (raise s (bits (s.g a) 0 16) (bits (s.g a) 16 8) (s.regCode a) false))) ∧
  (∀ (s : State) (d : GReg) (v : Word) (n : Nat),
     let t := retire (setG s d v) n
     SameFibre s.fib t.fib ∧ SameFloat s.fib t.fib ∧ SameModule s t ∧ t.g d = v ∧ FullG t d ∧
     (∀ r, r ≠ d → t.g r = s.g r ∧ (FullG t r ↔ FullG s r)) ∧ (s.fib.rpt.inBody = false → t.fib.pc = s.fib.pc + BitVec.ofNat 64 (4 * n)) ∧
     t.core.wtb = s.core.wtb ∧ t.core.l1 = s.core.l1 ∧ t.core.spools = s.core.spools ∧ t.core.bars = s.core.bars ∧
     (∀ pa, memRead t.dev.mem pa = memRead s.dev.mem pa))

/-- R12, R39: no instruction and no step of an agent is refused, and none stops the machine but by meeting an address that does not
exist: that one stop, Fault.noSuchAddress, is assumption 52 (DEDUCED), since no rule says what such a read gives. -/
def Obligations.EveryInstructionGoesOn : Prop := (∀ (i : Instr) (s : State), GoesOnOrHole (exec i s)) ∧ ∀ s : State, GoesOnOrHole (step s)

/-- R333, R334: at its turn the fibre in focus may issue whenever any fibre may, in every state that a step leads to. The turns and the
fibre in focus are the model's own (assumption 7, DESIGN CHOICE). -/
def Obligations.FocusInvariant : Prop := ∀ s t : State, FocusReady s → step s = .next t → FocusReady t

/-- R333: right after reset no fibre is ready, so that the invariant of issue, on the model's turns and its fibre in focus (assumption 7,
DESIGN CHOICE), holds. -/
def Obligations.FocusAtReset : Prop := FocusReady State.reset
end

