-- ==== Sys2Proof/Laws/State.lean ====
section
/-! SUPPORT. What each update of the state leaves of each field, one lemma per field per update, so that no later proof unfolds a
record update. -/

namespace Sys2Proof.Machine

/-! ## Updates of the whole state -/

@[simp] theorem State.setFib_turn (s : State) (f : Fibre → Fibre) : (s.setFib f).turn = s.turn := rfl
@[simp] theorem State.setFib_sched (s : State) (f : Fibre → Fibre) : (s.setFib f).sched = s.sched := rfl
@[simp] theorem State.setFib_ctr (s : State) (f : Fibre → Fibre) : (s.setFib f).ctr = s.ctr := rfl
@[simp] theorem State.setFib_upset (s : State) (f : Fibre → Fibre) : (s.setFib f).upset = s.upset := rfl
@[simp] theorem State.setFib_walkers (s : State) (f : Fibre → Fibre) : (s.setFib f).walkers = s.walkers := rfl
@[simp] theorem State.setFib_fib (s : State) (f : Fibre → Fibre) : (s.setFib f).fib = f s.fib := rfl
@[simp] theorem State.setFib_fibres (s : State) (f : Fibre → Fibre) : (s.setFib f).fibres = s.fibres := rfl
@[simp] theorem State.setFib_skein (s : State) (f : Fibre → Fibre) : (s.setFib f).skein = s.skein := rfl
@[simp] theorem State.setFib_skeins (s : State) (f : Fibre → Fibre) : (s.setFib f).skeins = s.skeins := rfl
@[simp] theorem State.setFib_core (s : State) (f : Fibre → Fibre) : (s.setFib f).core = s.core := rfl
@[simp] theorem State.setFib_cores (s : State) (f : Fibre → Fibre) : (s.setFib f).cores = s.cores := rfl
@[simp] theorem State.setFib_chip (s : State) (f : Fibre → Fibre) : (s.setFib f).chip = s.chip := rfl
@[simp] theorem State.setFib_chips (s : State) (f : Fibre → Fibre) : (s.setFib f).chips = s.chips := rfl
@[simp] theorem State.setFib_dev (s : State) (f : Fibre → Fibre) : (s.setFib f).dev = s.dev := rfl

@[simp] theorem State.setDev_turn (s : State) (f : Device → Device) : (s.setDev f).turn = s.turn := rfl
@[simp] theorem State.setDev_sched (s : State) (f : Device → Device) : (s.setDev f).sched = s.sched := rfl
@[simp] theorem State.setDev_ctr (s : State) (f : Device → Device) : (s.setDev f).ctr = s.ctr := rfl
@[simp] theorem State.setDev_upset (s : State) (f : Device → Device) : (s.setDev f).upset = s.upset := rfl
@[simp] theorem State.setDev_walkers (s : State) (f : Device → Device) : (s.setDev f).walkers = s.walkers := rfl
@[simp] theorem State.setDev_fib (s : State) (f : Device → Device) : (s.setDev f).fib = s.fib := rfl
@[simp] theorem State.setDev_fibres (s : State) (f : Device → Device) : (s.setDev f).fibres = s.fibres := rfl
@[simp] theorem State.setDev_skein (s : State) (f : Device → Device) : (s.setDev f).skein = s.skein := rfl
@[simp] theorem State.setDev_skeins (s : State) (f : Device → Device) : (s.setDev f).skeins = s.skeins := rfl
@[simp] theorem State.setDev_core (s : State) (f : Device → Device) : (s.setDev f).core = s.core := rfl
@[simp] theorem State.setDev_cores (s : State) (f : Device → Device) : (s.setDev f).cores = s.cores := rfl
@[simp] theorem State.setDev_chip (s : State) (f : Device → Device) : (s.setDev f).chip = s.chip := rfl
@[simp] theorem State.setDev_chips (s : State) (f : Device → Device) : (s.setDev f).chips = s.chips := rfl
@[simp] theorem State.setDev_dev (s : State) (f : Device → Device) : (s.setDev f).dev = f s.dev := rfl

@[simp] theorem State.setCore_turn (s : State) (f : Core → Core) : (s.setCore f).turn = s.turn := rfl
@[simp] theorem State.setCore_sched (s : State) (f : Core → Core) : (s.setCore f).sched = s.sched := rfl
@[simp] theorem State.setCore_ctr (s : State) (f : Core → Core) : (s.setCore f).ctr = s.ctr := rfl
@[simp] theorem State.setCore_upset (s : State) (f : Core → Core) : (s.setCore f).upset = s.upset := rfl
@[simp] theorem State.setCore_walkers (s : State) (f : Core → Core) : (s.setCore f).walkers = s.walkers := rfl
@[simp] theorem State.setCore_fib (s : State) (f : Core → Core) : (s.setCore f).fib = s.fib := rfl
@[simp] theorem State.setCore_fibres (s : State) (f : Core → Core) : (s.setCore f).fibres = s.fibres := rfl
@[simp] theorem State.setCore_skein (s : State) (f : Core → Core) : (s.setCore f).skein = s.skein := rfl
@[simp] theorem State.setCore_skeins (s : State) (f : Core → Core) : (s.setCore f).skeins = s.skeins := rfl
@[simp] theorem State.setCore_core (s : State) (f : Core → Core) : (s.setCore f).core = f s.core := rfl
@[simp] theorem State.setCore_cores (s : State) (f : Core → Core) : (s.setCore f).cores = s.cores := rfl
@[simp] theorem State.setCore_chip (s : State) (f : Core → Core) : (s.setCore f).chip = s.chip := rfl
@[simp] theorem State.setCore_chips (s : State) (f : Core → Core) : (s.setCore f).chips = s.chips := rfl
@[simp] theorem State.setCore_dev (s : State) (f : Core → Core) : (s.setCore f).dev = s.dev := rfl

@[simp] theorem State.setChip_turn (s : State) (f : Chip → Chip) : (s.setChip f).turn = s.turn := rfl
@[simp] theorem State.setChip_sched (s : State) (f : Chip → Chip) : (s.setChip f).sched = s.sched := rfl
@[simp] theorem State.setChip_ctr (s : State) (f : Chip → Chip) : (s.setChip f).ctr = s.ctr := rfl
@[simp] theorem State.setChip_upset (s : State) (f : Chip → Chip) : (s.setChip f).upset = s.upset := rfl
@[simp] theorem State.setChip_walkers (s : State) (f : Chip → Chip) : (s.setChip f).walkers = s.walkers := rfl
@[simp] theorem State.setChip_fib (s : State) (f : Chip → Chip) : (s.setChip f).fib = s.fib := rfl
@[simp] theorem State.setChip_fibres (s : State) (f : Chip → Chip) : (s.setChip f).fibres = s.fibres := rfl
@[simp] theorem State.setChip_skein (s : State) (f : Chip → Chip) : (s.setChip f).skein = s.skein := rfl
@[simp] theorem State.setChip_skeins (s : State) (f : Chip → Chip) : (s.setChip f).skeins = s.skeins := rfl
@[simp] theorem State.setChip_core (s : State) (f : Chip → Chip) : (s.setChip f).core = s.core := rfl
@[simp] theorem State.setChip_cores (s : State) (f : Chip → Chip) : (s.setChip f).cores = s.cores := rfl
@[simp] theorem State.setChip_chip (s : State) (f : Chip → Chip) : (s.setChip f).chip = f s.chip := rfl
@[simp] theorem State.setChip_chips (s : State) (f : Chip → Chip) : (s.setChip f).chips = s.chips := rfl
@[simp] theorem State.setChip_dev (s : State) (f : Chip → Chip) : (s.setChip f).dev = s.dev := rfl

@[simp] theorem State.setSkein_turn (s : State) (f : Skein → Skein) : (s.setSkein f).turn = s.turn := rfl
@[simp] theorem State.setSkein_sched (s : State) (f : Skein → Skein) : (s.setSkein f).sched = s.sched := rfl
@[simp] theorem State.setSkein_ctr (s : State) (f : Skein → Skein) : (s.setSkein f).ctr = s.ctr := rfl
@[simp] theorem State.setSkein_upset (s : State) (f : Skein → Skein) : (s.setSkein f).upset = s.upset := rfl
@[simp] theorem State.setSkein_walkers (s : State) (f : Skein → Skein) : (s.setSkein f).walkers = s.walkers := rfl
@[simp] theorem State.setSkein_fib (s : State) (f : Skein → Skein) : (s.setSkein f).fib = s.fib := rfl
@[simp] theorem State.setSkein_fibres (s : State) (f : Skein → Skein) : (s.setSkein f).fibres = s.fibres := rfl
@[simp] theorem State.setSkein_skein (s : State) (f : Skein → Skein) : (s.setSkein f).skein = f s.skein := rfl
@[simp] theorem State.setSkein_skeins (s : State) (f : Skein → Skein) : (s.setSkein f).skeins = s.skeins := rfl
@[simp] theorem State.setSkein_core (s : State) (f : Skein → Skein) : (s.setSkein f).core = s.core := rfl
@[simp] theorem State.setSkein_cores (s : State) (f : Skein → Skein) : (s.setSkein f).cores = s.cores := rfl
@[simp] theorem State.setSkein_chip (s : State) (f : Skein → Skein) : (s.setSkein f).chip = s.chip := rfl
@[simp] theorem State.setSkein_chips (s : State) (f : Skein → Skein) : (s.setSkein f).chips = s.chips := rfl
@[simp] theorem State.setSkein_dev (s : State) (f : Skein → Skein) : (s.setSkein f).dev = s.dev := rfl

/-! ## Updates of a fibre -/

@[simp] theorem Fibre.touch_id (x : Fibre) (i : Nat) : (x.touch i).id = x.id := rfl
@[simp] theorem Fibre.touch_live (x : Fibre) (i : Nat) : (x.touch i).live = x.live := rfl
@[simp] theorem Fibre.touch_asid (x : Fibre) (i : Nat) : (x.touch i).asid = x.asid := rfl
@[simp] theorem Fibre.touch_home (x : Fibre) (i : Nat) : (x.touch i).home = x.home := rfl
@[simp] theorem Fibre.touch_homeEntry (x : Fibre) (i : Nat) : (x.touch i).homeEntry = x.homeEntry := rfl
@[simp] theorem Fibre.touch_at_ (x : Fibre) (i : Nat) : (x.touch i).at_ = x.at_ := rfl
@[simp] theorem Fibre.touch_guestEntry (x : Fibre) (i : Nat) : (x.touch i).guestEntry = x.guestEntry := rfl
@[simp] theorem Fibre.touch_bank (x : Fibre) (i : Nat) : (x.touch i).bank = x.bank := rfl
@[simp] theorem Fibre.touch_pc (x : Fibre) (i : Nat) : (x.touch i).pc = x.pc := rfl
@[simp] theorem Fibre.touch_prec (x : Fibre) (i : Nat) : (x.touch i).prec = x.prec := rfl
@[simp] theorem Fibre.touch_winSize (x : Fibre) (i : Nat) : (x.touch i).winSize = x.winSize := rfl
@[simp] theorem Fibre.touch_flive (x : Fibre) (i : Nat) : (x.touch i).flive = x.flive := rfl
@[simp] theorem Fibre.touch_f (x : Fibre) (i : Nat) : (x.touch i).f = x.f := rfl
@[simp] theorem Fibre.touch_fbad (x : Fibre) (i : Nat) : (x.touch i).fbad = x.fbad := rfl
@[simp] theorem Fibre.touch_nv (x : Fibre) (i : Nat) : (x.touch i).nv = x.nv := rfl
@[simp] theorem Fibre.touch_v (x : Fibre) (i : Nat) : (x.touch i).v = x.v := rfl
@[simp] theorem Fibre.touch_vbad (x : Fibre) (i : Nat) : (x.touch i).vbad = x.vbad := rfl
@[simp] theorem Fibre.touch_m (x : Fibre) (i : Nat) : (x.touch i).m = x.m := rfl
@[simp] theorem Fibre.touch_mbad (x : Fibre) (i : Nat) : (x.touch i).mbad = x.mbad := rfl
@[simp] theorem Fibre.touch_tokens (x : Fibre) (i : Nat) : (x.touch i).tokens = x.tokens := rfl
@[simp] theorem Fibre.touch_wmask (x : Fibre) (i : Nat) : (x.touch i).wmask = x.wmask := rfl
@[simp] theorem Fibre.touch_bb (x : Fibre) (i : Nat) : (x.touch i).bb = x.bb := rfl
@[simp] theorem Fibre.touch_rgn (x : Fibre) (i : Nat) : (x.touch i).rgn = x.rgn := rfl
@[simp] theorem Fibre.touch_rpt (x : Fibre) (i : Nat) : (x.touch i).rpt = x.rpt := rfl
@[simp] theorem Fibre.touch_updout (x : Fibre) (i : Nat) : (x.touch i).updout = x.updout := rfl
@[simp] theorem Fibre.touch_guest (x : Fibre) (i : Nat) : (x.touch i).guest = x.guest := rfl
@[simp] theorem Fibre.touch_inev (x : Fibre) (i : Nat) : (x.touch i).inev = x.inev := rfl
@[simp] theorem Fibre.touch_evf (x : Fibre) (i : Nat) : (x.touch i).evf = x.evf := rfl
@[simp] theorem Fibre.touch_sup (x : Fibre) (i : Nat) : (x.touch i).sup = x.sup := rfl
@[simp] theorem Fibre.touch_trap (x : Fibre) (i : Nat) : (x.touch i).trap = x.trap := rfl
@[simp] theorem Fibre.touch_bwait (x : Fibre) (i : Nat) : (x.touch i).bwait = x.bwait := rfl
@[simp] theorem Fibre.touch_park (x : Fibre) (i : Nat) : (x.touch i).park = x.park := rfl
@[simp] theorem Fibre.touch_parkedAt (x : Fibre) (i : Nat) : (x.touch i).parkedAt = x.parkedAt := rfl
@[simp] theorem Fibre.touch_parkedTick (x : Fibre) (i : Nat) : (x.touch i).parkedTick = x.parkedTick := rfl
@[simp] theorem Fibre.touch_travel (x : Fibre) (i : Nat) : (x.touch i).travel = x.travel := rfl
@[simp] theorem Fibre.touch_guestCount (x : Fibre) (i : Nat) : (x.touch i).guestCount = x.guestCount := rfl
@[simp] theorem Fibre.touch_walker (x : Fibre) (i : Nat) : (x.touch i).walker = x.walker := rfl
@[simp] theorem Fibre.touch_mark (x : Fibre) (i : Nat) : (x.touch i).mark = x.mark := rfl

@[simp] theorem Fibre.setReg_id (x : Fibre) (r : GReg) (v : Word) (st : Fill) : (x.setReg r v st).id = x.id := rfl
@[simp] theorem Fibre.setReg_live (x : Fibre) (r : GReg) (v : Word) (st : Fill) : (x.setReg r v st).live = x.live := rfl
@[simp] theorem Fibre.setReg_asid (x : Fibre) (r : GReg) (v : Word) (st : Fill) : (x.setReg r v st).asid = x.asid := rfl
@[simp] theorem Fibre.setReg_home (x : Fibre) (r : GReg) (v : Word) (st : Fill) : (x.setReg r v st).home = x.home := rfl
@[simp] theorem Fibre.setReg_homeEntry (x : Fibre) (r : GReg) (v : Word) (st : Fill) : (x.setReg r v st).homeEntry = x.homeEntry := rfl
@[simp] theorem Fibre.setReg_at_ (x : Fibre) (r : GReg) (v : Word) (st : Fill) : (x.setReg r v st).at_ = x.at_ := rfl
@[simp] theorem Fibre.setReg_guestEntry (x : Fibre) (r : GReg) (v : Word) (st : Fill) : (x.setReg r v st).guestEntry = x.guestEntry := rfl
@[simp] theorem Fibre.setReg_pc (x : Fibre) (r : GReg) (v : Word) (st : Fill) : (x.setReg r v st).pc = x.pc := rfl
@[simp] theorem Fibre.setReg_prec (x : Fibre) (r : GReg) (v : Word) (st : Fill) : (x.setReg r v st).prec = x.prec := rfl
@[simp] theorem Fibre.setReg_winSize (x : Fibre) (r : GReg) (v : Word) (st : Fill) : (x.setReg r v st).winSize = x.winSize := rfl
@[simp] theorem Fibre.setReg_flive (x : Fibre) (r : GReg) (v : Word) (st : Fill) : (x.setReg r v st).flive = x.flive := rfl
@[simp] theorem Fibre.setReg_f (x : Fibre) (r : GReg) (v : Word) (st : Fill) : (x.setReg r v st).f = x.f := rfl
@[simp] theorem Fibre.setReg_fbad (x : Fibre) (r : GReg) (v : Word) (st : Fill) : (x.setReg r v st).fbad = x.fbad := rfl
@[simp] theorem Fibre.setReg_nv (x : Fibre) (r : GReg) (v : Word) (st : Fill) : (x.setReg r v st).nv = x.nv := rfl
@[simp] theorem Fibre.setReg_v (x : Fibre) (r : GReg) (v : Word) (st : Fill) : (x.setReg r v st).v = x.v := rfl
@[simp] theorem Fibre.setReg_vbad (x : Fibre) (r : GReg) (v : Word) (st : Fill) : (x.setReg r v st).vbad = x.vbad := rfl
@[simp] theorem Fibre.setReg_m (x : Fibre) (r : GReg) (v : Word) (st : Fill) : (x.setReg r v st).m = x.m := rfl
@[simp] theorem Fibre.setReg_mbad (x : Fibre) (r : GReg) (v : Word) (st : Fill) : (x.setReg r v st).mbad = x.mbad := rfl
@[simp] theorem Fibre.setReg_tokens (x : Fibre) (r : GReg) (v : Word) (st : Fill) : (x.setReg r v st).tokens = x.tokens := rfl
@[simp] theorem Fibre.setReg_wmask (x : Fibre) (r : GReg) (v : Word) (st : Fill) : (x.setReg r v st).wmask = x.wmask := rfl
@[simp] theorem Fibre.setReg_bb (x : Fibre) (r : GReg) (v : Word) (st : Fill) : (x.setReg r v st).bb = x.bb := rfl
@[simp] theorem Fibre.setReg_rgn (x : Fibre) (r : GReg) (v : Word) (st : Fill) : (x.setReg r v st).rgn = x.rgn := rfl
@[simp] theorem Fibre.setReg_rpt (x : Fibre) (r : GReg) (v : Word) (st : Fill) : (x.setReg r v st).rpt = x.rpt := rfl
@[simp] theorem Fibre.setReg_updout (x : Fibre) (r : GReg) (v : Word) (st : Fill) : (x.setReg r v st).updout = x.updout := rfl
@[simp] theorem Fibre.setReg_guest (x : Fibre) (r : GReg) (v : Word) (st : Fill) : (x.setReg r v st).guest = x.guest := rfl
@[simp] theorem Fibre.setReg_inev (x : Fibre) (r : GReg) (v : Word) (st : Fill) : (x.setReg r v st).inev = x.inev := rfl
@[simp] theorem Fibre.setReg_evf (x : Fibre) (r : GReg) (v : Word) (st : Fill) : (x.setReg r v st).evf = x.evf := rfl
@[simp] theorem Fibre.setReg_sup (x : Fibre) (r : GReg) (v : Word) (st : Fill) : (x.setReg r v st).sup = x.sup := rfl
@[simp] theorem Fibre.setReg_trap (x : Fibre) (r : GReg) (v : Word) (st : Fill) : (x.setReg r v st).trap = x.trap := rfl
@[simp] theorem Fibre.setReg_bwait (x : Fibre) (r : GReg) (v : Word) (st : Fill) : (x.setReg r v st).bwait = x.bwait := rfl
@[simp] theorem Fibre.setReg_park (x : Fibre) (r : GReg) (v : Word) (st : Fill) : (x.setReg r v st).park = x.park := rfl
@[simp] theorem Fibre.setReg_parkedAt (x : Fibre) (r : GReg) (v : Word) (st : Fill) : (x.setReg r v st).parkedAt = x.parkedAt := rfl
@[simp] theorem Fibre.setReg_parkedTick (x : Fibre) (r : GReg) (v : Word) (st : Fill) : (x.setReg r v st).parkedTick = x.parkedTick := rfl
@[simp] theorem Fibre.setReg_travel (x : Fibre) (r : GReg) (v : Word) (st : Fill) : (x.setReg r v st).travel = x.travel := rfl
@[simp] theorem Fibre.setReg_guestCount (x : Fibre) (r : GReg) (v : Word) (st : Fill) : (x.setReg r v st).guestCount = x.guestCount := rfl
@[simp] theorem Fibre.setReg_walker (x : Fibre) (r : GReg) (v : Word) (st : Fill) : (x.setReg r v st).walker = x.walker := rfl
@[simp] theorem Fibre.setReg_mark (x : Fibre) (r : GReg) (v : Word) (st : Fill) : (x.setReg r v st).mark = x.mark := rfl
@[simp] theorem Bank.put_val (b : Bank) (r : GReg) (v : Word) (st : Fill) : (b.put r v st).val = b.val.set! r.toNat v := rfl
@[simp] theorem Bank.put_fill (b : Bank) (r : GReg) (v : Word) (st : Fill) : (b.put r v st).fill = b.fill.set! r.toNat st := rfl
@[simp] theorem Bank.put_acq (b : Bank) (r : GReg) (v : Word) (st : Fill) : (b.put r v st).acq = b.acq.set! r.toNat false := rfl
@[simp] theorem Fibre.setReg_bank (x : Fibre) (r : GReg) (v : Word) (st : Fill) :
    (x.setReg r v st).bank = x.bank.put r v st := rfl

@[simp] theorem Skein.setReg_lid (k : Skein) (r : GReg) (v : Word) (st : Fill) : (k.setReg r v st).lid = k.lid := rfl
@[simp] theorem Skein.setReg_skn (k : Skein) (r : GReg) (v : Word) (st : Fill) : (k.setReg r v st).skn = k.skn := rfl
@[simp] theorem Skein.setReg_core (k : Skein) (r : GReg) (v : Word) (st : Fill) : (k.setReg r v st).core = k.core := rfl
@[simp] theorem Skein.setReg_resident (k : Skein) (r : GReg) (v : Word) (st : Fill) : (k.setReg r v st).resident = k.resident := rfl
@[simp] theorem Skein.setReg_stopping (k : Skein) (r : GReg) (v : Word) (st : Fill) : (k.setReg r v st).stopping = k.stopping := rfl
@[simp] theorem Skein.setReg_skmap (k : Skein) (r : GReg) (v : Word) (st : Fill) : (k.setReg r v st).skmap = k.skmap := rfl
@[simp] theorem Skein.setReg_hpc (k : Skein) (r : GReg) (v : Word) (st : Fill) : (k.setReg r v st).hpc = k.hpc := rfl
@[simp] theorem Skein.setReg_evEn (k : Skein) (r : GReg) (v : Word) (st : Fill) : (k.setReg r v st).evEn = k.evEn := rfl
@[simp] theorem Skein.setReg_evPend (k : Skein) (r : GReg) (v : Word) (st : Fill) : (k.setReg r v st).evPend = k.evPend := rfl
@[simp] theorem Skein.setReg_expw (k : Skein) (r : GReg) (v : Word) (st : Fill) : (k.setReg r v st).expw = k.expw := rfl
@[simp] theorem Skein.setReg_port (k : Skein) (r : GReg) (v : Word) (st : Fill) : (k.setReg r v st).port = k.port := rfl
@[simp] theorem Skein.setReg_partials (k : Skein) (r : GReg) (v : Word) (st : Fill) : (k.setReg r v st).partials = k.partials := rfl
@[simp] theorem Skein.setReg_armed (k : Skein) (r : GReg) (v : Word) (st : Fill) : (k.setReg r v st).armed = k.armed := rfl
@[simp] theorem Skein.setReg_dbars (k : Skein) (r : GReg) (v : Word) (st : Fill) : (k.setReg r v st).dbars = k.dbars := rfl
@[simp] theorem Skein.setReg_groups (k : Skein) (r : GReg) (v : Word) (st : Fill) : (k.setReg r v st).groups = k.groups := rfl
@[simp] theorem Skein.setReg_held (k : Skein) (r : GReg) (v : Word) (st : Fill) : (k.setReg r v st).held = k.held := rfl
@[simp] theorem Skein.setReg_exited (k : Skein) (r : GReg) (v : Word) (st : Fill) : (k.setReg r v st).exited = k.exited := rfl
@[simp] theorem Skein.setReg_shadow (k : Skein) (r : GReg) (v : Word) (st : Fill) :
    (k.setReg r v st).shadow = k.shadow.put r v st := rfl

end Sys2Proof.Machine
end

