-- ==== Sys2Proof/Laws/Memory.lean ====
section
/-! SUPPORT. The canonical form of memory: every operation over memory keeps it, and what a read returns after a write. -/

namespace Sys2Proof.Machine

/-! ## One byte -/

/-- An address above the bound of a canonical list. -/
def aboveLo (lo : Option Nat) (x : Nat) : Prop := ∀ l, lo = some l → l < x

theorem memOk_cons (lo : Option Nat) (a : Nat) (b : Byte) (r : List Host.Cell) :
    memOk lo ((a, b) :: r) = true ↔ aboveLo lo a ∧ b ≠ 0 ∧ memOk (some a) r = true := by
  cases lo <;> simp [memOk, aboveLo, and_assoc]

theorem memOk_nil (lo : Option Nat) : memOk lo [] = true := rfl

/-- A canonical list stays canonical under a lower bound. -/
theorem memOk_lower {lo lo' : Option Nat} {m : List Host.Cell} (h : memOk lo m = true)
    (hl : ∀ x, aboveLo lo x → aboveLo lo' x) : memOk lo' m = true := by
  cases m with
  | nil => rfl
  | cons e r =>
    obtain ⟨a, b⟩ := e
    rw [memOk_cons] at h ⊢
    exact ⟨hl a h.1, h.2⟩

theorem memOk_memWrite (m : List Host.Cell) : ∀ (lo : Option Nat) (x : Nat) (v : Byte),
    memOk lo m = true → aboveLo lo x → memOk lo (memWrite m x v) = true := by
  induction m with
  | nil =>
    intro lo x v _ hx
    unfold memWrite
    split
    · rfl
    · rw [memOk_cons]; exact ⟨hx, ‹_›, rfl⟩
  | cons e r ih =>
    obtain ⟨a, b⟩ := e
    intro lo x v h hx
    have h' := (memOk_cons lo a b r).1 h
    unfold memWrite
    split
    · rename_i hlt
      split
      · exact h
      · rw [memOk_cons, memOk_cons]
        exact ⟨hx, ‹_›, fun l hl => by cases hl; exact hlt, h'.2⟩
    · split
      · rename_i hge heq
        subst heq
        split
        · exact memOk_lower h'.2.2 (fun y hy l hl => lt_trans (h'.1 l hl) (hy x rfl))
        · rw [memOk_cons]; exact ⟨hx, ‹_›, h'.2.2⟩
      · rename_i hge hne
        rw [memOk_cons]
        exact ⟨h'.1, h'.2.1, ih (some a) x v h'.2.2 (fun l hl => by cases hl; omega)⟩

/-- Writing a byte keeps the canonical form. -/
theorem memWrite_wf {m : List Host.Cell} (x : Nat) (v : Byte) (h : Memory.wf m = true) : Memory.wf (memWrite m x v) = true :=
  memOk_memWrite m none x v h (fun _ hl => by cases hl)

theorem memRead_below {m : List Host.Cell} : ∀ {l x : Nat}, memOk (some l) m = true → x ≤ l → memRead m x = 0 := by
  induction m with
  | nil => intros; rfl
  | cons e r ih =>
    obtain ⟨a, b⟩ := e
    intro l x h hx
    have h' := (memOk_cons _ a b r).1 h
    have : l < a := h'.1 l rfl
    unfold memRead
    rw [if_neg (by omega), if_pos (by omega)]

theorem memRead_memWrite_same (m : List Host.Cell) : ∀ (lo : Option Nat) (x : Nat) (v : Byte),
    memOk lo m = true → memRead (memWrite m x v) x = v := by
  induction m with
  | nil =>
    intro lo x v _
    unfold memWrite
    split
    · rename_i h; subst h; rfl
    · simp [memRead]
  | cons e r ih =>
    obtain ⟨a, b⟩ := e
    intro lo x v h
    have h' := (memOk_cons lo a b r).1 h
    unfold memWrite
    split
    · split
      · rename_i hlt hv
        subst hv
        unfold memRead
        rw [if_neg (by omega), if_pos (by omega)]
      · simp [memRead]
    · split
      · rename_i heq
        subst heq
        split
        · rename_i hv; subst hv; exact memRead_below h'.2.2 (le_refl _)
        · simp [memRead]
      · rename_i h1 h2
        unfold memRead
        rw [if_neg (by omega), if_neg (by omega)]
        exact ih (some a) x v h'.2.2

/-- A written byte reads back. -/
theorem memRead_memWrite {m : List Host.Cell} (h : Memory.wf m = true) (x : Nat) (v : Byte) : memRead (memWrite m x v) x = v :=
  memRead_memWrite_same m none x v h

theorem memRead_memWrite_other (m : List Host.Cell) : ∀ (lo : Option Nat) (x y : Nat) (v : Byte),
    memOk lo m = true → y ≠ x → memRead (memWrite m x v) y = memRead m y := by
  induction m with
  | nil =>
    intro lo x y v _ hne
    unfold memWrite
    split
    · rfl
    · simp [memRead, Ne.symm hne]
  | cons e r ih =>
    obtain ⟨a, b⟩ := e
    intro lo x y v h hne
    have h' := (memOk_cons lo a b r).1 h
    unfold memWrite
    split
    · rename_i hlt
      split
      · rfl
      · rw [memRead, if_neg (Ne.symm hne)]
        split
        · rename_i hyx
          rw [memRead, if_neg (by omega), if_pos (by omega)]
        · rfl
    · split
      · rename_i heq
        subst heq
        split
        · rw [memRead, if_neg (Ne.symm hne)]
          split
          · rename_i hyx
            exact memRead_below h'.2.2 (by omega)
          · rfl
        · rw [memRead, memRead, if_neg (Ne.symm hne), if_neg (Ne.symm hne)]
      · rw [memRead, memRead]
        split
        · rfl
        · split
          · rfl
          · exact ih (some a) x y v h'.2.2 hne

/-- Every other byte is unchanged. -/
theorem memRead_memWrite_ne {m : List Host.Cell} (h : Memory.wf m = true) {x y : Nat} (v : Byte) (hne : y ≠ x) :
    memRead (memWrite m x v) y = memRead m y := memRead_memWrite_other m none x y v h hne

/-! ## Several bytes -/

/-- Writing bytes keeps the canonical form. -/
theorem memPut_wf (bs : List Byte) : ∀ {m : List Host.Cell} (a : Nat), Memory.wf m = true → Memory.wf (memPut m a bs) = true := by
  induction bs with
  | nil => intro m a h; exact h
  | cons b bs ih => intro m a h; exact ih (a + 1) (memWrite_wf a b h)

/-- A byte outside the written range is unchanged. -/
theorem memRead_memPut_outside (bs : List Byte) : ∀ {m : List Host.Cell} (a y : Nat), Memory.wf m = true →
    y < a ∨ a + bs.length ≤ y → memRead (memPut m a bs) y = memRead m y := by
  induction bs with
  | nil => intro m a y _ _; rfl
  | cons b bs ih =>
    intro m a y h hy
    rw [memPut, ih (a + 1) y (memWrite_wf a b h) (by simp at hy; omega), memRead_memWrite_ne h b (by simp at hy; omega)]

/-- A byte inside the written range is the written one. -/
theorem memRead_memPut_inside (bs : List Byte) : ∀ {m : List Host.Cell} (a i : Nat), Memory.wf m = true →
    (hi : i < bs.length) → memRead (memPut m a bs) (a + i) = bs[i] := by
  induction bs with
  | nil => intro m a i _ hi; simp at hi
  | cons b bs ih =>
    intro m a i h hi
    rw [memPut]
    cases i with
    | zero =>
      rw [memRead_memPut_outside bs (a + 1) _ (memWrite_wf a b h) (by omega)]
      simpa using memRead_memWrite h a b
    | succ i =>
      have := ih (m := memWrite m a b) (a + 1) i (memWrite_wf a b h) (by simpa using hi)
      rw [show a + (i + 1) = a + 1 + i by omega, this]
      simp

/-- A canonical list without some of its entries is canonical. -/
theorem memOk_filter (p : Host.Cell → Bool) (m : List Host.Cell) : ∀ {lo : Option Nat}, memOk lo m = true →
    memOk lo (m.filter p) = true := by
  induction m with
  | nil => intro lo _; rfl
  | cons e r ih =>
    obtain ⟨a, b⟩ := e
    intro lo h
    have h' := (memOk_cons lo a b r).1 h
    rw [List.filter_cons]
    split
    · rw [memOk_cons]; exact ⟨h'.1, h'.2.1, ih h'.2.2⟩
    · exact ih (memOk_lower h'.2.2 (fun y hy l hl => lt_trans (h'.1 l hl) (hy a rfl)))

/-! ## The operations of the module over memory -/

/-- Memory is in its canonical form. -/
abbrev State.memWf (s : State) : Prop := Memory.wf s.dev.mem = true

/-- An update of the device keeps the canonical form when its memory is in it. -/
theorem State.setDev_wf {s : State} (f : Device → Device) (h : Memory.wf (f s.dev).mem = true) : (s.setDev f).memWf := h

theorem foldl_wf {α : Type} (f : State → α → State) (hf : ∀ s a, s.memWf → (f s a).memWf) (l : List α) :
    ∀ {s : State}, s.memWf → (l.foldl f s).memWf := by
  induction l with
  | nil => intro s h; exact h
  | cons a l ih => intro s h; exact ih (hf s a h)

theorem State.putWord_wf {s : State} (h : s.memWf) (pa : Nat) (bs : List Byte) : (s.putWord pa bs).memWf := memPut_wf bs pa h

theorem State.putWords_wf {s : State} (h : s.memWf) (l : List (Nat × List Byte)) :
    (l.foldl (fun s p => s.putWord p.1 p.2) s).memWf := foldl_wf _ (fun _ _ hs => State.putWord_wf hs _ _) l h

theorem State.wrote_wf {s : State} (h : s.memWf) : s.wrote.memWf := h

theorem State.logAt_wf {s : State} (h : s.memWf) (k c b l o i a n : Nat) : (s.logAt k c b l o i a n).memWf := by
  unfold State.logAt
  extract_lets d ll drop pa head t
  have ht : t.memWf := by
    unfold t
    split
    · exact h
    · exact State.putWords_wf h _
  split
  · split <;> exact h
  · exact ht

theorem State.logWord_wf {s : State} (h : s.memWf) (k a n : Nat) : (s.logWord k a n).memWf := by
  unfold State.logWord
  split <;> exact State.logAt_wf h ..

theorem State.setFull_wf {s : State} (h : s.memWf) (w : Nat) (b : Bool) : (s.setFull w b).memWf := h

theorem State.markPoison_wf {s : State} (h : s.memWf) (w : Nat) : (s.markPoison w).memWf := h

theorem State.putStoredWord_wf {s : State} (h : s.memWf) (w : Nat) (v : Word) : (s.putStoredWord w v).memWf := by
  unfold State.putStoredWord
  split
  · exact memPut_wf _ _ h
  · exact memPut_wf _ _ h

/-! ## The columns of the SEC-DED code -/

/-- What is picked stands in the list. -/
theorem pickColumns_mem {c : BitVec 8} : ∀ {n : Nat} {l : List (BitVec 8)}, c ∈ pickColumns n l → c ∈ l
  | n + 1, l, h => by
    unfold pickColumns at h
    split at h
    · cases h
    · rename_i x hx
      rcases List.mem_cons.mp h with rfl | h
      · exact List.mem_of_getElem? hx
      · exact List.mem_of_mem_erase (pickColumns_mem h)

/-- Nothing is picked twice. -/
theorem pickColumns_nodup : ∀ {n : Nat} {l : List (BitVec 8)}, l.Nodup → (pickColumns n l).Nodup
  | 0, _, _ => List.nodup_nil
  | n + 1, l, h => by
    unfold pickColumns
    split
    · exact List.nodup_nil
    · exact List.nodup_cons.mpr ⟨fun m => List.Nodup.not_mem_erase h (pickColumns_mem m), pickColumns_nodup (h.erase _)⟩

/-- As many are picked as asked for, where the list holds as many. -/
theorem pickColumns_length : ∀ {n : Nat} {l : List (BitVec 8)}, n ≤ l.length → (pickColumns n l).length = n
  | 0, _, _ => rfl
  | n + 1, l, h => by
    have hlt : Config.eccPick n % l.length < l.length := Nat.mod_lt _ (by omega)
    unfold pickColumns
    rw [List.getElem?_eq_getElem hlt]
    simp only [List.length_cons]
    rw [pickColumns_length]
    rw [List.length_erase_of_mem (List.getElem_mem hlt)]
    omega

/-- The column of a data bit is one of the 65 picked. -/
theorem dataColumn_mem {k : Nat} (h : k < 65) : dataColumn k ∈ pickColumns 65 oddColumns := by
  have hl : k < (pickColumns 65 oddColumns).length := by
    rw [pickColumns_length (by decide +kernel)]; exact h
  rw [dataColumn, List.getD_eq_getElem _ _ hl]
  exact List.getElem_mem hl

/-- R437: the column of a data bit has odd weight of at least 3. -/
theorem dataColumn_odd {k : Nat} (h : k < 65) : dataColumn k ∈ oddColumns := pickColumns_mem (dataColumn_mem h)

/-- Two data bits have two columns. -/
theorem dataColumn_inj {j k : Nat} (hj : j < 65) (hk : k < 65) (h : dataColumn j = dataColumn k) : j = k := by
  have hl : (pickColumns 65 oddColumns).length = 65 := pickColumns_length (by decide +kernel)
  rw [dataColumn, dataColumn, List.getD_eq_getElem _ _ (by omega), List.getD_eq_getElem _ _ (by omega)] at h
  exact (pickColumns_nodup (by decide +kernel)).getElem_inj_iff.mp h

/-- R437: a syndrome that is the column of a data bit names that bit. -/
theorem columnOf_dataColumn {k : Nat} : ∀ {n : Nat}, k < n → n ≤ 65 → columnOf (dataColumn k) n = some k
  | n + 1, h, hn => by
    rw [columnOf]
    split
    · rename_i e; rw [dataColumn_inj (by omega) (by omega) e]
    · rename_i e
      exact columnOf_dataColumn (by rcases Nat.lt_succ_iff_lt_or_eq.mp h with h | rfl; exacts [h, absurd rfl e]) (by omega)

/-- R437: a syndrome of another weight is the column of no data bit. -/
theorem columnOf_none {syn : BitVec 8} (hs : syn ∉ oddColumns) : ∀ {n : Nat}, n ≤ 65 → columnOf syn n = none
  | 0, _ => rfl
  | n + 1, hn => by
    have hc : dataColumn n ∈ oddColumns := dataColumn_odd (by omega)
    rw [columnOf, if_neg (ne_of_mem_of_not_mem hc hs)]
    exact columnOf_none hs (by omega)

/-! ## Detection and words -/

theorem State.detectWord_wf {s : State} (h : s.memWf) (w : Nat) : (s.detectWord w).memWf := by
  have hs : ∀ f : Device → Device, (f s.dev).mem = s.dev.mem → (s.setDev f).memWf :=
    fun f e => State.setDev_wf f (e ▸ h)
  unfold State.detectWord
  split
  · extract_lets t
    have ht : t.memWf := hs _ rfl
    split
    · exact State.logWord_wf ht ..
    · split
      · exact State.logWord_wf (State.setFull_wf ht ..) ..
      · exact State.logWord_wf (State.putStoredWord_wf ht ..) ..
      · exact State.logWord_wf (State.setDev_wf _ ht) ..
  · split
    · exact h
    · extract_lets t
      have ht : t.memWf := hs _ rfl
      split
      · exact State.logWord_wf ht ..
      · exact State.logWord_wf (State.setDev_wf _ ht) ..

theorem State.detect_wf {s : State} (h : s.memWf) (pa n : Nat) : (s.detect pa n).memWf := by
  unfold State.detect
  split
  · exact h
  · exact foldl_wf _ (fun _ _ hs => State.detectWord_wf hs _) _ h

theorem State.writeWord_wf {s : State} (h : s.memWf) (pa : Nat) (bs : List Byte) : (s.writeWord pa bs).memWf := by
  unfold State.writeWord
  extract_lets w t
  have ht : t.memWf := by unfold t; split; exacts [State.detect_wf h .., h]
  split
  · exact State.logWord_wf h ..
  · split
    · exact State.logWord_wf ht ..
    · exact State.putWord_wf ht ..

theorem State.writeBlock_wf {s : State} (h : s.memWf) (pa : Nat) (bs : List Byte) : (s.writeBlock pa bs).memWf :=
  State.wrote_wf (foldl_wf _ (fun _ _ hs => State.writeWord_wf hs _ _) _ h)

theorem State.writeHome_wf {s : State} (h : s.memWf) (pa : Nat) (bs : List Byte) : (s.writeHome pa bs).memWf :=
  foldl_wf _ (fun _ _ hs => State.writeBlock_wf hs _ _) _ h

/-! A state whose memory is that of another is canonical with it. -/

theorem State.memWf_of {s t : State} (h : s.memWf) (e : t.dev.mem = s.dev.mem) : t.memWf := by
  unfold State.memWf; rw [e]; exact h

theorem State.onFibre_dev (s : State) (id : FibreId) (f : Fibre → Fibre) : (s.onFibre id f).dev = s.dev := by
  unfold State.onFibre; split <;> rfl

theorem State.onCore_dev (s : State) (n : Nat) (f : Core → Core) : (s.onCore n f).dev = s.dev := by
  unfold State.onCore; split <;> rfl

theorem State.onSkein_dev (s : State) (l k : Nat) (f : Skein → Skein) : (s.onSkein l k f).dev = s.dev := by
  unfold State.onSkein; split <;> rfl

theorem State.remarkCore_dev (s : State) (n : Nat) : (s.remarkCore n).dev = s.dev := rfl

theorem State.holdSlice_mem (s : State) (k : BitVec 512) (line home : Nat) : (s.holdSlice k line home).dev.mem = s.dev.mem := by
  unfold State.holdSlice; split <;> rfl

theorem State.dirtyLine_mem (s : State) (k line : Nat) : (s.dirtyLine k line).dev.mem = s.dev.mem := by
  unfold State.dirtyLine
  split
  · rfl
  · split
    · rfl
    · exact s.holdSlice_mem _ _ _

theorem State.dirtyLine_wf {s : State} (h : s.memWf) (k line : Nat) : (s.dirtyLine k line).memWf :=
  State.memWf_of h (s.dirtyLine_mem k line)

theorem State.takeLine_wf {s : State} (h : s.memWf) (k line : Nat) : (s.takeLine k line).memWf := by
  unfold State.takeLine
  split
  · exact State.dirtyLine_wf h ..
  · have hd := State.dirtyLine_wf h k line
    dsimp only [State.memWf, State.setDev] at hd ⊢
    exact memPut_wf _ _ hd

theorem State.perform_wf {s : State} (h : s.memWf) (k pa : Nat) (bs : List Byte) : (s.perform k pa bs).memWf := by
  unfold State.perform
  split
  · exact State.writeHome_wf (State.takeLine_wf h _ _) _ _
  · exact State.writeHome_wf h _ _

theorem State.touchBit_wf {s : State} (h : s.memWf) (k pa : Nat) : (s.touchBit k pa).memWf := by
  unfold State.touchBit
  split
  · exact State.takeLine_wf h ..
  · exact h

/-! ## Waiting full/empty loads, posted stores and the write-through buffer -/

theorem State.onFibre_wf {s : State} (h : s.memWf) (id : FibreId) (f : Fibre → Fibre) : (s.onFibre id f).memWf :=
  State.memWf_of h (by rw [State.onFibre_dev])

theorem State.onCore_wf {s : State} (h : s.memWf) (n : Nat) (f : Core → Core) : (s.onCore n f).memWf :=
  State.memWf_of h (by rw [State.onCore_dev])

theorem State.onSkein_wf {s : State} (h : s.memWf) (l k : Nat) (f : Skein → Skein) : (s.onSkein l k f).memWf :=
  State.memWf_of h (by rw [State.onSkein_dev])

theorem State.putReg_wf {s : State} (h : s.memWf) (id : FibreId) (sh : Bool) (r : GReg) (v : Word) (st : Fill) :
    (s.putReg id sh r v st).memWf := by
  unfold State.putReg
  split
  · exact State.onFibre_wf (State.onSkein_wf h ..) ..
  · exact State.onFibre_wf h ..

theorem State.finish_wf {s : State} (h : s.memWf) (id : FibreId) (n : Nat) : (s.finish id n).memWf := by
  unfold State.finish
  split
  · exact h
  · exact State.onFibre_wf (State.onCore_wf h ..) ..

theorem State.acquireFor_wf {s : State} (h : s.memWf) (id : FibreId) : (s.acquireFor id).memWf := by
  unfold State.acquireFor
  split
  · exact h
  · exact State.onCore_wf h ..

theorem State.serveWaiter_wf {s : State} (h : s.memWf) (w : FeWait) : (s.serveWaiter w).memWf := by
  unfold State.serveWaiter
  extract_lets t c v u
  have ht : t.memWf := State.detect_wf (State.setDev_wf _ h) ..
  have hu : u.memWf := State.finish_wf (State.acquireFor_wf (State.putReg_wf ht ..) ..) ..
  split
  · exact State.onFibre_wf ht ..
  · split
    · exact State.setFull_wf (State.touchBit_wf hu ..) ..
    · exact hu

theorem serveTakes_wf (l : List FeWait) : ∀ {s : State}, s.memWf → (serveTakes l s).memWf := by
  induction l with
  | nil => intro s h; exact h
  | cons w l ih =>
    intro s h
    unfold serveTakes
    extract_lets t
    have ht : t.memWf := State.serveWaiter_wf h w
    split
    · exact ht
    · exact ih ht

theorem State.makeFull_wf {s : State} (h : s.memWf) (w : Nat) : (s.makeFull w).memWf := by
  unfold State.makeFull
  extract_lets t mine
  have ht : t.memWf := State.setFull_wf h ..
  split
  · exact ht
  · exact serveTakes_wf _ (foldl_wf _ (fun _ _ hs => State.serveWaiter_wf hs _) _ ht)

theorem State.performEntry_wf {s : State} (h : s.memWf) (b : Buffered) : (s.performEntry b).memWf := by
  unfold State.performEntry
  extract_lets t
  have ht : t.memWf := State.perform_wf h ..
  split
  · exact State.makeFull_wf (State.touchBit_wf ht ..) ..
  · exact ht

theorem State.performAll_wf (l : List Buffered) : ∀ {s : State}, s.memWf → (s.performAll l).memWf := by
  induction l with
  | nil => intro s h; exact h
  | cons b l ih => intro s h; exact ih (State.performEntry_wf h _)

theorem State.performPosted_wf {s : State} (h : s.memWf) (p : Posted) : (s.performPosted p).memWf := by
  unfold State.performPosted
  extract_lets t u
  have hu : u.memWf := State.onFibre_wf (State.writeHome_wf h ..) ..
  split
  · exact State.makeFull_wf hu ..
  · exact hu

theorem State.performDue_wf {s : State} (h : s.memWf) (due : Posted → Bool) : (s.performDue due).memWf := by
  unfold State.performDue
  extract_lets l
  split
  · exact h
  · exact foldl_wf _ (fun _ _ hs => State.performPosted_wf hs _) _ (State.setDev_wf _ h)

theorem State.settle_wf {s : State} (h : s.memWf) : s.settle.memWf := by
  unfold State.settle State.settleOf
  extract_lets l
  split
  · exact h
  · exact State.performDue_wf h _

theorem State.drainCore_wf {s : State} (h : s.memWf) (c : Core) : (s.drainCore c).memWf := by
  unfold State.drainCore
  split
  · exact h
  · exact State.memWf_of (State.onCore_wf (State.performAll_wf _ (State.performDue_wf h _)) ..) (by rw [State.remarkCore_dev])

theorem State.drain_wf {s : State} (h : s.memWf) : s.drain.memWf := State.drainCore_wf h _

/-! ## Stores -/

theorem State.storePart_wf {s : State} (h : s.memWf) (now : Bool) (p : StorePart) : (s.storePart now p).memWf := by
  unfold State.storePart
  split
  · split
    · exact State.writeHome_wf h _ _
    · exact h
  · exact h

theorem State.storeAll_wf {s : State} (h : s.memWf) (n : Nat) (ps : List StorePart) : (s.storeAll n ps).memWf :=
  foldl_wf _ (fun _ _ hs => State.storePart_wf hs _ _) _ (foldl_wf _ (fun _ _ hs => State.storePart_wf hs _ _) _ h)

theorem State.storePieces_wf {s : State} (h : s.memWf) (ps : List Piece) (bs : List Byte) : (s.storePieces ps bs).memWf := by
  unfold State.storePieces State.storeParts
  split
  · exact h
  · exact State.storePart_wf h ..
  · exact State.storeAll_wf h ..

/-- Memory at reset is in its canonical form. -/
theorem reset_memWf : State.reset.memWf := rfl

end Sys2Proof.Machine
end

