-- ==== Sys2Proof/Laws/Ops.lean ====
section
/-! SUPPORT. What each shared operation answers, once: reads and writes of registers, holds, addresses, the ends of instructions and
the turns of shared units. -/

namespace Sys2Proof.Machine

/-! ## General registers -/

theorem readG_full {s : State} {r : GReg} (h : FullG s r) : readG s r = .ok (s.g r) := by
  obtain ⟨hf, ha⟩ := h
  unfold IsFull at hf
  unfold FirstRead at ha
  simp only [readG, State.g, hf]
  exact if_neg ha

/-- A register that is empty or pending parks the instruction (R126). -/
theorem readG_hold {s : State} {r : GReg} (h : s.bank.fill.getD r.toNat 0 = Fill.empty ∨ s.bank.fill.getD r.toNat 0 = Fill.pending) :
    readG s r = hold s .wait := by
  rcases h with h | h <;> simp only [readG, h] <;> rfl

/-- The first read of a register that a reply filled is an acquire, after which the instruction reads it again (R377, R380). -/
theorem readG_first {s : State} {r : GReg} (hf : IsFull s r) (ha : FirstRead s r) :
    readG s r = hold ((unmark s r).setCore fun c => { c with l1 := [] }) .retry := by
  unfold IsFull at hf
  unfold FirstRead at ha
  simp only [readG, hf]
  exact if_pos ha

theorem destG_free {s : State} {r : GReg} (h : FreeG s r) : destG s r = .ok () := if_neg h

theorem destG_hold {s : State} {r : GReg} (h : ¬FreeG s r) : destG s r = hold s .retry := by
  unfold FreeG at h
  exact if_pos (by simpa using h)

theorem writeG_free {s : State} {d : GReg} (h : FreeG s d) (v : Word) : writeG s d v = .ok (setG s d v) := by
  rw [writeG, destG_free h]; rfl

theorem unaryG_ok {s : State} {d a : GReg} (ha : FullG s a) (hd : FreeG s d) (f : Word → Word) :
    unaryG s d a f = .ok (setG s d (f (s.g a))) := by
  rw [unaryG, readG_full ha]; exact writeG_free hd _

theorem binaryG_ok {s : State} {d a b : GReg} (ha : FullG s a) (hb : FullG s b) (hd : FreeG s d) (f : Word → Word → Word) :
    binaryG s d a b f = .ok (setG s d (f (s.g a) (s.g b))) := by
  rw [binaryG, readG_full ha, readG_full hb]; exact writeG_free hd _

theorem readIx_ok {s : State} {i : BitVec 4} (h : FullIx s i) : readIx s i = .ok (s.ix i) := by
  unfold readIx State.ix
  split
  · exact readG_full (h ‹_›)
  · rfl

theorem effAddr_ok {s : State} {b : GReg} {i : BitVec 4} (hb : FullG s b) (hi : FullIx s i) (m : BitVec 9) (e : Nat) :
    effAddr s b i m e = .ok (s.g b + s.ix i * BitVec.ofNat 64 e + m.signExtend 64 * BitVec.ofNat 64 e) := by
  rw [effAddr, readG_full hb, readIx_ok hi]; rfl

theorem scopedAddr_ok {s : State} {a : GReg} {i : BitVec 4} (ha : FullG s a) (hi : FullIx s i) (m : BitVec 22) (e : Nat) :
    scopedAddr s a i m e = .ok (s.g a + s.ix i * BitVec.ofNat 64 e + m.signExtend 64) := by
  rw [scopedAddr, readG_full ha, readIx_ok hi]; rfl

/-! ## Checks -/

theorem ensure_true (e : Ex Unit) : ensure true e = .ok () := rfl
theorem ensure_false (e : Ex Unit) : ensure false e = e := rfl

theorem ensure_ok {c : Bool} (h : c = true) (e : Ex Unit) : ensure c e = .ok () := by subst h; rfl

theorem supervisor_ok {s : State} (h : s.fib.sup = true) (n : Nat) : supervisor s n = .ok () := ensure_ok h _

theorem notGuest_ok {s : State} (h : s.fib.guest = false) : notGuest s = .ok () := ensure_ok (by simp [h]) _

theorem needF_ok {s : State} {i : Nat} (h : i < s.k) : needF s i = .ok () := ensure_ok (by simpa using h) _

theorem needV_ok {s : State} {i : Nat} (h : i < s.fib.nv) : needV s i = .ok () := ensure_ok (by simpa using h) _

theorem needFs_ok {s : State} : ∀ {l : List Nat}, (∀ i ∈ l, i < s.k) → needFs s l = .ok ()
  | [], _ => rfl
  | i :: is, h => by
    rw [needFs, needF_ok (h i (by simp))]
    exact needFs_ok fun j hj => h j (by simp [hj])

theorem needVs_ok {s : State} : ∀ {l : List Nat}, (∀ i ∈ l, i < s.fib.nv) → needVs s l = .ok ()
  | [], _ => rfl
  | i :: is, h => by
    rw [needVs, needV_ok (h i (by simp))]
    exact needVs_ok fun j hj => h j (by simp [hj])

theorem waitW_over {s : State} {w : BitVec 1} (h : WaitOver s w) : waitW s w = .ok (s.waited w) := by
  unfold waitW State.waited
  by_cases hw : w = 1
  · obtain ⟨hb, hf⟩ := h hw
    simp only [hw, if_true, waitOn, hb, hf]
    by_cases hm : s.fib.wmask = 0 <;> simp [hm]
  · rw [if_neg hw, if_neg (fun h => hw h.1)]

@[simp] theorem waited_zero (s : State) : s.waited 0 = s := by simp [State.waited]

/-! ## The ends of instructions -/

theorem ending_room {α : Type} {s : State} {n : Nat} (h : Room s n) (body : Ex α) : ending s n body = body := by
  unfold Room at h
  simp [ending, h]

theorem run_ok {s t : State} {n : Nat} {body : Ex State} (h : Room s n) (hb : body = .ok t) :
    run s n body = .next (retire t n) := by
  rw [run, ending_room h, hb]; rfl

theorem runThen_ok {s t : State} {n : Nat} {body : Ex State} {post : State → State} (h : Room s n) (hb : body = .ok t) :
    runThen s n body post = .next (post (retire t n)) := by
  rw [runThen, ending_room h, hb]; rfl

theorem runLoad_ok {s t : State} {n : Nat} {parks : Bool} {body : Ex (State × Bool)} (h : Room s n) (hb : body = .ok (t, parks)) :
    runLoad s n body = .next (if parks then parkData (retire t n) else retire t n) := by
  rw [runLoad, ending_room h, hb]; rfl

/-- An instruction that a check stops raises the check's trap (R172). -/
theorem run_trap {s t : State} {n : Nat} {body : Ex State} {c b : Nat} {v : Word} {p : Bool} (h : Room s n)
    (hb : body = .error ⟨t, .trap c b v p⟩) : run s n body = .next (raise t c b v p) := by
  rw [run, ending_room h, hb]; rfl

/-- An instruction that is held parks its fibre (R126, R333). -/
theorem run_hold {s t : State} {n : Nat} {body : Ex State} {p : Park} (h : Room s n) (hb : body = .error ⟨t, .park p⟩) :
    run s n body = .next (parkAs t p) := by
  rw [run, ending_room h, hb]; rfl

/-! ## Shared units -/

theorem putUnit_self (c : Chip) (k : UnitKind) : c.putUnit k (c.unit k) = c := by cases k <;> rfl

theorem next_alone (u : Unit_) (q : Queued) (hc : q.core < 4) : ({ u with queue := [q] } : Unit_).next = some q := by
  have : u.last % 4 < 4 := Nat.mod_lt _ (by omega)
  unfold Unit_.next
  have key : ∀ i, (([q] : List Queued).find? fun e => e.core == (u.last + i) % 4) =
      if q.core = (u.last + i) % 4 then some q else none := by
    intro i
    by_cases h : q.core = (u.last + i) % 4
    · simp [List.find?, h]
    · have : (q.core == (u.last + i) % 4) = false := by simpa using h
      simp [List.find?, h, this]
  simp only [List.findSome?, key]
  by_cases h1 : q.core = (u.last + 1) % 4
  · rw [if_pos h1]
  rw [if_neg h1]
  by_cases h2 : q.core = (u.last + 2) % 4
  · rw [if_pos h2]
  rw [if_neg h2]
  by_cases h3 : q.core = (u.last + 3) % 4
  · rw [if_pos h3]
  rw [if_neg h3, if_pos (by omega)]

theorem coreIndex_lt (s : State) : s.coreIndex < 4 := by
  unfold State.coreIndex
  split <;> omega

theorem setChip_putUnit_self (s : State) (k : UnitKind) {u : Unit_} (h : s.chip.unit k = u) :
    (s.setChip fun c => c.putUnit k u) = s := by
  subst h
  simp only [State.setChip, putUnit_self]

/-- An idle unit with nothing waiting serves an instruction at once, with what it captures now (R272, R273, R301). -/
theorem takeTurn_free {s : State} {k : UnitKind} (h : UnitFree s k) : takeTurn s k = .ok (s.served k, s.capture) := by
  obtain ⟨hb, hq⟩ := h
  have hn := next_alone (s.chip.unit k) s.capture (coreIndex_lt s)
  rw [hb] at hn
  unfold takeTurn
  simp only [hb, hq, List.find?_nil, Option.isNone_none, List.filter_nil, List.length_nil, Option.getD_none, List.nil_append,
    Option.isSome_none, Bool.false_eq_true, if_false, hn, Option.any_some]
  simp [State.capture, State.served, State.setChip, hb]

theorem vecRun_ok {s t u : State} {before : Ex State} {body : State → Ex State} (h : Room s 1) (hn : s.entered .vector = false)
    (hb : before = .ok t) (hf : UnitFree t .vector) (hu : body (t.served .vector) = .ok u) :
    vecRun s before body = .next (occupy (retire u 1) .vector .vector) :=
  runThen_ok h (by simp [bind, Except.bind, hn, hb, takeTurn_free hf, hu])

theorem allFirst_ok {s : State} (h : s.behindMessage true = false) : s.allFirst = .ok s.settle.drain := by
  unfold State.allFirst
  rw [if_neg (by simp [h])]

theorem arrayRun_ok {s t u v : State} {n : Nat} {before : Ex State} {body : State → Ex State} (h : Room s n)
    (hn : s.entered .array = false) (hb : before = .ok t) (hg : t.fib.guest = false) (ha : t.allFirst = .ok v) (hf : UnitFree v .array)
    (hu : captured (v.served .array) v.capture body = .ok u) :
    arrayRun s n before body = .next (occupy (retire u n) .array .array) :=
  runThen_ok h (by simp [bind, Except.bind, hn, hb, ha, takeTurn_free hf, hu, notGuest_ok hg])

/-! ## The state after a W hold -/

theorem bytesOf_length : ∀ n x, (bytesOf n x).length = n
  | 0, _ => rfl
  | n+1, x => by simp [bytesOf, bytesOf_length n]
/-- The count of writes before which the fibre in focus loads nothing, after a W hold (R379). -/
def State.waitMark (s : State) (w : BitVec 1) : Nat :=
  if w = 1 ∧ s.fib.wmask ≠ 0 then max s.fib.mark (s.fib.tokens.latest s.fib.wmask) else s.fib.mark
theorem waited_fib (s : State) (w) : (s.waited w).fib = { s.fib with mark := s.waitMark w } := by
  unfold State.waited State.waitMark
  split
  · simp [State.acquire, State.setCore, State.afterCopies]
  · rfl
theorem waited_skein (s : State) (w) : (s.waited w).skein = s.skein := by
  unfold State.waited; split
  · simp [State.acquire, State.setCore, State.afterCopies]
  · rfl
theorem waited_bank (s : State) (w) : (s.waited w).bank = s.bank := by
  unfold State.bank; rw [waited_fib, waited_skein]
theorem waited_full {s : State} {r : GReg} (w) : FullG (s.waited w) r = FullG s r := by unfold FullG IsFull FirstRead; rw [waited_bank]
theorem waited_free {s : State} {r : GReg} (w) : FreeG (s.waited w) r = FreeG s r := by unfold FreeG; rw [waited_bank]
theorem waited_fullIx {s : State} {r : BitVec 4} (w) : FullIx (s.waited w) r = FullIx s r := by unfold FullIx; simp only [waited_full]
theorem waited_g {s : State} {r : GReg} (w) : (s.waited w).g r = s.g r := by unfold State.g; rw [waited_bank]
theorem waited_ix {s : State} {r : BitVec 4} (w) : (s.waited w).ix r = s.ix r := by unfold State.ix; simp only [waited_g]
theorem waited_n {s : State} (w) : (s.waited w).n = s.n := by unfold State.n State.p; rw [waited_fib]
theorem waited_p {s : State} (w) : (s.waited w).p = s.p := by unfold State.p; rw [waited_fib]
theorem waited_rm {s : State} (w) : (s.waited w).rm = s.rm := by unfold State.rm; rw [waited_fib]
theorem waited_k {s : State} (w) : (s.waited w).k = s.k := by unfold State.k State.p; rw [waited_fib]
theorem effAddr_w {s : State} {b : GReg} {i : BitVec 4} (w) (hb : FullG s b) (hi : FullIx s i) (m : BitVec 9) (e : Nat) :
    effAddr (s.waited w) b i m e = .ok (s.eaM b i m e) := by
  rw [effAddr_ok (by rwa [waited_full]) (by rwa [waited_fullIx]), waited_g, waited_ix]; rfl
theorem scopedAddr_w {s : State} {b : GReg} {i : BitVec 4} (w) (hb : FullG s b) (hi : FullIx s i) (m : BitVec 22) (e : Nat) :
    scopedAddr (s.waited w) b i m e = .ok (s.eaX b i m e) := by
  rw [scopedAddr_ok (by rwa [waited_full]) (by rwa [waited_fullIx]), waited_g, waited_ix]; rfl

/-- A load that is held parks its fibre. -/
theorem runLoad_hold {s t : State} {n : Nat} {body : Ex (State × Bool)} {p : Park} (h : Room s n)
    (hb : body = .error ⟨t, .park p⟩) : runLoad s n body = .next (parkAs t p) := by
  rw [runLoad, ending_room h, hb]; rfl

/-- A load that a check stops raises the check's trap. -/
theorem runLoad_trap {s t : State} {n : Nat} {body : Ex (State × Bool)} {c b : Nat} {v : Word} {p : Bool} (h : Room s n)
    (hb : body = .error ⟨t, .trap c b v p⟩) : runLoad s n body = .next (raise t c b v p) := by
  rw [runLoad, ending_room h, hb]; rfl

/-! ## Outcomes -/

/-- A stop goes on, but for a hole. -/
theorem stopped_goes (h : Halt) : GoesOnOrHole (stopped h) := by
  unfold stopped
  split
  · exact .inl ⟨_, rfl⟩
  · exact .inl ⟨_, rfl⟩
  · exact .inl ⟨_, rfl⟩
  · rename_i f _; obtain ⟨pa⟩ := f; exact .inr ⟨pa, rfl⟩
  · split
    · exact .inl ⟨_, rfl⟩
    · split <;> exact .inl ⟨_, rfl⟩

/-- Every computation ends in a state that follows, but for a hole. -/
theorem conclude_goes (r : Ex State) : GoesOnOrHole (conclude r) := by
  cases r with
  | ok s => exact .inl ⟨s, rfl⟩
  | error h => exact stopped_goes h

theorem run_goes (s : State) (n : Nat) (body : Ex State) : GoesOnOrHole (run s n body) := conclude_goes _
theorem runThen_goes (s : State) (n : Nat) (body : Ex State) (post : State → State) : GoesOnOrHole (runThen s n body post) :=
  conclude_goes _
theorem runLoad_goes (s : State) (n : Nat) (body : Ex (State × Bool)) : GoesOnOrHole (runLoad s n body) := conclude_goes _

end Sys2Proof.Machine
end

