-- ==== Sys2Proof/Laws/Access.lean ====
section
/-! SUPPORT. What the shared operations of loads and stores answer, and which fields detection, cache fills and translation leave
as they were. -/

namespace Sys2Proof.Machine

/-! ## Release -/

/-- A release at core scope with UPDOUT = 0 and no message in the way performs the fibre's remote stores (R375). -/
theorem release_core {s : State} (hu : s.fib.updout = 0) (hb : s.behindMessage false = false) : s.release 1 = .ok s.settle := by
  unfold State.release
  rw [if_neg (by decide), if_neg (by simp [hu, hb])]
  rfl

/-- A release at chip scope also drains the write-through buffer (R375). -/
theorem release_chip {s : State} (hu : s.fib.updout = 0) (hb : s.behindMessage true = false) : s.release 2 = .ok s.settle.drain := by
  unfold State.release
  rw [if_neg (by decide), if_neg (by simp [hu, show (2 != 1) = true from rfl, hb])]
  rfl

/-- A release waits while an update of the fibre is outstanding (R375). -/
theorem release_waits {s : State} {k : Nat} (hk : k ≠ 0) (hu : s.fib.updout ≠ 0) : s.release k = hold s .retry := by
  unfold State.release
  rw [if_neg hk, if_pos (.inl hu)]

/-! ## Loads and stores -/

/-- An acquire where a scope is given (R190). -/
def State.acquired (s : State) : Option Nat → State
  | none => s
  | some k => s.acquire k

/-- A release where a scope is given (R190). -/
def State.released (s : State) : Option Nat → Ex State
  | none => .ok s
  | some k => s.release k

theorem loadG_ok {s t v u : State} {d : GReg} {ea : Word} {n : Nat} {sg nt : Bool} {sc : Option Nat} {ps : List Piece} {bs : List Byte}
    (hd : FreeG s d) (ha : s.access s.accLoad ea n false = .ok (t, ps))
    (ho : (t.acquired sc).ownFirst nt ps = .ok v) (hl : v.loadPieces nt ps = .ok (u, bs)) :
    loadG s d ea n sg nt sc = .ok (setG u d (extendLoad n sg (ofBytes bs)), u.parksFor ps) := by
  cases sc <;>
    · simp only [State.acquired] at ho
      simp only [loadG, destG_free hd, ha, bind, Except.bind, ho, hl]

theorem storeVal_ok {s t u : State} {ea : Word} {bs : List Byte} {nr : Bool} {sc : Option Nat} {ps : List Piece}
    (ha : s.access s.accStore ea bs.length nr = .ok (t, ps)) (hr : t.released sc = .ok u) (hs : u.storeRoom ps = .ok ()) :
    storeVal s ea bs nr sc = .ok (u.settleLocal.storePieces ps bs) := by
  cases sc with
  | none =>
    cases hr
    simp only [storeVal, ha, bind, Except.bind, hs]
  | some k =>
    simp only [State.released] at hr
    simp only [storeVal, ha, bind, Except.bind, hr, hs]

/-! ## Detection and cache fills -/

theorem detect_nil {s : State} (h : s.dev.ecc = []) (hs : s.dev.soft = []) (pa n : Nat) : s.detect pa n = s := by
  unfold State.detect
  simp [h, hs]

/-- States that differ in the device only. -/
def OnlyDev (s t : State) : Prop := t = s.setDev fun _ => t.dev

theorem OnlyDev.refl (s : State) : OnlyDev s s := rfl
theorem OnlyDev.trans {s t u : State} (h : OnlyDev s t) (g : OnlyDev t u) : OnlyDev s u := by
  unfold OnlyDev at *
  rw [g, h]
  rfl
theorem OnlyDev.of (s : State) (f : Device → Device) : OnlyDev s (s.setDev f) := rfl

theorem foldl_onlyDev {α : Type} (f : State → α → State) (hf : ∀ s a, OnlyDev s (f s a)) : ∀ (l : List α) (s : State),
    OnlyDev s (l.foldl f s)
  | [], _ => rfl
  | x :: xs, _ => (hf _ x).trans (foldl_onlyDev f hf xs _)

theorem putWord_onlyDev (s : State) (pa : Nat) (bs : List Byte) : OnlyDev s (s.putWord pa bs) := rfl

theorem wrote_onlyDev (s : State) : OnlyDev s s.wrote := rfl

theorem putWords_onlyDev (s : State) (l : List (Nat × List Byte)) : OnlyDev s (l.foldl (fun s p => s.putWord p.1 p.2) s) :=
  foldl_onlyDev _ (fun s _ => putWord_onlyDev s _ _) l s

theorem ite_onlyDev {s t u : State} {c : Prop} [Decidable c] (h : OnlyDev s t) (g : OnlyDev s u) : OnlyDev s (if c then t else u) := by
  split
  · exact h
  · exact g

theorem logAt_onlyDev (s : State) (a b c d e f g h : Nat) : OnlyDev s (s.logAt a b c d e f g h) := by
  unfold State.logAt
  extract_lets x ll drop pa head t
  have ht : OnlyDev s t := ite_onlyDev rfl (putWords_onlyDev ..)
  split
  · split <;> rfl
  · exact ht.trans ((wrote_onlyDev t).trans (OnlyDev.of t.wrote _))

theorem logWord_onlyDev (s : State) (a b c : Nat) : OnlyDev s (s.logWord a b c) := ite_onlyDev (logAt_onlyDev ..) (logAt_onlyDev ..)

theorem putStoredWord_onlyDev (s : State) (w : Nat) (v : Word) : OnlyDev s (s.putStoredWord w v) := by
  unfold State.putStoredWord
  dsimp only
  split <;> rfl

theorem detectWord_onlyDev (s : State) (w : Nat) : OnlyDev s (s.detectWord w) := by
  unfold State.detectWord
  split
  · dsimp only
    split
    · exact (OnlyDev.of s _).trans (logWord_onlyDev ..)
    · split
      · exact (OnlyDev.of s _).trans ((OnlyDev.of _ _).trans (logWord_onlyDev ..))
      · exact (OnlyDev.of s _).trans ((putStoredWord_onlyDev ..).trans (logWord_onlyDev ..))
      · exact (OnlyDev.of s _).trans ((OnlyDev.of _ _).trans (logWord_onlyDev ..))
  · split
    · rfl
    · dsimp only
      split
      · exact (OnlyDev.of s _).trans (logWord_onlyDev ..)
      · exact (OnlyDev.of s _).trans ((OnlyDev.of _ _).trans (logWord_onlyDev ..))

theorem detect_onlyDev (s : State) (pa n : Nat) : OnlyDev s (s.detect pa n) := by
  unfold State.detect
  split
  · rfl
  · exact foldl_onlyDev _ (fun s i => detectWord_onlyDev s _) _ s

theorem writeWord_onlyDev (s : State) (pa : Nat) (bs : List Byte) : OnlyDev s (s.writeWord pa bs) := by
  unfold State.writeWord
  extract_lets w t
  have ht : OnlyDev s t := ite_onlyDev (detect_onlyDev ..) rfl
  exact ite_onlyDev (logWord_onlyDev ..) (ite_onlyDev (ht.trans (logWord_onlyDev ..)) (ht.trans (putWord_onlyDev ..)))

theorem writeBlock_onlyDev (s : State) (pa : Nat) (bs : List Byte) : OnlyDev s (s.writeBlock pa bs) :=
  (foldl_onlyDev (fun s (p : Nat × List Byte) => s.writeWord p.1 p.2) (fun s p => writeWord_onlyDev s p.1 p.2) _ s).trans (wrote_onlyDev _)

theorem writeHome_onlyDev (s : State) (pa : Nat) (bs : List Byte) : OnlyDev s (s.writeHome pa bs) :=
  foldl_onlyDev (fun s (p : Nat × List Byte) => s.writeBlock p.1 p.2) (fun s p => writeBlock_onlyDev s p.1 p.2) _ s

theorem holdSlice_onlyDev (s : State) (k : BitVec 512) (line home : Nat) : OnlyDev s (s.holdSlice k line home) := by
  unfold State.holdSlice
  split <;> rfl

theorem reachSlice_onlyDev (s : State) (p : Piece) : OnlyDev s (s.reachSlice p) := by
  unfold State.reachSlice
  split
  · exact foldl_onlyDev _ (fun s l => holdSlice_onlyDev s _ l _) _ s
  · rfl

theorem dirtyLine_onlyDev (s : State) (k line : Nat) : OnlyDev s (s.dirtyLine k line) := by
  unfold State.dirtyLine
  split
  · rfl
  · split
    · rfl
    · exact (holdSlice_onlyDev ..).trans (OnlyDev.of _ _)

theorem takeLine_onlyDev (s : State) (k line : Nat) : OnlyDev s (s.takeLine k line) := by
  unfold State.takeLine
  split
  · exact dirtyLine_onlyDev ..
  · exact (dirtyLine_onlyDev ..).trans (OnlyDev.of _ _)

theorem perform_onlyDev (s : State) (k pa : Nat) (bs : List Byte) : OnlyDev s (s.perform k pa bs) := by
  unfold State.perform
  split
  · exact (takeLine_onlyDev ..).trans (writeHome_onlyDev ..)
  · exact writeHome_onlyDev ..

theorem touchBit_onlyDev (s : State) (k pa : Nat) : OnlyDev s (s.touchBit k pa) := by
  unfold State.touchBit
  split
  · exact takeLine_onlyDev ..
  · rfl

/-- A slice holds the line that it is made to hold (R59). -/
theorem holdSlice_any (s : State) (k : BitVec 512) (line home : Nat) : ((s.holdSlice k line home).dev.slices.any fun e => e.1 == line) = true := by
  unfold State.holdSlice
  split
  · assumption
  · simp

/-! ## Translation -/

/-- The states that differ from another in the device and the translation cache of the chiplet in focus only: a walk meets the errors of
the words that it reads (R51, R437). -/
def OnlyWalk (s t : State) : Prop := t = (s.setDev fun _ => t.dev).setChip fun c => { c with tlb := t.chip.tlb }

theorem OnlyWalk.refl (s : State) : OnlyWalk s s := rfl
theorem OnlyWalk.trans {s t u : State} (h : OnlyWalk s t) (g : OnlyWalk t u) : OnlyWalk s u := by
  unfold OnlyWalk at *; rw [g, h]; rfl
theorem OnlyDev.walk {s t : State} (h : OnlyDev s t) : OnlyWalk s t := by
  unfold OnlyWalk; unfold OnlyDev at h; rw [h]; rfl
theorem OnlyWalk.of (s : State) (l : List TlbEntry) : OnlyWalk s (s.setChip fun c => { c with tlb := l }) := rfl

theorem walked_onlyWalk (s : State) (asid level va : Nat) (m : Word) : OnlyWalk s (s.setChip fun c => c.walked asid level va m) := by
  unfold Chip.walked Chip.cache
  split <;> exact OnlyWalk.of s _

theorem walkRead_onlyWalk (s : State) (asid level va pa : Nat) : OnlyWalk s (s.walkRead asid level va pa).2 := by
  have hd := (detect_onlyDev s pa 8).walk
  unfold State.walkRead
  dsimp only
  split
  · split
    · exact hd
    · split
      · exact hd
      · exact hd.trans (walked_onlyWalk ..)
  · exact hd.trans (walked_onlyWalk ..)

theorem walkFrom_onlyWalk (asid va : Nat) : ∀ (l : List (Nat × Nat)) (level table : Nat) (s : State),
    OnlyWalk s (walkFrom asid va l level table s).2
  | [], _, _, s => rfl
  | (sh, bs) :: rest, level, table, s => by
    rw [walkFrom]
    dsimp only
    have h := walkRead_onlyWalk s asid level (va / 2 ^ sh) (table + 8 * (va / 2 ^ sh % 2 ^ bs))
    split
    · rfl
    split
    · exact h
    split
    · split
      · exact h
      · split
        · exact h
        · exact h.trans (walkFrom_onlyWalk asid va _ _ _ _)
    · split <;> exact h

theorem walk_onlyWalk (s : State) (asid va : Nat) : OnlyWalk s (walk s asid va).2 := by
  unfold walk
  dsimp only
  have h := walkRead_onlyWalk s asid 0 0 (s.dev.astabbase.toNat + 8 * asid)
  split
  · rfl
  split
  · exact h
  split
  · exact h
  · exact h.trans (walkFrom_onlyWalk ..)

theorem check_onlyWalk {s t : State} {a : Acc} {va : Nat} {r : Word × Nat} (h : s.check a va = .ok (t, r)) : OnlyWalk s t := by
  unfold State.check at h
  dsimp only at h
  split at h
  · cases h
  have hw := walk_onlyWalk s a.asid va
  split at h
  · cases h
  · cases h
  · rename_i l pa u hu
    split at h
    · cases h
    · cases h; rw [hu] at hw; exact hw

theorem pages_onlyWalk (a : Acc) : ∀ (fuel va n : Nat) {s t : State} {ps : List Piece}, s.pages a fuel va n = .ok (t, ps) → OnlyWalk s t
  | 0, _, _, s, t, ps, h => by cases h; rfl
  | fuel + 1, va, n, s, t, ps, h => by
    rw [State.pages] at h
    split at h
    · cases h; rfl
    · simp only [bind, Except.bind] at h
      split at h
      · cases h
      · rename_i v hv
        split at h
        · cases h
        · rename_i w hw
          cases h
          exact (check_onlyWalk hv).trans (pages_onlyWalk a fuel _ _ hw)

/-- Translating and checking an access changes no more than the translation cache and
what meeting an error changes (R51, R183, R437). -/
theorem access_onlyWalk {s t : State} {a : Acc} {va : Word} {n : Nat} {nr : Bool} {ps : List Piece} (h : s.access a va n nr = .ok (t, ps)) :
    OnlyWalk s t := by
  unfold State.access at h
  simp only [bind, Except.bind] at h
  split at h
  · cases h
  split at h
  · cases h
  rename_i v hv
  split at h
  · cases h
  · split at h
    · cases h
    · cases h
      exact pages_onlyWalk a _ _ _ hv

/-! ## Atomics -/

/-- An atomic at its executing core reads the old value into gd and stores the new one (R352, R353). -/
theorem atomic_ok {s t r v u : State} {d : GReg} {ea : Word} {n : Nat} {aq rl : Option Nat} {f : Nat → Option Nat} {p : Piece} {h o : Nat}
    (hd : FreeG s d) (ha : atomicHome s s.accAtomic ea n n = .ok (t, p, h)) (hr : t.released rl = .ok r) (hh : h = r.chip.num)
    (hf : r.settleLocal.homeFirst [] [p] (if isDram p.pa then [p.pa / 128] else []) = .ok v) (hm : (v.reachSlice p).rmw (keyArg p.leaf) p.pa n f = (u, some o)) :
    atomic s d ea n aq rl f = .ok (setG (match f o with
      | none => u.acquired aq
      | some v => (u.acquired aq).setCore fun c => { c with l1 := putL1 p.pa (bytesOf n v) c.l1 }) d (BitVec.ofNat 64 o)) := by
  have key : (match rl with
      | none => .ok t
      | some k => t.release k : Ex State) = .ok r := by
    cases rl <;> exact hr
  cases rl <;> cases aq <;>
    · simp only at key
      cases hv : f o <;>
        simp only [atomic, destG_free hd, ha, bind, Except.bind, key, hh, ne_eq, not_true, if_false, hf, hm, State.acquired, hv] <;>
        (first | done | (cases key; simp only [not_true, if_false, hf, hm, hv]))

/-! ## What performing stores leaves of the fibre in focus -/

/-- The fibre in focus is the same one, alive or not as before. -/
def SameName (s t : State) : Prop := t.fib.id = s.fib.id ∧ t.fib.live = s.fib.live

theorem SameName.refl (s : State) : SameName s s := ⟨rfl, rfl⟩
theorem SameName.trans {s t u : State} (h : SameName s t) (g : SameName t u) : SameName s u := ⟨g.1.trans h.1, g.2.trans h.2⟩
theorem OnlyDev.sameName {s t : State} (h : OnlyDev s t) : SameName s t := by
  unfold OnlyDev at h
  rw [h]
  exact ⟨rfl, rfl⟩

theorem onFibre_sameName (s : State) (id : FibreId) (f : Fibre → Fibre) (h : ∀ x, (f x).id = x.id ∧ (f x).live = x.live) :
    SameName s (s.onFibre id f) := by
  unfold State.onFibre
  split
  · exact h s.fib
  · exact ⟨rfl, rfl⟩

theorem onSkein_sameName (s : State) (l k : Nat) (f : Skein → Skein) : SameName s (s.onSkein l k f) := by
  unfold State.onSkein
  split <;> exact ⟨rfl, rfl⟩

theorem onCore_sameName (s : State) (n : Nat) (f : Core → Core) : SameName s (s.onCore n f) := by
  unfold State.onCore
  split <;> exact ⟨rfl, rfl⟩

theorem putReg_sameName (s : State) (id : FibreId) (sh : Bool) (r : GReg) (v : Word) (st : Fill) : SameName s (s.putReg id sh r v st) := by
  unfold State.putReg
  split
  · exact (onSkein_sameName ..).trans (onFibre_sameName _ _ _ fun x => ⟨rfl, rfl⟩)
  · exact onFibre_sameName _ _ _ fun x => ⟨rfl, rfl⟩

theorem finish_sameName (s : State) (id : FibreId) (n : Nat) : SameName s (s.finish id n) := by
  unfold State.finish
  split
  · exact .refl s
  · exact (onCore_sameName ..).trans (onFibre_sameName _ _ _ fun x => ⟨rfl, rfl⟩)

theorem acquireFor_sameName (s : State) (id : FibreId) : SameName s (s.acquireFor id) := by
  unfold State.acquireFor
  split
  · exact .refl s
  · exact onCore_sameName ..

theorem serveWaiter_sameName (s : State) (w : FeWait) : SameName s (s.serveWaiter w) := by
  have hd := ((OnlyDev.of s fun d => { d with feWait := d.feWait.filter fun e => e.fib != w.fib }).trans
    (detect_onlyDev _ w.pa w.len)).sameName
  unfold State.serveWaiter
  dsimp only
  split
  · exact hd.trans (onFibre_sameName _ _ _ fun x => ⟨rfl, rfl⟩)
  · refine hd.trans ?_
    generalize State.detect _ _ _ = u
    have hf (v : Word) := ((putReg_sameName u w.fib w.shadow w.d v Fill.full).trans (acquireFor_sameName _ w.fib)).trans
      (finish_sameName _ w.fib 1)
    split
    · exact (hf _).trans ((touchBit_onlyDev ..).trans (OnlyDev.of _ _)).sameName
    · exact hf _

theorem serveTakes_sameName : ∀ (l : List FeWait) (s : State), SameName s (serveTakes l s)
  | [], s => .refl s
  | w :: ws, s => by
    rw [serveTakes]
    split
    · exact serveWaiter_sameName s w
    · exact (serveWaiter_sameName s w).trans (serveTakes_sameName ws _)

theorem foldl_sameName {α : Type} (f : State → α → State) (h : ∀ s a, SameName s (f s a)) : ∀ (l : List α) (s : State),
    SameName s (l.foldl f s)
  | [], s => .refl s
  | x :: xs, s => (h s x).trans (foldl_sameName f h xs (f s x))

theorem makeFull_sameName (s : State) (w : Nat) : SameName s (s.makeFull w) := by
  unfold State.makeFull
  dsimp only
  split
  · exact ⟨rfl, rfl⟩
  · exact SameName.trans (t := s.setFull w true) ⟨rfl, rfl⟩ ((foldl_sameName _ serveWaiter_sameName _ _).trans (serveTakes_sameName _ _))

theorem performPosted_sameName (s : State) (p : Posted) : SameName s (s.performPosted p) := by
  have h := (writeHome_onlyDev s p.pa p.data).sameName.trans
    (onFibre_sameName (s.writeHome p.pa p.data) p.fib (fun f => { f with mark := (s.writeHome p.pa p.data).dev.writes }) fun x => ⟨rfl, rfl⟩)
  unfold State.performPosted
  dsimp only
  split
  · exact h.trans (makeFull_sameName ..)
  · exact h

theorem performDue_sameName (s : State) (due : Posted → Bool) : SameName s (s.performDue due) := by
  unfold State.performDue
  dsimp only
  split
  · exact .refl s
  · exact SameName.trans (t := s.setDev _) ⟨rfl, rfl⟩ (foldl_sameName _ performPosted_sameName _ _)

/-- Performing a fibre's remote stores leaves the same fibre in focus. -/
theorem settle_sameName (s : State) : SameName s s.settle := by
  unfold State.settle State.settleOf
  dsimp only
  split
  · exact .refl s
  · exact performDue_sameName ..

theorem performEntry_sameName (s : State) (b : Buffered) : SameName s (s.performEntry b) := by
  have h := (perform_onlyDev s b.key b.pa b.data).sameName
  unfold State.performEntry
  dsimp only
  split
  · exact h.trans ((touchBit_onlyDev ..).sameName.trans (makeFull_sameName ..))
  · exact h

theorem performAll_sameName : ∀ (l : List Buffered) (s : State), SameName s (s.performAll l)
  | [], s => .refl s
  | b :: bs, s => (performEntry_sameName s b).trans (performAll_sameName bs _)

theorem remarkCore_sameName (s : State) (n : Nat) : SameName s (s.remarkCore n) := by
  unfold State.remarkCore SameName
  dsimp only
  split <;> exact ⟨rfl, rfl⟩

/-- Draining the write-through buffer leaves the same fibre in focus. -/
theorem drain_sameName (s : State) : SameName s s.drain := by
  unfold State.drain State.drainCore
  dsimp only
  split
  · exact .refl s
  · have hp := performDue_sameName s fun p => s.core.wtb.any fun b => p.hop.along (s.hopFrom (chipNum s.core.num) (s.entryHome b))
    refine hp.trans ((performAll_sameName s.core.wtb _).trans ((onCore_sameName _ s.core.num _).trans (remarkCore_sameName ..)))

/-! ## Focus -/

theorem findOr_num (n : Nat) : ∀ l : List Core, (findOr (fun c => c.num == n) (Core.zero n) l).num = n
  | [] => rfl
  | x :: xs => by
    rw [findOr]
    split
    · rename_i h
      exact eq_of_beq h
    · exact findOr_num n xs

theorem coreAt_num (s : State) (n : Nat) : (s.coreAt n).num = n := by
  unfold State.coreAt
  split
  · assumption
  · exact findOr_num n _

/-- Bringing a core into focus leaves that core in focus. -/
theorem focusCore_num (s : State) (n : Nat) : (s.focusCore n).core.num = n := by
  unfold State.focusCore
  dsimp only
  by_cases h : s.core.num = n
  · simp only [h, if_true]
    split <;> exact h
  · simp only [h, if_false]
    split <;> exact coreAt_num s n

theorem focusCore_fib (s : State) (n : Nat) : (s.focusCore n).fib = s.fib := by
  unfold State.focusCore
  dsimp only
  split <;> split <;> rfl

theorem focusSkein_fib (s : State) (l k : Nat) : (s.focusSkein l k).fib = s.fib := by
  unfold State.focusSkein
  split
  · rfl
  · split <;> rfl

/-- A live fibre in focus stays there, with the core that it runs on. -/
theorem focus_self {s : State} (h : s.fib.live = true) {id : FibreId} (hid : s.fib.id = id) :
    (s.focus id).fib = s.fib ∧ (s.focus id).core.num = s.fib.at_ := by
  unfold State.focus
  rw [if_pos ⟨h, hid⟩]
  exact ⟨(focusCore_fib _ _).trans (focusSkein_fib ..), focusCore_num _ _⟩

theorem fibre?_focus {s : State} (h : s.fib.live = true) : s.fibre? s.fib.id = some s.fib := by
  unfold State.fibre? State.allFibres
  rw [if_pos h]
  simp

/-! ## Vector operands -/

theorem detectSlots_nil {s : State} (h : s.dev.ecc = []) (hs : s.dev.soft = []) (p : Spool) (n : Nat) : detectSlots s p n = s := by
  unfold detectSlots
  generalize List.range n = l
  induction l with
  | nil => rfl
  | cons i l ih => rw [List.foldl_cons, detect_nil h hs, ih]

/-- The bytes of a spool handle depend on memory, its marks and the chiplet's number alone. -/
theorem spoolBytes_congr {s t : State} (hd : t.dev = s.dev) (hc : t.chip.num = s.chip.num)
    (p : Spool) {bs : List Byte} : ∀ n off, spoolBytes s p off n = .ok bs → spoolBytes t p off n = .ok bs
  | n, off, h => by
    have hp : ∀ w, t.poisonedWord w = s.poisonedWord w := fun w => by
      unfold State.poisonedWord State.absentPa State.onSpare
      rw [hd]
    induction n generalizing off bs with
    | zero => exact h
    | succ n ih =>
      unfold spoolBytes at h ⊢
      dsimp only at h ⊢
      rw [hc, hp, hd]
      by_cases hb : s.poisonedWord (spoolByte s.chip.num p off / 8) = true
      · simp [hb] at h
      · simp only [hb, bind, Except.bind] at h ⊢
        cases hr : spoolBytes s p (off + 1) n with
        | error e => simp [hr] at h
        | ok r =>
          simp only [hr] at h
          simp only [ih _ hr]
          exact h

theorem spoolUse_eq {s : State} {h n p : Nat} (hu : spoolUse s h n = .ok p) :
    spoolNo s h = .ok p ∧ ((s.spool p).en && decide (n ≤ (s.spool p).nslot)) = true := by
  unfold spoolUse at hu
  cases hn : spoolNo s h with
  | error e => simp [hn, bind, Except.bind] at hu
  | ok q =>
    cases hc : (s.spool q).en && decide (n ≤ (s.spool q).nslot) with
    | false => simp [hn, bind, Except.bind, hc, ensure, spoolFault, trap] at hu
    | true =>
      simp [hn, bind, Except.bind, hc, ensure] at hu
      subst hu
      exact ⟨rfl, hc⟩

/-- A handle's name and its spool are read from the skein and the core alone. -/
theorem spoolUse_congr {s t : State} (hk : t.skein = s.skein) (hc : t.core.spools = s.core.spools) {h n p : Nat}
    (hu : spoolUse s h n = .ok p) : spoolNo t h = .ok p ∧ spoolUse t h n = .ok p ∧ t.spool p = s.spool p := by
  obtain ⟨hn, he⟩ := spoolUse_eq hu
  have hp : t.spool p = s.spool p := by unfold State.spool; rw [hc]
  have hn' : spoolNo t h = .ok p := by
    unfold spoolNo at hn ⊢
    rw [hk]
    split at hn
    · rename_i hlt
      rw [if_pos hlt]
      exact hn
    · simp [illegal, trap] at hn
  refine ⟨hn', ?_, hp⟩
  unfold spoolUse
  rw [← hp] at he
  simp [hn', bind, Except.bind, ensure, he]

theorem waited_frame (s : State) (w : BitVec 1) : (s.waited w).dev = s.dev ∧ (s.waited w).chip = s.chip ∧ (s.waited w).chips = s.chips ∧
    (s.waited w).core.spools = s.core.spools ∧ (s.waited w).core.num = s.core.num := by
  unfold State.waited
  split
  · simp [State.acquire, State.afterCopies]
  · simp

theorem bit_cases : ∀ b : BitVec 1, b = 0 ∨ b = 1 := by decide

/-- Steps 1 to 4 of R272 pass when the second operand is ready. -/
theorem vecOpen_ready {s : State} {w sp : BitVec 1} {b : VReg} {n : BitVec 4} {y : Nat} {regs : List Nat} (hw : WaitOver s w)
    (hr : ∀ i ∈ regs, i < s.fib.nv) (hy : SecondReady s sp b n y) : vecOpen s w regs sp b n = .ok (s.waited w) := by
  have hv : ∀ i ∈ regs, i < (s.waited w).fib.nv := by rw [waited_fib]; exact hr
  obtain hsp | hsp : sp = 0 ∨ sp = 1 := bit_cases sp
  · subst hsp
    have hb : b.toNat < (s.waited w).fib.nv := by rw [waited_fib]; exact (hy.1 rfl).1
    unfold vecOpen spoolWaitB
    simp [bind, Except.bind, waitW_over hw, needVs_ok hv, needV_ok hb]
  · subst hsp
    obtain ⟨hg, _, _, h, bs, hu, hl, hf, _, _⟩ := hy.2 rfl
    obtain ⟨hno, hus, hp⟩ := spoolUse_congr (waited_skein s w) (waited_frame s w).2.2.2.1 hu
    unfold vecOpen spoolWaitB
    simp [bind, Except.bind, waitW_over hw, needVs_ok hv, notGuest_ok hg, hno, hus, hp, ensure, hl, hf]

/-- The second operand reads as it stood before the wait and the turn. -/
theorem readB_ready {s : State} {w sp : BitVec 1} {b : VReg} {n : BitVec 4} {y : Nat} (hy : SecondReady s sp b n y) :
    readB ((s.waited w).served .vector) sp b n = .ok ((s.waited w).served .vector, y) := by
  obtain hsp | hsp : sp = 0 ∨ sp = 1 := bit_cases sp
  · subst hsp
    have h : readVec ((s.waited w).served .vector) b.toNat = .ok y := by
      have h := (hy.1 rfl).2
      unfold readVec at h ⊢
      have hf : ((s.waited w).served .vector).fib = (s.waited w).fib := rfl
      rw [hf, waited_fib]
      split at h
      · simp at h
      · rename_i hb
        simp only [hb]
        exact h
    simp [readB, bind, Except.bind, h]
  · subst hsp
    obtain ⟨_, he, hso, h, bs, hu, _, _, hbs, hyb⟩ := hy.2 rfl
    obtain ⟨hno, _, hp⟩ := spoolUse_congr (t := (s.waited w).served .vector) (waited_skein s w) (waited_frame s w).2.2.2.1 hu
    have hd : ((s.waited w).served .vector).dev = s.dev := (waited_frame s w).1
    have hb := spoolBytes_congr (t := (s.waited w).served .vector) hd ?_ (s.spool h) 256 0 hbs
    · simp [readB, bind, Except.bind, hno, hp, detectSlots_nil (s := (s.waited w).served .vector) (hd ▸ he) (hd ▸ hso), hb, hyb]
    · simp [State.served, Chip.putUnit, (waited_frame s w).2.1]

/-- An instruction that the unit serves after its W hold reads the fibre's registers as they stood before. -/
theorem served_fib (s : State) (w : BitVec 1) (k : UnitKind) : ((s.waited w).served k).fib = { s.fib with mark := s.waitMark w } :=
  waited_fib s w

theorem served_readM {s : State} {w : BitVec 1} {m x : Nat} (h : readM s m = .ok x) : readM ((s.waited w).served .vector) m = .ok x := by
  unfold readM at h ⊢
  rw [served_fib]
  by_cases h0 : m = 0
  · simp only [h0, if_true] at h ⊢
    exact h
  · by_cases hb : s.fib.mbad.getD m false = true
    · simp [h0, hb] at h
    · simp only [h0, hb, if_false] at h ⊢
      exact h

theorem served_readVec {s : State} {w : BitVec 1} {i x : Nat} (h : readVec s i = .ok x) :
    readVec ((s.waited w).served .vector) i = .ok x := by
  unfold readVec at h ⊢
  rw [served_fib]
  by_cases hb : s.fib.vbad.getD i false = true
  · simp [hb] at h
  · simp only [hb] at h ⊢
    exact h

theorem served_oldVec (s : State) (w : BitVec 1) (i : Nat) : ((s.waited w).served .vector).oldVec i = s.oldVec i := by
  unfold State.oldVec
  rw [served_fib]

theorem waited_unit {s : State} {k : UnitKind} (w : BitVec 1) (h : UnitFree s k) : UnitFree (s.waited w) k := by
  unfold UnitFree
  rw [(waited_frame s w).2.1]
  exact h

/-- A unit that runs nothing has no entry of the fibre in focus. -/
theorem entered_free {s : State} {k : UnitKind} (h : UnitFree s k) : s.entered k = false := by
  unfold State.entered
  rw [h.2]
  rfl

end Sys2Proof.Machine
end

