-- ==== Sys2Proof/Tests/Slice0.lean ====
section
/-! SUPPORT. Tests: words of the manual and of its opcode table decode to their instructions, ill-formed terms are refused, steps
give the results that the manual states, and the hypotheses of the statements are met by concrete states. -/

set_option Elab.async false

namespace Sys2Proof.Tests
open Sys2Proof Sys2Proof.Machine

/-! ## States to test on -/

/-- Core 0 of chiplet 0 about to run at virtual address 0x1000 at user level, with 16 vector registers and a window of 256 bytes.
Addresses below 2^30 lie in DRAM; those from 2^30 on in the scratchpads; those from 2^31 on in DRAM on a page with full/empty bits.
Its skein has every spool handle, barrier and table slot of the core. -/
def base : State :=
  let s := State.reset.withFetchWord 32 0x12530400
  { s with
    fib := { s.fib with nv := 16, winSize := 4 }
    skein := { s.skein with skmap := 0x2100200 }
    dev := { s.dev with mem := memPut (memPut s.dev.mem 0x4108 (bytesOf 8 (2 ^ 48 + 0x1F))) 0x4110 (bytesOf 8 (2 ^ 31 + 0x3F)) } }

/-- A value in a general register. -/
def withG (s : State) (r : Nat) (v : Word) : State := s.setFib fun f => { f with bank := { f.bank with val := f.bank.val.set! r v } }

/-- Values in g2 and g3. -/
def g23 (s : State) (a b : Word) : State := withG (withG s 2 a) 3 b

/-- A fill state in a general register. -/
def withFill (s : State) (r : Nat) (v : Fill) : State := s.setFib fun f => { f with bank := { f.bank with fill := f.bank.fill.set! r v } }

/-- A state at supervisor level. -/
def super (s : State) : State := s.setFib fun f => { f with sup := true }

/-- A launch of four skeins of four fibres at ENTRY 0x2000 with ARGS 0x3000, windows of 256 bytes, 16 vector registers, P = 24,
4 spool handles, 4 barriers and 1 table slot; `fl` is COOP + 2·EVIC + 4·RSTR. -/
def launch (fl : Nat) : Launch where
  lid := 0
  q := 0
  recno := 0
  asid := 0
  sup := false
  prio := 0
  record := bytesOf 64 (0x2000 + 0x3000 * 2 ^ 64 + (4 + 3 * 2 ^ 20 + fl * 2 ^ 28) * 2 ^ 384 +
    (4 + 3 * 2 ^ 3 + 24 * 2 ^ 5 + 4 * 2 ^ 18 + 4 * 2 ^ 23 + 1 * 2 ^ 29) * 2 ^ 416)
  state := .running
  order := 0
  next := 1
  evicted := []
  exited := []
  moved := []
  phases := []
  suspended := []
  asides := []
  since := 0
  lastLeft := 0
  done := none
  late := []
  ready := true
  stall := false
  held := false
  signalled := false

/-- The launch of the fibre. -/
def inLaunch (s : State) (fl : Nat) : State := s.setDev fun d => { d with launches := [launch fl] }

/-- The next state of an outcome; reset for another outcome. -/
def nextOf : Host.Outcome State Fault Refusal → State
  | .next s => s
  | _ => State.reset

/-- The value of a computation that gives one. -/
def valOf {ε α : Type} (d : α) : Except ε α → α
  | .ok a => a
  | .error _ => d

/-- The computation gives a value. -/
def gives {ε α : Type} : Except ε α → Bool
  | .ok _ => true
  | .error _ => false

/-- `gives` is what it says: the computation gives the value that `valOf` takes from it. -/
theorem gives_valOf {ε α : Type} (d : α) {x : Except ε α} (h : gives x = true) : x = .ok (valOf d x) := by
  cases x with
  | ok a => rfl
  | error e => cases h

/-- A fibre whose skein, core and chiplet are in focus is in focus. -/
theorem focus_of (s : State) (h : (s.fib.live && s.skein.is s.fib.id.lid s.fib.id.skn && s.core.num == s.fib.at_ &&
    s.chip.num == chipNum s.fib.at_) = true) : s.focus s.fib.id = s := by
  simp only [Bool.and_eq_true, beq_iff_eq] at h
  simp [State.focus, State.focusSkein, State.focusCore, h]

/-- The words decode to the instructions beside them. -/
noncomputable def decodesTo (nbits : Nat) (l : List (Nat × Instr)) : Bool := l.all fun e => decodeTableWord nbits e.1 == some e.2

/-- The words are refused with the subcauses beside them. -/
noncomputable def refusesWith (l : List ((BitVec 32 × BitVec 32) × Nat)) : Bool :=
  l.all fun e => match decode e.1.1 e.1.2 with
    | .error sub => sub == e.2
    | .ok _ => false

/-! ## Words -/

/-- Words of the integer rows, from the bit patterns of the opcode table with distinct operands. -/
theorem test_decode_integer_1 : decodesTo 32 [
    (0x02EE0000, .add 3 5 6), (0x02EE0100, .sub 3 5 6), (0x02EE0200, .and 3 5 6), (0x02EE0300, .or 3 5 6), (0x02EE0400,
    .xor 3 5 6), (0x02EE0500, .andn 3 5 6), (0x02E8064B, .sll 3 5 0 75), (0x02E8074B, .srl 3 5 0 75), (0x02E8084B, .sra 3
    5 0 75), (0x02EE0900, .slt 3 5 6), (0x02EE0A00, .sltu 3 5 6), (0x02EE0B00, .min 3 5 6), (0x02EE0C00, .max 3 5 6),
    (0x02EE0D00, .minu 3 5 6), (0x02EE0E00, .maxu 3 5 6), (0x02E80F00, .mov 3 5), (0x04EC0007, .addi 3 5 262151),
    (0x06EC0007, .andi 3 5 262151), (0x08EC0007, .ori 3 5 262151), (0x0AEC0007, .xori 3 5 262151), (0x0CC40006, .ldi 3
    262150), (0x0EC40006, .ldiCat 3 262150), (0x10EE0000, .lea 3 5 6 0), (0x10EE0100, .leaF 3 5 6)] = true := by decide +kernel

/-- Words of the integer rows, from the bit patterns of the opcode table with distinct operands. -/
theorem test_decode_integer_2 : decodesTo 32 [
    (0x10EE0200, .bfExtu 3 5 6), (0x10EE0300, .bfExts 3 5 6), (0x10EE0400, .bfIns 3 5 6), (0x10E80500, .popc 3 5),
    (0x10E80600, .clz 3 5), (0x10E80700, .ctz 3 5), (0x12EE0000, .mul 3 5 6), (0x12EE0100, .mulh 3 5 6), (0x12EE0200,
    .mulhu 3 5 6), (0x12EE0300, .div 3 5 6), (0x12EE0400, .divu 3 5 6), (0x12EE0500, .rem 3 5 6), (0x12EE0600, .remu 3 5
    6)] = true := by decide +kernel

/-- Words of the control rows, from the bit patterns of the opcode table with distinct operands. -/
theorem test_decode_control : decodesTo 32 [
    (0x200EC007, .bEq 3 5 16391), (0x202EC007, .bNe 3 5 16391), (0x204EC007, .bLt 3 5 16391), (0x206EC007, .bGe 3 5
    16391), (0x208EC007, .bLtu 3 5 16391), (0x20AEC007, .bGeu 3 5 16391), (0x20CC4006, .bZ 3 16390), (0x20EC4006, .bNz 3
    16390), (0x22E00006, .jal 3 2097158), (0x24180000, .jr 3), (0x24E80100, .jalr 3 5), (0x24180200, .ret 3), (0x26A0F8A8,
    .rpt 5 7 6 1 2 4)] = true := by decide +kernel

/-- Words of the fibre rows, from the bit patterns of the opcode table with distinct operands. -/
theorem test_decode_fibre : decodesTo 32 [
    (0x30EE0000, .spawn 3 5 6), (0x30000100, .exit), (0x30000200, .yield), (0x30180300, .sleep 3), (0x32000000, .evret),
    (0x32000105, .evEn 5), (0x32000205, .evDis 5), (0x32000300, .evWait), (0x34000000, .rgnBegin), (0x34000100, .rgnEnd),
    (0x36C00000, .topoGrid 3), (0x36C00100, .topoSelf 3), (0x36E80200, .topoCore 3 5), (0x36E80300, .topoDom 3 5),
    (0x36E80400, .topoState 3 5), (0x36C00500, .topoLaunch 3), (0x38EE0000, .launch 3 5 6), (0x38E80100, .lchStat 3 5),
    (0x38000200, .ckpt), (0x381D0300, .lqSet 3 5), (0x38180400, .lchAbort 3), (0x38180500, .lchResume 3)] = true := by decide +kernel

/-- Words of the loads and stores rows, from the bit patterns of the opcode table with distinct operands. -/
theorem test_decode_loads_and_stores_1 : decodesTo 32 [
    (0x40F1290B, .ld 1 1 6 1 2 1 267), (0x40F12B0B, .ldAcq 1 1 6 1 2 1 267), (0x40F12D0B, .ldFe 1 1 6 1 2 1 267),
    (0x40F12F0B, .ldNt 1 1 6 1 2 1 267), (0x42AE290A, .st 1 5 6 2 1 266), (0x42AE2B0A, .stRel 1 5 6 2 1 266), (0x42AE2D0A,
    .stFe 1 5 6 2 1 266), (0x42AE2F0A, .stNt 1 5 6 2 1 266), (0x442D2B0A, .ldF 5 5 2 1 1 266), (0x462D2B0A, .stF 5 5 2 1 1
    266), (0x482DF800, .ldFAdv 5 5 1 0), (0x4ABE2F0B, .vld 1 7 6 2 1 3 267), (0x4B3E9F0B, .vldGather 2 7 6 1 1 3 267),
    (0x4CBE2F0B, .vst 1 7 6 2 1 3 267), (0x4D3E9F0B, .vstScatter 2 7 6 1 1 3 267), (0x4E2D2B0A, .vldF 5 5 2 1 1 266),
    (0x4E2DEB0A, .vldFGather 5 5 6 1 1 266), (0x502D2B0A, .vstF 5 5 2 1 1 266), (0x502DEB0A, .vstFScatter 5 5 6 1 1 266),
    (0x52E80000, .ldFeTake 3 5), (0x52180100, .feClr 3), (0x52180200, .feSet 3), (0x52E80300, .feTest 3 5), (0x52C01000,
    .gEmpty 3)] = true := by decide +kernel

/-- Words of the loads and stores rows, from the bit patterns of the opcode table with distinct operands. -/
theorem test_decode_loads_and_stores_2 : decodesTo 32 [
    (0x54037107, .pfL2 3 7 263), (0x540B7107, .pfMsc 3 7 263), (0x54137107, .pfL1 3 7 263)] = true := by decide +kernel

/-- Words of the atomic rows, from the bit patterns of the opcode table with distinct operands. -/
theorem test_decode_atomic : decodesTo 32 [
    (0x60EE0100, .amoAdd 3 5 6 1), (0x60EE0300, .amoAnd 3 5 6 1), (0x60EE0500, .amoOr 3 5 6 1), (0x60EE0700, .amoXor 3 5 6
    1), (0x60EE0900, .amoMin 3 5 6 1), (0x60EE0B00, .amoMax 3 5 6 1), (0x60EE0D00, .amoMinu 3 5 6 1), (0x60EE0F00,
    .amoMaxu 3 5 6 1), (0x60EE1100, .amoSwap 3 5 6 1), (0x60EE1300, .amoInc 3 5 6 1), (0x60EE1500, .amoDec 3 5 6 1),
    (0x62EE0102, .cas 3 5 6 1 2), (0x641D0100, .updAdd 3 5 1), (0x641D0300, .updAnd 3 5 1), (0x641D0500, .updOr 3 5 1),
    (0x641D0700, .updXor 3 5 1), (0x641D0900, .updMin 3 5 1), (0x641D0B00, .updMax 3 5 1), (0x641D0D00, .updMinu 3 5 1),
    (0x641D0F00, .updMaxu 3 5 1), (0x66180000, .migrate 3), (0x66000100, .migrateRet)] = true := by decide +kernel

/-- Words of the barrier rows, from the bit patterns of the opcode table with distinct operands. -/
theorem test_decode_barrier : decodesTo 32 [
    (0x70E80009, .barArr 3 5 9), (0x70E80109, .barArrRlx 3 5 9), (0x70180207, .barWait 3 7), (0x70180307, .barSync 3 7),
    (0x701D0409, .barRmt 3 5 1 1), (0x72180007, .semPost 3 7), (0x72180107, .semWait 3 7), (0x72E80209, .semTry 3 5 9),
    (0x72C00307, .semRd 3 7), (0x74000003, .fence 3), (0x74000103, .fenceAcq 3), (0x74000203, .fenceRel 3), (0x76000005,
    .twait 5), (0x78E80004, .dbarArr 3 5 4), (0x78180104, .dbarWait 3 4), (0x78180204, .dbarSync 3 4), (0x78C00404,
    .dphase 3 4), (0x78C00504, .dphaseT 3 4)] = true := by decide +kernel

/-- Words of the float rows, from the bit patterns of the opcode table with distinct operands. -/
theorem test_decode_float_1 : decodesTo 32 [
    (0x8028E480, .fadd 5 7 9), (0x8028E481, .fsub 5 7 9), (0x8028E482, .fmul 5 7 9), (0x8028E483, .fdiv 5 7 9),
    (0x8028E004, .fsqrt 5 7), (0x8028E485, .fmin 5 7 9), (0x8028E486, .fmax 5 7 9), (0x8028E007, .frint 5 7), (0x8028E008,
    .frintX 5 7), (0x8228E496, .fma 5 7 9 11), (0x8228E497, .fnma 5 7 9 11), (0x8428E496, .fms 5 7 9 11), (0x8428E497,
    .fnms 5 7 9 11), (0x8618E480, .feq 3 7 9), (0x8618E481, .flt 3 7 9), (0x8618E482, .fle 3 7 9), (0x8618E483, .fltQ 3 7
    9), (0x8618E484, .fleQ 3 7 9), (0x8618E485, .fcmp 3 7 9), (0x8618E008, .fclass 3 7), (0x88180000, .precSet 3),
    (0x88000105, .precP 5), (0x88000203, .precRm 3), (0x88C00300, .precGet 3)] = true := by decide +kernel

/-- Words of the float rows, from the bit patterns of the opcode table with distinct operands. -/
theorem test_decode_float_2 : decodesTo 32 [
    (0x88E80400, .precSwap 3 5), (0x88C00500, .fflagsRd 3), (0x88000605, .fflagsClr 5), (0x88000803, .fwinSet 3),
    (0x88C00900, .fwinGet 3), (0x8A28E000, .fmov 5 7), (0x8A28E001, .fneg 5 7), (0x8A28E002, .fabs 5 7), (0x8A28E483,
    .fsgn 5 7 9), (0x8A28E484, .fsgnn 5 7 9), (0x8A28E485, .fsgnx 5 7 9), (0x8A280388, .fconst 5 7)] = true := by decide +kernel

/-- Words of the vector float rows, from the bit patterns of the opcode table with distinct operands. -/
theorem test_decode_vector_float : decodesTo 32 [
    (0xA0AF3C10, .vaddVf 5 7 9 1 1 4 1), (0xA0AF3C11, .vsubVf 5 7 9 1 1 4 1), (0xA0AF3C12, .vmulVf 5 7 9 1 1 4 1),
    (0xA0AF3C13, .vdivVf 5 7 9 1 1 4 1), (0xA0AF3C14, .vminVf 5 7 9 1 1 4 1), (0xA0AF3C15, .vmaxVf 5 7 9 1 1 4 1),
    (0xA0AE0910, .vsqrtVf 5 7 1 1), (0xA0AE0911, .vnegVf 5 7 1 1), (0xA0AE0912, .vabsVf 5 7 1 1), (0xA0AE0913, .vrintVf 5
    7 1 1)] = true := by decide +kernel

/-- Words of the vector integer rows, from the bit patterns of the opcode table with distinct operands. -/
theorem test_decode_vector_integer : decodesTo 32 [
    (0xA2AF3C10, .vaddInt 5 7 9 1 1 4 1 0), (0xA2AF3C14, .vsubInt 5 7 9 1 1 4 1 0), (0xA2AF3C18, .vmulInt 5 7 9 1 1 4 1
    0), (0xA2AF3C1C, .vadds 5 7 9 1 1 4 1 0), (0xA2AF2A12, .vaddus 5 7 9 1 2 2), (0xA2AF2A16, .vsubs 5 7 9 1 2 2),
    (0xA2AF2A1A, .vsubus 5 7 9 1 2 2), (0xA2AF2A1E, .vand 5 7 9 1 2 2), (0xA2AF2A22, .vor 5 7 9 1 2 2), (0xA2AF2A26, .vxor
    5 7 9 1 2 2), (0xA2AF2A2A, .vminInt 5 7 9 1 2 2), (0xA2AF2A2E, .vmaxInt 5 7 9 1 2 2), (0xA2AF2A32, .vminu 5 7 9 1 2
    2), (0xA2AF2A36, .vmaxu 5 7 9 1 2 2), (0xA2AF2A3A, .vsll 5 7 9 1 2 2), (0xA2AF2A3E, .vsrl 5 7 9 1 2 2), (0xA2AF2A42,
    .vsra 5 7 9 1 2 2), (0xA2AF2A46, .vmulh 5 7 9 1 2 2), (0xA2AF2A4A, .vmulhu 5 7 9 1 2 2), (0xA4AF3C10, .vfmaVf 5 7 9 1
    1 4 1), (0xA4AF3C11, .vfmsVf 5 7 9 1 1 4 1), (0xA4AF3C12, .vfnmaVf 5 7 9 1 1 4 1), (0xA4AF3C13, .vfnmsVf 5 7 9 1 1 4
    1), (0xA4AF3C14, .vmac 5 7 9 1 1 4 1 0)] = true := by decide +kernel

/-- Words of the mask rows, from the bit patterns of the opcode table with distinct operands. -/
theorem test_decode_mask : decodesTo 32 [
    (0xA66F3C10, .vcmpEqVf 3 7 9 1 1 4 1), (0xA66F3C11, .vcmpLtVf 3 7 9 1 1 4 1), (0xA66F3C12, .vcmpLeVf 3 7 9 1 1 4 1),
    (0xA66F3C13, .vcmpUnVf 3 7 9 1 1 4 1), (0xA66F3C17, .vcmpEqInt 3 7 9 1 1 4 1 3), (0xA66F3C1B, .vcmpLtInt 3 7 9 1 1 4 1
    3), (0xA66F3C1F, .vcmpLtuInt 3 7 9 1 1 4 1 3), (0xA66AC810, .mand 3 5 6 1), (0xA66AC811, .mor 3 5 6 1), (0xA66AC812,
    .mxor 3 5 6 1), (0xA66AC813, .mandn 3 5 6 1), (0xA66A0814, .mnot 3 5 1), (0xA66A0815, .mpopc 3 5 1), (0xA66A0816,
    .mfirst 3 5 1), (0xA66AC817, .mfromg 3 5 6 1), (0xA66A2818, .mtog 3 5 1 1)] = true := by decide +kernel

/-- Words of the lane rows, from the bit patterns of the opcode table with distinct operands. -/
theorem test_decode_lane_1 : decodesTo 32 [
    (0xA8AE0900, .vrsumVf 5 7 1 1), (0xA8AE0901, .vrminVf 5 7 1 1), (0xA8AE0902, .vrmaxVf 5 7 1 1), (0xA8AE0903, .vscanVf
    5 7 1 1), (0xA8AE0911, .vrsumInt 5 7 1 1 1), (0xA8AE0915, .vrminInt 5 7 1 1 1), (0xA8AE0919, .vrmaxInt 5 7 1 1 1),
    (0xA8AE091D, .vrminu 5 7 1 1 1), (0xA8AE0921, .vrmaxu 5 7 1 1 1), (0xA8AE0925, .vrand 5 7 1 1 1), (0xA8AE0929, .vror 5
    7 1 1 1), (0xA8AE092D, .vrxor 5 7 1 1 1), (0xA8AE0931, .vscanInt 5 7 1 1 1), (0xAAAF3C13, .vperm 5 7 9 1 1 4 1 3),
    (0xAAAECA0C, .vslideup 5 7 6 1 2 4), (0xAAAECA14, .vslidedn 5 7 6 1 2 4), (0xAAAA0919, .vsplatInt 5 5 1 1 1),
    (0xAAAE091C, .vsplatVf 5 7 1 1), (0xAA6EC821, .vextInt 3 7 6 1 1), (0xAAAEC824, .vextVf 5 7 6 1), (0xAAAACA2A,
    .vinsInt 5 5 6 1 2 2), (0xAAAECA2C, .vinsVf 5 7 6 1 2), (0xAAAE0932, .vcompress 5 7 1 1 2), (0xAAAE0838, .vmov 5 7 1)] = true := by decide +kernel

/-- Words of the lane rows, from the bit patterns of the opcode table with distinct operands. -/
theorem test_decode_lane_2 : decodesTo 32 [
    (0xACAF2A04, .vcvtVfInt 5 7 9 1 2 4), (0xACAF2A0A, .vcvtIntVf 5 7 9 1 2 2), (0xACAF2A0E, .vcvtIntVfRtz 5 7 9 1 2 2),
    (0xACAF2A12, .vcvtVfIeee 5 7 9 1 2 2), (0xACAF2A16, .vcvtIeeeVf 5 7 9 1 2 2)] = true := by decide +kernel

/-- Words of the spool rows, from the bit patterns of the opcode table with distinct operands. -/
theorem test_decode_spool : decodesTo 32 [
    (0xAE000057, .splWait 5 7), (0xAE000157, .splRel 5 7), (0xAEC00207, .splRd 3 7), (0xAEC00379, .splWr 3 7 9),
    (0xAE000457, .splCommit 5 7), (0xAEC00507, .splFill 3 7)] = true := by decide +kernel

/-- Words of the table and stream bits rows, from the bit patterns of the opcode table with distinct operands. -/
theorem test_decode_table_and_stream_bits_1 : decodesTo 32 [
    (0xC0180209, .cvtVfInt 3 2 9), (0xC0C0064B, .cvtIntVf 3 2 1 11), (0xC0180A09, .cvtVfIeee 3 2 9), (0xC0C00E09,
    .cvtIeeeVf 3 2 9), (0xC0181007, .cvtVfE8m10 3 7), (0xC0C01107, .cvtE8m10Vf 3 7), (0xC2180002, .tblLoad 3 2),
    (0xC2180102, .tblLoadArr 3 2), (0xC2E80203, .tblRd 3 5 3), (0xC2000301, .tblInv 1), (0xC4EE0000, .qntBf16 3 5 6 0),
    (0xC4EE0100, .qntF32 3 5 6 0), (0xC4EE0200, .qntVf 3 5 6 0), (0xC4C50803, .qntFin 3 5 3), (0xC6E80000, .tritPack 3 5),
    (0xC6E80100, .tritUnpack 3 5), (0xC6EE0200, .tritPackM 3 5 6), (0xC6EE0300, .tritUnpackM 3 5 6), (0xC8180000, .bsSeek
    3), (0xC8C00107, .bsGet 3 7), (0xC8C00207, .bsGets 3 7), (0xC8C00307, .bsPeek 3 7), (0xC8000405, .bsSkip 5),
    (0xC8C50500, .bsGetr 3 5)] = true := by decide +kernel

/-- Words of the table and stream bits rows, from the bit patterns of the opcode table with distinct operands. -/
theorem test_decode_table_and_stream_bits_2 : decodesTo 32 [
    (0xC8030600, .bsSkipr 3), (0xC8C00707, .bsRice 3 7), (0xC8000800, .bsAlign), (0xC8C00900, .bsPos 3)] = true := by decide +kernel

/-- Words of the array rows, from the bit patterns of the opcode table with distinct operands. -/
theorem test_decode_array : decodesTo 32 [
    (0xD4180007, .arrAnchor 3 7), (0xD41D0109, .arrAnchorOs 3 5 9), (0xD4000257, .arrClear 5 7), (0xD41D0309, .arrClearLd
    3 5 9), (0xD4C50409, .arrStat 3 5 9), (0xD41D0509, .arrStatRec 3 5 9), (0xD4E80600, .arrWscaleRd 3 5), (0xD41D0700,
    .arrWscale 3 5)] = true := by decide +kernel

/-- Words of the posting rows, from the bit patterns of the opcode table with distinct operands. -/
theorem test_decode_posting : decodesTo 32 [
    (0xDAEE0000, .plOpen 3 5 6), (0xDA180100, .plClose 3), (0xDAE80200, .plNext 3 5), (0xDAEE0300, .plSkip 3 5 6),
    (0xDAE80400, .plScore 3 5), (0xDAE80500, .plStat 3 5)] = true := by decide +kernel

/-- Words of the message and stream rows, from the bit patterns of the opcode table with distinct operands. -/
theorem test_decode_message_and_stream : decodesTo 32 [
    (0xEC1D0009, .strBind 3 5 9), (0xEC000105, .strUnbind 5), (0xEC030207, .strExp 3 7), (0xEC000300, .netDrain),
    (0xEC1D0400, .strRoute 3 5), (0xECE80500, .strRdroute 3 5)] = true := by decide +kernel

/-- Words of the system rows, from the bit patterns of the opcode table with distinct operands. -/
theorem test_decode_system_1 : decodesTo 32 [
    (0xF0C02800, .srd 3 10), (0xF0C02801, .swr 3 10), (0xF0C02802, .sswp 3 10), (0xF0C02803, .sset 3 10), (0xF0C02804,
    .sclr 3 10), (0xF2180007, .trap 3 7), (0xF2000100, .tret), (0xF2000200, .tretRgn), (0xF2000300, .hallmark),
    (0xF4EE0003, .diagStc 3 5 6 1 1), (0xF4E80100, .diagLdc 3 5), (0xF4E80200, .diagLdr 3 5), (0xF4180300, .diagPoison 3),
    (0xF4180400, .diagFence 3), (0xF4E80500, .diagHmrd 3 5), (0xF6003000, .l1Inv), (0xF6003100, .l1Drain), (0xF6183200,
    .l2Wb 3), (0xF6183300, .l2Wbinv 3), (0xF6183400, .l2Inv 3), (0xF6183500, .l2WbinvSlice 3), (0xF6183600, .mscWbinvKey
    3), (0xF6003700, .cmSync), (0xF61D4000, .tlbInvVa 3 5)] = true := by decide +kernel

/-- Words of the system rows, from the bit patterns of the opcode table with distinct operands. -/
theorem test_decode_system_2 : decodesTo 32 [
    (0xF6184100, .tlbInvAs 3), (0xF6004200, .tlbInvAll), (0xF6004300, .tlbSync), (0xF6EE4400, .tlbProbe 3 5 6)] = true := by decide +kernel

/-- Base and extension words of the long rows: examples of the manual, and words laid out from R164 to R170. -/
theorem test_decode_long_1 : decodesTo 64 [
    (0x80000000_E00A6001, .cpPull 1 2 3 0 0 0 1 4 0 0 0 0 0),
    (0x80000000_E00A6040, .cpPull 1 2 3 0 1 0 0 4 0 0 0 0 0),
    (0x200FDF00_E00A6011, .cpPull 1 2 3 0 0 2 1 1 0 0 0 63 31),
    (0x0C900000_E34C64C2, .cpPush 5 1 4 3 0 19 2 3 0 1 1),
    (0x00000004_E58B4000, .cpGather 6 1 3 2 0 0 0 0 0 4),
    (0x23000000_D00A6000, .arrMv 1 2 3 0 2 3 0 0 0 0),
    (0x0F98A600_D0026040, .arrMm 0 2 3 0 0 15 1 3 1 1 3),
    (0x04000000_D2286000, .arrDrain 5 3 0 0 2 0 0 0),
    (0x33000000_D98A0000, .plIsect 6 1 2 0 1 1 3),
    (0x33000000_D98A0040, .plUnion 6 1 2 0 1 1 3)] = true := by decide +kernel

/-- Base and extension words of the long rows: examples of the manual, and words laid out from R164 to R170. -/
theorem test_decode_long_2 : decodesTo 64 [
    (0x14980000_D8C70080, .plFuse 3 7 0 4 3),
    (0x15A00000_D88000C0, .plTopk 2 0 0 5 4),
    (0x67C00010_57A80600, .ldScoped 6 5 0 3 0 6 1 15 16),
    (0x6BC00010_57A80E00, .stScoped 6 5 0 3 6 2 15 16),
    (0x67C00000_68530040, .amoScoped 1 2 3 0 1 6 1 0),
    (0x6FC00000_6A538040, .casScoped 1 2 3 4 0 1 6 3 0),
    (0x10000000_E80D0040, .msgReply 1 5 0),
    (0x20200000_E8188001, .msgSend 0 3 0 4 0 1 0 2 2),
    (0x24190600_EA000004, .strSend 0 0 4 0 0 9 100 0 3),
    (0x24190600_EA000040, .strRecv 0 0 9 100 0 3)] = true := by decide +kernel

/-- R172, R173: words that are no instruction, with the subcause of the first check that fails. -/
theorem test_decode_refuses : refusesWith [
    ((0, 0), 0), ((1, 0), 1), ((0xF8000000, 0), 1), ((0xF6004500, 0), 2), ((0x21000000, 0), 5), ((0x0C880000, 0), 5),
    ((0x41A19000, 0), 5), ((0x02000001, 0), 5), ((0x0200FF00, 0), 2), ((0xF2010000, 0), 5), ((0x26280481, 0), 5),
    ((0x57A80600, 0x87C00010), 5), ((0x57A80600, 0x63C00010), 5), ((0x57A80600, 0x6EC00010), 5), ((0xD00A6000, 0x23000001), 5),
    ((0xD00A6000, 0x23000200), 5), ((0xD98A0000, 0x33008000), 5), ((0xE80D0040, 0x90000000), 6)] =
  true := by decide +kernel
/-! ## Integer, control and fibres -/

/-- Operands 2^63 + 1 and −251. -/
def ops : State := g23 base 0x8000000000000001 0xFFFFFFFFFFFFFF05

theorem witness_integer : Room ops 1 ∧ FullG ops 2 ∧ FullG ops 3 ∧ FreeG ops 1 ∧ FullG ops 1 ∧ bit (0x4B : BitVec 8) 6 = true := by
  dsimp only [Room, FullG, FreeG]; decide +kernel

/-- R240: 2^63 + 1 + 2^63 + 1 = 2 modulo 2^64. -/
theorem test_add_wraps : (nextOf (exec (.add 1 2 2) ops)).g 1 = 2 := by decide +kernel
/-- R246: −2^63 / −1 gives −2^63, and a remainder of 0. -/
theorem test_div_overflow : (nextOf (exec (.div 1 2 3) (g23 base 0x8000000000000000 0xFFFFFFFFFFFFFFFF))).g 1 = 0x8000000000000000 ∧
    (nextOf (exec (.rem 1 2 3) (g23 base 0x8000000000000000 0xFFFFFFFFFFFFFFFF))).g 1 = 0 := by decide +kernel
/-- R246: division by zero gives all ones, and the remainder is the dividend. -/
theorem test_div_zero : (nextOf (exec (.divu 1 2 3) (g23 base 5 0))).g 1 = 0xFFFFFFFFFFFFFFFF ∧
    (nextOf (exec (.remu 1 2 3) (g23 base 5 0))).g 1 = 5 := by decide +kernel

/-- At the address of the manual's example `jal g7, f` (R252), with g3 = 0x100404. -/
def atCall : State := withG (base.setFib fun f => { f with pc := 0x100100 }) 3 0x100400

/-- At the last word of the address space. -/
def atEnd : State := base.setFib fun f => { f with pc := 0x01FFFFFFFFFFFFFC }

theorem witness_branches : FullG ops 2 ∧ FullG ops 3 ∧ Room ops 1 ∧ (ops.fib.pc + ((8 : BitVec 15).signExtend 64 <<< 2)).toNat < 2 ^ 57 ∧
    decide (ops.g 2 ≠ ops.g 3) = true ∧ decide (ops.g 2 = 0) = false := by
  dsimp only [Room, FullG]; decide +kernel
/-- R251: below address 0, and past the end of the space. -/
theorem witness_branches_far : 2 ^ 57 ≤ (ops.fib.pc + ((0x4000 : BitVec 15).signExtend 64 <<< 2)).toNat ∧ endsSpace atEnd 1 = true ∧
    FullG atEnd 2 := by
  dsimp only [FullG]; decide +kernel
/-- R249: g7 = 0x100104 and PC = 0x100400. -/
theorem test_jal : (nextOf (exec (.jal 7 0xC0) atCall)).g 7 = 0x100104 ∧ (nextOf (exec (.jal 7 0xC0) atCall)).fib.pc = 0x100400 := by
  decide +kernel
theorem witness_jumps : FullG atCall 3 ∧ FreeG atCall 7 ∧ (atCall.g 3).toNat < 2 ^ 57 ∧
    (atCall.fib.pc + ((0xC0 : BitVec 22).signExtend 64 <<< 2)).toNat < 2 ^ 57 := by
  dsimp only [FullG, FreeG]; decide +kernel
theorem witness_jumps_far : FullG (withG atCall 3 (2 ^ 57)) 3 ∧ FreeG (withG atCall 3 (2 ^ 57)) 7 ∧ 2 ^ 57 ≤ ((withG atCall 3 (2 ^ 57)).g 3).toNat ∧
    2 ^ 57 ≤ (atCall.fib.pc + ((0x200000 : BitVec 22).signExtend 64 <<< 2)).toNat := by
  dsimp only [FullG, FreeG]; decide +kernel

/-- In iteration 1 of a frame of one `fadd f1, f2, f3` with strides 1, 2 and 3, 64 iterations, P = 24. -/
def inFrame : State := base.setFib fun f => { f with
  flive := 20
  rpt := { act := true, aside := false, iter := 1, pos := 0, word := 0x26080000 + 1 * 2 ^ 10 + 2 * 2 ^ 7 + 3 * 2 ^ 4, start := f.pc
           words := [(FmtF.pack { major := 0x40, d := 1, a := 2, b := 3, fn := 0 }, 0)] } }

theorem witness_repeat_opens : Room base 1 ∧ base.fib.rpt.inBody = false := by dsimp only [Room]; decide +kernel
theorem witness_repeat_replays : Room inFrame 1 ∧ inFrame.fib.rpt.inBody = true ∧ 0 < inFrame.fib.rpt.iter ∧
    inFrame.fib.rpt.words[inFrame.fib.rpt.pos]? = some (FmtF.pack { major := 0x40, d := 1, a := 2, b := 3, fn := 0 }, 0) ∧
    (2 : Nat) < inFrame.k ∧ 4 < inFrame.k ∧ 6 < inFrame.k ∧ gives (readF inFrame 4) = true ∧ gives (readF inFrame 6) = true := by
  dsimp only [Room]; decide +kernel
theorem witness_repeat_advances : inFrame.fib.rpt.inBody = true ∧ inFrame.fib.rpt.pos < inFrame.fib.rpt.k ∧
    inFrame.fib.rpt.iter < inFrame.fib.rpt.count ∧ inFrame.fib.rpt.pos + 1 = inFrame.fib.rpt.k ∧
    inFrame.fib.rpt.iter + 1 < inFrame.fib.rpt.count := by decide +kernel
/-- The frame at its last instruction, and one of two instructions at its first. -/
theorem witness_repeat_advances_ends :
    (let r := { inFrame.fib.rpt with iter := 63 }
     r.inBody = true ∧ r.pos < r.k ∧ r.iter < r.count ∧ r.pos + 1 = r.k ∧ r.iter + 1 = r.count) ∧
    (let r := { inFrame.fib.rpt with word := 0x26280000 }
     r.inBody = true ∧ r.pos < r.k ∧ r.iter < r.count ∧ r.pos + 1 < r.k) := by decide +kernel

theorem witness_fibre_control : Room (withG base 2 0) 1 ∧ (withG base 2 0).fib.guest = false ∧ FullG (withG base 2 0) 2 ∧
    (withG base 2 0).g 2 = 0 ∧ FullG (withG base 2 5) 2 ∧ (withG base 2 5).g 2 ≠ 0 ∧ gives (settled base) = true ∧ base.fib.anyPending = false := by
  dsimp only [Room, FullG]; decide +kernel
theorem witness_event_fibre : let s := base.setFib fun f => { f with evf := true, inev := true }
    Room s 1 ∧ s.fib.guest = false ∧ s.fib.evf = true ∧ s.fib.inev = true ∧ FullG s 7 := by
  dsimp only [Room, FullG]; decide +kernel
theorem witness_spawn : let s := inLaunch base 1
    Room s 1 ∧ s.fib.guest = false ∧ FullG s 2 ∧ FullG s 3 ∧ FreeG s 1 ∧ s.myLaunch = some (launch 1) ∧
    s.freeIndex (launch 1) s.fib.id.skn = some 1 ∧ s.roomFor s.core.num (launch 1) 1 = true ∧ s.fib.updout = 0 ∧
    s.behindMessage false = false ∧ 1 ≤ (launch 1).fm1 ∧ (∀ g ∈ s.allFibres, g.id.fix ≠ 1) ∧ (∃ g ∈ s.allFibres, g.id.fix = 0) := by
  dsimp only [Room, FullG, FreeG]; decide +kernel
/-- The four fibres of the skein exist: no index is free. -/
theorem witness_spawn_full : let s := { inLaunch base 1 with fibres := [1, 2, 3].map fun i => { base.fib with id := { lid := 0, skn := 0, fix := i } } }
    s.freeIndex (launch 1) s.fib.id.skn = none ∧ Room s 1 ∧ s.myLaunch = some (launch 1) := by
  dsimp only [Room]; decide +kernel
theorem witness_exit : Room base 1 ∧ base.fib.guest = false ∧ base.fib.inev = false ∧ base.fib.tokens.busy 0xFF = false ∧
    base.fib.updout = 0 ∧ base.fib.anyPending = false ∧ base.settle.fib.tokens.failed 0xFF = none ∧ base.behindMessage false = false := by
  dsimp only [Room]; decide +kernel
/-- Another fibre of the skein remains, for a fibre that is not the event fibre and for one that is. -/
theorem witness_exit_others : let s := { base with fibres := [{ base.fib with id := { lid := 0, skn := 0, fix := 2 } }] }
    (s.settle.fibres.filter fun x => x.id.lid == s.settle.fib.id.lid && x.id.skn == s.settle.fib.id.skn).length = 1 ∧
    s.settle.fib.tokens.failed 0xFF = none ∧ s.settle.fib.evf = false ∧ s.behindMessage false = false ∧
    (s.setFib fun f => { f with evf := true }).settle.fib.evf = true := by decide +kernel
theorem witness_topology : Room (withG base 2 4) 1 ∧ FullG (withG base 2 4) 2 ∧ FreeG base 1 ∧ ((withG base 2 4).g 2).toNat < base.exposed ∧
    base.exposed ≤ ((withG base 2 960).g 2).toNat ∧ (inLaunch base 1).myLaunch = some (launch 1) := by
  dsimp only [Room, FullG, FreeG]; decide +kernel

/-! ## Memory and atomics -/

/-- 16 bytes at virtual address 0x2000 (DRAM), at 0x40000100 (the own scratchpad) and at 0x80002000 (a full/empty page). -/
def mem : State := base.setDev fun d => { d with
  mem := memPut (memPut (memPut d.mem (2 ^ 30 + 0x2000) (bytesOf 16 0xFEDCBA9876543210FFEEDDCCBBAA9988))
    (2 ^ 48 + 0x100) (bytesOf 16 0xFEDCBA9876543210FFEEDDCCBBAA9988)) (2 ^ 31 + 0x2000) (bytesOf 16 0xFEDCBA9876543210FFEEDDCCBBAA9988) }
/-- Base g2 = 0x2000 and a value in g3. -/
def mem2 : State := g23 mem 0x2000 0x0123456789ABCDEF
/-- What translation gives an access. -/
def acc (v : State) (a : Acc) (ea : Word) (n : Nat) : State × List Piece := valOf (v, []) (v.access a ea n false)
/-- No piece. -/
def noPiece : Piece := { pa := 0, va := 0, len := 0, leaf := 0 }
/-- What comes before a load of pieces. -/
def own (v : State) (nt : Bool) (ps : List Piece) : State := valOf v (v.ownFirst nt ps)
/-- What comes before an atomic or an update at home. -/
def homed (v : State) (p : Piece) : State := valOf v (v.homeFirst [] [p] (if isDram p.pa then [p.pa / 128] else []))
/-- The piece of an atomic. -/
def ah (v : State) (a : Acc) (ea : Word) (n : Nat) : State × Piece × Nat := valOf (v, noPiece, 0) (atomicHome v a ea n n)
/-- The piece of a full/empty access. -/
def fp (v : State) (a : Acc) (ea : Word) (n : Nat) : State × Piece := valOf (v, noPiece) (fePiece v a ea n)

theorem witness_integer_loads : Room mem2 1 ∧ WaitOver mem2 1 ∧ FullG mem2 2 ∧ FullIx mem2 15 ∧ FullIx mem2 3 ∧ FreeG mem2 1 ∧
    gives (mem2.access mem2.accLoad (mem2.eaM 2 15 1 4) 4 false) = true ∧
    (let p := acc mem2 mem2.accLoad (mem2.eaM 2 15 1 4) 4
     gives (p.1.ownFirst false p.2) = true ∧ gives ((own p.1 false p.2).loadPieces false p.2) = true ∧
     gives (p.1.ownFirst true p.2) = true ∧ gives ((own p.1 true p.2).loadPieces true p.2) = true ∧
     gives ((p.1.acquire 2).ownFirst false p.2) = true ∧ gives ((own (p.1.acquire 2) false p.2).loadPieces false p.2) = true) := by
  dsimp only [Room, WaitOver, FullG, FullIx, FreeG]; decide +kernel
theorem witness_integer_stores : FullG mem2 3 ∧ FullG mem2 2 ∧ FullIx mem2 15 ∧
    gives (mem2.access mem2.accStore (mem2.eaM 2 15 1 4) 4 false) = true ∧ (acc mem2 mem2.accStore 0x2004 4).1.fib.updout = 0 ∧
    (let p := acc mem2 mem2.accStore 0x2004 4
     p.1.storeRoom p.2 = .ok () ∧ p.1.behindMessage true = false ∧ p.1.settle.drain.storeRoom p.2 = .ok ()) := by
  dsimp only [FullG, FullIx]; decide +kernel
/-- R189: bytes 4 to 7 at 0x2000, sign-extended. -/
theorem test_ld_signed : (nextOf (exec (.ld 2 1 1 2 15 0 1) mem2)).g 1 = 0xFFFFFFFFFFEEDDCC := by decide +kernel
/-- R61: the store is in the buffer, and its own load sees it. -/
theorem test_store_then_load : (nextOf (exec (.ld 0 0 1 2 15 0 5) (nextOf (exec (.st 1 3 2 15 0 2) mem2)))).g 1 = 0xCD := by decide +kernel
theorem witness_scoped_load_store : Room mem2 2 ∧ FullIx mem2 15 ∧ gives (mem2.access mem2.accLoad (mem2.eaX 2 15 4 4) 4 false) = true ∧
    gives (mem2.access mem2.accStore (mem2.eaX 2 15 4 4) 4 false) = true ∧
    (let p := acc mem2 mem2.accLoad (mem2.eaX 2 15 4 4) 4
     gives ((p.1.acquire 6).ownFirst false p.2) = true ∧ gives ((own (p.1.acquire 6) false p.2).loadPieces false p.2) = true ∧
     gives (p.1.ownFirst false p.2) = true ∧ gives ((own p.1 false p.2).loadPieces false p.2) = true) ∧
    gives ((acc mem2 mem2.accStore (mem2.eaX 2 15 4 4) 4).1.release 6) = true ∧
    (let p := acc mem2 mem2.accStore (mem2.eaX 2 15 4 4) 4
     (valOf mem2 (p.1.release 6)).storeRoom p.2 = .ok () ∧ p.1.storeRoom p.2 = .ok ()) := by
  dsimp only [Room, FullIx, FullG]; decide +kernel
theorem witness_prefetch : Room mem2 1 ∧ FullG mem2 2 ∧ FullIx mem2 15 ∧
    gives ((withG mem2 2 (2 ^ 40)).access mem2.accLoad ((withG mem2 2 (2 ^ 40)).eaM 2 15 0 128) 1 false) = false ∧
    (let p := acc mem2 mem2.accLoad (mem2.eaM 2 15 0 128) 1
     p.2.length = 1 ∧ (p.2.all fun q => isDram q.pa && q.len == 1 && !leafByp q.leaf) = true ∧ p.1.dev.ecc = [] ∧ p.1.dev.soft = [] ∧
       mem2.fib.guest = false ∧ p.1.firstPoison (2 ^ 30 + 0x2000) 128 = none) ∧
    (let s := withG mem2 2 0x40000100
     (acc s s.accLoad (s.eaM 2 15 0 128) 1).2.all (fun q => isPad q.pa) = true) := by
  dsimp only [Room, FullG, FullIx]; decide +kernel

/-- A reply has filled g2, which a prefetch reads first. -/
theorem witness_prefetch_acquires : let s := mem2.setFib fun f => { f with bank := { f.bank with acq := f.bank.acq.set! 2 true } }
    IsFull s 2 ∧ FirstRead s 2 ∧ (firstReads s [2]).core.l1 = [] ∧ ¬FirstRead (firstReads s [2]) 2 := by decide +kernel

/-- g2 names a word of a full/empty page. -/
def fe : State := g23 mem 0x80002000 0x0123456789ABCDEF
/-- The word is empty. -/
def feEmpty : State := fe.setDev fun d => { d with empt := [(2 ^ 31 + 0x2000) / 8] }

theorem witness_full_empty_loads : Room fe 1 ∧ WaitOver fe 1 ∧ FullG fe 2 ∧ FreeG fe 1 ∧ FullIx fe 15 ∧
    gives (fePiece fe fe.accLoad (fe.eaM 2 15 1 4) 4) = true ∧ gives (fePiece fe fe.accAtomic (fe.g 2) 8) = true ∧
    (let p := fp fe fe.accLoad (fe.eaM 2 15 1 4) 4
     p.1.emptyWord (p.2.pa / 8) = false ∧ gives (p.1.loadPieces true [p.2]) = true) ∧
    (let p := fp feEmpty feEmpty.accAtomic (fe.g 2) 8
     gives (fePiece feEmpty feEmpty.accAtomic (fe.g 2) 8) = true ∧ p.1.emptyWord (p.2.pa / 8) = true) := by
  dsimp only [Room, WaitOver, FullG, FreeG, FullIx]; decide +kernel
/-- R196: a take of a full word leaves it empty, and one of an empty word parks. -/
theorem test_take : (nextOf (exec (.ldFeTake 1 2) fe)).emptyWord ((2 ^ 31 + 0x2000) / 8) = true ∧
    (nextOf (exec (.ldFeTake 1 2) fe)).g 1 = 0xFFEEDDCCBBAA9988 ∧ (nextOf (exec (.ldFeTake 1 2) feEmpty)).fib.park = some .fe := by decide +kernel
/-- Where the store of a full/empty store goes. -/
def fl (v : State) (ea : Word) (n : Nat) : State × Piece := valOf (v, noPiece) (fePlace v v.accStore ea n)
/-- In DRAM, with g2 = 0x41000000 in the scratchpad of chiplet 1 and with g2 = 0x40000100 in the own one. -/
theorem witness_full_empty_stores : FullG fe 3 ∧ FreeG fe 3 ∧
    [0x80002000, 0x41000000, 0x40000100].all (fun ea =>
      let s := withG fe 2 ea
      let p := fl s (s.eaM 2 15 1 4) 4
      let x := p.1.settle.drain
      gives (fePlace s s.accStore (s.eaM 2 15 1 4) 4) && p.1.fib.updout == 0 && !p.1.behindMessage true && x.storeRoom [p.2] == .ok () &&
        x.settleLocal.remote p.2 == (ea == 0x41000000) && isPad p.2.pa == (ea != 0x80002000)) = true := by
  dsimp only [FullG, FreeG]; decide +kernel
theorem witness_full_empty_bits : gives (fePiece fe fe.accStore (fe.g 2) 8) = true ∧ gives (fePiece fe fe.accLoad (fe.g 2) 8) = true ∧
    (let p := fl fe (fe.g 2) 8
     let x := p.1.settle.drain
     gives (fePlace fe fe.accStore (fe.g 2) 8) = true ∧ p.1.fib.updout = 0 ∧ p.1.behindMessage true = false ∧
       gives (x.homeFirst [x.pieceWay p.2] [p.2] []) = true) ∧
    fe.dev.empt.Nodup ∧ fe.dev.feWait = [] := by decide +kernel
/-- R196: `st.fe` to DRAM makes the word full when its entry leaves the write-through buffer. -/
theorem test_store_full : let t := nextOf (exec (.stFe 3 3 2 15 0 0) feEmpty)
    t.core.wtb.length = 1 ∧ t.emptyWord ((2 ^ 31 + 0x2000) / 8) = true ∧
    (nextOf (exec (.writeThroughDrain 0 0) t)).emptyWord ((2 ^ 31 + 0x2000) / 8) = false := by decide +kernel

/-- 1.5 at P = 24 (n = 5), and f5 holds it. -/
def vfb : Nat := vfEncode 24 (FV.fin false 3 (-1))
def vf : State := (g23 (base.setDev fun d => { d with mem := memPut d.mem (2 ^ 30 + 0x2000) (bytesOf 64 (vfb + vfb * 2 ^ 64)) }) 0x2000 0).setFib
  fun f => { f with flive := 20, f := f.f.set! 5 (BitVec.ofNat 128 vfb) }
/-- The length byte of the value at g2, and the value. -/
def vf1 : State × List Byte :=
  let p := acc vf vf.accLoad 0x2000 1
  valOf (vf, []) ((own p.1 true p.2).readParts true (some 0) p.2)

theorem witness_float_load : Room vf 1 ∧ WaitOver vf 0 ∧ FullG vf 2 ∧ (3 : Nat) < vf.k ∧ FullIx vf 15 ∧ ofBytes vf1.2 % 16 + 1 = 5 ∧
    gives (vf.access vf.accLoad (vf.eaM 2 15 0 vf.n) 1 false) = true ∧ vf.eaM 2 15 0 vf.n = vf.g 2 ∧ crosses 0x2000 5 = false ∧
    gives (vf1.1.access vf1.1.accLoad 0x2000 5 false) = true ∧
    (let p := acc vf1.1 vf1.1.accLoad 0x2000 5
     gives (p.1.ownFirst true p.2) = true ∧ gives ((own p.1 true p.2).loadParts true (some 0) p.2) = true) ∧
    (let p := acc vf vf.accLoad 0x2000 1
     gives (p.1.ownFirst true p.2) = true ∧ gives ((own p.1 true p.2).readParts true (some 0) p.2) = true) := by
  dsimp only [Room, WaitOver, FullG, FullIx]; decide +kernel
theorem witness_float_store : (5 : Nat) < vf.k ∧ readV0 vf 5 = .ok vfb ∧ crosses (vf.eaM 2 15 1 vf.n) vf.n = false ∧
    gives (vf.access vf.accStore (vf.eaM 2 15 1 vf.n) vf.n false) = true ∧
    (let p := acc vf vf.accStore (vf.eaM 2 15 1 vf.n) vf.n
     p.1.fib.updout = 0 ∧ p.1.behindMessage true = false ∧ p.1.storeRoom p.2 = .ok () ∧ p.1.settle.drain.storeRoom p.2 = .ok ()) := by
  refine ⟨?_, rfl, ?_, ?_, ?_⟩ <;> decide +kernel
/-- R191, R192: 1.5 is loaded as it is held, and g2 moves past its 5 bytes. -/
theorem test_ldf_adv : ((nextOf (exec (.ldFAdv 3 2 0 3) vf)).fib.f.getD 3 0).toNat = vfb ∧ (nextOf (exec (.ldFAdv 3 2 0 3) vf)).g 2 = 0x2005 := by
  decide +kernel

/-- v1 holds 32 offsets, all of which skip their lane but the first. -/
def vm : State := vf.setFib fun f => { f with
  v := f.v.set! 1 (BitVec.ofNat 2048 (packLanes 4 (1 :: List.replicate 63 0x80000000))) }
/-- The offsets as a number. -/
def vmOffs : Nat := packLanes 4 (1 :: List.replicate 63 0x80000000)
/-- The lanes of v3. -/
def vmLanes : Nat := packLanes 5 (List.replicate 51 vfb)
/-- v3 holds 1.5 in every lane. -/
def vmF : State := vm.setFib fun f => { f with v := f.v.set! 3 (BitVec.ofNat 2048 vmLanes) }

theorem witness_gather : Room vm 1 ∧ WaitOver vm 0 ∧ FullG vm 2 ∧ (3 : Nat) < vm.fib.nv ∧ (1 : Nat) < vm.fib.nv ∧
    readVec vm 1 = .ok vmOffs ∧
    gives (laneAccess vm.accLoad 4 noCheck (jumpLanes 0x2000 vmOffs 0 4 64) vm) = true ∧
    (let p := valOf (vm, []) (laneAccess vm.accLoad 4 noCheck (jumpLanes 0x2000 vmOffs 0 4 64) vm)
     gives (p.1.ownFirst true (p.2.flatMap Prod.snd)) = true ∧ gives (laneLoads true p.2 (own p.1 true (p.2.flatMap Prod.snd))) = true ∧ p.2.length = 1) := by
  dsimp only [Room, WaitOver, FullG]; refine ⟨?_, ?_, ?_, ?_, ?_, ?_, ?_, ?_⟩ <;> decide +kernel
theorem witness_vector_rows : FullIx vmF 15 ∧ vmF.eaM 2 15 0 8 = 0x2000 ∧
    gives (laneAccess vmF.accLoad 8 noCheck (rowLanes 0x2000 8 32) vmF) = true ∧
    gives (laneAccess vmF.accStore 8 noCheck (rowLanes 0x2000 8 32) vmF) = true ∧ readVec vmF 3 = .ok vmLanes ∧
    gives (laneAccess vmF.accStore 5 (regLaneOk 5 vmLanes) (rowLanes 0x2000 5 51) vmF) = true ∧ vfLanes vmF.n = 51 ∧
    (let p := valOf (vmF, []) (laneAccess vmF.accStore 8 noCheck (rowLanes 0x2000 8 32) vmF)
     p.1.fib.updout = 0 ∧ p.1.behindMessage true = false ∧ p.1.storeRoom (p.2.flatMap Prod.snd) = .ok () ∧
       p.1.settle.drain.storeRoom (p.2.flatMap Prod.snd) = .ok ()) := by
  dsimp only [FullIx, FullG]; refine ⟨?_, ?_, ?_, ?_, ?_, ?_, ?_, ?_⟩ <;> decide +kernel
theorem witness_vector_row_loads :
    (let p := valOf (vmF, []) (laneAccess vmF.accLoad 8 noCheck (rowLanes 0x2000 8 32) vmF)
     let all := p.2.flatMap Prod.snd
     gives (p.1.ownFirst true all) = true ∧ gives (laneLoads true p.2 (own p.1 true all)) = true ∧
       gives ((p.1.acquire 2).ownFirst true all) = true ∧ gives (laneLoads true p.2 (own (p.1.acquire 2) true all)) = true) := by
  decide +kernel
/-- Every lane of a row of 51 VF values. -/
def vmRow : State := vmF.setDev fun d => { d with mem := memPut d.mem (2 ^ 30 + 0x2000) (bytesOf 255 vmLanes) }
theorem witness_vector_vf_row :
    gives (laneAccess vmRow.accLoad 5 (memLaneOk 5 true) (rowLanes 0x2000 5 51) vmRow) = true ∧
    gives (laneAccess vmRow.accLoad 5 (memLaneOk 5 false) (rowLanes 0x2000 5 51) (vmRow.acquire 2)) = true ∧
    (let p := valOf (vmRow, []) (laneAccess vmRow.accLoad 5 (memLaneOk 5 true) (rowLanes 0x2000 5 51) vmRow)
     gives (laneLoads true p.2 p.1) = true) := by decide +kernel
theorem witness_vf_gather : gives (laneAccess vmF.accLoad 5 (memLaneOk 5 true) (jumpLanes 0x1FFB vmOffs 0 5 51) vmF) = true ∧
    gives (laneAccess vmF.accStore 5 (regLaneOk 5 vmLanes) (jumpLanes 0x1FFB vmOffs 0 5 51) vmF) = true ∧
    gives (laneAccess vmF.accStore 4 noCheck (jumpLanes 0x2000 vmOffs 0 4 64) vmF) = true := by decide +kernel

theorem witness_store_at_home : mem2.dev.ecc = [] ∧ mem2.dev.soft = [] ∧ mem2.absentPa (2 ^ 30 + 0x2003) = false ∧
    mem2.poisonedWord ((2 ^ 30 + 0x2003) / 8) = false ∧ Memory.wf mem2.dev.mem = true := by decide +kernel
theorem witness_store_to_poison : let s := mem2.setDev fun d => { d with pois := [(2 ^ 30 + 0x2000) / 8] }
    s.dev.ecc = [] ∧ s.poisonedWord ((2 ^ 30 + 0x2000) / 8) = true ∧ s.absentPa (2 ^ 30 + 0x2000) = false ∧
    s.onSpare ((2 ^ 30 + 0x2000) / 8) = false ∧ s.dev.pois.Nodup ∧
    (s.setDev fun d => { d with memLost := [0] }).absentPa (2 ^ 30 + 0x2000) = true := by decide +kernel
/-- A piece in the own scratchpad, one in that of chiplet 1, one in DRAM. -/
theorem witness_where_stores_go : isPad (2 ^ 48 + 0x100) = true ∧ padChip (2 ^ 48 + 0x100) = mem2.chip.num ∧ isPad (2 ^ 48 + 2 ^ 24) = true ∧
    padChip (2 ^ 48 + 2 ^ 24) ≠ mem2.chip.num ∧ isPad (2 ^ 30 + 0x2000) = false := by decide +kernel
theorem witness_local_loads : mem2.core.wtb = [] ∧ mem2.dev.ecc = [] ∧ mem2.dev.soft = [] ∧ mem2.altLine ((2 ^ 30 + 0x2000) / 128) = none ∧
    mem2.lineKeyOf ((2 ^ 30 + 0x2000) / 128) = mem2.key 0 ∧ mem2.firstPoison (2 ^ 48 + 0x100) 9 = none ∧
    (mem2.setDev fun d => { d with pois := [(2 ^ 48 + 0x108) / 8] }).firstPoison (2 ^ 48 + 0x100) 9 = some (2 ^ 48 + 0x108) := by
  decide +kernel
/-- R384: a byte stored to a poisoned word is lost, a whole word clears the mark. -/
theorem test_poison_store : let s := mem2.setDev fun d => { d with pois := [(2 ^ 48 + 0x100) / 8] }
    ((s.writeHome (2 ^ 48 + 0x100) [0xAA]).poisonedWord ((2 ^ 48 + 0x100) / 8) = true) ∧
    ((s.writeHome (2 ^ 48 + 0x100) (List.replicate 8 0xAA)).poisonedWord ((2 ^ 48 + 0x100) / 8) = false) := by decide +kernel

/-- The read, change and write of an atomic add at the full width. -/
def addAt : State × Option Nat :=
  let t := ah mem2 mem2.accAtomic 0x2000 8
  ((homed t.1.settleLocal t.2.1).reachSlice t.2.1).rmw (keyArg t.2.1.leaf) t.2.1.pa 8 fun x => some ((x + 0x0123456789ABCDEF) % 2 ^ 64)
theorem witness_atomics : Room mem2 1 ∧ FullG mem2 2 ∧ FullG mem2 3 ∧ FreeG mem2 1 ∧ FullG mem2 4 ∧
    gives (atomicHome mem2 mem2.accAtomic (mem2.g 2) 8 8) = true ∧ (ah mem2 mem2.accAtomic 0x2000 8).2.2 = mem2.chip.num ∧
    (let t := ah mem2 mem2.accAtomic 0x2000 8
     gives (t.1.settleLocal.homeFirst [] [t.2.1] [t.2.1.pa / 128]) = true ∧ isDram t.2.1.pa = true) ∧ addAt.2 = some 0xFFEEDDCCBBAA9988 := by
  dsimp only [Room, FullG, FreeG]; decide +kernel
/-- R352: the old value in g1, the sum at home. -/
theorem test_amo_add : (nextOf (exec (.amoAdd 1 2 3 1) mem2)).g 1 = 0xFFEEDDCCBBAA9988 ∧
    ofBytes ((nextOf (exec (.amoAdd 1 2 3 1) mem2)).homeBytes (2 ^ 30 + 0x2000) 8) = (0xFFEEDDCCBBAA9988 + 0x0123456789ABCDEF) % 2 ^ 64 := by
  decide +kernel
theorem witness_scoped_atomics : Room mem2 2 ∧ WaitOver mem2 1 ∧ FullG mem2 4 ∧
    gives (atomicHome mem2 mem2.accAtomic (mem2.g 2 + (8 : BitVec 22).signExtend 64) 8 8) = true ∧
    (let t := ah mem2 mem2.accAtomic 0x2008 8
     gives (t.1.release 2) = true ∧ t.2.2 = (valOf t.1 (t.1.release 2)).chip.num ∧
     gives ((valOf t.1 (t.1.release 2)).settleLocal.homeFirst [] [t.2.1] [t.2.1.pa / 128]) = true ∧ isDram t.2.1.pa = true ∧
     ((homed (valOf t.1 (t.1.release 2)).settleLocal t.2.1 |>.reachSlice t.2.1).rmw (keyArg t.2.1.leaf) t.2.1.pa 8
       fun y => some (amoValue 3 64 y 5)).2 = some 0xFEDCBA9876543210 ∧
     gives (t.1.settleLocal.homeFirst [] [t.2.1] [t.2.1.pa / 128]) = true ∧ ((homed t.1.settleLocal t.2.1 |>.reachSlice t.2.1).rmw (keyArg t.2.1.leaf) t.2.1.pa 8 fun y => if y = 5 then some 7 else none).2 = some 0xFEDCBA9876543210) := by
  dsimp only [Room, WaitOver, FullG]; decide +kernel
theorem witness_remote_updates : gives (atomicHome mem2 mem2.accAtomic (mem2.g 2) 4 4) = true ∧
    (let t := ah mem2 mem2.accAtomic 0x2000 4
     gives (t.1.homeFirst [] [t.2.1] [t.2.1.pa / 128]) = true ∧ isDram t.2.1.pa = true) ∧
    (ah mem2 mem2.accAtomic 0x2000 4).1.fib.updout < 65535 := by decide +kernel
/-- An AND update on its way to the word at 0x2000. -/
def upd : Update where
  fib := mem2.fib.id
  op := 1
  size := 4
  b := 0xF0F0
  pa := 2 ^ 30 + 0x2000
  key := 0
  core := 0
  asid := 0
  va := 0x2000
  hop := Hop.none_
/-- Two updates of the fibre to different words. -/
def updating : State := (mem2.setFib fun f => { f with updout := 2 }).setDev fun d => { d with updates := [{ upd with pa := 2 ^ 30 }, upd] }
theorem witness_remote_update_arrives : updating.dev.updates[1]? = some upd ∧
    (updating.dev.updates.take 1).any (fun e => e.fib == upd.fib && e.pa / 8 == upd.pa / 8) = false ∧ updating.dev.posted = [] ∧
    (updating.migHops.any fun h => h.before upd.hop) = false ∧ (∀ f ∈ updating.allFibres, f.waitsAt upd.core = false) ∧ (updating.freeEntry upd.core).isSome = true ∧
    (updating.fibre? upd.fib).isSome = true ∧
    [upd, upd].any (fun e => e.fib == upd.fib && e.pa / 8 == upd.pa / 8) = true ∧
    ((updating.setDev fun d => { d with updates := dropAt d.updates 1 }).rmw upd.key upd.pa upd.size
      fun x => some (amoValue upd.op (8 * upd.size) x upd.b.toNat)).2 = some 0xBBAA9988 := by decide +kernel
/-- R358: UPDOUT falls to 1 and the word takes 0xBBAA9988 AND 0xF0F0. -/
theorem test_update : (nextOf (exec (.remoteUpdateExecute 1) updating)).fib.updout = 1 ∧
    ofBytes ((nextOf (exec (.remoteUpdateExecute 1) updating)).homeBytes (2 ^ 30 + 0x2000) 4) = 0x9080 := by decide +kernel

/-- g2 names the scratchpad of chiplet 1. -/
def far : State := withG mem2 2 0x41002000
/-- A guest of chiplet 1 on chiplet 0. -/
def guest : State := mem2.setFib fun f => { f with guest := true, home := 4, at_ := 0 }
theorem witness_migration : Room far 1 ∧ FullG far 2 ∧ FullG far 3 ∧ FreeG far 1 ∧ gives (atomicHome far far.accLoad (far.g 2) 1 1) = true ∧
    (ah far far.accLoad (far.g 2) 1).2.2 = 1 ∧ (ah far far.accLoad (far.g 2) 1).1.chip.num = 0 ∧ far.fib.updout = 0 ∧
    gives (atomicHome far far.accAtomic (far.g 2) 8 8) = true ∧ (ah far far.accAtomic (far.g 2) 8).2.2 = 1 ∧
    (ah mem2 mem2.accLoad (mem2.g 2) 1).2.2 = 0 ∧ guest.fib.guest = true ∧ guest.fib.updout = 0 ∧ far.fib.guest = false ∧
    (ah far far.accLoad (far.g 2) 1).1.behindMessage true = false ∧ (ah far far.accAtomic (far.g 2) 8).1.behindMessage true = false ∧
    guest.behindMessage true = false ∧ gives (guest.reach (chipNum guest.fib.home)) = true := by
  dsimp only [Room, FullG, FreeG]; decide +kernel
/-- A fibre that travels, or visits. -/
def trip (t : Option Travel) (g : Bool) (n : Nat) (p : Option Park) : State := mem2.setFib fun f => { f with
  guest := g, home := 0, at_ := if t = some .home then 5 else 0, travel := t, guestCount := n, park := p, parkedAt := 0 }
/-- A way from chiplet 0 to another. -/
def wayTo (n : Nat) : Hop := { src := 0, dst := n, mesh := false, sent := 5 }

/-- Nothing and something before it on its way; a guest entry free, none free, and a guest that waits for one. -/
theorem witness_guests : (let s := trip (some (.out 5 (wayTo 1))) false 0 none
      s.fib.live = true ∧ s.fib.travel = some (.out 5 (wayTo 1)) ∧ (s.migHops.any fun e => e.before (wayTo 1)) = false ∧
      (s.migHops.any fun e => e.before { wayTo 1 with sent := 6 }) = true ∧ (∀ y ∈ s.allFibres, y.waitsAt 5 = false) ∧
      s.freeEntry 5 = some 0 ∧
      ({ s with fibres := (List.range 16).map fun i => { s.fib with id := { lid := 1, skn := 0, fix := i }, travel := none, guest := true, at_ := 5, guestEntry := i } } : State).freeEntry 5 = none) ∧
    (trip none true 64 none).fib.guestCount = 64 ∧ (trip none true 0 (some .data)).fib.parked = true ∧
    ((trip none true 0 (some .data)).setDev fun d => { d with clk := 409600 }).clocksSince 0 0 4096 = true ∧
    (trip (some .home) true 0 none).fib.travel = some .home ∧ (trip (some .home) true 0 none).fib.updout = 0 ∧
    ((trip (some .home) true 0 none).migHops.any fun e => e.along (wayTo 1)) = false ∧ mem2.dev.posted = [] := by decide +kernel

/-! ## Synchronisation -/

/-- The fibre in its launch, with barrier 3 of its skein as given. -/
def atBar (b : Barrier) (count : Word) : State := withG ((inLaunch base 1).setCore fun c => { c with bars := c.bars.set! 3 b }) 2 count
/-- A barrier at which two of three have arrived, one of them releasing at chip scope. -/
def waiting : Barrier := { Barrier.zero with npart := 3, arr := 2, scope := 2 }
theorem witness_arrivals : (0 = 0 ∨ 256 < 0) ∧ 256 < 257 ∧ (waiting.npart ≠ 0 ∧ waiting.npart ≠ 4) ∧ (1 ≤ 256 ∧ Barrier.zero.npart = 0 ∧
    Barrier.zero.arr + 1 ≠ 256) ∧ (Barrier.zero.arr + 1 = 1) ∧ (waiting.npart = 3 ∧ waiting.arr + 1 = 3) := by decide +kernel
/-- A barrier that completes while the fibre is parked for it, and one that does not. -/
theorem witness_completes : let s := (atBar waiting 3).setFib fun f => { f with park := some (.barrier 3 false) }
    (s.bar 3).ph = false ∧ ({ waiting with ph := true } : Barrier).ph ≠ (s.bar 3).ph ∧ waiting.ph = (s.bar 3).ph ∧ s.fib.live = true ∧
    s.fib.at_ = s.core.num ∧ s.fibres = [] := by decide +kernel
/-- Three fibres parked for barrier 3, one of them for its other parity, and one that runs. -/
def several : State :=
  let s := atBar waiting 3
  let mk (i : Nat) (p : Option Park) : Fibre := { s.fib with id := { lid := 0, skn := 0, fix := i }, park := p }
  { s with fibres := [mk 1 (some (.barrier 3 false)), mk 2 (some (.barrier 3 true)), mk 3 (some (.barrier 3 false))] }
/-- R361: the last arrival lets both fibres go on that are parked for its phase, and no other. -/
theorem witness_completes_all : (several.allFibres.map Fibre.id).Nodup ∧
    ((several.setBar 0 3 { waiting with ph := true }).allFibres.map fun f => f.park) =
      [none, none, some (.barrier 3 true), none] := by decide +kernel
theorem witness_barriers : let s := atBar waiting 3
    Room s 1 ∧ s.fib.guest = false ∧ FullG s 2 ∧ FreeG s 1 ∧ barNo s.skein 3 = some 3 ∧ s.fib.updout = 0 ∧ s.settle.core = s.core ∧ s.behindMessage false = false ∧ s.settle.bar 3 = s.bar 3 ∧ s.waiting false = none ∧
    ((s.setFib fun f => { f with bwait := some { at_ := f.pc, domain := false, bar := 3, level := 0, parity := false, phase := 0 } }).waiting false).isSome = true ∧
    gives ((s.bar 3).arrive 3 0) = true ∧ gives ((s.bar 3).arrive 3 1) = true ∧ gives ((s.bar 3).arrive 2 1) = false ∧
    gives ((s.bar 3).arrive 257 1) = false ∧ (s.bar 3).ph ≠ (s.g 2).getLsbD 0 ∧ s.fib.bwait = none := by
  dsimp only [Room, FullG, FreeG]; decide +kernel
/-- Two of three have arrived: the third flips the parity. One of three: it stays. -/
theorem witness_last_arrival : (valOf Barrier.zero (waiting.arrive 3 1)).ph = true ∧
    (valOf Barrier.zero (Barrier.zero.arrive 3 1)).ph = false ∧
    (atBar waiting 2).fib.bwait = none ∧ ((atBar waiting 2).bar 3).ph = ((atBar waiting 2).g 2).getLsbD 0 := by decide +kernel
/-- R361: the third of three arrivals flips the parity and gives the parity of the phase joined. -/
theorem test_bar_arr : let t := nextOf (exec (.barArr 1 2 3) (atBar waiting 3))
    (t.bar 3).ph = true ∧ (t.bar 3).arr = 0 ∧ t.g 1 = 0 := by decide +kernel
/-- R360: a count that differs from that of the phase raises the barrier participant fault. -/
theorem test_bar_participants : (nextOf (exec (.barSync 2 3) (atBar waiting 2))).fib.trap.tcause ≠ 0 := by decide +kernel

/-- g2 names skein 3 with barrier 1; g3 the count 5. -/
def toSkein (dst : Word) : State := g23 (inLaunch base 1) dst 5
theorem witness_remote_barriers : let s := toSkein 0x2000003
    Room s 1 ∧ s.fib.guest = false ∧ FullG s 2 ∧ FullG s 3 ∧ s.myLaunch = some (launch 1) ∧ s.fib.updout = 0 ∧ s.behindMessage true = false ∧
    gives ((toSkein 0x300003).reach ((toSkein 0x300003).skeinPlace 0 3)) = true ∧ s.settle.behindMessage true = false ∧
    s.settle.drain.behindMessage true = false ∧ s.behindMessage false = false ∧
    bits (s.g 2) 25 39 ≠ 0 ∧ bits ((toSkein 0x300003).g 2) 25 39 = 0 ∧ bits ((toSkein 0x300003).g 2) 0 20 < (launch 1).nsk ∧
    (launch 1).nsk ≤ bits ((toSkein 4).g 2) 0 20 := by dsimp only [Room, FullG]; decide +kernel
/-- A remote arrival of count 3 at barrier 0 of skein 0, releasing at chip scope. -/
def arrival : Msg where
  dstLid := 0
  dstSkn := 0
  dest := 0
  srcFib := base.fib.id
  rreg := 0
  shadow := false
  rpl := false
  tag := 0
  npl := 1
  pay := [3]
  kind := 1
  aux := 10
  srcCore := 0
  hop := Hop.none_
/-- Two arrivals from two fibres. -/
def arriving : State := (inLaunch base 1).setDev fun d => { d with arrivals := [{ arrival with srcFib := { lid := 0, skn := 2, fix := 0 } }, arrival] }
theorem witness_remote_arrival : arriving.dev.arrivals[1]? = some arrival ∧ earlierMsg arriving.dev.arrivals 1 arrival = false ∧ arriving.ctlBefore arrival.hop = false ∧
    arriving.liveLaunch? 0 = some (launch 1) ∧ arrival.dstSkn ∉ (launch 1).exited ∧ arriving.receiver? 0 0 = some arriving.skein ∧
    arriving.backlog (launch 1) 0 = false ∧ arriving.pullOverflow 0 0 = arriving ∧ earlierMsg [arrival, arrival] 1 arrival = true ∧
    gives (((arriving.coreAt arriving.skein.core).bars.getD (arriving.skein.bb + 0) Barrier.zero).arrive 3 2) = true ∧
    0 < arriving.skein.bn := by decide +kernel

/-- R362, R393: the three refusals of a remote arrival, and room in the dead-letter log for their record. -/
theorem witness_refused_remote : let s := arriving
    let k := { s.skein with skmap := 0x2020200 }
    let at_ (p : List Word) := s.countRemote (launch 1) k { arrival with pay := p }
    let ring (t : State) : Nat := t.ringWord (launch 1) 2
    (∀ p ∈ ([[0], [300], [3, 9]] : List (List Word)), ring (at_ p) = 1) ∧ ring (at_ [3]) = 0 ∧
    k.bn = 4 ∧ gives (waiting.arrive 4 0) = false := by decide +kernel

/-- Semaphore 5 with a count and a line of waiters; g2 holds the count asked for. -/
def atSem (c : Nat) (line : List (FibreId × Nat)) (n : Word) : State :=
  withG ((inLaunch base 1).onSem 5 fun v => { v with count := c, line := line }) 2 n
theorem witness_semaphores : let s := atSem 4 [] 3
    Room s 1 ∧ FullG s 2 ∧ FreeG s 1 ∧ (s.g 2).toNat < 2 ^ 32 ∧ s.fib.updout = 0 ∧ s.behindMessage true = false ∧ s.settle.drain.chip = s.chip ∧ (s.sem 5).count = 4 ∧
    (s.sem 5).line = [] ∧ ((atSem 4 [(base.fib.id, 9)] 2).sem 5).line ≠ [] := by dsimp only [Room, FullG, FreeG]; decide +kernel
/-- R363: a waiter whose count suffices takes it at once. R145: with a shorter count it joins the line. -/
theorem test_sem_wait : ((nextOf (exec (.semWait 2 5) (atSem 4 [] 3))).sem 5).count = 1 ∧
    ((nextOf (exec (.semWait 2 5) (atSem 4 [] 6))).sem 5).line = [(base.fib.id, 6)] := by decide +kernel
theorem witness_fences : Room base 1 ∧ base.fib.updout = 0 ∧ (base.setFib fun f => { f with updout := 1 }).fib.updout ≠ 0 ∧ base.behindMessage true = false ∧ base.behindMessage false = false ∧
    base.fib.tokens.busy 3 = false ∧ base.fib.tokens.failed 3 = none ∧
    (base.setFib fun f => { f with tokens := { f.tokens with count := f.tokens.count.set! 1 2 } }).fib.tokens.busy 3 = true ∧
    (base.setFib fun f => { f with tokens := { f.tokens with err := f.tokens.err.set! 1 true } }).fib.tokens.failed 3 = some 1 := by
  dsimp only [Room]; decide +kernel

/-- A cooperative launch whose domain of level 2 is in phase 7, entered at tick 99. -/
def phased : Launch := { launch 1 with phases := [{ level := 2, dom := 0, phase := 7, tp := 99, tpWas := 50, tpOdd := 99, contrib := [] }] }
/-- The fibre in it, on a core of one domain of every level. -/
def inDomain (n : Word) : State := withG ((base.setCore fun c => { c with memb := BitVec.ofNat 64 (2 ^ 22 + 2 ^ 33) }).setDev fun d =>
  { d with launches := [phased], ticks := 1234 }) 2 n
/-- The fibre waits in it since the phase given. -/
def inPhase (n : Word) (ph : Nat) : State := (inDomain n).setFib fun f =>
  { f with bwait := some { at_ := f.pc, domain := true, bar := 0, level := 2, parity := false, phase := ph } }
theorem witness_launch_barriers : let s := inDomain 1
    Room s 1 ∧ s.fib.guest = false ∧ FullG s 2 ∧ FreeG s 1 ∧ s.myLaunch = some phased ∧ phased.coop = true ∧ domOf s.core.memb 2 = (2, 0) ∧
    s.phaseSeen phased 0 2 0 = 7 ∧ (s.skein.dbar 2).need = 0 ∧ (s.skein.dbar 2).sent = false ∧ s.fib.updout = 0 ∧ s.behindMessage true = false ∧
    s.settle.drain.skein = s.skein ∧ s.settle.drain.phaseSeen phased 0 2 0 = 7 ∧ bits ((inDomain 7).g 2) 0 32 = 7 ∧
    (inPhase 7 6).fib.bwait.isSome = true ∧ (inPhase 7 7).phaseSeen phased 0 2 0 = 7 := by dsimp only [Room, FullG, FreeG]; decide +kernel
/-- R367: the only fibre of the only participant arrives and contributes; the contribution completes the phase. -/
theorem test_dbar : let s := inDomain 1
    let t := nextOf (exec (.dbarArr 1 2 2) s)
    t.g 1 = 7 ∧ t.dev.contribs.length = 1 ∧
    ((nextOf (exec (.dbarContribution 0) t)).dev.launches.map fun l => (l.phaseOf 2 0).phase) = [8] := by decide +kernel
/-- The contribution of the only participant, and one of two. -/
theorem witness_domain_phases : let t := nextOf (exec (.dbarArr 1 2 2) (inDomain 1))
    t.dev.contribs[0]?.isSome = true ∧ (t.dev.launches.filter fun l => l.lid == 0) = [phased] ∧ t.participants 0 2 0 ≠ [] ∧
    ((t.participants 0 2 0).all fun x => (setIns 0 (phased.phaseOf 2 0).contrib).contains x.skn) = true ∧
    ((({ t with skeins := [{ t.skein with skn := 1 }] } : State).participants 0 2 0).all fun x =>
      (setIns 0 (phased.phaseOf 2 0).contrib).contains x.skn) = false ∧
    (nextOf (exec (.dbarContribution 0) t)).dev.floods[0]?.isSome = true := by decide +kernel

/-! ## Floats and precision -/

/-- Floats in f0 to f3 with P = 24: 3·2^-1, -5·2^2, 1 and a quiet NaN, and g2 and g3 as given. -/
def floats (a b : Word) : State := g23 ((inLaunch base 1).setFib fun f => { f with
  flive := 4, prec := 24
  f := (((f.f.set! 0 (BitVec.ofNat 128 (vfEncode 24 (.fin false 3 (-1))))).set! 1 (BitVec.ofNat 128 (vfEncode 24 (.fin true 5 2)))).set!
    2 (BitVec.ofNat 128 (vfEncode 24 (.fin false 1 0)))).set! 3 (BitVec.ofNat 128 (vfEncode 24 FV.dnan)) }) a b
/-- A float register. -/
def rd (s : State) (i : Nat) : FV := valOf FV.zero (readF s i)
theorem witness_float_arithmetic : let s := floats 0 0
    Room s 1 ∧ 7 < s.k ∧ gives (readF s 0) = true ∧ gives (readF s 1) = true ∧ gives (readF s 2) = true ∧ gives (readF s 3) = true ∧
    (rd s 0).isNan = false ∧ (rd s 1).isNan = false ∧ (rd s 2).isNan = false ∧ (rd s 3).isNan = true := by
  dsimp only [Room]; decide +kernel
/-- R259: 1.5 + -20 is -18.5 at P = 24, exactly. -/
theorem test_fadd : rd (nextOf (exec (.fadd 7 0 1) (floats 0 0))) 7 = vfDecode (vfEncode 24 (.fin true 37 (-1))) ∧
    (nextOf (exec (.fadd 7 0 1) (floats 0 0))).fib.prec = 24 := by decide +kernel
/-- R263: 1.5·-20 + 1 is -29; R264: 1 / -20 is inexact. -/
theorem test_fma : rd (nextOf (exec (.fma 7 0 1 2) (floats 0 0))) 7 = vfDecode (vfEncode 24 (.fin true 29 0)) := by decide +kernel
theorem test_fdiv : (nextOf (exec (.fdiv 7 2 1) (floats 0 0))).fib.prec ≠ 24 := by decide +kernel
theorem witness_float_window : let s := floats 0 0
    Room s 1 ∧ s.k ≤ 63 ∧ s.fib.flive ≤ 9 ∧ 2 ≤ s.p ∧ s.p ≤ 113 ∧ s.fib.fbad.toList.all (· == 0) = true := by
  dsimp only [Room]; decide +kernel
theorem witness_float_compares : let s := floats 0 0
    Room s 1 ∧ FreeG s 1 ∧ 3 < s.k ∧ gives (readV0 s 0) = true ∧ gives (readV0 s 1) = true ∧ (rd s 0).cmp (rd s 1) = some .gt ∧
    (rd s 1).cmp (rd s 0) = some .lt ∧ (rd s 0).cmp (rd s 0) = some .eq ∧ (rd s 0).cmp (rd s 3) = none := by
  dsimp only [Room, FreeG]; decide +kernel
/-- R266: 3 for an unordered pair. -/
theorem test_fcmp : (nextOf (exec (.fcmp 1 0 3) (floats 0 0))).g 1 = 3 ∧ (nextOf (exec (.fcmp 1 0 1) (floats 0 0))).g 1 = 2 := by decide +kernel
theorem witness_precision_write : precOk 0 = false ∧ precOk 53 = true ∧ precOk 113 = true ∧
    winRegs 4 (precP 113) < 51 ∧ winRegs 4 (precP 53) ≥ (floats 0 0).fib.flive ∧ precP 53 ≠ precP (floats 0 0).fib.prec ∧
    0 < (floats 0 0).fib.flive ∧ base.fib.flive = 0 ∧ precP (24 + 128) = precP (floats 0 0).fib.prec := by decide +kernel
/-- A launch whose window has 64 bytes. -/
def smallWin : Launch := { launch 1 with record := bytesOf 64 (0x2000 + (2 + 3 * 2 ^ 3 + 24 * 2 ^ 5) * 2 ^ 416) }
theorem witness_precision : let s := floats 53 0
    Room s 1 ∧ gives (settled s) = true ∧ FullG s 2 ∧ FreeG s 1 ∧ gives (writePrec s (s.g 2)) = true ∧
    gives (writePrec s ((s.fib.prec &&& ~~~(0x7F#64)) ||| (53#7).setWidth 64)) = true ∧
    gives (writePrec s ((s.fib.prec &&& ~~~(0x380#64)) ||| ((1#3).setWidth 64 <<< 7))) = true ∧
    gives (writePrec s ((s.fib.prec &&& ~~~(0xF800#64)) ||| ((precFlags s.fib.prec &&& ~~~(7#5)).setWidth 64 <<< 11))) = true ∧
    s.myLaunch = some (launch 1) ∧ winBytes 2 ≤ winBytes (launch 1).win ∧ winBytes smallWin.win < winBytes 3 := by
  dsimp only [Room, FullG, FreeG]; decide +kernel
/-- R131: at P = 53 the live floats keep their values; FLIVE stays. -/
theorem test_prec_p : let t := nextOf (exec (.precP 53) (floats 0 0))
    t.fib.prec = 53 ∧ t.fib.flive = 4 ∧ (rd t 1).cmp (.fin true 5 2) = some .eq := by decide +kernel
theorem witness_conversions : let s := floats 0xF2 1
    Room s 1 ∧ FullG s 2 ∧ FullG s 3 ∧ FreeG s 1 ∧ FreeG s 3 ∧ 2 < s.k ∧ gives (readF s 2) = true ∧ (s.g 2).toNat % 256 < 243 ∧
    243 ≤ ((floats 0xF3 0).g 2).toNat % 256 ∧
    (∀ i, i < 5 → (byteDigit (BitVec.ofNat 8 (0 / 256 ^ i))).isSome = true) ∧
    (∀ i, i < 40 → ¬(((0xAAAAAAAAAA : Word).getLsbD i) = true ∧ ((0x5555555555 : Word).getLsbD i) = true)) ∧
    (∀ j, j < 8 → bits (0xF200F200F200F200#64) (8 * j) 8 < 243) := by dsimp only [Room, FullG, FreeG]; decide +kernel
/-- R235: -20 to a signed integer. -/
theorem test_cvt_int : (nextOf (exec (.cvtIntVf 1 2 0 1) (floats 0 0))).g 1 = -20 := by decide +kernel
/-- R234: the byte 5 is no trit; bits 7 of both masks; a packed byte of 243 in byte 2. -/
theorem witness_bad_trits : byteDigit (BitVec.ofNat 8 (0x500 / 256 ^ 1)) = none ∧ (byteDigit (BitVec.ofNat 8 (0x500 / 256 ^ 0))).isSome = true ∧
    (0x80#64).getLsbD 7 = true ∧ (∀ i, i < 7 → ¬((0x80#64).getLsbD i = true)) ∧ 243 ≤ bits (0xF30000#64) 16 8 ∧
    (∀ i, i < 2 → bits (0xF30000#64) (8 * i) 8 < 243) := by decide +kernel
/-- R234: five packed trits, four of them 2 and the lowest 2: 242. R228: 243 is no trit byte. -/
theorem test_trits : (nextOf (exec (.tritUnpack 1 2) (floats 243 0))).fib.trap.tcause ≠ base.fib.trap.tcause ∧
    (nextOf (exec (.tritUnpack 1 2) (floats 242 0))).fib.trap.tcause = base.fib.trap.tcause := by decide +kernel

/-! ## Vectors -/

/-- v0 counts bytes up, v1 holds 3 in every other byte, v2 floats; m1 is a mask of every other lane. -/
def vecs : State := (withG (withG (floats 5 7) 4 5) 5 7).setFib fun f => { f with
  v := ((f.v.set! 0 (BitVec.ofNat 2048 (packLanes 1 (List.range 256)))).set! 1 (BitVec.ofNat 2048 (packLanes 2 (List.replicate 128 3)))).set! 2
    (BitVec.ofNat 2048 (packLanes 5 ((List.range 51).map fun i => vfEncode 24 (.fin false (i + 1) 0))))
  m := f.m.set! 1 (BitVec.ofNat 128 0x55555555555555555555555555555555) }
/-- The bytes of a vector register as one number. -/
def vr (s : State) (i : Nat) : Nat := valOf 0 (readVec s i)
/-- The mask in m1. -/
def evens : Nat := 0x55555555555555555555555555555555
theorem witness_vector_ready : VecReady vecs 0 [3, 0] 1 evens ∧ VecReady vecs 0 [3, 0] 0 (2 ^ 128 - 1) ∧ VecReady vecs 1 [3, 2] 1 evens ∧
    gives (readVec vecs 0) = true ∧ gives (readVec vecs 1) = true ∧ gives (readVec vecs 2) = true ∧ gives (readVec vecs 3) = true ∧
    1 < vecs.fib.nv := by dsimp only [VecReady, Room, WaitOver, UnitFree]; decide +kernel
theorem witness_vector_float : gives (lanesOk vecs vecs.n (activeLanes evens (vfLanes vecs.n)) [vr vecs 2, vr vecs 2, vr vecs 2]) = true ∧
    gives (lanesOk vecs vecs.n (activeLanes evens (vfLanes vecs.n)) [vr vecs 2, vr vecs 2]) = true ∧
    gives (lanesOk vecs vecs.n (activeLanes evens (vfLanes vecs.n)) [vr vecs 2]) = true := by decide +kernel
/-- R278: 1 + 1, ..., 51 + 51 under the mask of the even lanes. -/
theorem test_vadd_vf : let t := nextOf (exec (.vaddVf 3 2 2 0 0 1 0) vecs)
    lane (vr t 3) 5 4 = vfEncode 24 (.fin false 10 0) ∧ lane (vr t 3) 5 5 = lane (vr vecs 3) 5 5 := by decide +kernel
/-- R279: 0xFD + 3 wraps in a byte; R278: every other byte of v1 is 0. -/
theorem test_vadd_int : let t := nextOf (exec (.vaddInt 3 0 1 0 0 0 0 0) vecs)
    lane (vr t 3) 1 0xFE = 1 ∧ lane (vr t 3) 1 0xFD = 0xFD := by decide +kernel
/-- R279: the saturating byte sum of 0x7E and 3 is 0x7F. -/
theorem test_vadds : lane (vr (nextOf (exec (.vadds 3 0 1 0 0 0 0 0) vecs)) 3) 1 0x7E = 0x7F := by decide +kernel
/-- A spool of eight slots of 256 bytes in the scratchpad, k of them filled, behind handle 0. -/
def spooled (k : Nat) (bnd : Bool) : State := vecs.onSpool 0 fun x =>
  { x with cfg := BitVec.ofNat 64 (2 ^ 63 + (if bnd then 2 ^ 62 else 0) + 4 * 2 ^ 52 + 8 * 2 ^ 44 + 0x100), fill := k, rix := 7 }
/-- The unit runs an instruction of another fibre; `n` entries of core 0 wait. -/
def unitBusy (n : Nat) : State := vecs.setChip fun c => { c with vunit := { c.vunit with
  busy := some (0, { lid := 9, skn := 0, fix := 0 })
  queue := (List.range n).map fun i => { vecs.capture with fib := { lid := 9, skn := 0, fix := i + 1 } } } }
/-- The fibre's own instruction waits for the idle unit. -/
def unitQueued : State := vecs.setChip fun c => { c with vunit := { c.vunit with queue := [vecs.capture] } }
theorem witness_vector_queue : vecs.entered .vector = false ∧ (unitBusy 7).chip.vunit.busy.isSome = true ∧ (unitBusy 7).entered .vector = false ∧
    ((unitBusy 7).chip.vunit.queue.filter fun e => e.core == (unitBusy 7).coreIndex).length = 7 ∧
    ((unitBusy 8).chip.vunit.queue.filter fun e => e.core == (unitBusy 8).coreIndex).length = 8 ∧ unitQueued.entered .vector = true ∧
    gives (takeTurn unitQueued .vector) = true := by decide +kernel
theorem witness_vector_unit : UnitFree vecs .vector ∧ Room vecs 1 ∧
    (let t := nextOf (exec (.vaddInt 3 0 1 0 0 0 0 0) vecs)
     t.fib.live = true ∧ t.fib.park = some .vector ∧ t.chip.num = chipNum t.fib.at_ ∧ t.chip.vunit.busy = some (t.coreIndex, t.fib.id)) := by
  dsimp only [UnitFree, Room]; decide +kernel
theorem witness_spools : let s := spooled 2 false
    s.fib.guest = false ∧ gives (spoolUse s 0 1) = true ∧ gives (spoolNo s 0) = true ∧ 256 ≤ 1 * (s.spool 0).slotBytes ∧
    1 ≤ (s.spool 0).fill ∧ ((spooled 0 false).spool 0).fill < 1 ∧ s.dev.ecc = [] ∧ gives (spoolBytes s (s.spool 0) 0 256) = true ∧
    VecReady s 0 [3, 0] 1 evens ∧ (s.spool 0).bnd = false ∧ 1 + (s.spool 0).fill ≤ (s.spool 0).nslot ∧
    ((spooled 2 true).spool 0).bnd = true ∧ FreeG s 1 := by dsimp only [VecReady, Room, WaitOver, UnitFree, FreeG]; decide +kernel
theorem witness_second_ready : SecondReady vecs 0 3 5 (vr vecs 3) ∧
    SecondReady (spooled 2 false) 1 0 0 (ofBytes (valOf [] (spoolBytes (spooled 2 false) ((spooled 2 false).spool 0) 0 256))) :=
  ⟨⟨fun _ => ⟨by decide +kernel, gives_valOf 0 (by decide +kernel)⟩, fun h => absurd h (by decide)⟩,
   ⟨fun h => absurd h (by decide), fun _ => ⟨by decide +kernel, by decide +kernel, by decide +kernel, 0, _,
     by decide +kernel, by decide +kernel, by decide +kernel, gives_valOf [] (by decide +kernel), rfl⟩⟩⟩
/-- R438: an addend, or a live float of the window, that has the poison mark. -/
theorem witness_marked : ((vecs.setFib fun f => { f with vbad := f.vbad.set! 3 true }).fib.vbad.getD 3 false) = true ∧
    gives (readVec vecs 3) = true ∧ ((floats 53 0).setFib fun f => { f with fbad := f.fbad.set! 0 1 }).fib.firstFPoison 53 = some 0 ∧
    (floats 53 0).fib.firstFPoison 53 = none ∧ (floats 53 0).fib.flive ≤ winRegs (floats 53 0).fib.winSize (precP 53) := by decide +kernel
/-- R140: giving back a slot moves the reading index round the ring. -/
theorem test_spl_rel : let t := nextOf (exec (.splRel 0 0) (spooled 2 false))
    (t.spool 0).fill = 1 ∧ (t.spool 0).rix = 0 := by decide +kernel
theorem witness_masks : Room vecs 1 ∧ WaitOver vecs 0 ∧ UnitFree vecs .vector ∧ readM vecs 1 = .ok evens ∧ evens < 2 ^ 128 ∧ FreeG vecs 1 ∧
    FullG vecs 4 ∧ FullG vecs 5 ∧ evens.testBit 0 = true ∧ gives (readM vecs 2) = true := by
  dsimp only [Room, WaitOver, UnitFree, FreeG, FullG]; decide +kernel
theorem test_mpopc : (nextOf (exec (.mpopc 1 1 0) vecs)).g 1 = 64 ∧ (nextOf (exec (.mpopc 1 0 0) vecs)).g 1 = 128 := by decide +kernel
/-- R134, R282: under this mask the bytes 0, 1, 4, 5, 8, 9, ... are active; their sum 16192 wraps to 64, and the other lanes are 0. -/
theorem test_vrsum : vr (nextOf (exec (.vrsumInt 3 0 0 1 0) vecs)) 3 = 64 := by decide +kernel
theorem witness_reductions : gives (lanesOk vecs vecs.n (activeLanes evens (vfLanes vecs.n)) [vr vecs 2]) = true ∧
    VecReady vecs 0 [3, 2] 1 evens := by dsimp only [VecReady, Room, WaitOver, UnitFree]; decide +kernel
theorem witness_lane_moves : FullG vecs 4 ∧ FullG vecs 5 ∧ FreeG vecs 1 ∧ (vecs.g 4).toNat < 256 / vecs.n ∧
    active evens 64 (vecs.g 4).toNat = false ∧ active (2 ^ 128 - 1) 64 (vecs.g 5).toNat = true ∧ 64 ≤ ((withG vecs 5 64).g 5).toNat ∧
    active (2 ^ 128 - 1) (256 / vecs.n) (vecs.g 4).toNat = true ∧
    gives (lanesOk vecs vecs.n [(vecs.g 4).toNat] [vr vecs 2]) = true ∧ vfLanes vecs.n ≤ ((withG vecs 4 51).g 4).toNat ∧
    2 < vecs.k ∧ gives (readV0 vecs 2) = true := by dsimp only [FullG, FreeG]; decide +kernel
/-- R284: sliding down by 5 brings byte 5 to lane 0. -/
theorem test_vslidedn : lane (vr (nextOf (exec (.vslidedn 3 0 4 0 0 0) vecs)) 3) 1 0 = 5 ∧
    lane (vr (nextOf (exec (.vslidedn 3 0 4 0 0 0) vecs)) 3) 1 251 = 0 := by decide +kernel
/-- The lane check of a conversion from VF lanes, over all the VF lanes. -/
theorem witness_vector_conversions : gives (lanesOk vecs vecs.n ((List.range (256 / vecs.n)).filter fun j =>
    (activeLanes evens 64).any fun i => (if active evens 64 i then partLane (256 / vecs.n) 64 0 i else none) == some (some j))
    [vr vecs 2]) = true := by decide +kernel
/-- R285: VF lane 4, the value 5, to a 32-bit integer. -/
theorem test_vcvt : lane (vr (nextOf (exec (.vcvtIntVf 3 2 0 0 0 0) vecs)) 3) 4 4 = 5 := by decide +kernel

/-! ## Tables, bit streams, the array and the posting engine -/

/-- A table whose codes 0 to 7 stand for 0, -1, 1, -2, 2, -3, 3 and -4. -/
def codes : List Byte := bytesOf 32 (8388608 + 8780800 * 2 ^ 32 + 8518656 * 2 ^ 64 + 8781824 * 2 ^ 96 + 8519680 * 2 ^ 128 + 8782336 * 2 ^ 160 +
  8520192 * 2 ^ 192 + 8782848 * 2 ^ 224) ++ List.replicate 992 0
/-- The scratchpad at 0x40004000 holds the bytes; g1 to g3 as given; table slot 0 holds the codes. -/
def tabled (bs : List Byte) (a b c : Word) : State := ((g23 (withG ((inLaunch base 1).setDev fun d => { d with mem := memPut d.mem (2 ^ 48 + 0x4000) bs })
  1 a) b c).setCore fun k => { k with slots := k.slots.set! 0 (slotOf codes true) })
/-- A state that loads an empty table. -/
def loads (a : Word) : State := tabled [] 0 a 0
/-- What loading the image gives. -/
def image (s : State) : State × List Byte × List Piece := valOf (s, [], []) (s.loadAt (s.g 2) 1024 false true)
theorem witness_tables : let s := loads 0x40008000
    Room s 1 ∧ s.fib.guest = false ∧ slotNo s 0 = .ok 0 ∧ FullG s 2 ∧ FreeG s 4 ∧ (s.g 2).toNat % 64 = 0 ∧
    gives (s.loadAt (s.g 2) 1024 false true) = true ∧ contentSub (image s).2.1 = none ∧
    arrayAdmissible (image s).2.1 = true ∧ (contentSub (List.replicate 1024 0xFF)).isSome = true ∧ ((loads 0x40008001).g 2).toNat % 64 ≠ 0 ∧
    (s.core.slots.getD 0 TableSlot.zero).valid = true ∧
    ((s.setCore fun c => { c with slots := c.slots.set! 0 TableSlot.zero }).core.slots.getD 0 TableSlot.zero).valid = false := by
  dsimp only [Room, FullG, FreeG]; decide +kernel
/-- R140: a skein without table slots. -/
theorem witness_no_slot : bits ((loads 0).setSkein fun k => { k with skmap := 0 }).skein.skmap 23 3 = 0 ∧ bits (loads 0).skein.skmap 23 3 = 4 ∧
    Room ((loads 0).setSkein fun k => { k with skmap := 0 }) 1 := by dsimp only [Room]; decide +kernel
/-- A table whose data is on its way. -/
theorem witness_table_waits : let s := (loads 0).setFib fun f => { f with park := some (.table 1 true codes) }
    s.fib.live = true ∧ s.fib.at_ = s.core.num ∧ s.fib.park = some (.table 1 true codes) := by decide +kernel
/-- R229: entry 1 stands for -1: sign 1, exponent 127, fraction 0 and the valid bit. -/
theorem test_tbl_rd : (nextOf (exec (.tblRd 4 2 0) (loads 1))).g 4 = 2 ^ 23 + 2 ^ 18 + 127 * 2 ^ 10 := by decide +kernel

/-- Sixteen-bit floats 0, 1/4, 1, 9/4, ... to quantise into a tile of three blocks at 0x40010000. -/
def quants (j : Nat) : State := tabled (((List.range 32).map fun i => bytesOf 2 (Ieee.bf16.encode (.fin (i % 3 == 0) (i * i) (-2)))).flatten) 0x40010000
  0x40004000 (BitVec.ofNat 64 (3 * 2 ^ 16 + j))
/-- The accesses of a quantisation, one after another, and its loads. -/
def q1 (s : State) : State × List Piece := valOf (s, []) (s.access s.accLoad (s.g 2) 64 true)
/-- The codes. -/
def q2 (s : State) (j : Nat) : State × List Piece := valOf (s, []) ((q1 s).1.access (q1 s).1.accStore (s.g 1 + BitVec.ofNat 64 (32 * j)) 32 true)
/-- The scale. -/
def q3 (s : State) (j : Nat) : State × List Piece := valOf (s, []) ((q2 s j).1.access (q2 s j).1.accStore (s.g 1 + BitVec.ofNat 64 (96 + j)) 1 true)
/-- The trailer. -/
def q4 (s : State) (j : Nat) : State × List Piece := valOf (s, []) ((q3 s j).1.access (if j = 0 then (q3 s j).1.accStore else
  (q3 s j).1.accAtomic) (s.g 1 + 112) 8 true)
/-- The elements. -/
def q5 (s : State) (j : Nat) : State × List Byte := valOf (s, []) ((q4 s j).1.loadPieces false (q1 s).2)
theorem witness_quantisation : let s := quants 0
    Room s 1 ∧ s.fib.guest = false ∧ FullG s 1 ∧ FullG s 2 ∧ FullG s 3 ∧ gives (slotNo s 0) = true ∧ gives (quantSlot s 0) = true ∧
    controlOk (s.g 3) false = true ∧ elementBytes s 0 = 2 ∧ gives (s.access s.accLoad (s.g 2) 64 true) = true ∧
    gives ((q1 s).1.access (q1 s).1.accStore (s.g 1) 32 true) = true ∧
    gives ((q2 s 0).1.access (q2 s 0).1.accStore (s.g 1 + 96) 1 true) = true ∧
    gives ((q3 s 0).1.access (q3 s 0).1.accStore (s.g 1 + 112) 8 true) = true ∧ gives ((q4 s 0).1.loadPieces false (q1 s).2) = true ∧
    (q5 s 0).1.storeRoom ((q2 s 0).2 ++ (q3 s 0).2 ++ (q4 s 0).2) = .ok () ∧ gives (elementValues 0 2 (q5 s 0).2) = true ∧
    (quantiseBlock (slotOf codes true).image (valOf [] (elementValues 0 2 (q5 s 0).2))).isSome = true := by
  dsimp only [Room, FullG]; decide +kernel
/-- R231: the source register moves past the 64 bytes, the block number goes up. -/
theorem test_qnt : let t := nextOf (exec (.qntBf16 1 2 3 0) (quants 0))
    t.g 2 = 0x40004040 ∧ t.g 3 = 0x30001 := by decide +kernel
theorem witness_quantisation_ends : let s := quants 3
    let t := q1 s
    controlOk (s.g 3) true = true ∧ gives (s.access s.accLoad (s.g 1) 99 true) = true ∧
    (let u := valOf (s, []) (s.access s.accLoad (s.g 1) 99 true)
     gives (u.1.access u.1.accStore (s.g 1 + 99) 13 true) = true ∧
     (let v := valOf (s, []) (u.1.access u.1.accStore (s.g 1 + 99) 13 true)
      gives (v.1.access v.1.accStore (s.g 1 + 120) 8 true) = true ∧
      gives ((valOf (s, []) (v.1.access v.1.accStore (s.g 1 + 120) 8 true)).1.loadPieces false u.2) = true ∧
      s.storeRoom (v.2 ++ (valOf (s, []) (v.1.access v.1.accStore (s.g 1 + 120) 8 true)).2) = .ok ())) ∧ t.2 ≠ [] := by decide +kernel

/-- A bit buffer with data and its count, that goes on at 0x40004000. -/
def bitBuf (d : BitVec 128) (cnt : Nat) (b : Word) : State := (tabled (bytesOf 16 0xDECA) 0 0x200020003 b).setFib fun f =>
  { f with bb := { data := d, cnt := cnt, addr := 0x40004000 } }
theorem witness_bit_streams : let s := bitBuf 5 3 17
    Room s 1 ∧ FreeG s 1 ∧ FullG s 3 ∧ FullG s 2 ∧ (refill 16 s s.fib.bb).2.cnt = 123 ∧ s.g 3 ≠ 0 ∧ (bitBuf 5 3 0).g 3 = 0 ∧
    bits (s.g 2) 60 4 = 0 ∧ bits (0x8000000000000000#64) 60 4 ≠ 0 ∧
    (refill 16 s { data := 0, cnt := 0, addr := BitVec.ofNat 64 (bits (s.g 2) 3 57) }).2.cnt ≥ 3 ∧
    (∀ i, i < 7 → (0x177F#128).getLsbD i = true) ∧ (0x177F#128).getLsbD 7 = false ∧
    (∀ i, i < 65 → (0x1FFFFFFFFFFFFFFFF#128).getLsbD i = true) := by dsimp only [Room, FullG, FreeG]; decide +kernel
/-- A buffer that goes on at an address that no page maps. -/
theorem witness_bit_fault : let s := (bitBuf 5 3 17).setFib fun f => { f with bb := { f.bb with addr := 2 ^ 44 } }
    (refill 16 s s.fib.bb).2.cnt < 16 ∧ (match streamByte (refill 16 s s.fib.bb).1 (refill 16 s s.fib.bb).2.addr with
      | .error ⟨_, .trap c _ _ _⟩ => c == 4
      | _ => false) = true := by decide +kernel
/-- R50: every walker is busy, so that a refill from a page that no entry maps waits. -/
def walkersTaken (s : State) : State := { s with walkers := 384 }
theorem witness_walkers : let s := walkersTaken ((bitBuf 5 3 17).setFib fun f => { f with bb := { f.bb with addr := 3 * 2 ^ 30 } })
    s.walkersBusy = true ∧ walkMissed s (walk s 0 (3 * 2 ^ 30)) = true ∧ gives (refilled (bitBuf 5 3 17) (bitBuf 5 3 17).fib.bb) = true ∧
    (match refilled s s.fib.bb with | .error ⟨_, .park .walker⟩ => true | _ => false) = true := by decide +kernel
/-- R136, R225: three bits of the buffer, then the bytes 0xCA and 0xDE: 5 + 8·0x1ECA mod 2^16. -/
theorem test_bs_get : (nextOf (exec (.bsGet 1 16) (bitBuf 5 3 0))).g 1 = BitVec.ofNat 64 ((5 + 8 * 0xDECA) % 2 ^ 16) := by decide +kernel
/-- R226: 0x177F is seven ones, a zero, and the five bits 10111: 7·32 + 23. -/
theorem test_bs_rice : (nextOf (exec (.bsRice 1 5) (bitBuf 0x177F 20 0))).g 1 = 7 * 32 + 23 := by decide +kernel

/-- A plane whose only trit is +1 at column 0, row 0, element 0, set 3 of the chiplet behind name 0, and a tile at 0x40004000 whose first
code is 1 in a block of scale 1; g1 to g3 as given. -/
def arrays (a b c : Word) : State :=
  (((tabled [] a b c).setCore fun k => { k with accen := 0xFFFF, accmap := 0x43#64 ||| accmapReset &&& 0xFFFFFFFFFFFFFF00#64 }).setChip
    fun k => { k with plane := [(0, 1)], xacc := [(256 * 3, { XCol.zero with anchor := -10 })] }).setDev fun d => { d with
      mem := memPut (memPut (memPut d.mem (2 ^ 48 + 0x4000) [1]) (2 ^ 48 + 0x4000 + 640) [127]) (2 ^ 48 + 0x4000 + 680)
        [0x4C, 0xE2, 0xA5, 0x32, 20, 0, 0, 1] }

/-- The pass of one vector over one beat, four rows to a group. -/
def onePass (s : State) : Pass :=
  { acc := 0, nv := 1, g := 4, slot := 0, spool := none, addr := s.g 1, beats := s.g 2, cols := s.g 3 }
/-- The operands of the pass. -/
def passed (s : State) : State × PassArgs := valOf (s, ⟨[], [], 0, 0, 0, 0, .pad []⟩) (passChecks s (onePass s))
/-- Its tile. -/
def tiled (s : State) : State × List (List Byte) := valOf (s, []) (passTiles (passed s).1 (onePass s) (passed s).2.feed 0 1)
/-- The state of one beat at row 0, and the column 0. -/
def one : State := arrays 0x40004000 0 0
theorem witness_array_run : Room one 2 ∧ one.fib.guest = false ∧ UnitFree one .array ∧
    (let t := nextOf (exec (.arrClear 0 0) one)
     t.fib.live = true ∧ t.fib.park = some .array ∧ t.fib.at_ = t.core.num ∧ t.chip.array.busy = some (t.coreIndex, t.fib.id)) := by
  dsimp only [Room, UnitFree]; decide +kernel
theorem witness_array_pass : Room one 2 ∧ WaitOver one 0 ∧ FullG one 1 ∧ FullG one 2 ∧ FullG one 3 ∧ gives (slotNo one 0) = true ∧
    gives (spoolNo one 0) = true ∧ one.waited 0 = one ∧ one.entered .array = false ∧ gives (passChecks one (onePass one)) = true ∧
    (passed one).1.behindMessage true = false ∧ UnitFree (passed one).1.settle.drain .array ∧ (passed one).1.settle.drain.bank = one.bank ∧
    (passed one).1.fib = one.fib ∧ (passed one).1.skein = one.skein ∧ (passed one).1.settle.drain = (passed one).1 := by
  dsimp only [Room, WaitOver, FullG, UnitFree]; decide +kernel
theorem witness_array_tile : gives (passChecks (passed one).1 (onePass one)) = true ∧ gives (liveSets (passed one).1 [3]) = true ∧
    (passed one).2.sets = [3] ∧ gives (passTiles (passed one).1 (onePass one) (passed one).2.feed 0 1) = true ∧
    planeBreak (tiled one).1.chip [0] [0] = none ∧ stripBreak (tiled one).1.chip [0] (passGroups 0 1 4) = none := by decide +kernel
theorem witness_array_captured : (passed one).1.fib.guest = false ∧ gives (captured ((passed one).1.settle.drain.served .array) (passed one).1.settle.drain.capture fun v => passBody v (onePass one)) = true := by
  decide +kernel
/-- R117, R291: the trit +1 meets the code for -1 at scale 1: the term -1 is -1024 in units of the anchor 2^-10. -/
theorem test_arr_mv : ((nextOf (exec (.arrMv 1 2 3 0 0 3 0 0 0 0) one)).chip.xcol 3 0).acc = BitVec.ofInt 128 (-1024) := by decide +kernel
/-- A column whose anchor is -10. -/
def anchored : XCol := { XCol.zero with anchor := -10 }
theorem witness_xacc : (anchored.anchor ≤ 3 ∧ (-5 : Int).natAbs * 2 ^ ((3 : Int) - anchored.anchor).toNat < 2 ^ 100) ∧
    ((-13 : Int) < anchored.anchor ∧ (-5 : Int).natAbs < 2 ^ (anchored.anchor + 100 - (-13 : Int)).toNat) ∧
    2 ^ 100 ≤ (1 : Int).natAbs * 2 ^ ((90 : Int) - anchored.anchor).toNat := by decide +kernel
/-- R105: -5 · 2^-13 is 5/8 of the anchor's unit below zero: it is lost, and UR says so. -/
theorem test_xacc : (anchored.enter (some (-5)) (-13)).acc = 0 ∧ (anchored.enter (some (-5)) (-13)).ur = true ∧
    (anchored.enter (some 1) 90).op = true := by decide +kernel
/-- Where a drain to vector registers writes: nowhere in memory. -/
def drained (s : State) : State × List Piece := valOf (s, []) (drainPlace s 0 (s.g 3) 1 1 0 3 1)
theorem witness_drain : let s := (nextOf (exec (.arrWscale 2 2) one)).setChip fun c => { c with array := { c.array with busy := none } }
    setNames s 0 1 = .ok [3] ∧ columnRange s (s.g 3) = .ok (0, 1) ∧ gives (drainPlace s 0 (s.g 3) 1 1 0 3 1) = true ∧ 3 < s.fib.nv ∧
    gives (spoolNo s 3) = true ∧ (drained s).1.fib = s.fib ∧ (drained s).1.skein = s.skein ∧ (drained s).1.core = s.core ∧
    (drained s).1.settle.drain = (drained s).1 ∧ gives (liveSets (drained s).1 [3]) = true ∧
    gives (residueChecks (drained s).1 0 1 [3]) = true ∧
    (let t := (drained s).1
     let r := (t.served .array).settle.drain.withMaps t.core.accmap t.core.accen t.core.slots
     UnitFree t .array ∧ r.bank = s.bank ∧ setNames r 0 1 = .ok [3] ∧ gives (drainPlace r 0 (s.g 3) 1 1 0 3 1) = true ∧
       (let x := (valOf (r, []) (drainPlace r 0 (s.g 3) 1 1 0 3 1)).1
        gives (liveSets x [3]) = true ∧ gives (residueChecks x 0 1 [3]) = true)) ∧
    gives (drainWrite (drained s).1 ([drainRow (drained s).1 0 3 0 1].map fun x => x.1) 1 0 3 1 (drained s).2) = true := by dsimp only [UnitFree]; decide +kernel
/-- Records of columns at 0x40004000. -/
def records : State := tabled ((List.replicate 2 (anchored.record)).flatten) 0x40004000 0x40004000 0x0100
/-- What stands for its maintenance: set 3 with its anchor. -/
def kept (a : Word) : State := withG ((records.setCore fun k => { k with accen := 0xFFFF, accmap := 0x43#64 ||| accmapReset &&& 0xFFFFFFFFFFFFFF00#64 }).setChip
  fun k => { k with xacc := [(256 * 3, anchored), (256 * 3 + 1, anchored)] }) 1 a
theorem witness_maintenance : let s := kept 0x40004000
    Room s 1 ∧ s.fib.guest = false ∧ UnitFree s .array ∧ FullG s 1 ∧ FullG s 3 ∧ FreeG s 4 ∧ s.settle.drain = s ∧ setNames s 0 1 = .ok [3] ∧
    gives (anchorOf (kept (-254)) 3 (-254)) = true ∧ columnRange s (s.g 3) = .ok (0, 2) ∧ (s.g 1).toNat % 32 = 0 ∧
    gives (localAccess s s.accStore (s.g 1) 64) = true ∧ gives (residueCheck (valOf (s, []) (localAccess s s.accStore (s.g 1) 64)).1 3 0 2) = true ∧
    gives (localAccess s s.accLoad (s.g 1) 64) = true ∧
    (let t := valOf (s, []) (localAccess s s.accLoad (s.g 1) 64)
     gives (recordBytes t.1 t.2) = true ∧
     gives (recordChecks (valOf (s, []) (recordBytes t.1 t.2)).1 (s.g 1) (-10) (valOf (s, []) (recordBytes t.1 t.2)).2 0 2) = true ∧
     (valOf (s, []) (recordBytes t.1 t.2)).1.chip.setBad 3 = false) ∧
    bits ((kept 77).g 1) 19 45 = 0 ∧ ((kept 77).g 1).toNat ∉ s.chip.stripBad ∧ bits (5#64) 8 56 = 0 := by
  dsimp only [Room, UnitFree, FullG, FreeG]; decide +kernel
/-- 256 output scales of 0 at P = 2, of three bytes each. -/
def scales : State := (kept (-254)).setFib (fun f => { f with prec := 2 }) |>.setDev fun d => { d with
  mem := base.dev.mem ++ (List.range 256).map fun i => (2 ^ 48 + 0x4000 + 3 * i, 2) }
theorem witness_scales : Memory.wf scales.dev.mem ∧ gives (loadScales scales (scales.g 2) 256) = true := by decide +kernel
/-- R310: the strip entry of column 0, row 77. -/
theorem test_wscale : (nextOf (exec (.arrWscale 1 2) (withG (kept 77) 2 5))).chip.stripEntry 77 = 5 := by decide +kernel

/-! ## The posting engine -/

/-- A cursor before its first posting. -/
def fresh : Cursor where
  num := 0
  lid := 0
  skn := 0
  desc := []
  scoring := []
  sc := false
  st := Cursor.before
  blk := 0
  i := 0
  tf := 0
  doc := 0
  cntSum := 0
  off := 0
  last := 0
  prevLast := 0
  known := false
  cnt := 0
  size := 0
  block := []
/-- Lists A and B of the manual's traced query: their blocks stand at 0x40005000 and 0x40005020, their descriptors at 0x40004000 and
0x40004020, the scoring block at 0x40007000 and the document lengths at 0x40008000; g2 and g3 as given. -/
def posts (a b : Word) : State :=
  let desc (addr df idf : Nat) : List Byte := bytesOf 8 addr ++ bytesOf 4 1 ++ bytesOf 4 df ++ bytesOf 4 idf ++ bytesOf 4 0 ++ bytesOf 4 32 ++ bytesOf 4 0
  let blockA : List Byte := [0xD5, 4, 3, 2, 0xE8, 3, 0, 0, 0xF2, 3, 0, 0] ++ bytesOf 4 0x520ada16 ++ [0x42, 1, 0x81]
  let blockB : List Byte := [0xD5, 3, 4, 2, 0xEB, 3, 0, 0, 0xFC, 3, 0, 0] ++ bytesOf 4 0x975ab851 ++ [0x96, 9]
  let score : List Byte := bytesOf 8 0x40008000 ++ bytesOf 4 2048 ++ bytesOf 4 0x40000000 ++ bytesOf 4 0x3F000000 ++ [0xA4, 0x80, 0, 0, 0x90]
  ((tabled (desc 0x40005000 4 0x20000 ++ desc 0x40005020 3 0xC000) 0 a b).setDev fun d => { d with
    mem := memPut (memPut (memPut (memPut (memPut d.mem (2 ^ 48 + 0x5000) blockA) (2 ^ 48 + 0x5020) blockB) (2 ^ 48 + 0x7000) score)
      (2 ^ 48 + 0x8000 + 2 * 1003) [100]) (2 ^ 48 + 0x8000 + 2 * 1010) [50] }).setCore fun c => { c with
    spools := c.spools.set! 2 { cfg := BitVec.ofNat 64 (2 ^ 63 + 2 * 2 ^ 52 + 8 * 2 ^ 44 + 0x9000), fill := 0, wix := 0, rix := 0 } }
/-- List A as cursor 0. -/
noncomputable def openA : State := nextOf (exec (.plOpen 1 2 3) (posts 0x40004000 0x40007000))
/-- Lists A and B as cursors 0 and 1; g2 and g3 as given. -/
noncomputable def openAB (a b : Word) : State := g23 (nextOf (exec (.plOpen 4 2 3) (withG openA 2 0x40004020))) a b
theorem witness_open : let s := posts 0x40004000 0x40007000
    Room s 1 ∧ s.fib.guest = false ∧ UnitFree s .engine ∧ FullG s 2 ∧ FullG s 3 ∧ FreeG s 1 ∧ s.settle.drain = s ∧ (s.g 2).toNat % 32 = 0 ∧
    gives (engineRead ((s.served .engine).settle.drain) 0x40004000 32) = true ∧
    descriptorOk (valOf (s, []) (engineRead ((s.served .engine).settle.drain) 0x40004000 32)).2 = true ∧
    gives (scoringBlock (valOf (s, []) (engineRead ((s.served .engine).settle.drain) 0x40004000 32)).1 0x40007000) = true ∧ s.cursor? 0 = none ∧
    (∀ n, n < 32 → (({ s with chip := { s.chip with cursors := (List.range 32).map fun i => { fresh with num := i } } } : State).cursor? n).isSome =
      true) := by dsimp only [Room, UnitFree, FullG, FreeG]; decide +kernel
/-- R315: the lowest closed cursors are 0 and 1. -/
theorem test_pl_open : openA.g 1 = 0 ∧ (openAB 0 0).g 4 = 1 ∧ (openAB 0 0).chip.cursors.length = 2 := by decide +kernel
theorem witness_cursors : let s := openAB 0 1004
    Room s 1 ∧ UnitFree s .engine ∧ FullG s 2 ∧ FullG s 3 ∧ FreeG s 1 ∧ s.settle.drain = s ∧ gives (cursorOf ((s.served .engine).settle.drain) (s.g 2)) = true ∧
    (let c := valOf fresh (cursorOf ((s.served .engine).settle.drain) (s.g 2))
     gives (Cursor.next ((s.served .engine).settle.drain) c) = true ∧ gives (Cursor.skipTo ((s.served .engine).settle.drain) c 1004) = true ∧ c.st = Cursor.before) ∧
    32 ≤ ((openAB 32 0).g 2).toNat ∧ (servedEngine (openAB 5 0)).cursor? 5 = none := by
  dsimp only [Room, UnitFree, FullG, FreeG]; decide +kernel
/-- Cursor 1 after its first posting. -/
noncomputable def atB : State := withG (nextOf (exec (.plNext 1 2) (openAB 1 1004))) 1 0
theorem witness_scores : let s := atB
    let c := valOf fresh (cursorOf ((s.served .engine).settle.drain) (s.g 2))
    c.st = Cursor.at_ ∧ gives (Cursor.term ((s.served .engine).settle.drain) c) = true ∧ c.doc = 1003 ∧ 1000 ≤ c.doc ∧ c.known = true ∧ c.i + 1 < c.cnt ∧
    c.block ≠ [] ∧ { fresh with st := Cursor.ended }.st = Cursor.ended ∧ fresh.nblk = 0 := by decide +kernel
/-- The manual's query: document 1003 has tf 2 and the term 1.125 in list B, 1010 the next posting at or above 1004 in list A. -/
theorem test_pl_score : (nextOf (exec (.plScore 1 2) atB)).g 1 = 0x3F900000 := by decide +kernel
theorem test_pl_skip : (nextOf (exec (.plSkip 1 2 3) (openAB 0 1004))).g 1 = (valOf fresh (cursorOf (nextOf (exec (.plSkip 1 2 3)
    (openAB 0 1004))) 0)).posting ∧ (valOf fresh (cursorOf (nextOf (exec (.plSkip 1 2 3) (openAB 0 1004))) 0)).doc = 1004 := by decide +kernel
/-- The intersection of both lists into spool 2. -/
def joinJob (s : State) : EngineJob := { kind := 0, d := 1, ga := s.g 2, gb := s.g 3, nc := 2, osp := some 2, isp := 0, out := 0, first := true, lex := none, map := none, waits := false }
theorem witness_lists : let s := openAB 0x20 64
    s.entered .engine = false ∧ Room s 2 ∧ s.fib.guest = false ∧ WaitOver s 0 ∧ s.waited 0 = s ∧ UnitFree s .engine ∧ FullG s 2 ∧ FullG s 3 ∧ FreeG s 1 ∧ s.settle.drain = s ∧
    gives (spoolNo s 2) = true ∧ gives (spoolNo s 0) = true ∧ gives (engineStep s (joinJob s)) = true := by
  dsimp only [Room, UnitFree, FullG, FreeG, WaitOver]; decide +kernel
/-- R321, R325: the fibre between two steps, at its turn in the engine. -/
noncomputable def between : State := ((openAB 0x20 64).setFib fun f => { f with park := some (.engine (joinJob (openAB 0x20 64))) }).setChip fun c =>
  { c with engine := { c.engine with queue := [(openAB 0x20 64).capture] } }
theorem witness_engine_step : between.focus between.fib.id = between ∧ between.fib.live = true ∧ between.fib.park.isSome = true ∧ 
    (between.chip.engine.next.any fun e => e.fib == between.fib.id) = true ∧ gives (engineStep between (joinJob between)) = true ∧
    ((openAB 0 0).chip.engine.next.any fun e => e.fib == between.fib.id) = false :=
  ⟨focus_of between (by decide +kernel), by decide +kernel⟩

/-! ## Copies, messages and streams -/

/-- g2 to g4 and the other registers of a copy. -/
def copying (a b c : Word) : State := withG (posts a b) 4 c
/-- A copy of 256 bytes at 0x4000 of DRAM to the scratchpad at 0x40008000, with token 3, and its acceptance. -/
def pulled : Ex State := let s := copying 0x4000 0x40008000 256
  acceptCopy s (newCopy s { major := 0x70, d := 0, a := 2, b := 3, c := 4, w := 0, fn := 0, x := 3 }
    { lc := 0, scs := 0, nt := 1, sl := 0, fmt := 0, tr := 0, tc := 0, ixw := 0, rblk := 0 } 0x4000 0x40008000 256 0 none) false
/-- The same the other way. -/
def pushed : Ex State := let s := copying 0x40004000 0x8000 256
  acceptCopy s (newCopy s { major := 0x71, d := 1, a := 2, b := 3, c := 4, w := 0, fn := 0, x := 3 }
    { lc := 0, scs := 1, nt := 1, sl := 0, fmt := 0, tr := 0, tc := 0, ixw := 0, rblk := 0 } 0x40004000 0x8000 256 0 (some 1)) false
/-- Two elements of 64 bytes gathered by indices. -/
def gathered : Ex State := let s := withG (copying 0x4000 0x40008000 2) 5 0x40004000
  acceptCopy s (newCopy s { major := 0x72, d := 5, a := 2, b := 3, c := 4, w := 0, fn := 0, x := 3 }
    { lc := 0, scs := 0, nt := 0, sl := 0, fmt := 0, tr := 0, tc := 0, ixw := 0, rblk := 1 } 0x4000 0x40008000 2 0x40004000 none) false
theorem witness_copies : let s := copying 0x4000 0x40008000 256
    Room s 2 ∧ WaitOver s 0 ∧ FullG s 2 ∧ FullG s 3 ∧ FullG s 4 ∧ FullG s 5 ∧ FreeG s 1 ∧ gives (slotNo s 0) = true ∧ gives pulled = true ∧
    gives pushed = true ∧ gives gathered = true := by dsimp only [Room, WaitOver, FullG, FreeG]; decide +kernel
/-- The state with the pull accepted. -/
def pulling : State := valOf base pulled
/-- Its copy. -/
def pull : Copy := pulling.chip.copies.getLastD
  { fib := base.fib.id, core := 0, asid := 0, sup := false, base := 0, ext := 0, ra := 0, rb := 0, rc := 0, rd := 0, token := 0, prec := 0,
    slot := [], ntf := false, gd := none, plan := none, done := 0, stage := CopyStage.start }
/-- The first of its units. -/
def unit1 : CopyUnit := { off := 0, data := List.replicate 64 7, bad := List.replicate 64 false }
/-- A plan of two units, one unit or none, with flags. -/
def planned (l : List CopyUnit) (f : Option CopyFault) : CopyPlan := { units := l, fault := f, flags := 3, coded := 0, blocks := [] }
/-- The copy with its plan on the chiplet. -/
def withCopy (c : Copy) : State := pulling.setChip fun x => { x with copies := [c] }
theorem witness_delivery : let c := { pull with plan := some (planned [unit1, { unit1 with off := 64 }] none) }
    (withCopy c).core.num < 1024 ∧ (withCopy c).chip.num = chipNum (withCopy c).core.num ∧ (withCopy c).chip.copies[0]? = some c ∧
    c.core = (withCopy c).core.num ∧ c.toSpool = false ∧ gives (pull.makePlan (withCopy pull)) = true ∧
    (valOf (base, planned [] none) (pull.makePlan (withCopy pull))).2.units.length = 4 ∧
    gives ({ pull with rc := 0 }.makePlan (withCopy { pull with rc := 0 })) = true ∧
    (match c.deliver (withCopy c) unit1 with | .ok (_, none) => true | _ => false) = true ∧
    (match { c with rb := 0xC0000000 }.deliver (withCopy { c with rb := 0xC0000000 }) unit1 with | .ok (_, some _) => true | _ => false) = true := by
  decide +kernel
/-- The same copy to the slots of spool 2 of the skein. -/
def toSlots : Copy := { pull with
  base := (valOf base (acceptCopy (copying 0x4000 2 256) (newCopy (copying 0x4000 2 256) { major := 0x70, d := 0, a := 2, b := 3, c := 4, w := 0, fn := 3, x := 3 }
    { lc := 0, scs := 0, nt := 0, sl := 0, fmt := 0, tr := 0, tc := 0, ixw := 0, rblk := 0 } 0x4000 2 256 0 none) false)).chip.copies.getLastD pull |>.base
  rb := 2, plan := some (planned [unit1] none) }
theorem witness_spool_pieces : toSlots.toSpool = true ∧ (withCopy toSlots).skein? 0 0 = some (withCopy toSlots).skein ∧
    ((withCopy toSlots).spool 2).en = true ∧ ((withCopy toSlots).spool 2).fill < ((withCopy toSlots).spool 2).nslot ∧
    (let s := (withCopy toSlots).onSpool 2 fun x => { x with fill := 8 }
     (s.spool 2).nslot ≤ (s.spool 2).fill) ∧ toSlots.fib.lid = 0 ∧ toSlots.fib.skn = 0 := by decide +kernel
theorem witness_completion : let c := { pull with plan := some (planned [] none), ntf := false }
    let s := withCopy c
    s.chip.copies[0]? = some c ∧ s.fib.live = true ∧ c.fib = s.fib.id ∧ c.token < 8 ∧ c.gd = none ∧ s.fib.tokens.err.getD c.token false = false ∧
    (withFill s 1 Fill.pending).fib.bank.fill.getD 1 0 = Fill.pending ∧ s.skein.is c.fib.lid c.fib.skn = true ∧ s.skein.resident = true := by
  decide +kernel
/-- R209: a fault at completion goes to the token's error bit, its flags to PREC. -/
theorem test_copy_complete : let t := nextOf (exec (.copyComplete 0 0) (withCopy { pull with
      plan := some (planned [] (some { code := 5, sub := 1, pt := 0, off := 64 })), ntf := false }))
    t.fib.tokens.err.getD 3 false = true ∧ t.fib.tokens.count.getD 3 0 = 0 ∧ t.chip.copies = [] := by decide +kernel

/-- g2 names skein 0 of launch 0, g3 and g4 the payload. -/
def sender : State := withG (g23 (inLaunch base 1) 0 77) 4 88
/-- The message it sends. -/
def letter : Msg := { arrival with tag := 9, npl := 2, pay := [77, 88], kind := 0, aux := 0 }
/-- Sixteen messages of its core are on their way. -/
def crowded : State := sender.setDev fun d => { d with flight := List.replicate 16 letter }
/-- Its chiplet cannot reach chiplet 5. -/
def cutOff : State := sender.setChip fun c => { c with netsel := c.netsel.set! 0 0xFFFFFFFFFFFFFFFF }
theorem witness_sends : Room sender 2 ∧ WaitOver sender 0 ∧ FullG sender 2 ∧ FullG sender 3 ∧ FullG sender 4 ∧ FreeG sender 1 ∧ FreeG sender 6 ∧
    sender.fib.updout = 0 ∧ sender.behindMessage true = false ∧ gives (resolve sender 0) = true ∧ sender.reqQueued 0 < 16 ∧
    16 ≤ crowded.reqQueued 0 ∧ (sender.receiver? 0 0).isSome = true ∧ sender.receiver? 0 1 = none ∧ gives (sender.reach 0) = true ∧
    netChip 5 ≠ netChip sender.chip.num ∧ cutOff.netselOf 5 = 3 ∧ (sender.acceptMsg letter).isSome = true ∧ (crowded.acceptMsg letter).isSome = false ∧
    sender.liveLaunch? 0 = some (launch 1) ∧ 0 ∉ (launch 1).exited ∧ (sender.resident? 0 0).isSome = true ∧
    16 ≤ (crowded.dev.flight.filter fun y => y.srcCore == crowded.core.num).length := by
  dsimp only [Room, WaitOver, FullG, FreeG]; decide +kernel
/-- R387: the message is on its way with its payload. -/
theorem test_msg_send : (nextOf (exec (.msgSend 1 2 3 6 0 0 0 2 9) sender)).dev.flight.map (fun m => (m.tag, m.pay, m.dstLid, m.dstSkn)) =
    [(9, [77, 88], 0, 0)] := by decide +kernel
/-- A fibre that waits with its message since tick 0. -/
def waitingSend (s : State) (gc : Option GReg) (tick : Nat) : State := (s.setFib fun f => { f with park := some (.send letter gc 0 0) }).setDev
  fun d => { d with ticks := tick }
/-- A device after n hundredths of a clock. -/
def ticking (n : Nat) : State := sender.setDev fun d => { d with clk := n }
/-- A state that was cut off from the receiver of the message after the send. -/
def severed : State := let s := waitingSend { sender with skein := { sender.skein with core := 20 } } none 10
  s.setChip fun c => { c with netsel := c.netsel.set! 0 0xFFFFFFFFFFFFFFFF }
theorem witness_severed : severed.focus severed.fib.id = severed ∧ (severed.receiver? 0 0).map (fun x => netChip (chipNum x.core)) = some 5 ∧
    netChip severed.chip.num = 0 ∧ severed.netselOf 5 = 3 ∧ gives ((waitingSend sender none 10).sendReach letter) = true :=
  ⟨focus_of severed (by decide +kernel), by decide +kernel⟩
theorem witness_waiting_sends : (waitingSend sender none 10).fib.live = true ∧
    (waitingSend sender none 10).focus (waitingSend sender none 10).fib.id = waitingSend sender none 10 ∧
    ((waitingSend sender none 10).acceptMsg letter).isSome = true ∧ ((waitingSend crowded none 10).acceptMsg letter).isSome = false ∧
    (ticking 409600).clocksSince 0 0 4096 = true ∧ (ticking 10).clocksSince 0 0 4096 = false :=
  ⟨by decide +kernel, focus_of _ (by decide +kernel), by decide +kernel⟩
/-- Messages on their way. -/
def flying (l : List Msg) : State := sender.setDev fun d => { d with flight := l }
theorem witness_message_arrivals : (flying [letter]).dev.flight[0]? = some letter ∧ earlierMsg [letter, letter] 1 letter = true ∧
    earlierMsg [letter] 0 letter = false ∧ sender.liveLaunch? 5 = none ∧
    (let late := { letter with hop := { wayTo 1 with sent := 7 } }
     (∀ p ∈ (flying [letter]).dev.posted, p.hop.before letter.hop = false) ∧ { letter with hop := wayTo 1 }.hop.before late.hop = true) ∧
    sender.receiver? 0 0 = some sender.skein ∧ sender.receiver? 0 1 = none ∧ sender.backlog (launch 1) 0 = false ∧
    (flying []).liveLaunch? 0 = some (launch 1) ∧ 0 ∉ (launch 1).exited ∧ 3 ∈ { launch 1 with exited := [3] }.exited ∧ sender.resident? 0 0 = some sender.skein ∧ sender.skein.held = [] ∧
    sender.pullOverflow 0 0 = sender ∧ letter.kind ≠ 1 ∧ (sender.coreAt 0).inbound.length < 32 := by
  decide +kernel
/-- An event fibre whose skein has events pending. -/
def pendingEvents (p : BitVec 4) (l : List Msg) : State := ((sender.setFib fun f => { f with evf := true }).setSkein fun k =>
  { k with evPend := p, evEn := 15, hpc := 0x4444 }).setCore fun c => { c with inbound := l }
theorem witness_event_focus (p : BitVec 4) : (pendingEvents p []).focus (pendingEvents p []).fib.id = pendingEvents p [] :=
  focus_of _ (by revert p; decide +kernel)
theorem witness_events : let s := pendingEvents 4 []
    s.fib.live = true ∧ s.resident? 0 0 = some s.skein ∧ s.coreLive s.fib.at_ = true ∧ s.fib.canEnter s.skein = true ∧ s.skein.firstEvent = 2 ∧
    (pendingEvents 1 [letter]).fib.canEnter (pendingEvents 1 [letter]).skein = true ∧ (pendingEvents 1 [letter]).skein.firstEvent = 0 ∧
    letter.npl ≤ 6 := by decide +kernel
/-- R390: the header in g6 and the payload from g0 on, in the shadow bank. -/
theorem test_event_entry : let t := nextOf (exec (.eventEntry base.fib.id) (pendingEvents 1 [letter]))
    t.fib.inev = true ∧ t.skein.shadow.val.getD 0 0 = 77 ∧ t.skein.shadow.val.getD 1 0 = 88 ∧ t.skein.shadow.val.getD 7 0 = 0x1000 := by
  decide +kernel
/-- A pending register and a reply to it. -/
def awaiting : State := (withFill sender 3 Fill.pending).setDev fun d => { d with
  replies := [{ fib := base.fib.id, shadow := false, r := 3, v := 0xABCD, nack := false, hop := wayTo 0 }] }
theorem witness_fills : awaiting.fib.live = true ∧ awaiting.fib.bank.fill.getD 3 0 = Fill.pending ∧ awaiting.dev.replies[0]?.isSome = true ∧
    sender.fib.bank.fill.getD 3 0 ≠ Fill.pending ∧ 0 ≤ sender.wtick (chipNum sender.fib.at_) ∧ sender.wtick (chipNum sender.fib.at_) < 5 ∧
    sender.fib.evf = false ∧ (wayTo 3).along (wayTo 3) = true ∧ (sender.bank.fill.getD 5 0 ≠ Fill.pending) ∧
    (let s := pendingEvents 4 []
     s.resident? 0 0 = some s.skein ∧ s.fib.evf = true ∧ (s.skein.evPend &&& s.skein.evEn) &&& ~~~0#4 ≠ 0) ∧ ((sender.setFib fun f => { f with park := some (.sleep 5 0) }).fib.park = some (.sleep 5 0)) := by decide +kernel
/-- R127: the reply fills the register. -/
theorem test_reply : (nextOf (exec (.replyArrival 0) awaiting)).g 3 = 0xABCD := by decide +kernel

/-- A cooperative launch whose domain of level 5 is in phase n since tick 100. -/
def streaming (n : Nat) : State := (tabled [] 0x40004000 0x10 0).setDev fun d => { d with
  launches := [{ launch 1 with phases := [{ level := 5, dom := 0, phase := n, tp := 100, tpWas := 50, tpOdd := 100, contrib := [] }] }] }
/-- A packet of stream 9, frame slot 77, on its way to core 0 of chiplet 0. -/
def packet : Packet where
  src := 5
  vs := 9
  fslot := 77
  phase := 3
  mrk := true
  cnt := 1
  pbm := 0
  mesh := true
  chip := 0
  port := 8
  ready := 0
  reached := 0
  slotLen := 4
  sent := 0
  data := List.replicate 256 5
  bad := List.replicate 32 false
/-- The packet as `str.send` makes it. -/
def outgoing : Packet := { packet with src := 0, phase := 0, port := 4, slotLen := 1, bad := [] }
theorem witness_stream_sends : let s := streaming 3
    Room s 2 ∧ WaitOver s 0 ∧ s.waited 0 = s ∧ s.fib.guest = false ∧ 3 < s.fib.nv ∧ s.myLaunch.isSome = true ∧
    (s.myLaunch.map Launch.coop) = some true ∧ gives (sendData s 1 0 3) = true ∧ gives (sendData s 1 1 3) = true ∧ slotOffset s 77 = .ok 0 ∧
    (s.slotOpen 4 outgoing 0).isSome = true ∧ (streaming 2).slotOpen 4 outgoing 0 = none ∧
    0 < 4 ∧ 0 ≤ ((100 : Nat) : Int) + 1024 + (77 : Nat) * (4 : Nat) + 0 := by
  dsimp only [Room, WaitOver]; decide +kernel
/-- R401: phase entered at 100, slot 77 of one tick: 100 + 1024 + 77. -/
theorem test_slot : ((streaming 3).slotOpen 4 outgoing 0).map (·.2) = some 1201 := by decide +kernel
/-- The fibre waits for its slot at tick 10. -/
def slotted (tick : Nat) : State := ((streaming 3).setFib fun f => { f with park := some (.slot packet 4 7 (some 10)) }).setDev fun d =>
  { d with ticks := tick }
theorem witness_slots : (slotted 10).fib.live = true ∧ (slotted 10).fib.park = some (.slot packet 4 7 (some 10)) ∧ 10 ≤ (slotted 10).dev.ticks ∧
    (slotted 9).dev.ticks < 10 := by decide +kernel
/-- The packet waits at the port. -/
def ported : State := (streaming 3).setSkein fun k => { k with port := [{ packet with vs := 3 }, packet] }
/-- A spool of eight slots of 256 bytes with three filled; `b` is 1 where it is bound to stream 9. -/
def ring (b : Nat) : Spool := { cfg := BitVec.ofNat 64 (2 ^ 63 + b * (2 ^ 62 + 9 * 2 ^ 56) + 4 * 2 ^ 52 + 8 * 2 ^ 44 + 0x9000), fill := 3, wix := 3, rix := 0 }
/-- Stream 9 is bound to spool 2. -/
def boundStream : State := (streaming 3).setCore fun c => { c with spools := c.spools.set! 2 (ring 1) }
theorem witness_receives : let s := streaming 3
    let here (q : Packet) : Bool := q.vs == 9 && q.fslot == 77
    s.boundTo s.skein 9 = none ∧ s.skein.port.findIdx? here = none ∧ ported.skein.port.findIdx? here = some 1 ∧
    ported.skein.port[1]? = some packet ∧ FullG s 1 ∧ gives (streamPlace s s.accStore (s.g 1)) = true ∧ s.skein.armed.length < 256 ∧
    boundStream.boundTo boundStream.skein 9 = some 2 := by dsimp only [FullG]; decide +kernel
/-- The packet reaches the port. -/
def incoming (s : State) : State := s.setDev fun d => { d with packets := [packet] }
theorem witness_port_arrivals : let s := incoming (streaming 3)
    s.dev.packets[0]? = some packet ∧ 8 ≤ packet.port ∧ packet.port < 12 ∧ s.portSkein 0 9 = some s.skein ∧ bits (assoc 9 0 s.skein.expw) 11 2 = 0 ∧
    (let d := s.setDev fun d => { d with packets := dropAt d.packets 0 }
     d.boundTo s.skein 9 = none ∧ (s.skein.armed.findIdx? fun a => a.vs == 9 && a.fslot == 77) = none ∧ d.receivers s.skein 9 77 = [] ∧
     d.buffered s.skein.core < 8) ∧
    (let d := (streaming 3).setFib fun f => { f with park := some (.recv 9 77 2 5) }
     (oldestReceiver (d.receivers d.skein 9 77)).isSome = true) ∧
    8 ≤ ((streaming 3).setSkein fun k => { k with port := List.replicate 8 { packet with vs := 3 } }).buffered 0 ∧
    (boundStream.fillBound boundStream.skein 2 packet).isSome = true ∧
    (let b := boundStream.setSkein fun k => { k with port := [packet] }
     ((b.allSkeins.filter fun y => y.resident).flatMap fun y => (b.boundFirst y).map fun n => (y, n))[0]? = some (b.skein, 0) ∧
     b.skein.port[0]? = some packet ∧ b.boundTo b.skein 9 = some 2 ∧
     ((b.onSpool 2 fun x => { x with fill := 8 }).fillBound b.skein 2 packet).isNone = true) ∧ (boundStream.skein.port.any fun q => q.vs == 9) = false := by
  decide +kernel
/-- A router entry of stream 9 on mesh B with combination op, limit, input port 6 (and 0), outputs 1, 4 to 7; the packet comes at port p. -/
def routed (op lim p : Nat) : State :=
  let e := BitVec.ofNat 64 (2 ^ 63 + op * 2 ^ 60 + lim * 2 ^ 32 + 0x41 * 2 ^ 16 + 0xF2 * 2 ^ 8)
  ((streaming 3).setChip fun c => c.putRoute { mesh := true, vs := 9, cur := 0, alt := #v[e, 0, 0, 0] }).setDev fun d =>
    { d with ticks := 3, packets := [{ packet with port := p }] }
theorem witness_routers : let s := routed 0 5 6
    let e := ((s.chipAt 0).route true 9).alt.getD 0 0
    s.dev.packets[0]? = some { packet with port := 6 } ∧ earlierPacket s.dev.packets { packet with port := 6 } = false ∧ bit e 63 = true ∧
    bit e (16 + 6) = true ∧ bit e (16 + 3) = false ∧ bits e 60 3 = 0 ∧
    (let f := (((routed 1 5 6).chipAt 0).route true 9).alt.getD 0 0
     bits f 60 3 ≠ 0 ∧ portsIn (bits f 16 8) (2 ^ 6) = false ∧ (s.chipAt 0).reds = []) ∧
    (nextOf (exec (.routerStreamPacket 0) (routed 1 5 6))).openReds.length = 1 ∧ bits (((routed 1 5 6).chipAt 0).route true 9).alt[0] 32 16 = 5 ∧
    bits (((routed 1 0 6).chipAt 0).route true 9).alt[0] 32 16 = 0 ∧ 3 < (routed 0 5 6).wtick 0 + 1 := by decide +kernel
/-- The entry of `routed 1 5 6` once the packet of port 0 has come, and once it has forwarded. -/
def reducing (sent : Bool) : State := (routed 1 5 6).setChip fun c => c.putRed
  { mesh := true, vs := 9, alt := 0, fslot := 77, phase := 3, pkt := { packet with cnt := 2, pbm := 1 }, sent := sent, since := 0 }
/-- R397: the packet of port 6 completes it; one of port 0 would come again; and an entry with ports 0, 1 and 6 would wait on. -/
theorem witness_reductions_complete : let r := ((reducing false).chipAt 0).route true 9
    let e := r.alt.getD r.cur 0
    (((reducing false).chipAt 0).reds.find? fun x => x.is r.cur { packet with port := 6 }).map (fun q => (q.sent, q.pkt.pbm)) = some (false, 1) ∧
    (((reducing true).chipAt 0).reds.find? fun x => x.is r.cur { packet with port := 6 }).map (fun q => q.sent) = some true ∧
    portsIn (bits e 16 8) (1 ||| 2 ^ 6) = true ∧ portsIn 0x43 (1 ||| 2 ^ 6) = false ∧ (1 : Nat).testBit 0 = true ∧ (1 : Nat).testBit 6 = false ∧
    (let t := nextOf (exec (.routerStreamPacket 0) (reducing false))
     (t.chip.reds.map fun q => (q.sent, q.pkt.cnt, q.pkt.pbm)) = [(true, 3, 0x41)] ∧ t.dev.packets.map Packet.cnt = [3, 3, 3, 3, 3]) := by
  decide +kernel
/-- A deferred packet that came first at port 6 for output 1, and a newer one whose slot it holds. -/
def deferred : Packet := { packet with port := 16 + 4 * 6 + 1, ready := 2 }
theorem witness_deferred : 16 ≤ deferred.port ∧ deferred.port % 4 = 1 ∧ deferred.first { packet with port := 7, ready := 2 } = true ∧
    sameSlot deferred.ready 2 packet.slotLen = true ∧
    (let s := (routed 0 5 6).setDev fun d => { d with packets := [deferred] }
     deferred.ready ≤ s.wtick deferred.chip ∧ (s.leaveOn { packet with port := 7, ready := 2 } 1).dev.packets.map (fun q => q.port) =
       [deferred.port, 16 + 4 * 7 + 1]) := by decide +kernel
/-- R397: the first packet of a reduction opens it. -/
theorem test_reduction : let t := nextOf (exec (.routerStreamPacket 0) (routed 1 5 6))
    t.openReds.length = 1 ∧ t.dev.packets = [] ∧ (nextOf (exec (.routerStreamPacket 0) (routed 0 5 6))).dev.packets.length = 5 := by decide +kernel
/-- g1 names an entry or a spool, g2 holds its value. -/
def control (i e : Word) (sup : Bool) : State := (withG (withG (streaming 3) 1 i) 2 e).setFib fun f => { f with sup := sup }
theorem witness_stream_control : let s := (control 2 0x803 true).setCore fun c => { c with spools := c.spools.set! 2 (ring 0) }
    Room s 1 ∧ FullG s 1 ∧ FullG s 2 ∧ FreeG s 5 ∧ s.fib.guest = false ∧ expwOk (s.g 2) = true ∧ expwOk 0x800 = false ∧ bits (s.g 1) 0 4 < s.skein.spn ∧
    (s.spool 2).en = true ∧ 256 ≤ (s.spool 2).slotBytes ∧ (s.spool 2).bnd = false ∧
    (∀ j, j < 16 → j ≠ 2 → ¬((s.spool j).en = true ∧ (s.spool j).bnd = true ∧ bits (s.spool j).cfg 56 6 = 9)) ∧
    s.boundTo s.skein 9 = none ∧ boundStream.boundTo boundStream.skein 9 = some 2 ∧ (s.setDev fun d => { d with packets := [] }).undelivered 0 9 = false ∧
    (routed 0 5 6).undelivered 5 1 = true ∧ s.fib.sup = true ∧ (control 2 5 false).fib.sup = false ∧
    bits (s.g 1) 9 55 = 0 ∧ bits (0x8000000000410000#64) 60 3 ≤ 2 ∧ bits (0x8000000000410000#64) 48 12 = 0 ∧
    bits (0x8000000000410000#64) 24 8 = 0 ∧ bits (0x8000000000410000#64) 0 8 = 0 := by dsimp only [Room, FullG, FreeG]; decide +kernel

/-! ## The system -/

/-- g1 and g2 as given, at supervisor level or not, in a launch. -/
def sysAt (a b : Word) (sup : Bool) : State := (g23 (withG (inLaunch base 1) 1 a) b 0).setFib fun f => { f with sup := sup }
theorem witness_register_access : let s := sysAt 24 0 true
    Room s 1 ∧ FreeG s 1 ∧ FullG s 1 ∧ gives (sysAccess s 0xFFF false) = false ∧
    (match sysAccess s 0xC0 true with
     | .ok r => gives (r.write s 24 24) && gives (r.write s (r.read s ||| 24) 24) && gives (r.write s (r.read s &&& ~~~24#64) 24)
     | .error _ => false) = true ∧
    gives (sysAccess s 0xC0 false) = true := by dsimp only [Room, FullG, FreeG]; decide +kernel
/-- Every mark and every kind of register of the access checks occurs: of no register, of a skein, of supervisor level, read-only, user. -/
theorem witness_register_checks :
    ((List.range 4096).any fun n => (sysReg n).isNone) = true ∧
    ((List.range 4096).any fun n => ((sysReg n).map fun r => r.ofSkein).getD false) = true ∧
    ((List.range 4096).any fun n => ((sysReg n).map fun r => r.readMark == .super && !r.ofSkein).getD false) = true ∧
    ((List.range 4096).any fun n => ((sysReg n).map fun r => r.writeMark == .super && !r.ofSkein).getD false) = true ∧
    ((List.range 4096).any fun n => ((sysReg n).map fun r => r.writeMark == .none && !r.ofSkein).getD false) = true ∧
    ((List.range 4096).any fun n => ((sysReg n).map fun r => r.readMark == .user && !r.ofSkein && r != .prec && r != .fwin).getD false) = true ∧
    ((List.range 4096).any fun n => sysReg n == some (.spcfg 15)) = true ∧
    ((List.range 4096).any fun n => sysReg n == some (.bst 31)) = true ∧ base.skein.spn ≤ 31 ∧ (guest.fib.guest = true) ∧
    (base.setSkein fun k => { k with skmap := 0 }).skein.spn ≤ 15 ∧ (base.setSkein fun k => { k with skmap := 0 }).skein.bn ≤ 31 := by
  decide +kernel
theorem witness_register_writes : bits (0x60#64) 4 4 ≤ 6 ∧ 6 < bits (0x70#64) 4 4 ∧ base.dev.stepAt = none ∧
    (8 ≤ bits (0x800000000#64) 32 5 ∧ bits (0x800000000#64) 32 5 ≤ 24) ∧ 24 < bits (0x1900000000#64) 32 5 ∧
    (sysReg 0xC0).isSome = true ∧ base.chip.num < 256 ∧ gives (writePrec base 53) = true ∧ (inLaunch base 1).myLaunch = some (launch 1) ∧
    winBytes 2 ≤ winBytes (launch 1).win ∧ (bits (0x2100200#64) 21 2 + bits (0x2100200#64) 23 3 ≤ 4 ∧
    bits (0x2100200#64) 10 5 + bits (0x2100200#64) 15 6 ≤ 32 ∧ bits (0x2100200#64) 1 4 + bits (0x2100200#64) 5 5 ≤ 16) ∧
    16 < bits (0x3FE#64) 1 4 + bits (0x3FE#64) 5 5 ∧ 3 < base.skein.spn ∧ bit (0#64) 63 = false ∧
    spcfgOk (BitVec.ofNat 64 (2 ^ 63 + 4 * 2 ^ 52 + 8 * 2 ^ 44 + 0x9000)) = true ∧
    spcfgOk (BitVec.ofNat 64 (2 ^ 63 + 15 * 2 ^ 52 + 8 * 2 ^ 44 + 0x9000)) = false := by
  decide +kernel
/-- R402: MSL above 6 is refused; R136: a write of BBCNT. -/
theorem test_register_writes : (nextOf (exec (.bbcntWrite 77) base)).fib.bb.cnt = 77 ∧
    bits (nextOf (exec (.delayselWrite 0x70) base)).fib.trap.tcause 0 8 = 1 := by decide +kernel
/-- A fibre within its handler: the trap came from supervisor level at 0x4567 with code 0x13. -/
def handling (act : Bool) (count : Nat) : State := (sysAt 0 0 true).setFib fun f => { f with
  trap := { f.trap with tcause := 0xC000000000000013, trappc := 0x4567, tval := 9 }
  rgn := { f.rgn with act := act, count := count, pc := 0x8888, prec := f.prec } }
theorem witness_trap_entry : base.fib.guest = false ∧ bit base.fib.trap.tcause 63 = false ∧ 0x7F < 256 ∧
    bit (handling true 0).fib.trap.tcause 63 = true ∧ launch 1 ∈ (handling true 0).dev.launches ∧ (launch 1).lid = (handling true 0).fib.id.lid := by
  decide +kernel
theorem witness_traps : let s := sysAt 0x4100 0 true
    Room s 1 ∧ FullG s 1 ∧ s.fib.rpt.inBody = false ∧ s.fib.guest = false ∧ bit s.fib.trap.tcause 63 = false ∧
    (handling true 2).fib.sup = true ∧ (handling true 2).fib.rgn.act = true ∧ 2 ≤ (handling true 2).fib.rgn.count ∧
    (handling true 1).fib.rgn.count < 2 ∧ (handling true 1).fib.anyPending = false ∧
    precP (handling true 1).fib.rgn.prec = precP (handling true 1).fib.prec ∧ precOk (handling true 1).fib.rgn.prec = true ∧
    (handling true 1).fib.flive ≤ winRegs (handling true 1).fib.winSize (precP (handling true 1).fib.prec) ∧ (0x05 : Nat) ≠ 0x06 := by
  dsimp only [Room, FullG]; decide +kernel
/-- R435: back to TRAPPC with its low bits clear, TB 0. -/
theorem test_tret : (nextOf (exec .tret (handling false 0))).fib.pc = 0x4564 ∧
    bit (nextOf (exec .tret (handling false 0))).fib.trap.tcause 63 = false := by decide +kernel
/-- R435: the environment call has code 0x20, its subcause and its operand; it returns behind itself. -/
theorem test_trap : let t := nextOf (exec (.trap 1 7) (sysAt 0x4100 0 false))
    t.fib.trap.trappc = 0x1004 ∧ t.fib.trap.tval = 0x4100 ∧ bits t.fib.trap.tcause 0 16 = 0x720 ∧ t.fib.sup = true := by decide +kernel
/-- Where a diagnostic acts. -/
def diag (s : State) (a : Acc) : State × Piece := valOf (s, { va := 0, pa := 0, len := 0, leaf := 0 }) (diagPlace s a (s.g 1))
theorem witness_diagnostics : let s := sysAt 0x4100 77 true
    Room s 1 ∧ s.fib.sup = true ∧ FullG s 1 ∧ FullG s 2 ∧ FullG s 5 ∧ FreeG s 5 ∧ gives (diagPlace s s.accStore (s.g 1)) = true ∧
    gives (diagPlace s s.accLoad (s.g 1)) = true ∧ (diag s s.accStore).1.absentPa (diag s s.accStore).2.pa = false ∧
    ((sysAt 3 0 true).g 1).toNat < 1024 ∧ 1024 ≤ ((sysAt 1024 0 true).g 1).toNat ∧ bits ((sysAt 3 0 true).g 1) 18 46 = 0 := by
  dsimp only [Room, FullG, FreeG]; decide +kernel
/-- A capture that becomes due at tick 50, when the clock is at `n`. -/
def latching (n : Nat) (l : List Nat) : State := base.setDev fun d =>
  { d with latch := some { tick := 50, src := 3, taken := l }, ticks := n, hmctl := 0 }
theorem witness_cores : ((sysAt 3 0 true).boundCore 3 = none ∨ ((sysAt 3 0 true).boundCore 3).isSome = true) ∧
    (sysAt 3 0 true).blockExists 3 31 = false ∧ (latching 50 []).dev.latch = some { tick := 50, src := 3, taken := [] } ∧ (latching 9 []).dev.ticks < 50 ∧
    base.chip.state = 5 ∧ 0 ∈ base.liveLocs ∧
    ((latching 50 []).liveLocs.filter fun c => !([] : List Nat).contains c && decide (50 ≤ (latching 50 []).tickAt c)) = (latching 50 []).liveLocs ∧
    ((latching 9 []).liveLocs.filter fun c => !([] : List Nat).contains c && decide (50 ≤ (latching 9 []).tickAt c)) = [] := by decide +kernel
/-- R443: the last counter has reached the tick of the latch. -/
theorem test_latch : bit (nextOf (exec .hallmarkLatch (latching 50 []))).dev.hmctl 63 = true ∧
    bit (nextOf (exec .hallmarkLatch (latching 9 []))).dev.hmctl 63 = false := by decide +kernel
/-- R288: what failed twice has had its turn in the vector unit. -/
theorem witness_passed_turn : (unitQueued.passTurn .vector).chip.vunit.last = unitQueued.coreIndex ∧
    (unitQueued.passTurn .vector).chip.vunit.queue = [] := by decide +kernel
/-- R437: the word stored by `diag.stc` is read back with a check byte for its code, by `diag.ldr`. -/
theorem test_diag : (nextOf (exec (.diagLdr 5 1) (nextOf (exec (.diagStc 5 1 2 0 0) (sysAt 0x40004108 77 true))))).g 5 = 77 := by decide +kernel
/-- An instruction that retires: `add g1, g2, g3`. -/
noncomputable def goAdd : State → Host.Outcome State Fault Refusal := exec (.add 1 2 3)
theorem witness_checks : base.upset = 0 ∧ base.core.retired < (nextOf (goAdd base)).core.retired ∧ checkOf 0x02530000 = .stage ∧
    checkOf 0xF0000000 = .none ∧ checkOf 0xA0000000 = .unit 0 ∧ checkOf 0xD0000000 = .unit 1 := by decide +kernel

/-- Where the line of g1 lies. -/
def lineOf (s : State) : State × Word × Nat := valOf (s, 0, 0) (s.check s.accLoad (s.g 1).toNat)
theorem witness_cache : let s := sysAt 0x4100 0 true
    Room s 1 ∧ FullG s 1 ∧ (s.g 1).toNat < 2 ^ 57 ∧ gives (s.check s.accLoad (s.g 1).toNat) = true ∧ isPad (lineOf s).2.2 = false ∧
    leafByp (lineOf s).2.1 = false ∧ gives ((lineOf s).1.pieceHome { pa := (lineOf s).2.2, va := 0x4100, len := 1, leaf := (lineOf s).2.1 }) = true ∧
    isPad (lineOf (sysAt 0x40004000 0 true)).2.2 = true ∧ s.fib.sup = true ∧ gives (s.reach (bits (s.g 1) 0 8)) = true ∧
    (sysAt 0x4100 0 false).fib.sup = false ∧ s.dev.maint = [] := by dsimp only [Room, FullG]; decide +kernel
/-- A maintenance operation of the fibre on line 7, which has a value beneath. -/
def maintained (kind : Nat) : State := (sysAt 0x4100 0 true).setDev fun d => { d with
  maint := [{ by_ := base.fib.id, kind := kind, arg := 7, since := 5 }]
  below := [{ line := 7, since := 4, home := 3, hashed := false, key := 0, data := List.replicate 128 9, empt := [], pois := [], renewed := [] }]
  slices := [(7, 3), (8, 2)]
  msc := [{ line := 7, key := 5, dirty := true }, { line := 8, key := 7, dirty := true }] }
theorem witness_maintenance_ends : (maintained 0x34).dev.maint[0]? = some { by_ := base.fib.id, kind := 0x34, arg := 7, since := 5 } ∧ (∀ b ∈ (maintained 0x35).dev.below, b.since < 5) ∧
    ((maintained 0x34).dev.below.filter fun x => x.line == 7).length = 1 ∧
    ((maintained 0x36).dev.msc.filter fun x => x.key == 7) = [{ line := 8, key := 7, dirty := true }] := by decide +kernel
/-- R71: `l2.inv` drops the line unwritten: memory shows what lay beneath. -/
theorem test_l2_inv : memRead (nextOf (exec (.maintenanceComplete 0) (maintained 0x34))).dev.mem (128 * 7 + 5) = 9 ∧
    memRead (nextOf (exec (.maintenanceComplete 0) (maintained 0x33))).dev.mem (128 * 7 + 5) = 0 := by decide +kernel
/-- An invalidation of an address space is outstanding, of this fibre. -/
def invalidating : State := (sysAt 0 0x4100 true).setChip fun c => { c with inval := [{ by_ := base.fib.id, kind := 1, asid := 3, va := 0 }] }
theorem witness_translation : let s := sysAt 0 0x4100 true
    Room s 1 ∧ s.fib.sup = true ∧ FullG s 1 ∧ FullG s 2 ∧ FreeG s 3 ∧ (∀ c ∈ s.chip :: s.chips, c.inval = []) ∧ s.fib.id ∉ s.chip.regroup ∧
    2 ^ 57 ≤ ((sysAt 0 0x200000000000000 true).g 2).toNat ∧ (s.g 2).toNat < 2 ^ 57 ∧
    (match walk s 0 0x4100 with | (.leaf l pa, t) => isPad pa || (t.homeOf l pa).isSome | _ => false) = true ∧
    (match walk (sysAt 5 0x4100 true) 5 0x4100 with | (.fail _, t) => t.fib.bank.fill.getD 3 0 == Fill.full | _ => false) = true ∧
    invalidating.chip.inval[0]?.isSome = true ∧ s.core.wtb = [] ∧ s.cores = [] ∧ s.dev.posted = [] ∧ s.dev.feWait = [] ∧
    (∀ k ∈ s.allSkeins, k.armed = []) ∧ invalidating.invalWaits invalidating.chip.num { by_ := base.fib.id, kind := 1, asid := 3, va := 0 } = false ∧
    (invalidating.setDev fun d => { d with updates := [{ upd with asid := 3, hop := wayTo 1 }] }).invalWaits 0
      { by_ := base.fib.id, kind := 1, asid := 3, va := 0 } = true := by
  dsimp only [Room, FullG, FreeG]; decide +kernel
theorem witness_privilege : Room base 1 ∧ base.fib.sup = false ∧ Room guest 1 ∧ Room guest 2 ∧ guest.fib.guest = true := by
  dsimp only [Room]; decide +kernel
/-- A guest all of whose registers are full, in a skein with every handle and slot. -/
theorem witness_guest_registers : (∀ g, FullG guest g) ∧ 3 < bits guest.skein.skmap 5 5 ∧ 2 < bits guest.skein.skmap 23 3 ∧
    guest.entered .array = false ∧ guest.entered .vector = false ∧
    ((List.range 4096).any fun n => ((sysReg n).map SysReg.ofSkein).getD false) = true := by dsimp only [FullG]; decide +kernel
/-- R14: at user level `tlb.inv.all` raises the privileged fault. -/
theorem test_privileged : bits (nextOf (exec .tlbInvAll (sysAt 0 0 false))).fib.trap.tcause 0 8 = 2 := by decide +kernel
/-- A posted store of byte 9 to address p of chiplet 1, made in step n. -/
def postedTo (p n : Nat) : Posted := { fib := base.fib.id, core := 0, seq := n, src := 0, pa := p, data := [9], setFull := false, hop := wayTo 1 }
/-- Two buffered stores of the fibre to one line, and a posted store to chiplet 1. -/
def traffic : State := ((sysAt 0 0 true).setCore fun c => { c with
  wtb := [{ fib := base.fib.id, seq := 1, key := 0, pa := 256, data := [7], full := false }, { fib := base.fib.id, seq := 2, key := 0, pa := 264, data := [8], full := false }] }).setDev
    fun d => { d with posted := [postedTo (2 ^ 48 + 2 ^ 24) 3] }
theorem witness_traffic : traffic.dev.posted[0]? = some (postedTo (2 ^ 48 + 2 ^ 24) 3) ∧ coreNamed 0 = 0 ∧
    (traffic.coreAt (coreNamed 0)).wtb[1]?.isSome = true ∧ traffic.entryBehind 0 { fib := base.fib.id, seq := 1, key := 0, pa := 256, data := [7], full := false } = false ∧
    (postedTo 5 3).hop.along (postedTo 5 4).hop = true ∧ (traffic.dev.flight = []) ∧ ({ wayTo 1 with sent := 2 } : Hop).before (wayTo 1) = true ∧
    (traffic.setDev fun d => { d with flight := [{ letter with hop := traffic.hopFrom 0 3 }] }).entryBehind 0
      { fib := base.fib.id, seq := 1, key := 3 * 8192, pa := 256, data := [7], full := false } = true ∧
    traffic.fib.live = true ∧ traffic.fib.park ≠ some .data ∧ traffic.fib.park ≠ some .walker ∧ traffic.fib.at_ = traffic.core.num ∧
    paOk (8 * 2 ^ 45) = true ∧ (traffic.dev.ecc.find? fun e => e.1 == 5) = none ∧ isCheckColumn 0x00 = false := by decide +kernel
/-- R437: errors of one bit and of two in word 9 that arose by themselves, and what detecting them does. -/
theorem witness_arose : let s (syn : BitVec 8) := base.setDev fun d => { d with soft := [(9, syn)] }
    ((s 0x01).dev.soft.find? fun e => e.1 == 9) = some (9, 0x01) ∧ ((s 0x01).dev.ecc.find? fun e => e.1 == 9) = none ∧
    correctable 0x01 = true ∧ ((s 0x01).detectWord 9).poisonedWord 9 = false := by decide +kernel
/-- The syndrome of the spec's worked example (R446) is that of no check bit and of no data bit, whatever the columns are. -/
theorem witness_uncorrectable : isCheckColumn 0x03 = false ∧ columnOf 0x03 65 = none :=
  ⟨by decide, columnOf_none (by decide +kernel) le_rfl⟩
theorem witness_not_correctable : correctable 0x03 = false := by simpa [correctable] using witness_uncorrectable
/-- Chiplet 5 is fenced since step 9, and something that it sent before is on its way, or nothing is. -/
def losing (l : List Packet) : State := base.setDev fun d => { d with losing := [(5, 9)], packets := l }
theorem witness_chiplet_loss : (losing []).dev.losing.find? (fun e => e.1 == 5) = some (5, 9) ∧ (losing []).undelivered 5 9 = false ∧
    (losing []).dev.updates = [] ∧ (losing []).behindAny = false ∧ (losing [{ packet with src := 5, sent := 4, port := 4 }]).undelivered 5 9 = true ∧
    base.dev.losing.find? (fun e => e.1 == 5) = none ∧ base.dev.hgbase = 0 ∧ ((base.onChip 5 fun c => { c with state := 6 }).chipAt 5).state = 6 := by
  decide +kernel
theorem witness_losses : 3 < 64 ∧ 3 ∉ base.dev.memLost ∧ (3, 1) ∉ base.dev.absent ∧ base.dev.spares = [] ∧ (3 : Nat) < 8 ∧
    (true, 5, 256) ∉ base.dev.bondLost ∧ (base.chipAt 5).state ≠ 6 ∧
    bit base.dev.elctl 63 = false ∧
    (base.setDev fun d => { d with spares := [(3, 7)], memLost := [4] }).dev.spares = [(3, 7)] := by decide +kernel
/-- R57: the second channel lost of a memory chiplet is absent. -/
theorem test_channels : let s := nextOf (exec (.channelRetire 3 1) base)
    s.dev.spares = [(3, 1)] ∧ (nextOf (exec (.channelRetire 3 2) s)).dev.absent = [(3, 2)] := by decide +kernel

/-! ## Launches and the device -/

/-- Launch queue 5, its ring of four records at 0x7000 and its completion ring of four at 0x7800: HEAD 5, CTAIL 3. -/
def queue5 : Queue := { Queue.off with en := true, pa := 0x80006000, ring := 0x7000, rl := 2, pmax := 5, cl := 2, head := 5, tail := 5, uen := true, cring := 0x7800, ctail := 3 }
/-- Its descriptor at 0x80006000 with TAIL as given, empty or not; the queue as given; g1 and g2. -/
def queued (q : Queue) (tail : Nat) (empty : Bool) (ls : List Launch) (a b : Word) (sup : Bool) : State :=
  ((sysAt a b sup).setDev fun d => { d with
    mem := memPut d.mem 0x80006000 (bytesOf 8 0x7000 ++ bytesOf 8 (2 + 5 * 2 ^ 8 + 3 * 2 ^ 16 + 2 * 2 ^ 24) ++ bytesOf 8 5 ++ bytesOf 8 tail ++
      bytesOf 8 0x7800 ++ bytesOf 8 3 ++ bytesOf 8 2)
    empt := if empty then [0x80006018 / 8] else []
    queues := d.queues.set! 5 q
    launches := ls }).setCore fun c => { c with status := .exposed }
/-- A launch instruction: the record at 0x4000, queue 5. -/
def launching (tail : Nat) : State := queued queue5 tail true [launch 1] 0x4000 5 false
/-- The record's pieces. -/
def recordAt (s : State) : State × List Piece := valOf (s, []) (s.access s.accLoad (s.g 1) 64 false)
theorem witness_launch : let s := launching 5
    Room s 1 ∧ FullG s 1 ∧ FullG s 2 ∧ FreeG s 3 ∧ bits (s.g 2) 4 60 = 0 ∧ (s.g 1).toNat % 64 = 0 ∧ (s.queue 5).en = true ∧
    (s.fib.sup = true ∨ (s.queue 5).uen = true) ∧ (s.queue 5).asid = s.fib.asid ∧ gives (s.access s.accLoad (s.g 1) 64 false) = true ∧
    gives ((recordAt s).1.release 6) = true ∧
    (let u := valOf s ((recordAt s).1.release 6)
     gives (u.loadPieces false (recordAt s).2) = true ∧ u.descWord 5 24 - (s.queue 5).head < 2 ^ (s.queue 5).rl ∧
     (launching 9).descWord 5 24 - (s.queue 5).head = 2 ^ (s.queue 5).rl) := by dsimp only [Room, FullG, FreeG]; decide +kernel
/-- R427: the record's number, and TAIL one higher. -/
theorem test_launch : (nextOf (exec (.launch 3 1 2) (launching 5))).g 3 = 5 ∧
    (nextOf (exec (.launch 3 1 2) (launching 5))).descWord 5 24 = 6 ∧ (nextOf (exec (.launch 3 1 2) (launching 9))).g 3 = BitVec.allOnes 64 := by
  decide +kernel
/-- A launch that ended with status 3, reason 5. -/
def endedLaunch : Launch := { launch 1 with state := .ended 3 5, q := 5, recno := 5 }
theorem witness_launch_instructions : bits (0#64) 12 52 = 0 ∧ (queued queue5 5 true [] 0 0 true).launch? 0 = none ∧
    (queued queue5 5 true [launch 1] 0 0 true).launch? 0 = some (launch 1) ∧ (launch 1).asid = base.fib.asid ∧
    (launch 1).state = .running ∧ (queued queue5 5 true [endedLaunch] 0 0 true).launch? 0 = some endedLaunch ∧
    (launch 1).asid ≠ (base.setFib fun f => { f with asid := 7 }).fib.asid ∧ gives (settled base) = true ∧ base.fib.anyPending = false ∧
    gives (base.release 6) = true ∧ (inLaunch base 1).liveLaunch? 9 = none ∧ (inLaunch base 1).liveLaunch? 0 = some (launch 1) ∧ (launch 1).moved = [] := by
  decide +kernel
/-- R426: state 6 with the status above it. -/
theorem test_lch_stat : (nextOf (exec (.lchStat 3 1) (queued queue5 5 true [endedLaunch] 0 0 true))).g 3 = 6 + 256 * 3 := by decide +kernel
/-- `lq.set` of queue 5 from its descriptor. -/
def setting : State := queued Queue.off 5 true [launch 1] 5 0x80006000 true
theorem witness_lq_set : let c := valOf (setting, 0, 0) (setting.check { setting.accLoad with store := true } (setting.g 2).toNat)
    setting.fib.sup = true ∧ setting.g 2 ≠ 0 ∧ (setting.g 2).toNat % 64 = 0 ∧ (setting.g 2).toNat < 2 ^ 57 ∧
    gives (setting.check { setting.accLoad with store := true } (setting.g 2).toNat) = true ∧ isDram c.2.2 = true ∧ bit c.2.1 5 = true ∧
    descriptorGood (c.1.drain.homeBytes c.2.2 64) = true := by decide +kernel
/-- R409: the queue takes what the descriptor says. -/
theorem test_lq_set : let q := (nextOf (exec (.lqSet 1 2) setting)).queue 5
    q.en = true ∧ q.ring = 0x7000 ∧ q.rl = 2 ∧ q.head = 5 ∧ q.cring = 0x7800 ∧ q.ctail = 3 := by decide +kernel
/-- All chiplets are live. -/
def allUp (s : State) : State := { s with chip := { s.chip with state := 5 }, chips := (List.range 255).map fun i => { Chip.zero (i + 1) with state := 5 } }
theorem witness_doorbell : let s := queued queue5 8 false [] 0 0 true
    (s.queue 5).en = true ∧ s.emptyWord (0x80006018 / 8) = false ∧ s.poisonedWord (0x80006018 / 8) = false ∧ (s.queue 5).stopped = false ∧
    s.descWord 5 24 = 8 ∧ 5 ≤ 8 ∧ 8 ≤ 5 + 2 ^ 2 ∧ (queued queue5 10 false [] 0 0 true).descWord 5 24 = 10 ∧
    ((queued { queue5 with stopped := true } 8 false [] 0 0 true).queue 5).stopped = true ∧
    (queued queue5 5 true [] 0 0 true).emptyWord (0x80006018 / 8) = true ∧ (s.queue 5).tail ≤ (s.queue 5).head := by decide +kernel
theorem witness_record : (allUp (queued { queue5 with tail := 8 } 8 true [] 0 0 true)).broughtUp = true ∧
    (allUp (queued { queue5 with tail := 8 } 8 true [] 0 0 true)).freeLid = some 0 := by decide +kernel

/-- A launch of queue 5 for the one logical core 1, that waits with its first skein. -/
def waitingLaunch (n fl : Nat) : Launch := { launch fl with
  lid := n, q := 5, state := .waiting, next := 0, prio := n
  record := (launch fl).record.take 56 ++ bytesOf 4 (1 + 1 * 2 ^ 2) ++ (launch fl).record.drop 60 }
/-- Logical core 1 is core 1, which is exposed; the launches as given. -/
def placed (ls : List Launch) : State := { (queued queue5 5 true ls 0 0 true).setDev fun d => { d with mem := memPut d.mem 8 (bytesOf 8 (posOfCore 1)) } with
  cores := [{ Core.zero 1 with status := .exposed }] }
/-- A launch whose first skein is to be placed for the first time, or again. -/
def placingLaunch (again : Bool) : Launch := { waitingLaunch 1 0 with
  state := if again then .preempted else .placing, evicted := if again then [0] else [], next := if again then 1 else 0 }
theorem witness_placement : let s := placed [waitingLaunch 1 0]
    s.launch? 1 = some (waitingLaunch 1 0) ∧ s.admissible (waitingLaunch 1 0) = true ∧ (waitingLaunch 1 0).coop = false ∧
    (queued queue5 5 true [{ waitingLaunch 1 0 with ready := false }] 0 0 true).launch? 1 = some { waitingLaunch 1 0 with ready := false } ∧
    s.heldBack (waitingLaunch 1 0) = false ∧
    (placed [waitingLaunch 1 0, { waitingLaunch 2 0 with prio := 3 }]).heldBack (waitingLaunch 1 0) = true ∧
    (placed [placingLaunch false, { placingLaunch false with lid := 2, prio := 3 }]).roomPromised (placingLaunch false) = true ∧
    (placed [placingLaunch false]).roomPromised (placingLaunch false) = false ∧
    (placed [placingLaunch true]).roomPromised (placingLaunch true) = false ∧ (placingLaunch false).live = true ∧ (placingLaunch false).nextSkein = some 0 ∧ (placingLaunch false).stored 0 = false ∧
    ((placed [placingLaunch false]).coreFor (placingLaunch false) 0).isSome = true ∧ (placingLaunch true).nextSkein = some 0 ∧
    (placingLaunch true).stored 0 = true ∧ (placed [placingLaunch true]).higherWaits (placingLaunch true) = false ∧
    ((placed [placingLaunch true]).coreFor (placingLaunch true) 0).isSome = true ∧ endedLaunch.live = false ∧
    (queued queue5 5 true [waitingLaunch 1 0] 0 0 true).launch? 1 = some (waitingLaunch 1 0) := by decide +kernel
/-- The same, cooperative. -/
def coopLaunch : Launch := { waitingLaunch 1 1 with state := .placing }
theorem witness_coop : (placed [{ coopLaunch with state := .waiting }]).admissible { coopLaunch with state := .waiting } = true ∧
    (placed [{ coopLaunch with state := .waiting }]).roomPromised { coopLaunch with state := .waiting } = false ∧
    (placed [placingLaunch false, { coopLaunch with lid := 2, prio := 3 }]).roomPromised (placingLaunch false) = true ∧ coopLaunch.coop = true ∧ coopLaunch.live = true ∧ coopLaunch.nextSkein = some 0 ∧ coopLaunch.stored 0 = false ∧
    (placed [coopLaunch]).roomPromised coopLaunch = false ∧ ((placed [coopLaunch]).placeAll 1 coopLaunch.unplaced).isSome = true ∧
    ((queued queue5 5 true [coopLaunch] 0 0 true).placeAll 1 coopLaunch.unplaced).isNone = true := by decide +kernel
/-- A launch of higher priority waits, the core is taken, and it has a victim. -/
def contended : State := queued queue5 5 true [launch 0, { waitingLaunch 2 0 with prio := 3 }] 0 0 true
theorem witness_preemption : (contended.victim { waitingLaunch 2 0 with prio := 3 }).isSome = true ∧
    contended.coreFor { waitingLaunch 2 0 with prio := 3 } 0 = none ∧ ({ waitingLaunch 2 0 with prio := 3 } : Launch).ready = true ∧
    contended.lacksRoom { waitingLaunch 2 0 with prio := 3 } = true ∧ ({ waitingLaunch 2 0 with prio := 3 } : Launch).nextSkein = some 0 ∧
    (placed [waitingLaunch 1 0]).lacksRoom (waitingLaunch 1 0) = false ∧
    contended.launch? 2 = some { waitingLaunch 2 0 with prio := 3 } := by decide +kernel
/-- R336: a first placement puts ENTRY into the PC and ARGS into g7. -/
theorem test_place : let f := ((placed []).placeFirst (waitingLaunch 1 0) 2 5).fibres.getLastD Fibre.zero
    f.pc = 0x2000 ∧ f.bank.val.getD 0 0 = 2 ∧ f.bank.val.getD 7 0 = 0x3000 ∧ precP f.prec = 24 := by decide +kernel

/-- Launch 1 of queue 5 ended. -/
def finished (held sg : Bool) : Launch := { waitingLaunch 1 0 with state := .ended 3 5, held := held, signalled := sg, recno := 9 }
/-- The grid of one waiting fibre at a late tick. -/
def grid (fl : Nat) : State := ((queued queue5 5 true [{ launch fl with q := 5 }] 0 0 false).setFib fun f =>
  { f with evf := true, park := some .event, parkedAt := 0 }).setDev fun d => { d with ticks := 1000000 }
theorem witness_ends : let s := queued queue5 5 true [finished false false] 0 0 true
    s.launch? 1 = some (finished false false) ∧ (finished false false).result.isSome = true ∧ s.busyLaunch 1 = false ∧ s.behindAny = false ∧ (finished true true).held = true ∧
    (launch 0).result = none ∧ s.stalled (finished false false) = false ∧ (grid 0).stalled { launch 0 with q := 5 } = true ∧
    ({ launch 0 with q := 5 } : Launch).evic = false ∧ ((grid 0).residents 0).length = 1 ∧ ((grid 0).fibresOf 0 0).any Fibre.evf = true ∧
    (grid 2).stalled { launch 2 with q := 5 } = true ∧ ({ launch 2 with q := 5 } : Launch).evic = true ∧ (grid 2).canStop { launch 2 with q := 5 } (grid 2).skein = true ∧
    s.firstHeld 5 = none ∧ (queued queue5 5 true [finished true true] 0 0 true).firstHeld 5 = some (finished true true) ∧
    s.descWord 5 48 = 2 ∧ 2 ≤ (s.queue 5).ctail ∧ (s.queue 5).ctail - 2 < 2 ^ (s.queue 5).cl := by decide +kernel
/-- R416: an earlier launch of queue 5, held, whose result came first; and no other is held. -/
theorem witness_held_order : let first : Launch := { finished true true with lid := 2, recno := 7, done := some (40, 8) }
    let later : Launch := { finished true true with done := some (50, 9) }
    let s := queued queue5 5 true [first, later] 0 0 true
    first.doneBefore later = true ∧ later.doneBefore first = false ∧ (∃ x ∈ s.dev.launches, x.q = 5 ∧ x.held = true ∧ x.lid ≠ 1 ∧ x.doneBefore later = true) ∧
    s.firstHeld 5 = some first ∧ (2 : Nat) ≤ (s.queue 5).ctail ∧
    (2 ^ (({ queue5 with cl := 0 } : Queue).cl) ≤ (s.queue 5).ctail - s.descWord 5 48) := by decide +kernel
theorem witness_signal : let s := queued queue5 5 true [launch 0] 0 0 true
    let l : Launch := { launch 0 with record := (launch 0).record.take 40 ++ bytesOf 8 0x4100 ++ (launch 0).record.drop 48 }
    (launch 0).sigc = 0 ∧ l.sigc = 0x4100 ∧ s.agentOk 0 0x4100 true = true ∧ s.agentBad 0 0x4100 8 = false := by decide +kernel
theorem witness_stall_goes_on : contended.nextFits { waitingLaunch 2 0 with prio := 3 } = false := by decide +kernel
theorem witness_next_fits : (placed [placingLaunch true]).nextFits (placingLaunch true) = true := by decide +kernel
theorem witness_hung : let s := queued queue5 5 true [launch 0] 0 0 false
    (s.coreAt (coreOfPos (posOfCore 0))).status = .exposed ∧ s.fib ∈ s.allFibres ∧ s.fib.at_ = 0 ∧ s.fib.park = none ∧ s.fib.travel = none ∧
    s.clocksSince 0 (s.coreAt 0).lastRetire (2 ^ 20) = false ∧
    (s.setDev fun d => { d with clk := 200000000 }).clocksSince 0 (s.coreAt 0).lastRetire (2 ^ 20) = true ∧ s.dev.recover = [] ∧
    s.coreLive 0 = true ∧ s.recovering 0 = false ∧
    (let t := s.startRecovery 0 0x0A 2
     let e : Recovering := { core := 0, reason := 0x0A, sub := 2, since := s.ctr + 1 }
     t.dev.recover.find? (fun x => x.core == 0) = some e ∧ t.coreDrained e = true ∧
     (t.setDev fun d => { d with updates := [{ upd with fib := t.fib.id, hop := wayTo 1 }] }).coreDrained e = false) := by decide +kernel
/-- A packet that is to cross from chiplet 3 to a neighbour, and devices at tick n whose next pulse comes at tick 2^20, or never. -/
def pulsing (p : Option Nat) (n : Nat) : State := base.setDev fun d => { d with pulse := p, ticks := n }
theorem witness_steps : (pulsing none 5).dev.pulse = none ∧ (pulsing (some (2 ^ 20)) 5).dev.pulse = some (2 ^ 20) ∧
    ({ packet with port := 1, chip := 3 } : Packet).crossing 3 = true ∧ (base.chipAt 3).stretched = 0 ∧
    base.clocksSince 3 100 16 = false ∧ base.now < 5 ∧
    (base.setDev fun d => { d with dramSet := [4] }).setUpFor 16 4 = true ∧ State.reset.setUpFor 16 4 = false ∧ State.reset.setUpFor 16 1 = false ∧
    base.dev.memLost = [] := by decide +kernel
/-- R456: the first pulse starts the count, the second comes 2^20 ticks later. -/
theorem test_pulse : (nextOf (exec .syncPulse (pulsing none 5))).dev.pulse = some (5 + 2 ^ 20) ∧
    (nextOf (exec .syncPulse (pulsing (some 9) 5))).dev.pulse = some 9 ∧
    (nextOf (exec .syncPulse (pulsing (some 5) 5))).dev.pulse = some (5 + 2 ^ 20) := by decide +kernel
theorem witness_device : base.dev.stepAt = none ∧ (base.setDev fun d => { d with stepAt := some 5, ticks := 5 }).dev.stepAt = some 5 ∧
    State.reset.dev.powered = true ∧ (State.reset.chipAt 16).state < 5 ∧
    ((List.range 256).any fun c => State.reset.rimReady c ((State.reset.chipAt c).state + 1)) = true ∧
    ((List.range 256).any fun c => !State.reset.rimReady c ((State.reset.chipAt c).state + 1)) = true ∧ ((allUp base).chipAt 16).state = 5 ∧
    (allUp base).chip.state ≠ 0 := by decide +kernel
/-- R454: the step changes at its tick, not before. -/
theorem test_freq : (nextOf (exec .freqStepChange (base.setDev fun d => { d with stepTarget := 9, stepAt := some 5, ticks := 5 }))).dev.step = 9 ∧
    (nextOf (exec .freqStepChange (base.setDev fun d => { d with stepTarget := 9, stepAt := some 5, ticks := 4 }))).dev.step = 0 := by decide +kernel
/-- A registration entry 3 of key 7 of 4096 bytes at 0x4000 with flags. -/
def registered (fl : Nat) : State := (inLaunch base 1).setDev fun d => { d with
  rktbase := 0x20000
  qps := [{ num := 7, mtu := 1024 }]
  mem := memPut d.mem (0x20000 + 32 * 3) (bytesOf 8 0x4000 ++ bytesOf 8 0x1000 ++ bytesOf 2 0 ++ bytesOf 2 fl ++ bytesOf 4 7) }
theorem witness_rdma : (registered 7).queuePair 7 = true ∧ (registered 7).queuePair 6 = false ∧ ((registered 7).edgeFor []).isSome = true ∧ ((registered 7).setDev fun d => { d with edgeLost := List.range 8 }).edgeFor [] = none ∧
    ((registered 7).edgeFor ((registered 7).rdmaHomes 0 0x4100 100)).isSome = true ∧ (0x4100 : Nat) % 64 + 40 ≤ 64 ∧
    (registered 7).rdmaRefusal 0x7003 0x4100 100 true = none ∧ (registered 7).rdmaRefusal 0x7003 0x4100 100 false = none ∧
    ((registered 1).rdmaRefusal 0x7003 0x4FFF 10 true).isSome = true ∧ ((registered 1).rdmaRefusal 0x7003 0x4FFF 10 false).isSome = true ∧
    (field ((registered 15).registration 0x7003) 18 1).testBit 3 = true ∧ (registered 15).rdmaRefusal 0x7003 0x4100 100 true = none ∧
    (field ((registered 7).registration 0x7003) 18 1).testBit 3 = false ∧ (registered 7).dev.ecc = [] := by decide +kernel
/-- The steps of R69 are complete for the identifiers 9 and 4095. -/
def purged : State := base.setDev fun d => { d with purge := { d.purge with complete := [9, 4095] } }
/-- R463: a key fills its slot, once the steps of R69 are complete. -/
theorem test_key : let t := nextOf (exec (.keySlotLoad 4095 77) purged)
    t.key 4095 = 77 ∧ t.key 4094 = 0 ∧ t.dev.purge.complete = [9] ∧ 8 ∉ purged.dev.purge.complete ∧
    (nextOf (exec (.keySlotLoad 8 77) purged)).key 8 = 0 := by decide +kernel

/-- R463: a nonce of 64 bytes is taken, one of 65 is not. -/
theorem test_report : (nextOf (exec (.attestationRequest (List.replicate 64 1)) base)).dev.reports.length = 1 ∧
    (nextOf (exec (.attestationRequest (List.replicate 65 1)) base)).dev.reports = [] := by decide +kernel

/-! ## The whole machine -/

theorem witness_encode : (Instr.add 1 2 3).wf = true ∧ encode (.add 1 2 3) = some (0x02530000, none) ∧ decode 0x02530000 0 = .ok (.add 1 2 3) ∧
    (match decode 0 5 with | .error c => c == 0 | .ok _ => false) = true := by decide +kernel
/-- A step: `jal g7, 0xC0`, or the instruction of a body. -/
def stepping (w : Nat) : State := base.withFetchWord 32 w
theorem witness_step : (stepping 0x02530000).turn = .issue ∧ (stepping 0x02530000).canIssue (stepping 0x02530000).fib = true ∧
    (stepping 0x02530000).fib.rpt.inBody = false ∧
    (match ((stepping 0x02530000).takeSlot.settleLocal.fetch 0x1000).2 with | .ok (x, _) => decode x 0 == .ok (.add 1 2 3) | .error _ => false) = true ∧
    ((stepping 0x02530000).takeSlot.settleLocal.fetch 0x1000).1.upset = 0 ∧
    (match ((stepping 0).takeSlot.settleLocal.fetch 0x1000).2 with | .ok (x, _) => decide (x = 0) | .error _ => false) = true ∧
    (match ((base.setFib fun f => { f with pc := 0x100000000000000 }).takeSlot.settleLocal.fetch 0x100000000000000).2 with
     | .error (.trap _ _ _) => true | _ => false) = true ∧
    (base.setFib fun f => { f with park := some .event }).canIssue (base.setFib fun f => { f with park := some .event }).fib = false ∧
    ofAgent .syncPulse = true ∧ base.upset < 2 := by decide +kernel
/-- The fibre replays a body, or is in its first iteration. -/
def inBody (iter : Nat) : State := base.setFib fun f => { f with
  rpt := { f.rpt with act := true, iter := iter, pos := 0, word := 0x2E000000, start := 0x1000, words := [(0x80000000, 0)] } }
theorem witness_body : (inBody 1).fib.rpt.inBody = true ∧ (inBody 0).fib.rpt.inBody = true ∧ 0 < (inBody 1).fib.rpt.iter ∧
    (inBody 0).fib.rpt.refuses 0x23C000C0 0 = true ∧ (inBody 0).fib.rpt.refuses 0x80000000 0 = false ∧ (inBody 0).turn = .issue ∧
    (inBody 0).canIssue (inBody 0).fib = true ∧ (match ((inBody 0).takeSlot.settleLocal.fetch 0x1000).2 with | .ok _ => true | _ => false) = true ∧
    decode 0x23C000C0 0 = .ok (.jal 7 0xC0) ∧ bodyMajor 0x80000000 = true ∧ bodyMajor 0x23C000C0 = false ∧ bodyWords [(0x80000000, 0)] ≤ 16 := by decide +kernel
/-- R272: a fibre stands in the queue of the vector unit with its words; one that runs has none there. -/
theorem witness_queued_words : (base.setFib fun f => { f with park := none }).queuedWords = none ∧
    ((unitQueued.setFib fun f => { f with park := some (.queued .vector) }).queuedWords).isSome = true := by decide +kernel
/-- R149: the step of `add g1, g2, g3` at 0x1000 ends with the sum in g1 and the PC behind it. -/
theorem test_step : (nextOf (step (g23 (stepping 0x02530000) 40 2))).fib.pc = 0x1004 ∧ (nextOf (step (g23 (stepping 0x02530000) 40 2))).g 1 = 42 := by
  decide +kernel
/-- The words of the examples of R252, through `withFetchWord` at reset. -/
theorem test_reset_step : bits (nextOf (step (State.reset.withFetchWord 32 0xF2180007))).fib.trap.tcause 0 16 = 0x720 ∧
    (nextOf (step (State.reset.withFetchWord 32 0x23C000C0))).fib.pc = 0x1300 := by decide +kernel
/-- A reply has filled g2, unread so far. -/
def unread : State := base.setFib fun f => { f with bank := f.bank.mark 2 true }
theorem witness_register_frame : Room base 1 ∧ ¬IsFull (withFill base 2 Fill.pending) 2 ∧ IsFull unread 2 ∧ FirstRead unread 2 ∧
    (withFill base 2 Fill.pending).bank.fill.getD 2 0 ≠ Fill.token ∧ FullG base 2 ∧ FullG base 3 ∧ ¬FreeG (withFill base 1 Fill.pending) 1 ∧
    (withFill base 2 Fill.token).bank.fill.getD 2 0 = Fill.token ∧ bits (base.g 2) 0 16 ≠ 6 ∧ Room unread 1 ∧ base.fib.rpt.inBody = false := by
  dsimp only [Room, FullG, FreeG]; decide +kernel
theorem witness_focus : base.turn = .issue ∧ base.readyFibres ≠ [] ∧ base.canIssue base.fib = true := by decide +kernel

/-! ## Well-formedness -/

/-- Terms with a reserved value in a field, or a value in a field not used: one for each check of step 4 of R172, and for its parts. -/
noncomputable def badFields : List Instr := [
  .sll 1 2 3 0x40, .srl 1 2 0 0xC0, .sra 1 2 3 1,
  .ld 3 1 1 2 15 0 0, .ld 0 0 1 2 8 0 0, .ldAcq 3 1 1 2 15 0 0, .ldFe 3 1 1 2 15 0 0, .ldNt 0 0 1 2 9 0 0,
  .st 0 1 2 14 0 0, .stRel 0 1 2 8 0 0, .stFe 0 1 2 8 0 0, .stNt 0 1 2 8 0 0,
  .ldF 1 2 8 0 0 0, .ldF 1 2 15 0 2 0, .stF 1 2 15 0 2 0, .ldFAdv 1 2 0 2,
  .vld 0 1 2 8 0 0 0, .vst 0 1 2 15 0 2 0, .vldF 1 2 15 0 2 0, .vstF 1 2 8 0 0 0,
  .vldGather 2 1 2 7 0 0 0, .vstScatter 2 1 2 3 0 2 0, .vldFGather 1 2 7 0 0 0, .vstFScatter 1 2 7 0 0 0,
  .pfL2 1 8 0, .pfMsc 1 8 0, .pfL1 1 8 0,
  .ldScoped 1 2 0 0 0 8 1 15 0, .ldScoped 1 2 0 0 0 1 0 15 0, .stScoped 1 2 0 0 9 2 15 0, .amoScoped 1 2 3 0 0x16 0 0 0,
  .casScoped 1 2 3 4 0 0 8 1 0, .barRmt 1 2 0 1, .twait 0, .dbarArr 1 2 0, .dbarWait 1 5, .dbarSync 1 7, .dphase 1 0, .dphaseT 1 6,
  .fconst 1 18, .vaddVf 1 2 3 0 0 0 1, .vmulVf 1 2 3 0 0 0 1, .vaddInt 1 2 3 0 0 0 1 0, .vfmaVf 1 2 3 0 0 0 1, .vmac 1 2 3 0 0 0 1 0,
  .vcmpEqVf 1 2 3 0 0 0 1, .vcmpEqInt 1 2 3 0 0 0 0 0, .vperm 1 2 3 0 0 0 0 5, .vslideup 1 2 3 0 0 5, .vcompress 1 2 0 0 5,
  .vcvtVfInt 1 2 0 0 0 6, .bsGet 1 0, .bsGets 1 65, .bsPeek 1 0, .bsSkip 65, .arrMv 1 2 3 0 0 0 1 0 0 0, .arrMm 1 2 3 0 0 0 0 1 0 0 0,
  .arrDrain 0 1 0 0 5 0 0 0, .arrDrain 0 1 0 0 2 1 0 0, .arrDrain 0 1 0 0 0 0 1 0, .arrDrain 1 1 0 0 0 0 0 0,
  .plIsect 1 2 3 0 0 0 1, .plUnion 1 2 3 0 0 0 1, .cpPull 1 2 3 0 0 1 0 0 0 0 0 0 0, .cpPush 0 1 2 3 0 48 0 1 0 0 0,
  .cpPush 1 1 2 3 0 0 0 0 0 0 0, .cpGather 1 1 2 3 0 0 0 0 2 1, .msgSend 0 1 2 0 0 0 0 0 0, .msgSend 0 1 0 2 0 0 0 0 0, .msgSend 1 1 0 0 0 0 0 0 0,
  .strSend 0 0 0 0 0 0 0 0 0, .strSend 1 0 1 0 0 0 0 0 0, .strRecv 0 0 0 0 1 1]
/-- Terms whose fields are permitted and whose combination is not: one for each check of step 5, and for its parts. -/
noncomputable def badCombos : List Instr := [
  .vldGather 1 1 2 3 0 0 0, .vstScatter 0 1 2 3 0 0 0, .ldScoped 1 2 0 0 0 0 2 15 0, .stScoped 1 2 0 0 0 1 15 0, .tritUnpackM 1 2 1,
  .arrMm 1 2 3 0 15 0 0 0 0 0 1, .arrDrain 0 1 0 15 1 0 0 1, .arrDrain 0 1 0 0 0 15 0 1, .arrClear 1 15,
  .cpPull 1 2 3 0 0 0 0 0 0 1 0 0 0, .cpPull 1 2 3 0 0 0 0 0 0 0 1 0 0, .cpPull 1 2 3 0 0 0 0 2 0 0 3 0 0, .cpPull 1 2 3 0 0 0 0 0 0 0 0 1 0,
  .cpPull 1 2 3 0 0 1 0 2 0 0 0 0 0, .cpPull 1 2 3 0 0 4 0 1 0 0 0 0 0, .cpPull 1 2 3 0 2 0 0 1 0 0 0 0 0, .cpPull 1 2 3 0 1 0 0 2 0 0 0 0 0,
  .cpPush 0 1 2 3 0 0 0 6 0 0 0, .cpPush 0 1 2 3 0 0 0 0 0 1 0, .cpPush 0 1 2 3 0 0 0 0 0 0 1, .cpPush 0 1 2 3 0 0 0 2 0 0 3,
  .cpPush 1 1 2 3 0 24 0 1 0 0 0, .cpPush 0 1 2 3 0 1 0 0 0 0 0, .cpGather 1 1 2 3 0 0 0 0 0 0, .msgSend 0 1 0 0 0 0 0 7 0,
  .msgSend 0 1 4 0 0 0 0 5 0]
theorem test_ill_formed_fields : (badFields.all fun i => !i.fieldOk && !i.wf) = true := by decide +kernel
theorem test_ill_formed_combos : (badCombos.all fun i => i.fieldOk && !i.comboOk && !i.wf) = true := by decide +kernel

/-! ## Memory encryption -/

/-- R68: the example of FIPS 197 for AES-256, both ways. -/
theorem test_aes : let block := (List.range 16).map fun i => 17 * i
    bytesNat (aesEncrypt (List.range 32) block) = 0x8960494B9049FCEABF456751CAB7A28E ∧ aesDecrypt (List.range 32) (aesEncrypt (List.range 32) block) = block := by decide +kernel
/-- The keys, the bytes 0 to 127 and their cipher text in vector 10 of IEEE 1619, whose data unit is 255. -/
def xtsKey : BitVec 512 := 0x92459474098205513799931697418802952783336462842393975853265941312776966649575999699370245777496226357174286053234590452818281827
def xtsPlain : BitVec 1024 := BitVec.ofNat 1024 (bytesNat (List.range 128))
def xtsCipher : BitVec 1024 :=
  0xCA2914898708020010CF8A0F87E92371753AD0612912BAAE89AC9DFF5F4DCDC5B041A7D4218B847DF2822AA79969A6AA70ECBA9810FD08B15E09A3496C927657FD88B14BCBFEBE4533FCAD35AC860A68443F68ACF917B3668D4AFEF876E2315D3BE6A314D412AEA45723485E3F8000EA9BCF70E3996C83E48603772F103A3B1C
/-- R68: the tweak of a line is its number. -/
theorem test_xts : xtsEncrypt xtsKey 255 xtsPlain = xtsCipher ∧ xtsDecrypt xtsKey 255 xtsCipher = xtsPlain := by decide +kernel

end Sys2Proof.Tests
end

/-! # Every step goes on (O58)

No meaning answers `.refused`: an instruction ends in `conclude`, of a state that follows or of a stop that `stopped` turns into one, and
a step of an agent answers a next state in every branch. A step of the module adds choices between meanings, and none of its own. -/

namespace Sys2Proof.Machine

/-! ## Outcomes that go on -/

theorem next_goes (t : State) : GoesOnOrHole (.next t) := .inl ⟨t, rfl⟩

theorem fault_goes (f : Fault) : GoesOnOrHole (.fault f) := by
  obtain ⟨pa⟩ := f
  exact .inr ⟨pa, rfl⟩

theorem agentStep_goes (s : State) (r : Ex State) : GoesOnOrHole (agentStep s r) := by
  unfold agentStep
  split
  · exact next_goes _
  · split
    · exact fault_goes _
    · exact next_goes _

/-- What follows a step that goes on adds no stop. -/
theorem onNext_goes (f : State → State) {r : Host.Outcome State Fault Refusal} (h : GoesOnOrHole r) : GoesOnOrHole (onNext f r) := by
  obtain ⟨t, rfl⟩ | ⟨pa, rfl⟩ := h
  · exact next_goes _
  · exact fault_goes _

/-! ## Meanings with more than one end -/

theorem branchIf_goes (s : State) (c : Ex Bool) (o : BitVec 15) : GoesOnOrHole (branchIf s c o) := by
  unfold branchIf
  split
  · exact stopped_goes _
  · exact conclude_goes _
  · exact run_goes ..

theorem execRpt_goes (k : BitVec 4) (n : BitVec 8) (d a b c : BitVec 3) (s : State) : GoesOnOrHole (execRpt k n d a b c s) := by
  unfold execRpt
  split
  · exact stopped_goes _
  · exact next_goes _

theorem execDiagFence_goes (a : BitVec 3) (s : State) : GoesOnOrHole (execDiagFence a s) := by
  unfold execDiagFence
  split
  · exact stopped_goes _
  · exact stopped_goes _
  · exact runThen_goes ..

theorem execMigrateRet_goes (s : State) : GoesOnOrHole (execMigrateRet s) := by
  unfold execMigrateRet
  split
  · exact runThen_goes ..
  · exact run_goes ..

/-- A replayed word runs an instruction of its major, or a check of R172 refuses it: both are computations that end. -/
theorem replayWords_goes (x e : BitVec 32) (k : Steps) (s : State) : GoesOnOrHole (replayWords x e k s) := by
  simp only [replayWords, replay40, replay41, replay42, replay45, replay50, replay51, replay52, replay53, replay54, replay55, replay56,
    replay68, replay69, check5, check6]
  repeat' split
  all_goals exact conclude_goes _

theorem execRepeatReplay_goes (s : State) : GoesOnOrHole (execRepeatReplay s) := by
  simp only [execRepeatReplay]
  split
  · exact next_goes _
  · split
    · exact next_goes _
    · exact replayWords_goes ..

theorem execPlEngineStep_goes (f : FibreId) (s : State) : GoesOnOrHole (execPlEngineStep f s) := by
  simp only [execPlEngineStep]
  split
  · exact next_goes _
  · split
    · split
      · exact next_goes _
      · exact stopped_goes _
      · exact next_goes _
    · exact next_goes _

theorem execCopyUnitDeliver_goes (ch k : Nat) (s : State) : GoesOnOrHole (execCopyUnitDeliver ch k s) := by
  unfold execCopyUnitDeliver
  split
  · exact next_goes _
  · split
    · exact next_goes _
    · exact agentStep_goes ..

theorem execMessageAccept_goes (f : FibreId) (s : State) : GoesOnOrHole (execMessageAccept f s) := by
  unfold execMessageAccept
  split
  · exact next_goes _
  · split
    · split
      · exact stopped_goes _
      · split <;> exact next_goes _
    · exact next_goes _

theorem execGuestReturnHome_goes (f : FibreId) (s : State) : GoesOnOrHole (execGuestReturnHome f s) := by
  simp only [execGuestReturnHome]
  split
  · exact next_goes _
  · split
    · exact next_goes _
    · exact next_goes _
    · exact next_goes _
    · split
      · exact next_goes _
      · split
        · exact next_goes _
        · exact conclude_goes _
        · exact next_goes _

/-! ## Every meaning -/

/-- An agent answers a next state in each of its branches. What is left at the end are the instructions and the parts of one, which are
computations that `conclude` ends. -/
theorem exec_goes (i : Instr) (s : State) : GoesOnOrHole (exec i s) := by
  cases i
  case bEq | bNe | bLt | bGe | bLtu | bGeu | bZ | bNz => exact branchIf_goes ..
  case rpt => exact execRpt_goes ..
  case repeatReplay => exact execRepeatReplay_goes s
  case migrateRet => exact execMigrateRet_goes s
  case diagFence a => exact execDiagFence_goes a s
  case instructionFetchFault => exact stopped_goes _
  case plEngineStep f => exact execPlEngineStep_goes f s
  case copyUnitDeliver ch k => exact execCopyUnitDeliver_goes ch k s
  case messageAccept f => exact execMessageAccept_goes f s
  case guestReturnHome f => exact execGuestReturnHome_goes f s
  -- agents with a choice: messages, streams, copies and barriers, maintenance, losses, travel, the dispatcher, the clock
  case remoteArrival | messageArrival | replyArrival | sendTryTimeout | sendQueueFull | eventEntry | streamSlotSend |
      routerStreamPacket | streamDeferredSend | reductionLimitExpiry | streamPortArrival | copySpoolPiece | copyComplete |
      dbarContribution | dbarPhaseFlood | remoteUpdateExecute | invalidationComplete | maintenanceComplete |
      remoteStorePerformed | writeThroughDrain | channelRetire | memoryChipletLoss | routerOrBondLoss | hungCore |
      migrationArrival | guestInstructionLimit | guestParkLimit | sleepExpiry | launchDoorbell | recordAccept |
      launchAdmission | skeinPlacement | preemption | launchCompletion | completionRingRecheck | gridStall |
      freqStepChange | clockStretch | syncPulse | bringupAdvance | hallmarkLatch =>
    simp only [exec, execRemoteArrival, execMessageArrival, execReplyArrival, execSendTryTimeout, execSendQueueFull, execEventEntry,
      execStreamSlotSend, execRouterStreamPacket, execStreamDeferredSend, execReductionLimitExpiry, execStreamPortArrival,
      execCopySpoolPiece, execCopyComplete, execDbarContribution, execDbarPhaseFlood, execRemoteUpdateExecute,
      execInvalidationComplete, execMaintenanceComplete, execRemoteStorePerformed, execWriteThroughDrain, execChannelRetire,
      execMemoryChipletLoss, execRouterOrBondLoss, execHungCore, execMigrationArrival, execGuestInstructionLimit,
      execGuestParkLimit, execSleepExpiry, execLaunchDoorbell, execRecordAccept, execLaunchAdmission, execSkeinPlacement,
      execPreemption, execLaunchCompletion, execCompletionRingRecheck, execGridStall, execFreqStepChange, execClockStretch,
      execSyncPulse, execBringupAdvance, execHallmarkLatch]
    repeat' split
    all_goals exact next_goes _
  -- agents, register writes and traps that answer one next state
  case registerFill | bbcntWrite | bbaddrWrite | netselWrite | semWrite | hmctlWrite | walkerTakesMiss | dataDelivered |
      patrolScrub | chipletLoss | edgeIoChipletLoss | powerOn | rdmaWrite | rdmaRead | rdmaInvalidOpcode | illegalInstruction |
      vectorInstructionComplete | arrayInstructionComplete | attestationRequest | keySlotLoad => exact next_goes _
  all_goals exact conclude_goes _

/-! ## Steps of the module -/

/-- The checks of R439 choose between what an instruction does, once or twice, and a trap or a fence. -/
theorem checked_goes (x : BitVec 32) (s : State) {go : State → Host.Outcome State Fault Refusal} (h : ∀ t, GoesOnOrHole (go t)) :
    GoesOnOrHole (checked x s go) := by
  unfold checked
  split
  · exact h s
  · split
    · split
      · exact next_goes _
      · split
        · exact next_goes _
        · split
          · exact h _
          · exact next_goes _
        · split <;> exact next_goes _
    · exact h s

theorem engineAssay_goes (f : FibreId) (s : State) : GoesOnOrHole (engineAssay f s) := by
  simp only [engineAssay]
  split
  · exact next_goes _
  · split <;> exact next_goes _

theorem copyAssay_goes (ch k : Nat) (s : State) : GoesOnOrHole (copyAssay ch k s) := by
  unfold copyAssay
  split
  · exact next_goes _
  · exact agentStep_goes ..

theorem agentChecked_goes (i : Instr) (s : State) : GoesOnOrHole (agentChecked i s) := by
  unfold agentChecked
  split
  · exact exec_goes i s
  · split
    · exact engineAssay_goes ..
    · exact copyAssay_goes ..
    · exact copyAssay_goes ..
    · exact exec_goes ..

theorem runAgent_goes (i : Instr) (s : State) : GoesOnOrHole (runAgent i s) := by
  unfold runAgent
  split
  · exact agentChecked_goes i s
  · exact next_goes s

theorem deviceStep_goes (s : State) : GoesOnOrHole (deviceStep s) := by
  simp only [deviceStep]
  split
  · exact runAgent_goes ..
  · split
    · exact next_goes s
    · split
      · exact next_goes s
      · exact runAgent_goes ..

theorem issueWords_goes (s : State) (x y : BitVec 32) : GoesOnOrHole (issueWords s x y) := by
  simp only [issueWords]
  split
  · split <;> exact exec_goes ..
  · split
    · exact exec_goes ..
    · split <;> exact checked_goes _ _ (exec_goes _)

theorem issue_goes (s : State) : GoesOnOrHole (issue s) := by
  simp only [issue]
  split
  · exact checked_goes _ _ (exec_goes _)
  · split
    · exact issueWords_goes ..
    · split
      · exact exec_goes ..
      · exact next_goes _
      · exact fault_goes _
      · exact issueWords_goes ..

theorem step_goes (s : State) : GoesOnOrHole (step s) := by
  unfold step
  split
  · split
    · exact onNext_goes _ (issue_goes s)
    · exact next_goes _
  · exact onNext_goes _ (deviceStep_goes s)

/-- Settles O58: every meaning goes on, by cases on the instruction, and so does every step, which runs meanings only. -/
theorem everyInstructionGoesOn : Obligations.EveryInstructionGoesOn := ⟨exec_goes, step_goes⟩

end Sys2Proof.Machine

/-! # Privileged instructions and guests (O45)

The privileged fault and the migration fault of a guest name the base word in TVAL and come before every fault of execution (R431). A
computation that meets such a check raises its fault whatever follows, wherever the instruction stands. -/

namespace Sys2Proof.Machine

/-! ## Checks that come first -/

/-- The computation raises the privileged fault (0x02) or the migration fault (0x11), with the base word in TVAL. -/
structure Bars (s : State) (code : Nat) {α : Type} (x : Ex α) : Prop where
  fault : x = trap s code 0 s.baseWord
  first : code = 0x02 ∨ code = 0x11

namespace Bars

variable {s : State} {code : Nat} {α β : Type} {x : Ex α}

theorem bind (h : Bars s code x) (f : α → Ex β) : Bars s code (x >>= f) := ⟨by rw [h.fault]; rfl, h.first⟩

/-- The fault at the top of the address space comes after these (R251, R431). -/
theorem ending (h : Bars s code x) (n : Nat) : Bars s code (ending s n x) := by
  refine ⟨?_, h.first⟩
  obtain ⟨rfl, rfl | rfl⟩ := h <;> exact ite_self _

theorem conclude {x : Ex State} (h : Bars s code x) : conclude x = .next (raise s code 0 s.baseWord false) := by
  rw [h.fault]; rfl

theorem run {x : Ex State} (h : Bars s code x) (n : Nat) : run s n x = .next (raise s code 0 s.baseWord false) :=
  ((h.bind _).ending n).conclude

theorem runThen {x : Ex State} (h : Bars s code x) (n : Nat) (post : State → State) :
    runThen s n x post = .next (raise s code 0 s.baseWord false) :=
  ((h.bind _).ending n).conclude

theorem runLoad {x : Ex (State × Bool)} (h : Bars s code x) (n : Nat) :
    runLoad s n x = .next (raise s code 0 s.baseWord false) :=
  ((h.bind _).ending n).conclude

end Bars

theorem supervisor_bars {s : State} (h : s.fib.sup = false) : Bars s 0x02 (supervisor s 0) :=
  ⟨by rw [supervisor, h, ensure_false], .inl rfl⟩

theorem notGuest_bars {s : State} (h : s.fib.guest = true) : Bars s 0x11 (notGuest s) :=
  ⟨by rw [notGuest, h, Bool.not_true, ensure_false], .inr rfl⟩

/-! ## Privileged instructions -/

theorem execDiagFence_user {s : State} (h : s.fib.sup = false) (a : BitVec 3) :
    execDiagFence a s = .next (raise s 0x02 0 s.baseWord false) := by
  rw [execDiagFence, (supervisor_bars h).fault]; rfl

/-- R14, R435, R445: at user level each privileged instruction checks its level before anything else. -/
theorem privileged_at_user (s : State) (d a b : BitVec 3) (c r : BitVec 1) (hu : s.fib.sup = false) :
    ∀ i ∈ [Instr.tlbInvVa a b, .tlbInvAs a, .tlbInvAll, .tlbSync, .tlbProbe d a b, .diagStc d a b c r, .diagLdc d a, .diagLdr d a,
       .diagPoison a, .diagFence a, .diagHmrd d a, .lqSet a b, .lchAbort a, .lchResume a, .tret, .tretRgn],
    exec i s = .next (raise s 0x02 0 s.baseWord false) := by
  have h := supervisor_bars hu
  simp only [List.forall_mem_cons]
  exact ⟨(h.bind _).run 1, (h.bind _).run 1, (h.bind _).run 1, (h.bind _).run 1, (h.bind _).run 1, (h.bind _).run 1,
    (h.bind _).runLoad 1, (h.bind _).runLoad 1, (h.bind _).run 1, execDiagFence_user hu a, (h.bind _).run 1, (h.bind _).run 1,
    show execLchAbort a s = _ from (h.bind _).runThen 1 _, (h.bind _).run 1, (h.bind _).conclude, (h.bind _).conclude,
    List.forall_mem_nil _⟩

/-! ## What a guest cannot name -/

theorem splUse_bars {s : State} (hg : s.fib.guest = true) (h n : BitVec 4) : Bars s 0x11 (splUse s h n) := (notGuest_bars hg).bind _

theorem domainOf_bars {s : State} (hg : s.fib.guest = true) (k : BitVec 3) (g : Word) : Bars s 0x11 (domainOf s k g) :=
  (notGuest_bars hg).bind _

theorem loadTable_bars {s : State} (hg : s.fib.guest = true) (a : GReg) (z : BitVec 2) (ad : Bool) :
    Bars s 0x11 (loadTable s a z ad) := (notGuest_bars hg).bind _

theorem quantise_bars {s : State} (hg : s.fib.guest = true) (d a b : GReg) (z : BitVec 2) (kind : Nat) :
    Bars s 0x11 (quantise s d a b z kind) := (notGuest_bars hg).bind _

/-- R344: a register of the skein bars a guest before its allocation and its marks are checked. -/
theorem sysAccess_bars {s : State} {q : BitVec 12} {r : SysReg} (hg : s.fib.guest = true) (hq : sysReg q.toNat = some r)
    (hr : r.ofSkein = true) (w : Bool) : Bars s 0x11 (sysAccess s q w) := by
  simp only [sysAccess, hq]
  refine Bars.bind ?_ _
  rw [hg, hr, Bool.and_self, Bool.not_true, ensure_false]
  exact notGuest_bars hg

theorem ofSkein_iff (r : SysReg) :
    r.ofSkein = true ↔ r = .evec ∨ r = .evmask ∨ r = .skmap ∨ r = .tbst ∨ ∃ j, r = .spcfg j ∨ r = .spst j ∨ r = .bst j := by
  cases r <;> simp [SysReg.ofSkein]

/-- R276, R344: a vector instruction whose operand is a spool bars a guest at its first step. -/
theorem vecRun_guest {s : State} (hg : s.fib.guest = true) (he : s.entered .vector = false) (w : BitVec 1) (regs : List Nat) (b : VReg)
    (n : BitVec 4) (body : State → Ex State) :
    vecRun s (vecOpen s w regs 1 b n) body = .next (raise s 0x11 0 s.baseWord false) := by
  have h : Bars s 0x11 (vecOpen s w regs 1 b n) := by
    rw [vecOpen, if_pos rfl]
    exact (notGuest_bars hg).bind _
  refine Bars.runThen ?_ 1 _
  simp only [he, Bool.false_eq_true, if_false]
  exact h.bind _

section
variable {s : State} (hg : s.fib.guest = true)
include hg

/-- R344: majors 0x19, 0x57, 0x61 and 0x62: events, spool handles, table slots. -/
theorem guest_names (d a b : GReg) (h n : BitVec 4) (z : BitVec 2) :
    ∀ i ∈ [Instr.evret, .evEn n, .evDis n, .evWait, .splWait n h, .splRel n h, .splRd d h, .splWr d n h, .splCommit n h,
        .splFill d h, .tblLoad a z, .tblLoadArr a z, .tblRd d a z, .tblInv z, .qntBf16 d a b z, .qntF32 d a b z, .qntVf d a b z,
        .qntFin d b z], exec i s = .next (raise s 0x11 0 s.baseWord false) := by
  have hn := notGuest_bars hg
  have hs (n : BitVec 4) := splUse_bars hg h n
  have ht := loadTable_bars hg a z
  have hq := quantise_bars hg d a b z
  simp only [List.forall_mem_cons]
  exact ⟨(hn.bind _).conclude, (hn.bind _).run 1, (hn.bind _).run 1, (hn.bind _).run 1, ((hs n).bind _).run 1, ((hs n).bind _).run 1,
    ((hs 0).bind _).run 1, ((hs n).bind _).run 1, ((hs n).bind _).run 1, ((hs 0).bind _).run 1,
    (((ht false).bind _).ending 1).conclude, (((ht true).bind _).ending 1).conclude, (hn.bind _).run 1, (hn.bind _).run 1,
    (hq 0).runLoad 1, (hq 1).runLoad 1, (hq 2).runLoad 1, (hn.bind _).runLoad 1, List.forall_mem_nil _⟩

/-- R344: majors 0x38 and 0x3C: the barriers of the skein and of its launch. -/
theorem guest_barriers (d a b : GReg) (br : BitVec 5) (c : BitVec 1) (k : BitVec 3) :
    ∀ i ∈ [Instr.barArr d a br, .barArrRlx d a br, .barWait a br, .barSync a br, .barRmt a b c k, .dbarArr d a k, .dbarWait a k,
        .dbarSync a k, .dphase d k, .dphaseT d k], exec i s = .next (raise s 0x11 0 s.baseWord false) := by
  have hn := notGuest_bars hg
  have hd := domainOf_bars hg k 0
  simp only [List.forall_mem_cons]
  exact ⟨(hn.bind _).run 1, (hn.bind _).run 1, (hn.bind _).run 1, (hn.bind _).run 1, (hn.bind _).run 1, (hn.bind _).run 1,
    (hn.bind _).run 1, (hn.bind _).run 1, (hd.bind _).run 1, (hd.bind _).run 1, List.forall_mem_nil _⟩

theorem execStrSend_guest (a : GReg) (w : BitVec 1) (k : BitVec 3) (c mesh : BitVec 1) (vs : BitVec 6) (fs : BitVec 12) (src : BitVec 1)
    (v : VReg) :
    execStrSend a w k c mesh vs fs src v s = .next (raise s 0x11 0 s.baseWord false) :=
  (((notGuest_bars hg).bind _).ending 2).conclude

/-- R343, R344: streams, `ckpt`, and what only the home core of a fibre does. -/
theorem guest_streams (d a b : GReg) (w c : BitVec 1) (k : BitVec 3) (vs : BitVec 6) (fs : BitVec 12) (v : VReg) :
    ∀ i ∈ [Instr.strBind a b vs, .strUnbind vs, .strExp b vs, .strSend a w k c 0 vs fs 0 v, .strSend a w k c 0 vs fs 1 v,
        .strSend a w k c 1 vs fs 0 v, .strSend a w k c 1 vs fs 1 v, .strRecv a w vs fs c v, .ckpt, .spawn d a b, .exit, .rgnBegin,
        .rgnEnd], exec i s = .next (raise s 0x11 0 s.baseWord false) := by
  have hn := notGuest_bars hg
  simp only [List.forall_mem_cons]
  exact ⟨(hn.bind _).run 1, (hn.bind _).run 1, (hn.bind _).run 1, execStrSend_guest hg .., execStrSend_guest hg ..,
    execStrSend_guest hg .., execStrSend_guest hg .., (hn.bind _).run 2, (hn.bind _).run 1, (hn.bind _).run 1,
    ((hn.bind _).ending 1).conclude, (hn.bind _).run 1, (hn.bind _).run 1, List.forall_mem_nil _⟩

/-- R344: each vector instruction with S = 1. -/
theorem guest_spool_operands (he : s.entered .vector = false) (u v y : VReg) (e m : MReg) (n : BitVec 4) (w : BitVec 1) (x : BitVec 2)
    (k : BitVec 3) :
    ∀ i ∈ [Instr.vaddVf u v y 1 w m n, .vsubVf u v y 1 w m n, .vmulVf u v y 1 w m n,
        .vdivVf u v y 1 w m n, .vminVf u v y 1 w m n, .vmaxVf u v y 1 w m n, .vfmaVf u v y 1 w m n, .vfmsVf u v y 1 w m n,
        .vfnmaVf u v y 1 w m n, .vfnmsVf u v y 1 w m n, .vaddInt u v y 1 w m n x, .vsubInt u v y 1 w m n x, .vmulInt u v y 1 w m n x,
        .vadds u v y 1 w m n x, .vmac u v y 1 w m n x, .vcmpEqVf e v y 1 w m n, .vcmpLtVf e v y 1 w m n, .vcmpLeVf e v y 1 w m n,
        .vcmpUnVf e v y 1 w m n, .vcmpEqInt e v y 1 w m n x, .vcmpLtInt e v y 1 w m n x, .vcmpLtuInt e v y 1 w m n x,
        .vperm u v y 1 w m n k], exec i s = .next (raise s 0x11 0 s.baseWord false) := by
  simp only [List.forall_mem_cons, List.not_mem_nil, false_imp_iff, implies_true, and_true]
  and_intros
  all_goals
    simp only [exec, execVaddVf, execVsubVf, execVmulVf, execVdivVf, execVminVf, execVmaxVf, execVfmaVf, execVfmsVf, execVfnmaVf,
      execVfnmsVf, execVaddInt, execVsubInt, execVmulInt, execVadds, execVmac, execVcmpEqVf, execVcmpLtVf, execVcmpLeVf,
      execVcmpUnVf, execVcmpEqInt, execVcmpLtInt, execVcmpLtuInt, execVperm, vecVf2, vecVf3, vecInt, vecCmpVf, vecCmpInt]
    exact vecRun_guest hg he ..

/-- R344: each access to a system register of the skein. -/
theorem guest_registers {q : BitVec 12} {r : SysReg} (hq : sysReg q.toNat = some r) (hr : r.ofSkein = true) (d : GReg) :
    ∀ i ∈ [Instr.srd d q, .swr d q, .sswp d q, .sset d q, .sclr d q], exec i s = .next (raise s 0x11 0 s.baseWord false) := by
  have h (w : Bool) := sysAccess_bars hg hq hr w
  simp only [List.forall_mem_cons]
  exact ⟨((h false).bind _).run 1, ((h true).bind _).run 1, ((h true).bind _).run 1, ((h true).bind _).run 1,
    ((h true).bind _).run 1, List.forall_mem_nil _⟩

end

/-! ## Registers that are read and names that are allocated -/

theorem ok_bind {α β : Type} (a : α) (f : α → Ex β) : ((.ok a : Ex α) >>= f) = f a := rfl

theorem waitW_zero (s : State) : waitW s 0 = .ok s := rfl

theorem FullG.free {s : State} {r : GReg} (h : FullG s r) : FreeG s r := by
  rw [FreeG, h.1]; decide

theorem readGs_full {s : State} (hf : ∀ g, FullG s g) : ∀ l : List GReg, readGs s l = .ok (l.map s.g)
  | [] => rfl
  | r :: rs => by
    rw [readGs, readG_full (hf r), readGs_full hf rs]; rfl

theorem slotNo_ok {s : State} {z : Nat} (h : z < bits s.skein.skmap 23 3) : slotNo s z = .ok (bits s.skein.skmap 21 2 + z) := if_pos h

theorem spoolNo_ok {s : State} {h : Nat} (hh : h < bits s.skein.skmap 5 5) : spoolNo s h = .ok (bits s.skein.skmap 1 4 + h) := if_pos hh

theorem spoolNames_ok {s : State} : ∀ {l : List Nat}, (∀ h ∈ l, h < bits s.skein.skmap 5 5) → spoolNames s l = .ok ()
  | [], _ => rfl
  | h :: hs, hl => by
    rw [spoolNames, spoolNo_ok (hl h (by simp)), ok_bind]
    exact spoolNames_ok fun k hk => hl k (by simp [hk])

/-- The job of a merge is made once its registers are read, and its destination is free. -/
theorem mergeJob_full {s : State} (hf : ∀ g, FullG s g) (kind : Nat) (d a b : GReg) (k : BitVec 3) (u : BitVec 1) (h : BitVec 4) :
    ∃ j, mergeJob s kind d a b k u h = .ok j ∧ FreeG s j.d := by
  simp only [mergeJob, readG_full (hf _), ok_bind]
  exact ⟨_, rfl, (hf d).free⟩

theorem streamJob_full {s : State} (hf : ∀ g, FullG s g) (kind : Nat) (d b : GReg) (h n : BitVec 4) :
    ∃ j, streamJob s kind d b h n = .ok j ∧ FreeG s j.d := by
  simp only [streamJob, readG_full (hf _), ok_bind]
  exact ⟨_, rfl, (hf d).free⟩

/-! ## The engines, which bar a guest after those -/

theorem acceptCopy_bars {s : State} (hg : s.fib.guest = true) (c : Copy) (q : Bool) : Bars s 0x11 (acceptCopy s c q) :=
  (notGuest_bars hg).bind _

theorem arrayRun_barred {s : State} (he : s.entered .array = false) {before : Ex State} {n : Nat} {body : State → Ex State}
    (hb : Bars s 0x11 before) : arrayRun s n before body = .next (raise s 0x11 0 s.baseWord false) := by
  refine Bars.runThen ?_ n _
  simp only [he, Bool.false_eq_true, if_false]
  exact hb.bind _

theorem setRun_guest {s : State} (hg : s.fib.guest = true) (he : s.entered .array = false) {reads : State → Ex (List Word)}
    {v : List Word} (hv : reads s = .ok v) (n : BitVec 4) (k : Nat) (body : State → List Word → List Nat → Ex State) :
    setRun s reads n k body = .next (raise s 0x11 0 s.baseWord false) := by
  refine arrayRun_barred he ?_
  rw [hv, ok_bind]
  exact (notGuest_bars hg).bind _

theorem engineOne_guest {s : State} (hg : s.fib.guest = true) {before : State → Ex Unit} (hb : before s = .ok ())
    (body : State → Ex State) : engineOne s before body = .next (raise s 0x11 0 s.baseWord false) := by
  refine Bars.run ?_ 1
  rw [hb, ok_bind]
  exact (notGuest_bars hg).bind _

theorem engineMulti_guest {s : State} (hg : s.fib.guest = true) {l : List Nat} (hl : ∀ h ∈ l, h < bits s.skein.skmap 5 5)
    {j : State → Ex EngineJob} (hj : ∃ k, j s = .ok k ∧ FreeG s k.d) :
    engineMulti s 0 l j = .next (raise s 0x11 0 s.baseWord false) := by
  obtain ⟨k, hk, hd⟩ := hj
  refine (Bars.ending ?_ 2).conclude
  simp only [spoolNames_ok hl, waitW_zero, ok_bind, ite_self, hk, destG_free hd]
  exact (notGuest_bars hg).bind _

section
variable {s : State} (hg : s.fib.guest = true) (hf : ∀ g, FullG s g)
include hg hf

theorem passRun_guest (he : s.entered .array = false) {sph : BitVec 4} (hh : sph.toNat < bits s.skein.skmap 5 5) {sl : BitVec 2}
    (hs : sl.toNat < bits s.skein.skmap 23 3) (a b c : GReg) (acc gm : BitVec 4) (sp : BitVec 1) (spn : BitVec 4) (nb : Nat) :
    passRun s a b c 0 acc gm sp sph spn sl nb = .next (raise s 0x11 0 s.baseWord false) := by
  refine arrayRun_barred he ?_
  simp only [slotNo_ok hs, spoolNo_ok hh, waitW_zero, ok_bind, ite_self, readG_full (hf _)]
  split <;> exact (notGuest_bars hg).bind _

theorem execArrDrain_guest (he : s.entered .array = false) {dst : BitVec 4} (hd : dst.toNat < bits s.skein.skmap 5 5)
    {dk : BitVec 3} (hk : dk ≠ 0) (a c : GReg) (acc spn ns : BitVec 4) :
    execArrDrain a c 0 acc dk dst spn ns s = .next (raise s 0x11 0 s.baseWord false) := by
  refine arrayRun_barred he ?_
  simp only [if_neg hk, spoolNo_ok hd, waitW_zero, ok_bind, ite_self, readG_full (hf _)]
  split <;> exact ((notGuest_bars hg).bind _).bind _

/-- R204, R343: the instructions of the copy engine. -/
theorem guest_copies (a b c d : GReg) {z : BitVec 2} (hz : z.toNat < bits s.skein.skmap 23 3) (f q r : BitVec 6) (k t v : BitVec 3)
    (u : BitVec 1) :
    ∀ i ∈ [Instr.cpPull a b c 0 z k t v u z k q r, .cpPush d a b c 0 f t k u z v, .cpGather d a b c 0 u t u z q],
      exec i s = .next (raise s 0x11 0 s.baseWord false) := by
  simp only [List.forall_mem_cons]
  refine ⟨Bars.run ?_ 2, Bars.run ?_ 2, Bars.run ?_ 2, List.forall_mem_nil _⟩
  all_goals
    simp only [slotNo_ok hz, waitW_zero, ok_bind, ite_self, readG_full (hf _), destG_free (hf _).free]
    exact acceptCopy_bars hg ..

/-- R298, R343: the instructions of the array. -/
theorem guest_array (he : s.entered .array = false) {h : BitVec 4} (hh : h.toNat < bits s.skein.skmap 5 5) {z : BitVec 2}
    (hz : z.toNat < bits s.skein.skmap 23 3) (a b c d : GReg) (n j o : BitVec 4) (u : BitVec 1) :
    ∀ i ∈ [Instr.arrMv a b c 0 j o u h n z, .arrMm a b c 0 j o u h n z o, .arrDrain a c 0 j 1 h o n, .arrDrain a c 0 j 2 h o n,
        .arrAnchor a o, .arrAnchorOs a b o, .arrClear n o, .arrClearLd a b o, .arrStat d b o, .arrStatRec a b o, .arrWscaleRd d a,
        .arrWscale a b], exec i s = .next (raise s 0x11 0 s.baseWord false) := by
  have hr := readGs_full hf
  simp only [List.forall_mem_cons]
  exact ⟨passRun_guest hg hf he hh hz .., passRun_guest hg hf he hh hz .., execArrDrain_guest hg hf he hh (by decide) ..,
    execArrDrain_guest hg hf he hh (by decide) .., setRun_guest hg he (hr [a]) .., setRun_guest hg he (hr [a, b]) ..,
    setRun_guest hg he rfl .., setRun_guest hg he (hr [a, b]) .., setRun_guest hg he (hr [b]) .., setRun_guest hg he (hr [a, b]) ..,
    setRun_guest hg he (hr [a]) .., setRun_guest hg he (hr [a, b]) .., List.forall_mem_nil _⟩

/-- R325, R343: the instructions of the posting-list engine. -/
theorem guest_postings (a b d : GReg) {h n : BitVec 4} (hh : h.toNat < bits s.skein.skmap 5 5) (hn : n.toNat < bits s.skein.skmap 5 5)
    (k : BitVec 3) (u : BitVec 1) :
    ∀ i ∈ [Instr.plOpen d a b, .plClose a, .plNext d a, .plSkip d a b, .plScore d a, .plStat d a, .plIsect d a b 0 k u h,
        .plUnion d a b 0 k u h, .plFuse d b 0 h n, .plTopk d b 0 h n], exec i s = .next (raise s 0x11 0 s.baseWord false) := by
  have hr (g : GReg) : readG s g = .ok (s.g g) := readG_full (hf g)
  have hw : destG s d = .ok () := destG_free (hf d).free
  have hu : ∀ x ∈ (if u = 1 then [h.toNat] else []), x < bits s.skein.skmap 5 5 := by
    split <;> simp [hh]
  have hs : ∀ x ∈ [h.toNat, n.toNat], x < bits s.skein.skmap 5 5 := by simp [hh, hn]
  have hm (kind : Nat) := mergeJob_full hf kind d a b k u h
  have ht (kind : Nat) := streamJob_full hf kind d b h n
  simp only [List.forall_mem_cons]
  refine ⟨?_, ?_, ?_, ?_, ?_, ?_, engineMulti_guest hg hu (hm 0), engineMulti_guest hg hu (hm 1), engineMulti_guest hg hs (ht 2),
    engineMulti_guest hg hs (ht 3), List.forall_mem_nil _⟩
  all_goals
    simp only [exec, execPlOpen, execPlClose, execPlNext, execPlSkip, execPlScore, execPlStat, cursorStep]
    refine engineOne_guest hg ?_ _
    simp only [hr, hw, ok_bind]

end

/-- Settles O45: every instruction it lists meets the check of its level, or of a guest, before any other stop. -/
theorem privilegeAndGuests : Obligations.PrivilegeAndGuests := by
  refine ⟨fun s d a b c r _ hu => privileged_at_user s d a b c r hu, ?_, ?_⟩
  · intro s d a b h n z x br c w k vs fs v y u m e hg
    exact ⟨guest_names hg d a b h n z, guest_barriers hg d a b br c k, guest_streams hg d a b w c k vs fs v,
      fun he => guest_spool_operands hg he u v y e m n w x k, fun r => ⟨ofSkein_iff r, fun q hq hr => guest_registers hg hq hr d⟩⟩
  · intro s d a b c h n j o z f k t u q r v hg hf hh hn hz
    exact ⟨guest_copies hg hf a b c d hz f q r k t v u, fun i hi he => guest_array hg hf he hh hz a b c d n j o u i hi,
      guest_postings hg hf a b d hh hn k u⟩

end Sys2Proof.Machine

/-! # Memory traffic and losses (O46)

Each end of memory traffic is one branch of its step. A loss is followed by operations that go on in the same step: waiting loads are
served, the log takes a record, stores are performed and skeins move to other cores. Most of them leave the chiplets and the channels as
they are (`State.places`), and those that do change chiplets leave a lost one fenced and empty (`State.FencedAt`). -/

namespace Sys2Proof.Machine

/-! ## Delivered data and free walkers -/

theorem onFibre_focus {s : State} (h : s.fib.live = true) (f : Fibre → Fibre) : s.onFibre s.fib.id f = s.setFib f := if_pos ⟨h, rfl⟩

section
variable {s : State} (hl : s.fib.live = true)
include hl

theorem dataDelivered_data (hp : s.fib.park = some .data) :
    exec (.dataDelivered s.fib.id) s = .next (s.setFib fun f => { f with park := none }) := by
  simp only [exec, execDataDelivered, State.delivered, fibre?_focus hl, hp, onFibre_focus hl]

theorem dataDelivered_table {p : Nat} {ad : Bool} {image : List Byte} (hp : s.fib.park = some (.table p ad image))
    (hc : s.fib.at_ = s.core.num) : exec (.dataDelivered s.fib.id) s = .next
      ((s.setCore fun c => { c with slots := c.slots.set! p (slotOf image ad) }).setFib fun f => { f with park := none }) := by
  have hcore (f : Core → Core) : s.onCore s.fib.at_ f = s.setCore f := if_pos hc.symm
  have hfib (f : Core → Core) (g : Fibre → Fibre) : (s.setCore f).onFibre s.fib.id g = (s.setCore f).setFib g :=
    onFibre_focus (s := s.setCore f) hl g
  simp only [exec, execDataDelivered, State.delivered, fibre?_focus hl, hp, hcore, hfib]

/-- A fibre that waits for no data stays as it is. -/
theorem dataDelivered_other (hd : s.fib.park ≠ some .data) (ht : ∀ p ad image, s.fib.park ≠ some (.table p ad image)) :
    exec (.dataDelivered s.fib.id) s = .next s := by
  refine congrArg Host.Outcome.next ?_
  rw [State.delivered, fibre?_focus hl]
  dsimp only
  split
  · exact absurd ‹_› hd
  · exact absurd ‹_› (ht _ _ _)
  · rfl

theorem walkerTakesMiss_parked (hp : s.fib.park = some .walker) :
    exec (.walkerTakesMiss s.fib.id) s = .next (s.setFib fun f => { f with park := some .retry, walker := true }) := by
  simp only [exec, execWalkerTakesMiss, onFibre_focus hl, State.setFib, hp, if_true]

/-- A fibre that waits for no walker stays as it is. -/
theorem walkerTakesMiss_other (hp : s.fib.park ≠ some .walker) : exec (.walkerTakesMiss s.fib.id) s = .next s := by
  simp only [exec, execWalkerTakesMiss, onFibre_focus hl, State.setFib, hp, if_false]

end

/-! ## Stores reach their homes -/

/-- A remote store comes before another that takes its way, or that its fibre sent later to a byte of it (R31, R65, R185). -/
def Posted.first (q e : Posted) : Bool := q.hop.along e.hop ||
  (q.fib == e.fib && q.seq != e.seq && decide (q.pa < e.pa + e.data.length) && decide (e.pa < q.pa + q.data.length))

theorem Posted.first_iff (q e : Posted) : q.first e = true ↔ q.hop.along e.hop = true ∨
    (q.fib = e.fib ∧ q.seq ≠ e.seq ∧ q.pa < e.pa + e.data.length ∧ e.pa < q.pa + q.data.length) := by
  simp [Posted.first, and_assoc]

/-- A buffered store comes before another to its line, but for a part of the same store elsewhere in the line (R62, R185). -/
def Buffered.first (q b : Buffered) : Bool := q.pa / 128 == b.pa / 128 &&
  (q.seq != b.seq || (decide (q.pa < b.pa + b.data.length) && decide (b.pa < q.pa + q.data.length)))

theorem Buffered.first_iff (q b : Buffered) : q.first b = true ↔ q.pa / 128 = b.pa / 128 ∧
    (q.seq ≠ b.seq ∨ (q.pa < b.pa + b.data.length ∧ b.pa < q.pa + q.data.length)) := by
  simp [Buffered.first]

theorem execRemoteStorePerformed_eq {s : State} {k : Nat} {e : Posted} (he : s.dev.posted[k]? = some e) :
    exec (.remoteStorePerformed k) s =
      if (s.dev.posted.take k).any (·.first e) || s.dev.flight.any fun m => m.hop.before e.hop then .next s
      else .next ((s.setDev fun d => { d with posted := dropAt d.posted k }).performPosted e) := by
  simp only [exec, execRemoteStorePerformed, he]
  rfl

theorem execWriteThroughDrain_eq {s : State} {p k : Nat} {b : Buffered} (hb : (s.coreAt (coreNamed p)).wtb[k]? = some b) :
    exec (.writeThroughDrain p k) s =
      if ((s.coreAt (coreNamed p)).wtb.take k).any (·.first b) || s.entryBehind (coreNamed p) b then .next s
      else .next (((((s.performDue fun q => q.hop.along (s.hopFrom (chipNum (coreNamed p)) (s.entryHome b))).performEntry b).onCore
        (coreNamed p) fun c => { c with wtb := dropAt c.wtb k }).remarkCore (coreNamed p))) := by
  simp only [exec, execWriteThroughDrain, hb]
  rfl

section
variable {s : State} {k p : Nat}

theorem remoteStorePerformed_first {e : Posted} (he : s.dev.posted[k]? = some e)
    (hq : ∀ q, q ∈ s.dev.posted.take k → ¬q.first e = true) (hm : ∀ m, m ∈ s.dev.flight → m.hop.before e.hop = false) :
    exec (.remoteStorePerformed k) s = .next ((s.setDev fun d => { d with posted := dropAt d.posted k }).performPosted e) := by
  have hn : ((s.dev.posted.take k).any (·.first e) || s.dev.flight.any fun m => m.hop.before e.hop) = false :=
    Bool.or_eq_false_iff.mpr ⟨List.any_eq_false.mpr hq, List.any_eq_false.mpr fun m h => Bool.eq_false_iff.mp (hm m h)⟩
  rw [execRemoteStorePerformed_eq he, hn]
  rfl

theorem remoteStorePerformed_behindStore {e q : Posted} (he : s.dev.posted[k]? = some e) (hq : q ∈ s.dev.posted.take k)
    (hf : q.first e = true) : exec (.remoteStorePerformed k) s = .next s := by
  rw [execRemoteStorePerformed_eq he, List.any_eq_true.mpr ⟨q, hq, hf⟩]
  rfl

theorem remoteStorePerformed_behindMessage {e : Posted} {m : Msg} (he : s.dev.posted[k]? = some e) (hm : m ∈ s.dev.flight)
    (hb : m.hop.before e.hop = true) : exec (.remoteStorePerformed k) s = .next s := by
  have hn : (s.dev.flight.any fun m => m.hop.before e.hop) = true := List.any_eq_true.mpr ⟨m, hm, hb⟩
  rw [execRemoteStorePerformed_eq he, hn, Bool.or_true]
  rfl

theorem writeThroughDrain_first {b : Buffered} (hb : (s.coreAt (coreNamed p)).wtb[k]? = some b)
    (hq : ∀ q, q ∈ (s.coreAt (coreNamed p)).wtb.take k → ¬q.first b = true) (hm : s.entryBehind (coreNamed p) b = false) :
    exec (.writeThroughDrain p k) s = .next
      ((((s.performDue fun q => q.hop.along (s.hopFrom (chipNum (coreNamed p)) (s.entryHome b))).performEntry b).onCore
        (coreNamed p) fun c => { c with wtb := dropAt c.wtb k }).remarkCore (coreNamed p)) := by
  rw [execWriteThroughDrain_eq hb, List.any_eq_false.mpr hq, hm]
  rfl

theorem writeThroughDrain_behindStore {b q : Buffered} (hb : (s.coreAt (coreNamed p)).wtb[k]? = some b)
    (hq : q ∈ (s.coreAt (coreNamed p)).wtb.take k) (hf : q.first b = true) : exec (.writeThroughDrain p k) s = .next s := by
  rw [execWriteThroughDrain_eq hb, List.any_eq_true.mpr ⟨q, hq, hf⟩]
  rfl

theorem writeThroughDrain_behindMessage {b : Buffered} (hb : (s.coreAt (coreNamed p)).wtb[k]? = some b)
    (hm : s.entryBehind (coreNamed p) b = true) : exec (.writeThroughDrain p k) s = .next s := by
  rw [execWriteThroughDrain_eq hb, hm, Bool.or_true]
  rfl

end

/-! ## The error log -/

/-- A disabled log changes no more than its count of dropped records (R440). -/
theorem logAt_disabled {s : State} (h : bit s.dev.elctl 63 = false) (a b c d e f g i : Nat) :
    ∃ n, s.logAt a b c d e f g i = s.setDev fun x => { x with elctl := n } := by
  simp only [State.logAt, h, Bool.not_false, Bool.true_or, if_true]
  split
  · exact ⟨s.dev.elctl, rfl⟩
  · exact ⟨_, rfl⟩

theorem logWord_disabled {s : State} (h : bit s.dev.elctl 63 = false) (a b c : Nat) :
    ∃ n, s.logWord a b c = s.setDev fun x => { x with elctl := n } := by
  unfold State.logWord
  split <;> exact logAt_disabled h ..

theorem mem_setIns {x y : Nat} : ∀ {l : List Nat}, x ∈ setIns y l ↔ x = y ∨ x ∈ l
  | [] => by simp [setIns]
  | z :: zs => by
    unfold setIns
    split
    · exact List.mem_cons
    · split
      · next h => simp [h]
      · simp only [List.mem_cons, mem_setIns (l := zs), or_left_comm]

/-- A word that is marked poisoned reads so, whatever a disabled log counts. -/
theorem poisonedWord_marked {s : State} (h : bit s.dev.elctl 63 = false) (a w n : Nat) :
    ((s.setDev fun d => { d with pois := setIns w d.pois }).logWord a w n).poisonedWord w = true := by
  obtain ⟨e, he⟩ := logWord_disabled (s := s.setDev fun d => { d with pois := setIns w d.pois }) h a w n
  have hw : w ∈ setIns w s.dev.pois := mem_setIns.mpr (.inl rfl)
  rw [he]
  simp [State.poisonedWord, hw]

/-! ## Detection -/

section
variable {s : State} {w : Nat} {syn : BitVec 8}

theorem patrolScrub_eq (h : paOk (8 * w) = true) : exec (.patrolScrub w) s = .next (s.detectWord w) := by
  simp only [exec, execPatrolScrub, if_pos h]

theorem detectWord_clean (hg : s.dev.ecc.find? (fun e => e.1 == w) = none) (ha : s.dev.soft.find? (fun e => e.1 == w) = none) :
    s.detectWord w = s := by
  simp only [State.detectWord, hg, ha]

theorem detectWord_arose (hg : s.dev.ecc.find? (fun e => e.1 == w) = none) (ha : s.dev.soft.find? (fun e => e.1 == w) = some (w, syn)) :
    s.detectWord w =
      let v := s.setDev fun d => { d with soft := assocDel w d.soft }
      if correctable syn then v.logWord 0x01 w syn.toNat
      else (v.setDev fun d => { d with pois := setIns w d.pois }).logWord 0x02 w syn.toNat := by
  simp only [State.detectWord, hg, ha]

variable (hg : s.dev.ecc.find? (fun e => e.1 == w) = some (w, syn))
include hg

theorem detectWord_checkBit (hc : isCheckColumn syn = true) :
    s.detectWord w = (s.setDev fun d => { d with ecc := assocDel w d.ecc }).logWord 0x01 w syn.toNat := by
  simp only [State.detectWord, hg, hc, if_true]

theorem detectWord_fullBit (hc : isCheckColumn syn = false) (hk : columnOf syn 65 = some 64) :
    s.detectWord w =
      let u := s.setDev fun d => { d with ecc := assocDel w d.ecc }
      (u.setFull w (u.emptyWord w)).logWord 0x01 w syn.toNat := by
  simp only [State.detectWord, hg, hc, hk, Bool.false_eq_true, if_false]

theorem detectWord_dataBit (hc : isCheckColumn syn = false) {i : Nat} (hi : i < 64) (hk : columnOf syn 65 = some i) :
    s.detectWord w =
      let u := s.setDev fun d => { d with ecc := assocDel w d.ecc }
      (u.putStoredWord w (u.storedWord w ^^^ (1#64 <<< i))).logWord 0x01 w syn.toNat := by
  simp only [State.detectWord, hg, hc, hk, Bool.false_eq_true, if_false]
  split
  · next h => cases h; omega
  · next h => cases h; rfl
  · next h => cases h

theorem detectWord_noColumn (hc : isCheckColumn syn = false) (hk : columnOf syn 65 = none) :
    s.detectWord w =
      let u := s.setDev fun d => { d with ecc := assocDel w d.ecc }
      (u.setDev fun d => { d with pois := setIns w d.pois }).logWord 0x02 w syn.toNat := by
  simp only [State.detectWord, hg, hc, hk, Bool.false_eq_true, if_false]

end

/-! ## What performing stores leaves of the chiplets and of the channels -/

/-- The chiplets, the spare channels in use and the absent channels. -/
def State.places (s : State) : Chip × List Chip × List (Nat × Nat) × List (Nat × Nat) := (s.chip, s.chips, s.dev.spares, s.dev.absent)

@[simp] theorem State.setDev_places (s : State) (f : Device → Device) (hs : (f s.dev).spares = s.dev.spares)
    (ha : (f s.dev).absent = s.dev.absent) : (s.setDev f).places = s.places := by
  simp only [State.places, State.setDev_chip, State.setDev_chips, State.setDev_dev, hs, ha]

@[simp] theorem State.onFibre_places (s : State) (id : FibreId) (f : Fibre → Fibre) : (s.onFibre id f).places = s.places := by
  unfold State.onFibre
  split <;> rfl

@[simp] theorem State.onSkein_places (s : State) (l k : Nat) (f : Skein → Skein) : (s.onSkein l k f).places = s.places := by
  unfold State.onSkein
  split <;> rfl

@[simp] theorem State.onCore_places (s : State) (n : Nat) (f : Core → Core) : (s.onCore n f).places = s.places := by
  unfold State.onCore
  split <;> rfl

@[simp] theorem State.onLaunch_places (s : State) (l : Nat) (f : Launch → Launch) : (s.onLaunch l f).places = s.places := rfl

@[simp] theorem State.remarkCore_places (s : State) (n : Nat) : (s.remarkCore n).places = s.places := rfl

@[simp] theorem State.wrote_places (s : State) : s.wrote.places = s.places := rfl

@[simp] theorem State.setFull_places (s : State) (w : Nat) (b : Bool) : (s.setFull w b).places = s.places := rfl

@[simp] theorem State.putWord_places (s : State) (pa : Nat) (bs : List Byte) : (s.putWord pa bs).places = s.places := rfl

theorem foldl_places {α : Type} (f : State → α → State) (hf : ∀ s a, (f s a).places = s.places) (l : List α) (s : State) :
    (l.foldl f s).places = s.places :=
  List.foldlRecOn (motive := fun t => t.places = s.places) l f rfl fun t h a _ => (hf t a).trans h

@[simp] theorem State.logAt_places (s : State) (a b c d e f g i : Nat) : (s.logAt a b c d e f g i).places = s.places := by
  unfold State.logAt
  dsimp only
  split
  · split <;> rfl
  · rw [State.setDev_places _ _ rfl rfl, State.wrote_places]
    split
    · rfl
    · exact foldl_places _ (fun t (p : Nat × List Byte) => t.putWord_places p.1 p.2) _ s

@[simp] theorem State.logWord_places (s : State) (a w n : Nat) : (s.logWord a w n).places = s.places := by
  unfold State.logWord
  split <;> exact State.logAt_places ..

@[simp] theorem State.putStoredWord_places (s : State) (w : Nat) (v : Word) : (s.putStoredWord w v).places = s.places := by
  unfold State.putStoredWord
  split <;> rfl

@[simp] theorem State.detectWord_places (s : State) (w : Nat) : (s.detectWord w).places = s.places := by
  unfold State.detectWord
  split
  · dsimp only
    split
    · exact State.logWord_places ..
    · split
      · exact State.logWord_places ..
      · exact (State.logWord_places ..).trans (State.putStoredWord_places ..)
      · exact State.logWord_places ..
  · split
    · rfl
    · dsimp only
      split <;> exact State.logWord_places ..

@[simp] theorem State.detect_places (s : State) (pa n : Nat) : (s.detect pa n).places = s.places := by
  unfold State.detect
  split
  · rfl
  · exact foldl_places _ (fun t i => t.detectWord_places _) _ s

@[simp] theorem State.writeWord_places (s : State) (pa : Nat) (bs : List Byte) : (s.writeWord pa bs).places = s.places := by
  unfold State.writeWord
  extract_lets w t
  have ht : t.places = s.places := by
    unfold t
    split
    · exact s.detect_places ..
    · rfl
  split
  · exact s.logWord_places ..
  · split
    · exact (t.logWord_places ..).trans ht
    · exact ht

@[simp] theorem State.writeBlock_places (s : State) (pa : Nat) (bs : List Byte) : (s.writeBlock pa bs).places = s.places :=
  foldl_places (fun t (p : Nat × List Byte) => t.writeWord p.1 p.2) (fun t p => t.writeWord_places p.1 p.2) _ s

@[simp] theorem State.writeHome_places (s : State) (pa : Nat) (bs : List Byte) : (s.writeHome pa bs).places = s.places :=
  foldl_places (fun t (p : Nat × List Byte) => t.writeBlock p.1 p.2) (fun t p => t.writeBlock_places p.1 p.2) _ s

@[simp] theorem State.holdSlice_places (s : State) (k : BitVec 512) (line home : Nat) : (s.holdSlice k line home).places = s.places := by
  unfold State.holdSlice
  split <;> rfl

@[simp] theorem State.dirtyLine_places (s : State) (k line : Nat) : (s.dirtyLine k line).places = s.places := by
  unfold State.dirtyLine
  split
  · rfl
  · split <;> simp

@[simp] theorem State.takeLine_places (s : State) (k line : Nat) : (s.takeLine k line).places = s.places := by
  unfold State.takeLine
  split <;> simp

@[simp] theorem State.perform_places (s : State) (k pa : Nat) (bs : List Byte) : (s.perform k pa bs).places = s.places := by
  unfold State.perform
  split <;> simp

@[simp] theorem State.touchBit_places (s : State) (k pa : Nat) : (s.touchBit k pa).places = s.places := by
  unfold State.touchBit
  split <;> simp

@[simp] theorem State.putReg_places (s : State) (id : FibreId) (sh : Bool) (r : GReg) (v : Word) (st : Fill) :
    (s.putReg id sh r v st).places = s.places := by
  unfold State.putReg
  split <;> simp

@[simp] theorem State.finish_places (s : State) (id : FibreId) (n : Nat) : (s.finish id n).places = s.places := by
  unfold State.finish
  split <;> simp

@[simp] theorem State.acquireFor_places (s : State) (id : FibreId) : (s.acquireFor id).places = s.places := by
  unfold State.acquireFor
  split <;> simp

@[simp] theorem State.serveWaiter_places (s : State) (w : FeWait) : (s.serveWaiter w).places = s.places := by
  unfold State.serveWaiter
  dsimp only
  split
  · simp
  · split <;> simp

@[simp] theorem serveTakes_places : ∀ (l : List FeWait) (s : State), (serveTakes l s).places = s.places
  | [], _ => rfl
  | w :: ws, s => by
    rw [serveTakes]
    split
    · exact s.serveWaiter_places w
    · exact (serveTakes_places ws _).trans (s.serveWaiter_places w)

@[simp] theorem State.makeFull_places (s : State) (w : Nat) : (s.makeFull w).places = s.places := by
  unfold State.makeFull
  dsimp only
  split
  · exact s.setFull_places w true
  · rw [serveTakes_places, foldl_places _ State.serveWaiter_places, State.setFull_places]

@[simp] theorem State.wakeFull_places (s : State) : s.wakeFull.places = s.places := foldl_places _ State.makeFull_places _ s

theorem wakeFull_nobody {s : State} (h : s.dev.feWait = []) : s.wakeFull = s := by
  unfold State.wakeFull
  rw [h]
  rfl

@[simp] theorem State.performEntry_places (s : State) (b : Buffered) : (s.performEntry b).places = s.places := by
  unfold State.performEntry
  dsimp only
  split <;> simp

@[simp] theorem State.performAll_places : ∀ (l : List Buffered) (s : State), (s.performAll l).places = s.places
  | [], _ => rfl
  | b :: bs, s => (State.performAll_places bs _).trans (s.performEntry_places b)

@[simp] theorem State.performPosted_places (s : State) (p : Posted) : (s.performPosted p).places = s.places := by
  unfold State.performPosted
  dsimp only
  split <;> simp

@[simp] theorem State.performDue_places (s : State) (due : Posted → Bool) : (s.performDue due).places = s.places := by
  unfold State.performDue
  dsimp only
  split
  · rfl
  · rw [foldl_places _ State.performPosted_places, State.setDev_places _ _ rfl rfl]

@[simp] theorem State.settleOf_places (s : State) (due : Posted → Bool) : (s.settleOf due).places = s.places := by
  unfold State.settleOf
  dsimp only
  split <;> simp

@[simp] theorem State.drainCore_places (s : State) (c : Core) : (s.drainCore c).places = s.places := by
  unfold State.drainCore
  dsimp only
  split <;> simp

/-! ## Channels -/

theorem memRead_absent : ∀ {m : List Host.Cell} {x : Nat}, (∀ e ∈ m, e.1 ≠ x) → memRead m x = 0
  | [], _, _ => rfl
  | (a, b) :: r, x, h => by
    have ha : a ≠ x := h (a, b) List.mem_cons_self
    rw [memRead, if_neg ha, memRead_absent fun e he => h e (List.mem_cons_of_mem _ he), ite_self]

theorem places_spares {s t : State} (h : t.places = s.places) : t.dev.spares = s.dev.spares := congrArg (·.2.2.1) h

theorem places_absent {s t : State} (h : t.places = s.places) : t.dev.absent = s.dev.absent := congrArg (·.2.2.2) h

theorem onChannel_true {mc k w : Nat} (hd : isDram (8 * w) = true) (hm : memChip (8 * w) = mc) (hk : channelOf (8 * w) = k) :
    onChannel mc k w = true := by
  simp [onChannel, hd, hm, hk]

/-- The spare takes the number of channel `k`: nothing that memory, its marks and its caches hold of the channel stays (R57). -/
def State.spareFor (s : State) (mc k : Nat) : State := s.setDev fun d => { d with
  spares := (mc, k) :: d.spares
  mem := d.mem.filter fun e => !onChannel mc k (e.1 / 8)
  empt := d.empt.filter fun w => !onChannel mc k w
  pois := d.pois.filter fun w => !onChannel mc k w
  renewed := d.renewed.filter fun w => !onChannel mc k w
  ecc := d.ecc.filter fun e => !onChannel mc k e.1
  soft := d.soft.filter fun e => !onChannel mc k e.1
  cipher := d.cipher.filter fun e => !onChannel mc k (16 * e.1)
  below := d.below.filter fun b => !onChannel mc k (16 * b.line)
  slices := d.slices.filter fun e => !onChannel mc k (16 * e.1)
  msc := d.msc.filter fun m => !onChannel mc k (16 * m.line) }

/-- The range of channel `k` is absent (R57). -/
def State.loseChannel (s : State) (mc k : Nat) : State := s.setDev fun d => { d with absent := (mc, k) :: d.absent }

/-- Waiting loads of words that are full are served, and the loss is logged (R57, R66, R441). -/
def State.retired (s : State) (mc k : Nat) : State := s.wakeFull.logAt 0x07 0 0 k (256 + mc) 0xFFFF 0 (256 * mc + k)

theorem retired_places (s : State) (mc k : Nat) : (s.retired mc k).places = s.places := (State.logAt_places ..).trans s.wakeFull_places

theorem retired_spares (s : State) (mc k : Nat) : (s.retired mc k).dev.spares = s.dev.spares := places_spares (retired_places s mc k)

theorem retired_absent (s : State) (mc k : Nat) : (s.retired mc k).dev.absent = s.dev.absent := places_absent (retired_places s mc k)

theorem channelRetire_lost {s : State} {mc : Nat} (k : Nat) (h : mc ∈ s.dev.memLost) : exec (.channelRetire mc k) s = .next s := by
  simp only [exec, execChannelRetire]
  exact if_pos (.inr (.inr (.inl (List.contains_iff_mem.mpr h))))

theorem channelRetire_present {s : State} {mc k : Nat} (hmc : mc < 64) (hk : k < 8) (hl : mc ∉ s.dev.memLost)
    (ha : (mc, k) ∉ s.dev.absent) : exec (.channelRetire mc k) s = .next
      ((if s.dev.spares.any fun e => e.1 == mc then s.loseChannel mc k else s.spareFor mc k).retired mc k) := by
  have hc : ¬(64 ≤ mc ∨ 8 ≤ k ∨ s.dev.memLost.contains mc = true ∨ s.dev.absent.contains (mc, k) = true) := by
    simp only [List.contains_iff_mem, not_or]
    exact ⟨by omega, by omega, hl, ha⟩
  simp only [exec, execChannelRetire, if_neg hc]
  rfl

/-- A word of a channel that its spare has just replaced reads as poisoned and full, with value 0 (R57, assumption 1). -/
theorem spareFor_word {s : State} {mc k w : Nat} (hd : isDram (8 * w) = true) (hm : memChip (8 * w) = mc) (hk : channelOf (8 * w) = k) :
    (s.spareFor mc k).poisonedWord w = true ∧ (s.spareFor mc k).emptyWord w = false ∧
      memRead (s.spareFor mc k).dev.mem (8 * w) = 0 := by
  have hon := onChannel_true hd hm hk
  refine ⟨?_, ?_, memRead_absent fun e he => ?_⟩
  · have hs : (s.spareFor mc k).onSpare w = true := by simp [State.onSpare, State.spareFor, hd, hm, hk]
    have hr : (s.spareFor mc k).dev.renewed.contains w = false := by simp [State.spareFor, hon]
    rw [State.poisonedWord, hs, hr]
    exact Bool.or_true _
  · simp [State.emptyWord, State.spareFor, hon]
  · intro hx
    have hn : (!onChannel mc k (e.1 / 8)) = true := (List.mem_filter.mp he).2
    rw [hx, Nat.mul_div_cancel_left w (by decide), hon] at hn
    cases hn

/-- With the log disabled and nobody waiting, what follows the loss of a channel changes the count of dropped records alone. -/
theorem retired_disabled {s : State} (h : bit s.dev.elctl 63 = false) (hw : s.dev.feWait = []) (mc k : Nat) :
    ∃ n, s.retired mc k = s.setDev fun x => { x with elctl := n } := by
  unfold State.retired
  rw [wakeFull_nobody hw]
  exact logAt_disabled h ..

theorem channelRetire_first {s : State} {mc k : Nat} (hmc : mc < 64) (hk : k < 8) (hl : mc ∉ s.dev.memLost)
    (ha : (mc, k) ∉ s.dev.absent) (hs : ∀ x, x ∈ s.dev.spares → x.1 ≠ mc) :
    exec (.channelRetire mc k) s = .next ((s.spareFor mc k).retired mc k) := by
  have hn : (s.dev.spares.any fun e => e.1 == mc) = false := by simpa using hs
  rw [channelRetire_present hmc hk hl ha, hn]
  rfl

theorem channelRetire_further {s : State} {mc k : Nat} (hmc : mc < 64) (hk : k < 8) (hl : mc ∉ s.dev.memLost)
    (ha : (mc, k) ∉ s.dev.absent) {x : Nat × Nat} (hx : x ∈ s.dev.spares) (hm : x.1 = mc) :
    exec (.channelRetire mc k) s = .next ((s.loseChannel mc k).retired mc k) := by
  have hn : (s.dev.spares.any fun e => e.1 == mc) = true := List.any_eq_true.mpr ⟨x, hx, beq_iff_eq.mpr hm⟩
  rw [channelRetire_present hmc hk hl ha, hn]
  rfl

theorem retired_spareFor_word {s : State} (h : bit s.dev.elctl 63 = false) (hw : s.dev.feWait = []) (mc k : Nat) :
    ((s.spareFor mc k).retired mc k).fib = s.fib ∧ ∀ w, isDram (8 * w) = true → memChip (8 * w) = mc → channelOf (8 * w) = k →
      ((s.spareFor mc k).retired mc k).poisonedWord w = true ∧ ((s.spareFor mc k).retired mc k).emptyWord w = false ∧
        memRead ((s.spareFor mc k).retired mc k).dev.mem (8 * w) = 0 := by
  obtain ⟨n, hn⟩ := retired_disabled (s := s.spareFor mc k) h hw mc k
  rw [hn]
  exact ⟨rfl, fun w => spareFor_word⟩

theorem absentPa_of_channel {s : State} {mc k pa : Nat} (h : (mc, k) ∈ s.dev.absent) (hd : isDram pa = true) (hm : memChip pa = mc)
    (hk : channelOf pa = k) : s.absentPa pa = true := by
  simp [State.absentPa, hd, hm, hk, h]

theorem absentPa_of_chiplet {s : State} {mc pa : Nat} (h : mc ∈ s.dev.memLost) (hd : isDram pa = true) (hm : memChip pa = mc) :
    s.absentPa pa = true := by
  simp [State.absentPa, hd, hm, h]

/-! ## Finding what was updated -/

section
variable {α : Type} {p q : α → Bool} {d e : α} {f : α → α}

theorem findOr_updOr_same (hp : ∀ x, p x = true → p (f x) = true) (hd : p d = true) : ∀ l : List α,
    findOr p d (updOr p d f l) = f (findOr p d l)
  | [] => if_pos (hp d hd)
  | x :: xs => by
    by_cases hx : p x = true
    · simp [updOr, findOr, hx, hp x hx]
    · simp [updOr, findOr, hx, findOr_updOr_same hp hd xs]

theorem findOr_updOr_other (hq : ∀ x, p x = true → q x = false ∧ q (f x) = false) (hd : p d = true) : ∀ l : List α,
    findOr q e (updOr p d f l) = findOr q e l
  | [] => by simp [updOr, findOr, (hq d hd).2]
  | x :: xs => by
    by_cases hx : p x = true
    · simp [updOr, findOr, hx, hq x hx]
    · simp [updOr, findOr, hx, findOr_updOr_other hq hd xs]

/-- What an update of every element keeps of each, it keeps of the one found. -/
theorem findOr_map_keeps {P : α → Prop} (hp : ∀ x, p (f x) = p x) (hf : ∀ x, P x → P (f x)) : ∀ l : List α,
    P (findOr p d l) → P (findOr p d (l.map f))
  | [], h => h
  | x :: xs, h => by
    rw [List.map_cons, findOr, hp]
    rw [findOr] at h
    split at h
    · rw [if_pos ‹_›]
      exact hf x h
    · rw [if_neg ‹_›]
      exact findOr_map_keeps hp hf xs h

end

theorem coreAt_onCore_same {f : Core → Core} (hf : ∀ c, (f c).num = c.num) (s : State) (n : Nat) :
    (s.onCore n f).coreAt n = f (s.coreAt n) := by
  unfold State.onCore State.coreAt
  by_cases h : s.core.num = n
  · simp [h, hf]
  · simp only [h, if_false]
    exact findOr_updOr_same (p := fun c : Core => c.num == n) (fun x hx => by rwa [hf]) (beq_self_eq_true n) _

theorem coreAt_onCore_other {f : Core → Core} (hf : ∀ c, (f c).num = c.num) (s : State) {n m : Nat} (hm : m ≠ n) :
    (s.onCore n f).coreAt m = s.coreAt m := by
  unfold State.onCore State.coreAt
  by_cases h : s.core.num = n
  · simp [h, hf, hm.symm]
  · simp only [h, if_false]
    rw [findOr_updOr_other (p := fun c : Core => c.num == n) (fun x hx => ?_) (beq_self_eq_true n)]
    simp [hf, eq_of_beq hx, hm.symm]

theorem chipAt_onChip_same {f : Chip → Chip} {n : Nat} (hf : ∀ c, c.num = n → (f c).num = n) (s : State) :
    (s.onChip n f).chipAt n = f (s.chipAt n) := by
  unfold State.onChip State.chipAt
  by_cases h : s.chip.num = n
  · simp [h, hf]
  · simp only [h, if_false]
    exact findOr_updOr_same (p := fun c : Chip => c.num == n) (fun x hx => beq_iff_eq.mpr (hf x (eq_of_beq hx))) (beq_self_eq_true n) _

theorem chipAt_onChip_other {f : Chip → Chip} {n : Nat} (hf : ∀ c, c.num = n → (f c).num = n) (s : State) {m : Nat} (hm : m ≠ n) :
    (s.onChip n f).chipAt m = s.chipAt m := by
  unfold State.onChip State.chipAt
  by_cases h : s.chip.num = n
  · simp [h, hf, hm.symm]
  · simp only [h, if_false]
    rw [findOr_updOr_other (p := fun c : Chip => c.num == n) (fun x hx => ?_) (beq_self_eq_true n)]
    simp [hf x (eq_of_beq hx), eq_of_beq hx, hm.symm]

/-! ## A memory chiplet, an edge chiplet, a link -/

theorem clearGuests_memory (s : State) (gone : Nat → Bool) :
    (s.clearGuests gone).dev.mem = s.dev.mem ∧ (s.clearGuests gone).dev.memLost = s.dev.memLost := by
  refine List.foldlRecOn (motive := fun t : State => t.dev.mem = s.dev.mem ∧ t.dev.memLost = s.dev.memLost) _ _ ⟨rfl, rfl⟩ ?_
  intro t ht f _
  rw [State.sendHome, State.onFibre_dev]
  exact ht

/-- Cores die (R28). -/
def State.killCores (s : State) (l : List Nat) : State := l.foldl (fun s n => s.onCore n fun c => { c with status := .dead }) s

theorem State.killCores_dev (s : State) (l : List Nat) : (s.killCores l).dev = s.dev :=
  List.foldlRecOn (motive := fun t : State => t.dev = s.dev) l _ rfl fun t h n _ => (t.onCore_dev n _).trans h

theorem killCores_dead {n : Nat} : ∀ {l : List Nat} {s : State}, n ∈ l ∨ (s.coreAt n).status = .dead →
    ((s.killCores l).coreAt n).status = .dead
  | [], _, h => h.resolve_left (by simp)
  | m :: ms, s, h => by
    refine killCores_dead (l := ms) (s := s.onCore m fun c => { c with status := .dead }) ?_
    by_cases hm : n = m
    · subst hm
      exact .inr (congrArg Core.status (coreAt_onCore_same (f := fun c => { c with status := .dead }) (fun _ => rfl) s n))
    · rw [coreAt_onCore_other (f := fun c => { c with status := .dead }) (fun _ => rfl) s hm]
      exact h.imp_left fun h => (List.mem_cons.mp h).resolve_left hm

theorem memoryChipletLoss_lost {s : State} {mc : Nat} (h : mc ∈ s.dev.memLost) : exec (.memoryChipletLoss mc) s = .next s := by
  simp only [exec, execMemoryChipletLoss]
  exact if_pos (.inr (List.contains_iff_mem.mpr h))

theorem memoryChipletLoss_present {s : State} {mc : Nat} (hmc : mc < 64) (h : mc ∉ s.dev.memLost) :
    ∃ u : State, u.dev.mem = s.dev.mem ∧ u.dev.memLost = mc :: s.dev.memLost ∧
      exec (.memoryChipletLoss mc) s = .next (u.killCores ((List.range 8).map fun i => 1024 + 8 * mc + i)) := by
  have hc : ¬(64 ≤ mc ∨ s.dev.memLost.contains mc = true) := by
    simp only [List.contains_iff_mem, not_or]
    exact ⟨by omega, h⟩
  simp only [exec, execMemoryChipletLoss, if_neg hc]
  refine ⟨_, ?_, ?_, by rw [State.killCores, List.foldl_map]⟩
  · exact (clearGuests_memory _ _).1
  · exact (clearGuests_memory _ _).2

theorem edgeIoChipletLoss_eq {s : State} {e : Nat} (he : e < 8) :
    exec (.edgeIoChipletLoss e) s = .next (s.setDev fun d => { d with edgeLost := setIns e d.edgeLost }) := by
  simp only [exec, execEdgeIoChipletLoss, if_pos he]

theorem onChip_fib (s : State) (n : Nat) (f : Chip → Chip) : (s.onChip n f).fib = s.fib := by
  unfold State.onChip
  split <;> rfl

theorem onChip_dev (s : State) (n : Nat) (f : Chip → Chip) : (s.onChip n f).dev = s.dev := by
  unfold State.onChip
  split <;> rfl

/-- Rewriting NETSEL changes chiplets only. -/
theorem rewriteAll_frame (s : State) : s.rewriteAll.fib = s.fib ∧ s.rewriteAll.dev = s.dev :=
  List.foldlRecOn (motive := fun t : State => t.fib = s.fib ∧ t.dev = s.dev) _ _ ⟨rfl, rfl⟩ fun t h _ _ =>
    ⟨(onChip_fib t ..).trans h.1, (onChip_dev t ..).trans h.2⟩

theorem routerOrBondLoss_eq {s : State} {mesh : Bool} {ch dst : Nat} (hc : ch < 256) (h : (mesh, ch, dst) ∉ s.dev.bondLost) :
    exec (.routerOrBondLoss mesh ch dst) s = .next (s.setDev fun d => { d with bondLost := (mesh, ch, dst) :: d.bondLost }).rewriteAll := by
  simp only [exec, execRouterOrBondLoss]
  refine if_neg ?_
  simp only [List.contains_iff_mem, not_or]
  exact ⟨by omega, h⟩

/-! ## A compute chiplet -/

/-- A chiplet that is fenced with nothing under way: no copy, translation or cursor is left (R28, R49). -/
structure Chip.Fenced (c : Chip) : Prop where
  state_eq : c.state = 6
  copies_eq : c.copies = []
  tlb_eq : c.tlb = []
  cursors_eq : c.cursors = []

/-- The chiplet of a number is fenced with nothing under way. -/
def State.FencedAt (s : State) (ch : Nat) : Prop := (s.chipAt ch).Fenced

section
variable {s t : State} {ch : Nat}

theorem State.FencedAt.of_places (h : t.places = s.places) (hs : s.FencedAt ch) : t.FencedAt ch := by
  have hc : t.chip = s.chip := congrArg (·.1) h
  have hl : t.chips = s.chips := congrArg (·.2.1) h
  unfold State.FencedAt State.chipAt at *
  rwa [hc, hl]

theorem State.FencedAt.setDev (f : Device → Device) (hs : s.FencedAt ch) : (s.setDev f).FencedAt ch := hs

/-- An update that keeps a chiplet's number, and leaves it fenced where it was. -/
structure KeepsFence (f : Chip → Chip) : Prop where
  num_eq : ∀ c, (f c).num = c.num
  fenced : ∀ c, c.Fenced → (f c).Fenced

theorem State.FencedAt.onChip {f : Chip → Chip} (hf : KeepsFence f) (n : Nat) (hs : s.FencedAt ch) : (s.onChip n f).FencedAt ch := by
  have hn : ∀ c, c.num = n → (f c).num = n := fun c h => (hf.num_eq c).trans h
  unfold State.FencedAt
  by_cases h : ch = n
  · subst h
    rw [chipAt_onChip_same hn]
    exact hf.fenced _ hs
  · rw [chipAt_onChip_other hn s h]
    exact hs

theorem State.FencedAt.map {f : Chip → Chip} (hf : KeepsFence f) (hc : t.chip = f s.chip) (hl : t.chips = s.chips.map f)
    (hs : s.FencedAt ch) : t.FencedAt ch := by
  unfold State.FencedAt State.chipAt at *
  rw [hc, hl, hf.num_eq]
  split at hs
  · rw [if_pos ‹_›]
    exact hf.fenced _ hs
  · rw [if_neg ‹_›]
    exact findOr_map_keeps (fun x => by rw [hf.num_eq]) hf.fenced _ hs

/-- An update fences its chiplet where it makes any chiplet a fenced one of that number. -/
theorem State.FencedAt.of_onChip {f : Chip → Chip} (hn : ∀ c, (f c).num = ch) (hf : ∀ c, (f c).Fenced) :
    (s.onChip ch f).FencedAt ch := by
  unfold State.FencedAt
  rw [chipAt_onChip_same fun c _ => hn c]
  exact hf _

theorem State.FencedAt.allChips {f : Chip → Chip} (hf : KeepsFence f) (hs : s.FencedAt ch) : (s.allChips f).FencedAt ch :=
  hs.map hf rfl rfl

theorem without_keepsFence (gone : FibreId → Bool) : KeepsFence fun c => c.without gone :=
  ⟨fun _ => rfl, fun _ h => ⟨h.state_eq, h.copies_eq, h.tlb_eq, h.cursors_eq⟩⟩

theorem State.FencedAt.foldl {α : Type} {f : State → α → State} (hf : ∀ {s : State} (a), s.FencedAt ch → (f s a).FencedAt ch)
    (l : List α) (hs : s.FencedAt ch) : (l.foldl f s).FencedAt ch :=
  List.foldlRecOn (motive := fun t : State => t.FencedAt ch) l f hs fun _ h a _ => hf a h

end

/-! ## The loss of a compute chiplet keeps it fenced -/

section
variable {s : State} {ch : Nat}

theorem State.FencedAt.rewriteNetsel (hs : s.FencedAt ch) (src : Nat) (fresh : Bool) : (s.rewriteNetsel src fresh).FencedAt ch := by
  refine hs.onChip ?_ src
  exact ⟨fun _ => rfl, fun _ h => ⟨h.state_eq, h.copies_eq, h.tlb_eq, h.cursors_eq⟩⟩

theorem State.FencedAt.rewriteAll (hs : s.FencedAt ch) : s.rewriteAll.FencedAt ch :=
  State.FencedAt.foldl (f := fun s (c : Chip) => s.rewriteNetsel c.num false) (fun c h => h.rewriteNetsel c.num false) _ hs

theorem State.FencedAt.logAt (hs : s.FencedAt ch) (a b c d e f g i : Nat) : (s.logAt a b c d e f g i).FencedAt ch :=
  hs.of_places (s.logAt_places ..)

end

@[simp] theorem State.agentWrite_places (s : State) (asid va : Nat) (bs : List Byte) : (s.agentWrite asid va bs).places = s.places :=
  foldl_places _ (fun t p => by split <;> simp) _ s

@[simp] theorem State.agentDetect_places (s : State) (asid va n : Nat) : (s.agentDetect asid va n).places = s.places :=
  foldl_places _ (fun t p => by split <;> simp) _ s

@[simp] theorem State.copyMarks_places (s : State) (src dst n : Nat) : (s.copyMarks src dst n).places = s.places := rfl

@[simp] theorem State.loadRegion_places (s : State) (asid va pad n : Nat) : (s.loadRegion asid va pad n).places = s.places :=
  foldl_places _ (fun t p => by split <;> simp) _ s

@[simp] theorem State.putMap_places (s : State) (n : Nat) (v : Word) : (s.putMap n v).places = s.places := s.writeHome_places ..

@[simp] theorem State.useCand_places (s : State) (pos : Nat) (taker : Option Nat) : (s.useCand pos taker).places = s.places :=
  foldl_places _ (fun t n => by dsimp only; split <;> simp) _ s

theorem State.rebind_places (s : State) (n : Nat) : (s.rebind n).1.places = s.places := by
  unfold State.rebind
  dsimp only
  split <;> simp

@[simp] theorem State.settleLaunch_places (s : State) (lid : Nat) : (s.settleLaunch lid).places = s.places := rfl

@[simp] theorem State.unplace_places (s : State) (lid skn : Nat) : (s.unplace lid skn).places = s.places := by
  simp [State.unplace]

@[simp] theorem State.writeBack_places (s : State) (b : Below) : (s.writeBack b).places = s.places := rfl

@[simp] theorem State.emptySlice_places (s : State) (ch : Nat) : (s.emptySlice ch).places = s.places :=
  foldl_places _ State.writeBack_places _ s

/-- The columns of a set group are no part of the fence. -/
theorem putXcols_keepsFence (grp : Nat) (x : Nat → XCol) (l : List Nat) :
    KeepsFence fun c => l.foldl (fun c i => c.putXcol grp i (x i)) c where
  num_eq c := List.foldlRecOn (motive := fun y : Chip => y.num = c.num) l _ rfl fun _ h _ _ => h
  fenced _ hc := List.foldlRecOn (motive := Chip.Fenced) l _ hc fun _ h _ _ => ⟨h.state_eq, h.copies_eq, h.tlb_eq, h.cursors_eq⟩

section
variable {s : State} {ch : Nat}

theorem State.FencedAt.loadSet (hs : s.FencedAt ch) (asid va chip grp : Nat) : (s.loadSet asid va chip grp).FencedAt ch :=
  hs.onChip (putXcols_keepsFence grp _ _) chip

theorem State.FencedAt.loadPlace (hs : s.FencedAt ch) (l : Launch) (skn core : Nat) (groups : List Nat) :
    (s.loadPlace l skn core groups).FencedAt ch :=
  (State.FencedAt.foldl (fun _ h => h.loadSet ..) _ hs).of_places (State.loadRegion_places ..)

theorem State.FencedAt.moveIn (hs : s.FencedAt ch) (l : Launch) (skn core : Nat) : (s.moveIn l skn core).FencedAt ch := by
  unfold State.moveIn
  dsimp only
  split
  · exact hs
  · exact ((hs.of_places (s.agentDetect_places ..)).loadPlace l skn core _).of_places (State.onSkein_places ..)

theorem State.FencedAt.relocate (hs : s.FencedAt ch) (core lid skn : Nat) : (s.relocate core lid skn).FencedAt ch := by
  unfold State.relocate
  split
  · exact hs
  · split
    · exact hs
    · refine State.FencedAt.logAt (State.FencedAt.of_places (State.settleLaunch_places ..) (State.FencedAt.moveIn (hs.of_places ?_) ..)) ..
      exact (State.onLaunch_places ..).trans ((State.onSkein_places ..).trans (s.agentWrite_places ..))

theorem State.FencedAt.moveOn (hs : s.FencedAt ch) (core : Nat) (holder : Option Nat) : (s.moveOn core holder).FencedAt ch := by
  refine State.FencedAt.foldl (fun {t} k ht => ?_) _ hs
  cases holder with
  | none => exact ht.of_places (t.unplace_places ..)
  | some c => exact ht.relocate ..

theorem State.FencedAt.rebindLost (hs : s.FencedAt ch) (core : Nat) : (s.rebindLost core).FencedAt ch := by
  unfold State.rebindLost
  split
  · exact hs
  · split
    · exact (hs.of_places (s.rebind_places _)).moveOn ..
    · exact (hs.of_places (s.useCand_places ..)).moveOn ..

theorem State.FencedAt.withdraw (hs : s.FencedAt ch) (f : FibreId) : (s.withdraw f).FencedAt ch :=
  State.FencedAt.of_places (State.onFibre_places ..) (State.FencedAt.map (without_keepsFence _) rfl rfl hs)

theorem State.FencedAt.ungroup (hs : s.FencedAt ch) (c : Nat) : (s.ungroup c).FencedAt ch := by
  have hdrain : (((s.core :: s.cores).foldl State.drainCore s).settleOf fun _ => true).FencedAt ch :=
    hs.of_places ((State.settleOf_places ..).trans (foldl_places _ State.drainCore_places _ s))
  unfold State.ungroup
  refine State.FencedAt.allChips ⟨fun _ => rfl, fun _ h => ⟨h.state_eq, h.copies_eq, rfl, h.cursors_eq⟩⟩ ?_
  refine State.FencedAt.of_places (foldl_places _ (fun t g => ?_) _ _) ?_
  · dsimp only
    split <;> simp
  · exact (State.FencedAt.foldl (fun f h => h.withdraw f) _ hdrain).of_places (foldl_places _ State.emptySlice_places _ _)

theorem State.FencedAt.endLoss (hs : s.FencedAt ch) (c : Nat) : (s.endLoss c).FencedAt ch := by
  unfold State.endLoss
  split
  · exact hs
  · split
    · exact hs
    · have hr : ((coresOf c).foldl State.rebindLost
          (s.setDev fun d => { d with losing := d.losing.filter fun e => e.1 != c })).FencedAt ch :=
        State.FencedAt.foldl (fun n h => h.rebindLost n) _ (hs.setDev _)
      dsimp only
      split
      · exact hr
      · exact hr.ungroup c

end

/-- A chiplet that is lost is fenced, and what was under way on it is gone. -/
theorem loseChip_fencedAt {s : State} {ch : Nat} (hc : ch < 256) (hs : (s.chipAt ch).state ≠ 6) : (s.loseChip ch).FencedAt ch := by
  unfold State.loseChip
  rw [if_neg (not_or.mpr ⟨by omega, hs⟩)]
  extract_lets live bound ended stopped dropped coresFenced zero chipFenced recorded rerouted
  have hchip : chipFenced.FencedAt ch := by
    refine State.FencedAt.of_onChip ?_ ?_
    · exact fun _ => rfl
    · exact fun _ => ⟨rfl, rfl, rfl, rfl⟩
  have hnet : rerouted.FencedAt ch := (hchip.setDev _).rewriteAll
  split
  · exact hnet.logAt ..
  · exact hnet

theorem loseChip_fenced {s : State} {ch : Nat} (hs : (s.chipAt ch).state = 6) : s.loseChip ch = s := by
  unfold State.loseChip
  exact if_pos (.inr hs)

theorem endLoss_none {s : State} {ch : Nat} (h : s.dev.losing.find? (fun e => e.1 == ch) = none) : s.endLoss ch = s := by
  simp only [State.endLoss, h]

/-- The end of a loss waits for what the chiplet sent, for updates on their way and for stores behind a message (R26, R49). -/
theorem endLoss_some {s : State} {ch n : Nat} (h : s.dev.losing.find? (fun e => e.1 == ch) = some (ch, n)) :
    s.endLoss ch = if s.undelivered ch n = true ∨ s.dev.updates ≠ [] ∨ s.behindAny = true then s
      else
        let u := (coresOf ch).foldl State.rebindLost (s.setDev fun d => { d with losing := d.losing.filter fun e => e.1 != ch })
        if u.dev.hgbase = 0 then u else u.ungroup ch := by
  simp only [State.endLoss, h, Bool.or_eq_true, Bool.not_eq_true', List.isEmpty_eq_false_iff, or_assoc]

/-! ## The statement -/

/-- Settles O46: each end of memory traffic and each loss, by the lemma of its case. What a lost channel or chiplet keeps to the end of
its step follows from `State.places` and `State.FencedAt`. -/
theorem memoryTrafficAndLosses : Obligations.MemoryTrafficAndLosses := by
  refine ⟨fun s k w => ⟨dataDelivered_data, fun _ _ _ hl => dataDelivered_table hl, walkerTakesMiss_parked, walkerTakesMiss_other,
    dataDelivered_other, fun e he => ⟨fun hq => remoteStorePerformed_first he fun q h hf => ?_,
      fun q h hf => remoteStorePerformed_behindStore he h ((q.first_iff e).mpr hf), fun m => remoteStorePerformed_behindMessage he⟩,
    fun p b hb => ⟨fun hq => writeThroughDrain_first hb fun q h hf => hq q h ((q.first_iff b).mp hf),
      fun q h hf => writeThroughDrain_behindStore hb h ((q.first_iff b).mpr hf), writeThroughDrain_behindMessage hb⟩,
    patrolScrub_eq, fun i hi => ⟨dataColumn_odd hi, columnOf_dataColumn hi le_rfl⟩, fun syn hs => columnOf_none hs le_rfl,
    detectWord_clean, fun syn hg => ⟨detectWord_checkBit hg,
      fun hc => ⟨detectWord_fullBit hg hc, fun i => detectWord_dataBit hg hc, detectWord_noColumn hg hc⟩⟩,
    fun syn => detectWord_arose, fun x syn hx => poisonedWord_marked hx ..⟩,
    fun s mc k e ch dst mesh hmc hk => ⟨fun hl ha => ⟨fun hs => ?_, fun x hx hm => ?_⟩, fun hl => ?_,
      fun hl => ⟨channelRetire_lost k hl, memoryChipletLoss_lost hl⟩,
      fun he => ⟨_, edgeIoChipletLoss_eq he, fun _ => mem_setIns, rfl, rfl⟩,
      fun hc hb => ?_, fun hc hs => ?_, fun hc hs => ?_, endLoss_none,
      fun n hn => ⟨fun hw => (endLoss_some hn).trans (if_pos hw), fun hw => (endLoss_some hn).trans (if_neg hw)⟩⟩⟩
  · -- a remote store with no earlier one before it
    obtain ⟨halong, hmeets⟩ := hq q h
    exact ((q.first_iff e).mp hf).elim (Bool.eq_false_iff.mp halong) hmeets
  · -- the first channel that a memory chiplet loses
    have hspares : ((s.spareFor mc k).retired mc k).dev.spares = (mc, k) :: s.dev.spares := retired_spares ..
    exact ⟨_, channelRetire_first hmc hk hl ha hs, hspares ▸ List.mem_cons_self, retired_absent (s.spareFor mc k) mc k,
      fun he hw => retired_spareFor_word he hw mc k⟩
  · -- a further one
    have habsent : ((s.loseChannel mc k).retired mc k).dev.absent = (mc, k) :: s.dev.absent := retired_absent ..
    exact ⟨_, channelRetire_further hmc hk hl ha hx hm, habsent, retired_spares (s.loseChannel mc k) mc k,
      fun pa => absentPa_of_channel (habsent ▸ List.mem_cons_self)⟩
  · -- a memory chiplet
    obtain ⟨u, hmem, hlost, hu⟩ := memoryChipletLoss_present hmc hl
    have hd := u.killCores_dev ((List.range 8).map fun i => 1024 + 8 * mc + i)
    refine ⟨_, hu, by rw [hd, hlost], by rw [hd, hmem], fun i hi => killCores_dead (.inl ?_), fun pa => absentPa_of_chiplet ?_⟩
    · exact List.mem_map.mpr ⟨i, List.mem_range.mpr hi, rfl⟩
    · rw [hd, hlost]
      exact List.mem_cons_self
  · -- a router, a bond or a link
    obtain ⟨hf, hd⟩ := rewriteAll_frame (s.setDev fun d => { d with bondLost := (mesh, ch, dst) :: d.bondLost })
    exact ⟨_, routerOrBondLoss_eq hc hb, by rw [hd]; rfl, hf, by rw [hd]; rfl⟩
  · -- a compute chiplet that is fenced already
    exact congrArg (fun t : State => Host.Outcome.next (t.endLoss ch)) (loseChip_fenced hs)
  · -- a compute chiplet
    have ht := (loseChip_fencedAt hc hs).endLoss ch
    exact ⟨_, rfl, ht.state_eq, ht.copies_eq, ht.tlb_eq, ht.cursors_eq⟩

end Sys2Proof.Machine

/-! # Cache maintenance and a waiting take (O44)

The statement says of every state that a completed `l2.inv` leaves the slices all lines but its own, and gives them no other. Dropping the
line ends in `State.wakeFull`, which serves each load that waits at a full word, on whatever line that word lies. The patrol leaves such a
wait: where it corrects the full/empty bit of an empty word, it makes the word full and wakes nobody (R437). The take empties its word, so
that its line becomes dirty in its home slice (R59, R67, R197), which need not have held it before. -/

namespace Sys2Proof.Machine

/-- An `l2.inv` of line 7 (R70). -/
def invOfLine7 : Maint := { by_ := State.reset.fib.id, kind := 0x34, arg := 7, since := 0 }

/-- Line 7 is dirty in slice 3, an `l2.inv` of it is outstanding, and a take waits at word 128, the first of line 8, which no slice holds.
`empt` are the empty words, `ecc` the pending syndromes, and `elctl` is the control word of the error log, which is off. -/
def takeWaiting (empt : List Nat) (ecc : List (Nat × BitVec 8)) (elctl : Word) : State := State.reset.setDev fun d => { d with
  maint := [invOfLine7]
  below := [{ line := 7, since := 0, home := 3, hashed := false, key := 0, data := List.replicate 128 9, empt := [], pois := [], renewed := [] }]
  slices := [(7, 3)]
  feWait := [{ fib := { lid := 1, skn := 0, fix := 0 }, pa := 128 * 8, len := 8, signed := false, take := true, d := 1, shadow := false
               key := 0, asid := 3, va := 0x4400 }]
  empt := empt
  ecc := ecc
  elctl := elctl }

/-- The take waits at a full word. -/
def takeAtFullWord : State := takeWaiting [] [] 1

/-- The patrol leaves the take at a full word, where an error of the full/empty bit was pending at its empty word. -/
theorem patrolScrub_takeWaiting : exec (.patrolScrub 128) (takeWaiting [128] [(128, dataColumn 64)] 0) = .next takeAtFullWord := by
  have hodd : ∀ c ∈ oddColumns, isCheckColumn c = false := by decide +kernel
  rw [patrolScrub_eq (by decide), detectWord_fullBit (syn := dataColumn 64) rfl (hodd _ (dataColumn_odd (by decide)))
    (columnOf_dataColumn (by decide) le_rfl)]
  rfl

theorem takeAtFullWord_ready : Room takeAtFullWord 1 ∧ FullG takeAtFullWord 0 := by
  unfold Room FullG
  decide +kernel

/-- The `l2.inv` of line 7 leaves line 8 in slice 0. -/
theorem takeAtFullWord_slices : (takeAtFullWord.doMaint invOfLine7).dev.slices = [(8, 0)] := by decide +kernel

/-- Refutes O44: where a take waits at a full word of another line, a completed `l2.inv` puts that line into a slice. -/
theorem not_cachesAndTranslation : ¬ Obligations.CachesAndTranslation := by
  intro h
  obtain ⟨hcaches, -⟩ := h
  obtain ⟨hroom, hfull⟩ := takeAtFullWord_ready
  obtain ⟨-, -, -, -, -, -, -, -, hmaint⟩ := hcaches takeAtFullWord takeAtFullWord 0 0 0 0 hroom hfull
  obtain ⟨-, -, -, -, -, hdropped, -⟩ := hmaint 0 invOfLine7 rfl
  have hnew : (8, 0) ∈ (takeAtFullWord.doMaint invOfLine7).dev.slices := takeAtFullWord_slices ▸ List.mem_singleton_self _
  obtain ⟨hbefore, -⟩ := (hdropped (.inr rfl) (8, 0)).mp hnew
  have hheld : takeAtFullWord.dev.slices = [(7, 3)] := rfl
  rw [hheld] at hbefore
  exact absurd hbefore (by decide)

end Sys2Proof.Machine

/-! # The exact accumulators (O30)

XaccEnter has three ends: the term is beyond the bound of R105, or it enters whole, or it is cut at the anchor. An array instruction that
finds the array idle acts in the state after every earlier access of its fibre, where it takes the turn at once; there it repeats what it
did at issue, and it ends with the ACCMAP, ACCEN and slots of that state. -/

namespace Sys2Proof.Machine

/-! ## XaccEnter -/

section
variable {x : XCol} {v e : Int}

/-- The term v · 2^e is at least 2^100 in units of the anchor (R105). -/
def XCol.beyond (x : XCol) (v e : Int) : Bool :=
  if x.anchor + 100 ≤ e then v != 0 else decide (2 ^ (x.anchor + 100 - e).toNat ≤ v.natAbs)

theorem enter_beyond (h : x.beyond v e = true) : x.enter (some v) e =
    if 0 < v then { x with op := true, tc := x.tc + 1 } else { x with on := true, tc := x.tc + 1 } := by
  unfold XCol.beyond at h
  simp only [XCol.enter, if_pos h]
  split <;> rfl

/-- A term within the bound adds `q` to ACC: whole at or above the anchor, else cut towards zero, with UR where that loses bits. -/
theorem enter_within (h : x.beyond v e = false) :
    let q : Int := if x.anchor ≤ e then v * 2 ^ (e - x.anchor).toNat else v.tdiv (2 ^ (x.anchor - e).toNat)
    let whole : Bool := x.anchor ≤ e || q * 2 ^ (x.anchor - e).toNat == v
    x.enter (some v) e = { x with
      ur := x.ur || !whole, acc := BitVec.ofInt 128 (x.value + q), res := (((x.res : Int) + q) % 255).toNat, tc := x.tc + 1 } := by
  unfold XCol.beyond at h
  simp only [XCol.enter, if_neg (Bool.eq_false_iff.mp h)]

theorem enter_frame (x : XCol) (t : Option Int) (e : Int) :
    (x.enter t e).tc = x.tc + 1 ∧ (x.enter t e).anchor = x.anchor ∧ (x.enter t e).os = x.os := by
  cases t with
  | none => exact ⟨rfl, rfl, rfl⟩
  | some v =>
    cases h : x.beyond v e with
    | true => rw [enter_beyond h]; split <;> exact ⟨rfl, rfl, rfl⟩
    | false => rw [enter_within h]; exact ⟨rfl, rfl, rfl⟩

theorem ofInt_value_add (x : XCol) (q : Int) : BitVec.ofInt 128 (x.value + q) = x.acc + BitVec.ofInt 128 q := by
  rw [BitVec.ofInt_add, XCol.value, BitVec.ofInt_toInt]

theorem beyond_above (ha : x.anchor ≤ e) : x.beyond v e = true ↔ 2 ^ 100 ≤ v.natAbs * 2 ^ (e - x.anchor).toNat := by
  unfold XCol.beyond
  split
  next hfar =>
    have hpow : 2 ^ 100 ≤ 2 ^ (e - x.anchor).toNat := Nat.pow_le_pow_right (by omega) (by omega)
    rw [bne_iff_ne]
    refine ⟨fun hv => hpow.trans (Nat.le_mul_of_pos_left _ (Int.natAbs_pos.mpr hv)), ?_⟩
    rintro h rfl
    simp at h
  next hnear =>
    have hsum : (100 : Nat) = (x.anchor + 100 - e).toNat + (e - x.anchor).toNat := by omega
    rw [decide_eq_true_iff, hsum, Nat.pow_add]
    exact (Nat.mul_le_mul_right_iff (Nat.two_pow_pos _)).symm

theorem beyond_below (he : e < x.anchor) : x.beyond v e = true ↔ 2 ^ (x.anchor + 100 - e).toNat ≤ v.natAbs := by
  rw [XCol.beyond, if_neg (by omega), decide_eq_true_iff]

theorem enter_whole (ha : x.anchor ≤ e) (hv : v.natAbs * 2 ^ (e - x.anchor).toNat < 2 ^ 100) :
    (x.enter (some v) e).acc = x.acc + BitVec.ofInt 128 (v * 2 ^ (e - x.anchor).toNat) ∧ (x.enter (some v) e).ur = x.ur ∧
    (x.enter (some v) e).op = x.op ∧ (x.enter (some v) e).on = x.on := by
  have hb : x.beyond v e = false := Bool.eq_false_iff.mpr fun h => absurd ((beyond_above ha).mp h) (by omega)
  simp only [enter_within hb, if_pos ha, ofInt_value_add]
  simp [ha]

theorem enter_cut (he : e < x.anchor) (hv : v.natAbs < 2 ^ (x.anchor + 100 - e).toNat) :
    (x.enter (some v) e).acc = x.acc + BitVec.ofInt 128 (v.tdiv (2 ^ (x.anchor - e).toNat)) ∧
    ((x.enter (some v) e).ur = true ↔ x.ur = true ∨ ¬(2 ^ (x.anchor - e).toNat : Int) ∣ v) := by
  have hb : x.beyond v e = false := Bool.eq_false_iff.mpr fun h => absurd ((beyond_below he).mp h) (by omega)
  have ha : ¬ x.anchor ≤ e := by omega
  have hexact (d : Int) : d ∣ v ↔ v.tdiv d * d = v := ⟨Int.tdiv_mul_cancel, Dvd.intro_left _⟩
  simp only [enter_within hb, if_neg ha, ofInt_value_add, hexact]
  simp [ha]

theorem enter_over (ha : x.anchor ≤ e) (hv : 2 ^ 100 ≤ v.natAbs * 2 ^ (e - x.anchor).toNat) :
    (x.enter (some v) e).acc = x.acc ∧
    (0 < v → (x.enter (some v) e).op = true ∧ (x.enter (some v) e).on = x.on) ∧
    (v < 0 → (x.enter (some v) e).on = true ∧ (x.enter (some v) e).op = x.op) := by
  rw [enter_beyond ((beyond_above ha).mpr hv)]
  split
  next hp => exact ⟨rfl, fun _ => ⟨rfl, rfl⟩, fun hn => absurd hn (by omega)⟩
  next hp => exact ⟨rfl, fun h => absurd h hp, fun _ => ⟨rfl, rfl⟩⟩

end

/-! ## Array instructions that find the array idle -/

theorem FullG.of_bank {s t : State} {r : GReg} (h : FullG s r) (hb : t.bank = s.bank) : FullG t r := by
  unfold FullG IsFull FirstRead
  rwa [hb]

theorem FreeG.of_bank {s t : State} {r : GReg} (h : FreeG s r) (hb : t.bank = s.bank) : FreeG t r := by
  unfold FreeG
  rwa [hb]

theorem g_of_bank {s t : State} (hb : t.bank = s.bank) (r : GReg) : t.g r = s.g r := by
  rw [State.g, hb, State.g]

/-- A register reads the same in a state with the same bank. -/
theorem readG_of_bank {s t : State} {r : GReg} (h : FullG s r) (hb : t.bank = s.bank) : readG t r = .ok (s.g r) := by
  rw [readG_full (h.of_bank hb), g_of_bank hb]

theorem readGs_of_bank {s t : State} (hb : t.bank = s.bank) : ∀ {l : List GReg}, (∀ r ∈ l, FullG s r) → readGs t l = .ok (l.map s.g)
  | [], _ => rfl
  | r :: rs, hf => by
    rw [readGs, readG_of_bank (hf r (by simp)) hb, readGs_of_bank hb fun q hq => hf q (by simp [hq])]
    rfl

/-- A check before a computation that answers holds. -/
theorem ensure_bind_iff {α : Type} {c : Bool} {s : State} {code sub : Nat} {v : Word} {f : Unit → Ex α} {x : α} :
    (ensure c (trap s code sub v) >>= f) = .ok x ↔ c = true ∧ f () = .ok x := by
  cases c <;> simp [ensure, trap, bind, Except.bind]

theorem setNames_of_maps {s t : State} (hm : t.core.accmap = s.core.accmap) (he : t.core.accen = s.core.accen) {n : Nat} :
    ∀ {first : Nat} {sets : List Nat}, setNames s first n = .ok sets → setNames t first n = .ok sets := by
  induction n with
  | zero => exact id
  | succ n ih =>
    intro first sets h
    simp only [setNames, arrayFault, ensure_bind_iff, hm, he] at h ⊢
    obtain ⟨hen, h⟩ := h
    refine ⟨hen, ?_⟩
    cases hr : setNames s (first + 1) n with
    | error _ => rw [hr] at h; cases h
    | ok r => rw [hr] at h; rw [ih hr]; exact h

/-- A column range does not depend on the state (R294). -/
theorem columnRange_any {s : State} {v : Word} {r : Nat × Nat} (h : columnRange s v = .ok r) (t : State) : columnRange t v = .ok r := by
  simp only [columnRange, arrayFault, ensure_bind_iff] at h ⊢
  exact h

/-- An instruction that is served where it captured its maps runs with those of the state (R301). -/
theorem captured_own {s u : State} {k : UnitKind} {body : State → Ex State} (h : body (s.served k) = .ok u) :
    captured (s.served k) s.capture body =
      .ok (u.withMaps (s.served k).core.accmap (s.served k).core.accen (s.served k).core.slots) := by
  have hown : (s.served k).withMaps s.capture.accmap s.capture.accen s.capture.slots = s.served k := rfl
  simp only [captured, hown, h]

/-- The state in which the idle array serves an instruction of the fibre in focus, after every earlier access of the fibre (R301). -/
abbrev State.atArray (s : State) : State := s.settle.drain.served .array

/-- The end of an array instruction with effect `u`: the maps and slots are those of the state in which it was served (R301). -/
abbrev arrayEnds (r u : State) (n : Nat) : Host.Outcome State Fault Refusal :=
  unitRuns (u.withMaps r.core.accmap r.core.accen r.core.slots) n .array .array

theorem arrayRun_idle {s t u : State} {n : Nat} {before : Ex State} {body : State → Ex State} (hroom : Room s n)
    (hn : s.entered .array = false) (hb : before = .ok t) (hg : t.fib.guest = false) (hm : t.behindMessage true = false)
    (hf : UnitFree t.settle.drain .array) (hu : body t.atArray = .ok u) : arrayRun s n before body = arrayEnds t.atArray u n :=
  arrayRun_ok hroom hn hb hg (allFirst_ok hm) hf (captured_own hu)

/-! ## Drain -/

/-- What `arr.drain` reads and checks both at issue and where the array serves it (R298, R306): set groups, first column, number of
columns, and the pieces of its destination. -/
def drainArgs (a c : GReg) (acc : BitVec 4) (dk : BitVec 3) (dst spn ns : BitVec 4) (t : State) :
    Ex (State × List Nat × Nat × Nat × List Piece) := do
  let va ← if dk.toNat < 2 then .ok 0 else readG t a
  let cols ← readG t c
  notGuest t
  let sets ← setNames t acc.toNat (ns.toNat + 1)
  let (col, nc) ← columnRange t cols
  let (t, ps) ← drainPlace t va cols nc (ns.toNat + 1) dk.toNat dst.toNat (spn.toNat + 1)
  .ok (t, sets, col, nc, ps)

/-- The issue of `arr.drain`: the names of its destination, its W hold and its operands. -/
def drainIssue (a c : GReg) (w : BitVec 1) (acc : BitVec 4) (dk : BitVec 3) (dst spn ns : BitVec 4) (s : State) : Ex State := do
  if dk = 0 then needVs s ((List.range (ns.toNat + 1)).map fun j => dst.toNat + j) else .ok ()
  if dk = 1 then do
    let _ ← spoolNo s dst.toNat
    .ok ()
  else .ok ()
  let t ← waitW s w
  let (t, _) ← drainArgs a c acc dk dst spn ns t
  .ok t

/-- Rounding and writing the rows of `arr.drain`, once its operands and checks are done. -/
def drainRows (dk : BitVec 3) (dst spn : BitVec 4) : State × List Nat × Nat × Nat × List Piece → Ex State
  | (t, sets, col, nc, ps) => do
    liveSets t sets
    residueChecks t col nc sets
    let rows := sets.map fun g => drainRow t dk.toNat g col nc
    let u ← drainWrite t (rows.map fun r => r.1) nc dk.toNat dst.toNat (spn.toNat + 1) ps
    .ok (raiseFlags u (rows.foldl (fun fl r => fl ||| r.2) 0))

theorem execArrDrain_eq (a c : GReg) (w : BitVec 1) (acc : BitVec 4) (dk : BitVec 3) (dst spn ns : BitVec 4) (s : State) :
    execArrDrain a c w acc dk dst spn ns s = arrayRun s 2 (drainIssue a c w acc dk dst spn ns s) fun t =>
      drainArgs a c acc dk dst spn ns t >>= drainRows dk dst spn := rfl

section
variable {s t u : State} {a c : GReg} {w : BitVec 1} {acc dst spn ns : BitVec 4} {dk : BitVec 3} {sets : List Nat} {col nc : Nat}
  {ps : List Piece}

theorem drainArgs_ok {r : State} (hb : r.bank = s.bank) (hg : r.fib.guest = false) (ha : 2 ≤ dk.toNat → FullG s a) (hc : FullG s c)
    (hsets : setNames r acc.toNat (ns.toNat + 1) = .ok sets) (hcols : columnRange r (s.g c) = .ok (col, nc))
    (hplace : drainPlace r (if dk.toNat < 2 then 0 else s.g a) (s.g c) nc (ns.toNat + 1) dk.toNat dst.toNat (spn.toNat + 1) =
      .ok (t, ps)) :
    drainArgs a c acc dk dst spn ns r = .ok (t, sets, col, nc, ps) := by
  by_cases hd : dk.toNat < 2
  · rw [if_pos hd] at hplace
    simp only [drainArgs, if_pos hd, readG_of_bank hc hb, notGuest_ok hg, hsets, hcols, hplace, ok_bind]
  · rw [if_neg hd] at hplace
    have hbase := readG_of_bank (ha (by omega)) hb
    simp only [drainArgs, if_neg hd, hbase, readG_of_bank hc hb, notGuest_ok hg, hsets, hcols, hplace, ok_bind]

theorem drainIssue_ok {x : List Nat × Nat × Nat × List Piece} (hw : WaitOver s w)
    (hv : dk = 0 → dst.toNat + ns.toNat < s.fib.nv) (hh : dk = 1 → ∃ i, spoolNo s dst.toNat = .ok i)
    (hx : drainArgs a c acc dk dst spn ns (s.waited w) = .ok (t, x)) : drainIssue a c w acc dk dst spn ns s = .ok t := by
  simp only [drainIssue, waitW_over hw, hx, ok_bind]
  by_cases h0 : dk = 0
  · have hregs : needVs s ((List.range (ns.toNat + 1)).map fun j => dst.toNat + j) = .ok () := by
      refine needVs_ok (List.forall_mem_map.mpr fun j hj => ?_)
      have hlast := hv h0
      have hlt := List.mem_range.mp hj
      omega
    have h1 : dk ≠ 1 := by rw [h0]; decide
    rw [if_pos h0, hregs, ok_bind, if_neg h1]
  · rw [if_neg h0]
    split
    next h1 => obtain ⟨i, hi⟩ := hh h1; rw [hi, ok_bind]
    next => rfl

theorem drainRows_ok (hlive : liveSets t sets = .ok ()) (hres : residueChecks t col nc sets = .ok ()) :
    let rows := sets.map fun g => drainRow t dk.toNat g col nc
    drainWrite t (rows.map fun x => x.1) nc dk.toNat dst.toNat (spn.toNat + 1) ps = .ok u →
    drainRows dk dst spn (t, sets, col, nc, ps) = .ok (raiseFlags u (rows.foldl (fun fl x => fl ||| x.2) 0)) := by
  intro rows hu
  simp only [rows] at hu ⊢
  simp only [drainRows, hlive, hres, hu, ok_bind]

end

/-! ## Set and strip maintenance -/

/-- The fibre in focus may run an array instruction of one word at once: it is no guest, nothing of it is behind a message, and the array
is idle; where it is served, the registers and the map of set groups are those of its issue. -/
structure ArrayIdle (s : State) : Prop where
  room : Room s 1
  home : s.fib.guest = false
  free : UnitFree s .array
  clear : s.behindMessage true = false
  still : UnitFree s.settle.drain .array
  bank : s.atArray.bank = s.bank
  accmap : s.atArray.core.accmap = s.core.accmap
  accen : s.atArray.core.accen = s.core.accen

theorem stripOffset_ok {t : State} {v : Word} (hv : bits v 19 45 = 0) : stripOffset t v = .ok v.toNat := by
  simp only [stripOffset, hv, beq_self_eq_true, ensure_true, ok_bind]

section
variable {s : State} (hs : ArrayIdle s)
include hs

theorem setRun_idle {regs : List GReg} {n : BitVec 4} {k : Nat} {sets : List Nat} {u : State}
    {body : State → List Word → List Nat → Ex State} (hr : ∀ r ∈ regs, FullG s r) (hn : setNames s n.toNat k = .ok sets)
    (hu : body s.atArray (regs.map s.g) sets = .ok u) :
    setRun s (fun t => readGs t regs) n k body = arrayEnds s.atArray u 1 := by
  refine arrayRun_idle hs.room (entered_free hs.free) (t := s) ?_ hs.home hs.clear hs.still ?_
  · simp only [readGs_of_bank rfl hr, notGuest_ok hs.home, hn, ok_bind]
  · simp only [readGs_of_bank hs.bank hr, setNames_of_maps hs.accmap hs.accen hn, ok_bind, hu]

variable {a b d : GReg} {sp : BitVec 4} {g : Nat} (hn : setNames s sp.toNat 1 = .ok [g])

section
include hn

/-- `arr.anchor` (R307, R308); that it holds the +1.0 of each OS at p = 24 is the model's choice (assumption 27). -/
theorem arrAnchor_idle {an : Int} (ha : FullG s a) (han : anchorOf s.atArray g (s.g a) = .ok an) : exec (.arrAnchor a sp) s =
    arrayEnds s.atArray (s.atArray.setChip fun c => c.mapSet g fun x => { x with anchor := an, os := oneAt24 }) 1 := by
  refine setRun_idle hs (regs := [a]) (by simpa using ha) hn ?_
  simp only [List.map, List.getD_cons_zero, List.headD, han, ok_bind]

theorem arrAnchorOs_idle {an : Int} {t : State} {os : List (Nat × FFlags)} (ha : FullG s a) (hb : FullG s b)
    (han : anchorOf s.atArray g (s.g a) = .ok an) (hos : loadScales s.atArray (s.g b) 256 = .ok (t, os)) :
    exec (.arrAnchorOs a b sp) s = arrayEnds s.atArray (raiseFlags (t.setChip fun c =>
      (os.zipIdx).foldl (fun c o => c.putXcol g o.2 { c.xcol g o.2 with anchor := an, os := BitVec.ofNat 128 o.1.1 }) c)
      (os.foldl (fun fl o => fl ||| o.2) 0)) 1 := by
  refine setRun_idle hs (regs := [a, b]) (by simp [ha, hb]) hn ?_
  simp only [List.map, List.getD_cons_zero, List.getD_cons_succ, List.headD, han, hos, ok_bind]

section
variable {col nc : Nat} (hb : FullG s b) (hcols : columnRange s.atArray (s.g b) = .ok (col, nc))
include hb hcols

theorem arrStat_idle (hd : FreeG s d) :
    exec (.arrStat d b sp) s = arrayEnds s.atArray (setG s.atArray d (statWord s.atArray.chip g col nc)) 1 := by
  refine setRun_idle hs (regs := [b]) (by simpa using hb) hn ?_
  simp only [List.map, List.getD_cons_zero, List.headD, hcols, ok_bind]
  exact writeG_free (hd.of_bank hs.bank) _

variable (ha : FullG s a) (hal : (s.g a).toNat % 32 = 0)
include ha hal

theorem arrStatRec_idle {t : State} {ps : List Piece}
    (hp : localAccess s.atArray s.atArray.accStore (s.g a) (32 * nc) = .ok (t, ps)) (hres : residueCheck t g col nc = .ok ()) :
    exec (.arrStatRec a b sp) s = arrayEnds s.atArray
      (putLocal t ps (((List.range nc).map fun i => (t.chip.xcol g (col + i)).record).flatten)) 1 := by
  refine setRun_idle hs (regs := [a, b]) (by simp [ha, hb]) hn ?_
  simp only [List.map, List.getD_cons_zero, List.getD_cons_succ, List.headD, hcols, hal, beq_self_eq_true, ensure_true, hp, hres,
    ok_bind]

theorem arrClearLd_idle {t u : State} {ps : List Piece} {bs : List Byte}
    (hp : localAccess s.atArray s.atArray.accLoad (s.g a) (32 * nc) = .ok (t, ps)) (hbs : recordBytes t ps = .ok (u, bs))
    (hrec : recordChecks u (s.g a) (u.chip.xcol g 0).anchor bs 0 nc = .ok ()) (hlive : u.chip.setBad g = false) :
    exec (.arrClearLd a b sp) s = arrayEnds s.atArray (u.setChip fun c => (List.range nc).foldl (fun c i =>
      c.putXcol g (col + i) (recordCol (slice bs (32 * i) 32) (c.xcol g (col + i)))) c) 1 := by
  refine setRun_idle hs (regs := [a, b]) (by simp [ha, hb]) hn ?_
  simp only [List.map, List.getD_cons_zero, List.getD_cons_succ, List.headD, hcols, hal, beq_self_eq_true, ensure_true, hp, hbs, hrec,
    ok_bind]
  simp only [State.setChip, hlive, Bool.false_eq_true, if_false]

end
end

/-- `arr.clear` (R307); that it clears the poison mark too is the model's choice (assumption 28). -/
theorem arrClear_idle {n : BitVec 4} {sets : List Nat} (hsets : setNames s sp.toNat (n.toNat + 1) = .ok sets) :
    exec (.arrClear n sp) s =
      arrayEnds s.atArray (s.atArray.setChip fun c => sets.foldl (fun c g => c.mapSet g XCol.cleared) c) 1 :=
  setRun_idle hs (regs := []) (by simp) hsets rfl

section
variable (ha : FullG s a) (hoff : bits (s.g a) 19 45 = 0)
include ha hoff

theorem arrWscaleRd_idle (hd : FreeG s d) (hlive : (s.g a).toNat ∉ s.atArray.chip.stripBad) : exec (.arrWscaleRd d a) s =
    arrayEnds s.atArray (setG s.atArray d (BitVec.ofNat 64 (s.atArray.chip.stripEntry (s.g a).toNat))) 1 := by
  refine setRun_idle hs (regs := [a]) (n := 0) (k := 0) (by simpa using ha) rfl ?_
  simp only [List.map, List.getD_cons_zero, stripOffset_ok hoff, ok_bind, List.contains_iff_mem, if_neg hlive]
  exact writeG_free (hd.of_bank hs.bank) _

theorem arrWscale_idle (hb : FullG s b) (hv : bits (s.g b) 8 56 = 0) : exec (.arrWscale a b) s =
    arrayEnds s.atArray (s.atArray.setChip fun c => c.putStrip (s.g a).toNat ((s.g b).setWidth 8)) 1 := by
  refine setRun_idle hs (regs := [a, b]) (n := 0) (k := 0) (by simp [ha, hb]) rfl ?_
  simp only [List.map, List.getD_cons_zero, List.getD_cons_succ, stripOffset_ok hoff, hv, beq_self_eq_true, ensure_true, ok_bind]

end
end

/-! ## The statement -/

/-- Settles O30: XaccEnter by its three ends, and each array instruction by its effect in the state in which the idle array serves it. -/
theorem accumulators : Obligations.Accumulators := by
  refine ⟨?_, ?_, ?_⟩
  · intro x v e
    exact ⟨rfl, rfl, rfl, fun t => enter_frame x t e, enter_whole, enter_cut, enter_over⟩
  · intro s t u a c w acc dst spn ns dk sets col nc ps ps' hroom hw hg ha hc hn hv hh v va hsets hcols hplace htg hm hf r hb hrg hrsets
      r' hrplace hlive hres rows hu
    have hvg : v.fib.guest = false := by rw [waited_fib]; exact hg
    have hissue := drainArgs_ok (waited_bank s w) hvg ha hc hsets hcols hplace
    have hserve := drainArgs_ok hb hrg ha hc hrsets (columnRange_any hcols r) hrplace
    refine (execArrDrain_eq ..).trans (arrayRun_idle hroom hn (drainIssue_ok hw hv hh hissue) htg hm hf ?_)
    calc drainArgs a c acc dk dst spn ns r >>= drainRows dk dst spn
      _ = drainRows dk dst spn (r', sets, col, nc, ps') := by rw [hserve, ok_bind]
      _ = _ := drainRows_ok hlive hres hu
  · intro s d a b n sp g col nc an hroom hg hfree hm hstill ha hb hd r hbank hmap hen ends
    have hs : ArrayIdle s := ⟨hroom, hg, hfree, hm, hstill, hbank, hmap, hen⟩
    exact ⟨fun hset => ⟨fun han => ⟨arrAnchor_idle hs hset ha han, fun _ _ hos => arrAnchorOs_idle hs hset ha hb han hos⟩,
        fun hcols => ⟨arrStat_idle hs hset hb hcols hd, fun hal => ⟨fun _ _ hp hres => arrStatRec_idle hs hset hb hcols ha hal hp hres,
          fun _ _ _ _ hp hbs hrec hlive => arrClearLd_idle hs hset hb hcols ha hal hp hbs hrec hlive⟩⟩⟩,
      fun _ hsets => arrClear_idle hs hsets, fun hoff hlive => arrWscaleRd_idle hs ha hoff hd hlive,
      fun hoff hv => arrWscale_idle hs ha hoff hb hv⟩

end Sys2Proof.Machine

/-! # A general register and its frame (O57)

An instruction whose source is not full ends where that read ends: it parks, or raises what a fault token names. Writing a register
changes its bank alone, and retiring changes the repeat frame, the PC and what counts instructions; a register instruction is one of the
first followed by one of the second. -/

namespace Sys2Proof.Machine

/-! ## Entries of a vector -/

section
variable {α : Type} {n : Nat}

theorem vgetD_eq (v : Vector α n) (i : Nat) (d : α) : v.getD i d = v[i]?.getD d := by
  simp [Vector.getD, Array.getD_eq_getD_getElem?]

theorem vgetD_set!_same (v : Vector α n) {i : Nat} (h : i < n) (x d : α) : (v.set! i x).getD i d = x := by
  rw [vgetD_eq, Vector.getElem?_set!_self_of_lt h, Option.getD_some]

theorem vgetD_set!_ne (v : Vector α n) {i j : Nat} (h : i ≠ j) (x d : α) : (v.set! i x).getD j d = v.getD j d := by
  rw [vgetD_eq, Vector.getElem?_set!_ne h, vgetD_eq]

theorem vgetD_ofFn (f : Fin n → α) {i : Nat} (h : i < n) (d : α) : (Vector.ofFn f).getD i d = f ⟨i, h⟩ := by
  rw [vgetD_eq, Vector.getElem?_eq_getElem h, Vector.getElem_ofFn, Option.getD_some]

end

/-! ## What retiring and writing a register change -/

/-- A step of a repeat frame moves the frame and the PC only (R253 to R255). -/
theorem frameStep_eq (f : Fibre) : ∃ r pc, f.frameStep = { f with rpt := r, pc := pc } := by
  unfold Fibre.frameStep
  dsimp only
  split
  · exact ⟨_, _, rfl⟩
  · split <;> exact ⟨_, _, rfl⟩

/-- The fibre in focus with the marks and counts that follow every instruction (R333, R343). -/
def Fibre.counted (f : Fibre) : Fibre :=
  { f with park := none, walker := false, guestCount := if f.guest then f.guestCount + 1 else f.guestCount }

theorem retireTo_fib_eq (s : State) (pc : Word) : (retireTo s pc).fib =
    if s.fib.rpt.inBody then s.fib.counted.frameStep.touch Dirty.rpt else { s.fib.counted with pc := pc } := rfl

/-- What retiring changes of the fibre in focus: the frame and its mark, the PC, and the counts that follow every instruction. -/
theorem retireTo_fib (s : State) (pc : Word) : ∃ r p d n,
    (retireTo s pc).fib = { s.fib with rpt := r, pc := p, dirty := d, guestCount := n, park := none, walker := false } := by
  rw [retireTo_fib_eq]
  split
  · obtain ⟨r, p, h⟩ := frameStep_eq s.fib.counted
    rw [h]
    exact ⟨_, _, _, _, rfl⟩
  · exact ⟨_, _, _, _, rfl⟩

theorem retireTo_pc {s : State} (h : s.fib.rpt.inBody = false) (pc : Word) : (retireTo s pc).fib.pc = pc := by
  rw [retireTo_fib_eq, h]
  rfl

@[simp] theorem retireTo_skein (s : State) (pc : Word) : (retireTo s pc).skein = s.skein := rfl
@[simp] theorem retireTo_dev (s : State) (pc : Word) : (retireTo s pc).dev = s.dev := rfl

theorem retireTo_sameModule (s : State) (pc : Word) : SameModule s (retireTo s pc) := ⟨rfl, rfl, rfl, rfl, rfl, rfl⟩

theorem retireTo_sameFibre (s : State) (pc : Word) : SameFibre s.fib (retireTo s pc).fib := by
  obtain ⟨r, p, d, n, h⟩ := retireTo_fib s pc
  rw [h]
  constructor <;> simp only [and_self]

theorem retireTo_sameFloat (s : State) (pc : Word) : SameFloat s.fib (retireTo s pc).fib := by
  obtain ⟨r, p, d, n, h⟩ := retireTo_fib s pc
  rw [h]
  exact ⟨rfl, rfl, rfl, rfl, rfl, rfl, rfl, rfl⟩

theorem retireTo_ownBank (s : State) (pc : Word) : (retireTo s pc).fib.bank = s.fib.bank := by
  obtain ⟨r, p, d, n, h⟩ := retireTo_fib s pc
  rw [h]

theorem retireTo_bank (s : State) (pc : Word) : (retireTo s pc).bank = s.bank := by
  rw [State.bank, (retireTo_sameFibre s pc).event.1, retireTo_ownBank, retireTo_skein, State.bank]

theorem setG_bank (s : State) (d : GReg) (v : Word) : (setG s d v).bank = s.bank.put d v Fill.full := by
  unfold setG setFill State.bank
  cases h : s.fib.inev <;> simp [h]

/-- What writing a general register changes of the fibre in focus: its bank and the mark of what is dirty. -/
theorem setG_fib (s : State) (d : GReg) (v : Word) : ∃ b m, (setG s d v).fib = { s.fib with bank := b, dirty := m } := by
  unfold setG setFill
  split <;> exact ⟨_, _, rfl⟩

theorem setG_sameModule (s : State) (d : GReg) (v : Word) : SameModule s (setG s d v) := by
  unfold setG setFill
  split <;> exact ⟨rfl, rfl, rfl, rfl, rfl, rfl⟩

theorem setG_core (s : State) (d : GReg) (v : Word) : (setG s d v).core = s.core := by
  unfold setG setFill
  split <;> rfl

theorem SameFibre.trans {f g h : Fibre} (a : SameFibre f g) (b : SameFibre g h) : SameFibre f h := by
  constructor <;> simp only [a.id, b.id, a.live, b.live, a.asid, b.asid, a.place, b.place, a.window, b.window, a.tokens, b.tokens,
    a.buffer, b.buffer, a.region, b.region, a.updout, b.updout, a.event, b.event, a.level, b.level, a.trap, b.trap, a.wait, b.wait,
    a.travel, b.travel, and_self]

theorem SameFloat.trans {f g h : Fibre} (a : SameFloat f g) (b : SameFloat g h) : SameFloat f h := by
  simp only [SameFloat] at *
  simp only [b, a, and_self]

theorem SameModule.trans {s t u : State} (a : SameModule s t) (b : SameModule t u) : SameModule s u := by
  simp only [SameModule] at *
  simp only [b, a, and_self]

theorem setG_sameFibre (s : State) (d : GReg) (v : Word) : SameFibre s.fib (setG s d v).fib := by
  obtain ⟨b, m, h⟩ := setG_fib s d v
  rw [h]
  constructor <;> simp only [and_self]

theorem setG_sameFloat (s : State) (d : GReg) (v : Word) : SameFloat s.fib (setG s d v).fib := by
  obtain ⟨b, m, h⟩ := setG_fib s d v
  rw [h]
  exact ⟨rfl, rfl, rfl, rfl, rfl, rfl, rfl, rfl⟩

/-! ## A register of a bank that was written -/

section
variable {s t : State} {d : GReg} {v : Word}

theorem g_put_same (h : t.bank = s.bank.put d v Fill.full) : t.g d = v := by
  rw [State.g, h]
  exact vgetD_set!_same _ d.isLt _ _

theorem fullG_put_same (h : t.bank = s.bank.put d v Fill.full) : FullG t d := by
  have hacq : (s.bank.put d v Fill.full).acq.getD d.toNat false = false := vgetD_set!_same _ d.isLt _ _
  rw [FullG, IsFull, FirstRead, h, hacq]
  exact ⟨vgetD_set!_same _ d.isLt _ _, Bool.false_ne_true⟩

theorem g_put_ne (h : t.bank = s.bank.put d v Fill.full) {r : GReg} (hr : r ≠ d) : t.g r = s.g r := by
  rw [State.g, h]
  exact vgetD_set!_ne _ (fun he => hr (BitVec.eq_of_toNat_eq he.symm)) _ _

theorem fullG_put_ne (h : t.bank = s.bank.put d v Fill.full) {r : GReg} (hr : r ≠ d) : FullG t r ↔ FullG s r := by
  have hn : d.toNat ≠ r.toNat := fun he => hr (BitVec.eq_of_toNat_eq he.symm)
  rw [FullG, IsFull, FirstRead, h, Bank.put_fill, Bank.put_acq, vgetD_set!_ne _ hn, vgetD_set!_ne _ hn, FullG]

end

/-! ## Reads that stop -/

section
variable {s : State} {a : GReg}

theorem fill_cases (f : Fill) : f = Fill.full ∨ f = Fill.empty ∨ f = Fill.pending ∨ f = Fill.token := by
  revert f
  decide

/-- A register that is neither full nor a fault token parks its reader (R126). -/
theorem readG_waits (hf : ¬IsFull s a) (ht : s.bank.fill.getD a.toNat 0 ≠ Fill.token) : readG s a = hold s .wait := by
  refine readG_hold ?_
  rcases fill_cases (s.bank.fill.getD a.toNat 0) with h | h | h | h
  · exact absurd h hf
  · exact .inl h
  · exact .inr h
  · exact absurd h ht

/-- A fault token raises the fault that it names (R126). -/
theorem readG_token (ht : s.bank.fill.getD a.toNat 0 = Fill.token) (hp : ¬(bits (s.g a) 0 16 = 6 ∧ bits (s.g a) 16 8 = 1)) :
    readG s a = trap s (bits (s.g a) 0 16) (bits (s.g a) 16 8) (s.regCode a) := by
  simp only [readG, ht]
  exact if_neg hp

/-- A read of the first source that holds an instruction parks its fibre. -/
theorem first_source_hold {t : State} {p : Park} (hroom : Room s 1) (h : readG s a = hold t p) (d b : GReg) :
    exec (.add d a b) s = .next (parkAs t p) ∧ exec (.mov d a) s = .next (parkAs t p) ∧ exec (.jr a) s = .next (parkAs t p) := by
  refine ⟨run_hold hroom ?_, run_hold hroom ?_, ?_⟩
  · rw [binaryG, h]; rfl
  · rw [unaryG, h]; rfl
  · change conclude (readG s a >>= fun t => jump s t s) = _
    rw [h]; rfl

end

theorem parkAs_fib (s : State) (p : Park) : ∃ q n m, (parkAs s p).fib = { s.fib with park := q, parkedAt := n, parkedTick := m } := by
  simp only [parkAs, State.setFib_fib]
  split
  · exact ⟨_, _, _, rfl⟩
  · exact ⟨_, _, _, rfl⟩

theorem parkAs_bank (s : State) (p : Park) : (parkAs s p).bank = s.bank := by
  obtain ⟨q, n, m, h⟩ := parkAs_fib s p
  rw [State.bank, h]
  rfl

theorem parkAs_pc (s : State) (p : Park) : (parkAs s p).fib.pc = s.fib.pc := by
  obtain ⟨q, n, m, h⟩ := parkAs_fib s p
  rw [h]

theorem unmark_bank (s : State) (a : GReg) : (unmark s a).bank = s.bank.mark a false := by
  unfold unmark State.bank
  cases h : s.fib.inev <;> simp [h]

theorem unmark_pc (s : State) (a : GReg) : (unmark s a).fib.pc = s.fib.pc := by
  unfold unmark
  split <;> rfl

theorem setCore_bank (s : State) (f : Core → Core) : (s.setCore f).bank = s.bank := rfl

/-- Once the acquire of its first read is done, a full register is read at once (R380). -/
theorem fullG_unmarked {s t : State} {a : GReg} (hf : IsFull s a) (h : t.bank = s.bank.mark a false) : FullG t a := by
  have hacq : (s.bank.mark a false).acq.getD a.toNat false = false := vgetD_set!_same _ a.isLt _ _
  rw [FullG, IsFull, FirstRead, h, hacq]
  exact ⟨hf, Bool.false_ne_true⟩

/-- Settles O57: a source that stops its reader stops the instruction; a write changes its register and a retirement the frame and PC. -/
theorem registerFrame : Obligations.RegisterFrame := by
  refine ⟨fun s d a b hroom => ⟨fun hf ht => ?_, fun hf hr => ?_, fun ha hb hd => ?_, fun ht hp => ?_⟩, fun s d v n => ?_⟩
  · exact first_source_hold hroom (readG_waits hf ht) d b
  · intro t
    have hbank : t.bank = s.bank.mark a false := (parkAs_bank ..).trans (unmark_bank s a)
    obtain ⟨hadd, hmov, hjr⟩ := first_source_hold hroom (readG_first hf hr) d b
    exact ⟨hadd, hmov, hjr, fullG_unmarked hf hbank, rfl, by rw [State.g, hbank]; rfl, (parkAs_pc ..).trans (unmark_pc s a)⟩
  · refine run_hold hroom (t := s) (p := .retry) ?_
    rw [binaryG, readG_full ha, readG_full hb, ok_bind, ok_bind, writeG, destG_hold hd]
    rfl
  · refine run_trap hroom ?_
    rw [unaryG, readG_token ht hp]
    rfl
  · intro t
    have hbank : t.bank = s.bank.put d v Fill.full := (retireTo_bank ..).trans (setG_bank s d v)
    have hmod : SameModule s t := (setG_sameModule s d v).trans (retireTo_sameModule ..)
    have hcore : (setG s d v).core = s.core := setG_core s d v
    have hfib := setG_sameFibre s d v
    obtain ⟨b, m, hset⟩ := setG_fib s d v
    refine ⟨hfib.trans (retireTo_sameFibre ..), (setG_sameFloat s d v).trans (retireTo_sameFloat ..), hmod, g_put_same hbank,
      fullG_put_same hbank, fun r hr => ⟨g_put_ne hbank hr, fullG_put_ne hbank hr⟩, fun hbody => ?_, ?_, ?_, ?_, ?_, fun pa => ?_⟩
    · have hpc : t.fib.pc = (setG s d v).fib.pc + BitVec.ofNat 64 (4 * n) := retireTo_pc (by rw [hset]; exact hbody) _
      rw [hpc, hset]
    · exact (congrArg Core.wtb hcore :)
    · exact (congrArg Core.l1 hcore :)
    · exact (congrArg Core.spools hcore :)
    · exact (congrArg Core.bars hcore :)
    · obtain ⟨_, _, _, _, _, hdev⟩ := hmod
      rw [hdev]

end Sys2Proof.Machine

/-! # The float window (O17)

A result lifts FLIVE above its index and fills what lay between with +0, which is how a register at or above FLIVE read before. So of
the other registers of the window every read gives what it gave. -/

namespace Sys2Proof.Machine

/-! ## Plus zero held at P -/

theorem vfBytes_range {p : Nat} (h2 : 2 ≤ p) (h113 : p ≤ 113) : 3 ≤ vfBytes p ∧ vfBytes p ≤ 16 := by
  unfold vfBytes
  omega

theorem vfEncode_zero (p : Nat) : vfEncode p FV.zero = vfBytes p - 1 := by
  simp [vfEncode, FV.zero]

theorem vfDecode_zero {p : Nat} (h2 : 2 ≤ p) (h113 : p ≤ 113) : ∃ e, vfDecode (vfEncode p FV.zero) = .fin false 0 e := by
  obtain ⟨hlo, hhi⟩ := vfBytes_range h2 h113
  have hsmall : vfBytes p - 1 < 2 ^ 4 := by omega
  have hex : (vfBytes p - 1) / 32 % 2048 = 0 := by omega
  have hfrac : (vfBytes p - 1) / 65536 = 0 := by omega
  refine ⟨-1022 - ((8 * (vfLen (vfBytes p - 1) + 1) - 16 : Nat) : Int), ?_⟩
  rw [vfEncode_zero]
  simp [vfDecode, hex, hfrac, Nat.testBit_lt_two_pow hsmall]

theorem zero_toNat {p : Nat} (h113 : p ≤ 113) : (BitVec.ofNat 128 (vfEncode p FV.zero)).toNat = vfEncode p FV.zero := by
  have hhi : vfBytes p ≤ 16 := by unfold vfBytes; omega
  rw [vfEncode_zero, BitVec.toNat_ofNat, Nat.mod_eq_of_lt]
  omega

/-! ## Writing the window -/

theorem fillWindow_inside (f : Vector (BitVec 128) 64) (z : BitVec 128) (lo : Nat) : ∀ {k i : Nat}, lo ≤ i → i < lo + k → i < 64 →
    (fillWindow f z lo k).getD i 0 = z
  | 0, i, h, hi, _ => absurd hi (by omega)
  | k + 1, i, h, hi, h64 => by
    rw [fillWindow]
    by_cases he : lo + k = i
    · rw [he, vgetD_set!_same _ h64]
    · rw [vgetD_set!_ne _ he, fillWindow_inside f z lo h (by omega) h64]

theorem fillWindow_outside (f : Vector (BitVec 128) 64) (z : BitVec 128) (lo : Nat) : ∀ {k i : Nat}, i < lo ∨ lo + k ≤ i →
    (fillWindow f z lo k).getD i 0 = f.getD i 0
  | 0, _, _ => rfl
  | k + 1, i, h => by
    rw [fillWindow, vgetD_set!_ne _ (by omega), fillWindow_outside f z lo (by omega)]

/-- Marking window chunks changes the dirty marks only (R147). -/
theorem touchWindow_eq (f : Fibre) (lo n : Nat) : ∃ d, f.touchWindow lo n = { f with dirty := d } := by
  unfold Fibre.touchWindow
  generalize List.range 8 = l
  induction l generalizing f with
  | nil => exact ⟨f.dirty, rfl⟩
  | cons i l ih =>
    rw [List.foldl_cons]
    split
    · obtain ⟨d, h⟩ := ih (f.touch (Dirty.f i))
      exact ⟨d, h⟩
    · exact ih f

/-- What writing an encoding to a float register changes of the fibre in focus (R259, R438). -/
theorem setV0_fib (s : State) (i v : Nat) : ∃ d, (setV0 s i v).fib = { s.fib with
    f := (fillWindow s.fib.f (BitVec.ofNat 128 (vfEncode s.p FV.zero)) (min i s.fib.flive) (i - min i s.fib.flive)).set! i
      (BitVec.ofNat 128 v)
    flive := max s.fib.flive (i + 1)
    fbad := Vector.ofFn fun c : Fin 8 => s.fib.fbad.getD c 0 &&&
      ~~~chunkBytes c (min i s.fib.flive * s.n) ((i + 1 - min i s.fib.flive) * s.n)
    dirty := d } := by
  rw [setV0, State.setFib_fib]
  obtain ⟨d, h⟩ := touchWindow_eq _ _ _
  exact ⟨d, h⟩

section
variable (s : State) (a v : Nat)

theorem setV0_flive : (setV0 s a v).fib.flive = max s.fib.flive (a + 1) := by
  obtain ⟨d, h⟩ := setV0_fib s a v
  rw [h]

theorem setV0_prec : (setV0 s a v).fib.prec = s.fib.prec := by
  obtain ⟨d, h⟩ := setV0_fib s a v
  rw [h]

theorem setV0_ownBank : (setV0 s a v).fib.bank = s.fib.bank := by
  obtain ⟨d, h⟩ := setV0_fib s a v
  rw [h]

theorem setV0_p : (setV0 s a v).p = s.p := by
  rw [State.p, setV0_prec, State.p]

variable {s a}

theorem setV0_written (h : a < 64) : (setV0 s a v).fib.f.getD a 0 = BitVec.ofNat 128 v := by
  obtain ⟨d, he⟩ := setV0_fib s a v
  rw [he]
  exact vgetD_set!_same _ h _ _

/-- A register that was live, or above the one written, keeps its encoding. -/
theorem setV0_kept {i : Nat} (hi : i ≠ a) (hl : i < s.fib.flive ∨ a < i) : (setV0 s a v).fib.f.getD i 0 = s.fib.f.getD i 0 := by
  obtain ⟨d, he⟩ := setV0_fib s a v
  rw [he]
  refine (vgetD_set!_ne _ (Ne.symm hi) _ _).trans (fillWindow_outside _ _ _ ?_)
  omega

/-- A register below the one written that was never written becomes live as +0 (R259). -/
theorem setV0_zeroed {i : Nat} (h : a < 64) (hl : s.fib.flive ≤ i) (hi : i < a) :
    (setV0 s a v).fib.f.getD i 0 = BitVec.ofNat 128 (vfEncode s.p FV.zero) := by
  obtain ⟨d, he⟩ := setV0_fib s a v
  rw [he]
  refine (vgetD_set!_ne _ (by omega) _ _).trans (fillWindow_inside _ _ _ ?_ ?_ ?_) <;> omega

theorem setV0_clean (h : ∀ c, s.fib.fbad.getD c 0 = 0) (c : Nat) : (setV0 s a v).fib.fbad.getD c 0 = 0 := by
  obtain ⟨d, he⟩ := setV0_fib s a v
  rw [he]
  by_cases hc : c < 8
  · rw [vgetD_ofFn _ hc, h c]
    exact BitVec.zero_and
  · rw [vgetD_eq, Vector.getElem?_eq_none (by omega), Option.getD_none]

end

/-! ## Reading the window -/

theorem fPoison_clean {f : Fibre} (h : ∀ c, f.fbad.getD c 0 = 0) (n i : Nat) : f.fPoison n i = false :=
  List.any_eq_false.mpr fun c _ => by simp only [h c, bne_self_eq_false, Bool.false_and, Bool.false_eq_true, not_false_eq_true]

section
variable {s : State} {i : Nat}

/-- A register at or above FLIVE reads as +0 (R259). -/
theorem readV0_dead (h : s.fib.flive ≤ i) : readV0 s i = .ok (vfEncode s.p FV.zero) := if_pos h

theorem readV0_live (hc : ∀ c, s.fib.fbad.getD c 0 = 0) (h : i < s.fib.flive) : readV0 s i = .ok (s.fib.f.getD i 0).toNat := by
  rw [readV0, if_neg (by omega), fPoison_clean hc]
  rfl

end

/-- Every other float register reads after a write as it did before. -/
theorem readV0_setV0_ne {s : State} {a i : Nat} (v : Nat) (hc : ∀ c, s.fib.fbad.getD c 0 = 0) (hp : s.p ≤ 113) (ha : a < 64) (hi : i ≠ a) :
    readV0 (setV0 s a v) i = readV0 s i := by
  have hclean := setV0_clean v (a := a) hc
  have hlive := setV0_flive s a v
  by_cases hs : i < s.fib.flive
  · rw [readV0_live hc hs, readV0_live (i := i) hclean (by omega), setV0_kept v hi (.inl hs)]
  · rw [readV0_dead (s := s) (i := i) (by omega)]
    by_cases hia : i < a
    · rw [readV0_live (i := i) hclean (by omega), setV0_zeroed v ha (by omega) hia, zero_toNat hp]
    · rw [readV0_dead (i := i) (by omega), setV0_p]

/-! ## A result in a float register -/

theorem setV0_sameFibre (s : State) (a v : Nat) : SameFibre s.fib (setV0 s a v).fib := by
  obtain ⟨d, h⟩ := setV0_fib s a v
  rw [h]
  constructor <;> simp only [and_self]

theorem setV0_vectors (s : State) (a v : Nat) : (setV0 s a v).fib.v = s.fib.v ∧ (setV0 s a v).fib.m = s.fib.m := by
  obtain ⟨d, h⟩ := setV0_fib s a v
  rw [h]
  exact ⟨rfl, rfl⟩

/-- Everything but PREC stands after a result with its flags as after its encoding alone. -/
theorem setF_fib (s : State) (i : Nat) (r : FV × FFlags) :
    (setF s i r).fib = { (setV0 s i (vfEncode s.p r.1)).fib with prec := orFlags (setV0 s i (vfEncode s.p r.1)).fib.prec r.2 } := rfl

theorem setF_sameModule (s : State) (i : Nat) (r : FV × FFlags) : SameModule s (setF s i r) := ⟨rfl, rfl, rfl, rfl, rfl, rfl⟩

theorem setF_sameFibre (s : State) (i : Nat) (r : FV × FFlags) : SameFibre s.fib (setF s i r).fib := by
  refine (setV0_sameFibre s i (vfEncode s.p r.1)).trans ?_
  rw [setF_fib]
  constructor <;> simp only [and_self]

theorem needF_beyond {s : State} {i : Nat} (h : s.k ≤ i) : needF s i = trap s 0x07 0 (BitVec.ofNat 64 i) := by
  rw [needF, decide_eq_false (by omega), ensure_false]

/-- The first index at or above k stops an instruction (R129). -/
theorem fadd_beyond {s : State} {d a b : FReg} {i : Nat} (hroom : Room s 1)
    (h : needFs s [d.toNat, a.toNat, b.toNat] = trap s 0x07 0 (BitVec.ofNat 64 i)) :
    exec (.fadd d a b) s = .next (raise s 0x07 0 (BitVec.ofNat 64 i) false) := by
  refine run_trap hroom ?_
  rw [floatOp2, h]
  rfl

/-- Settles O17: a read sees what the latest write of the window left there, and a result changes nothing else of the module. -/
theorem floatWindow : Obligations.FloatWindow := by
  refine ⟨fun s d a b v hroom => ⟨fun hd => ?_, fun hd ha => ?_, fun ha h2 h113 => ?_, fun hv => ⟨?_, fun hc => ⟨?_, ?_⟩, ?_, ?_⟩⟩,
    fun s d r n => ?_⟩
  · exact fadd_beyond hroom (by rw [needFs, needF_beyond hd]; rfl)
  · exact fadd_beyond hroom (by rw [needFs, needF_ok hd, ok_bind, needFs, needF_beyond ha]; rfl)
  · obtain ⟨e, he⟩ := vfDecode_zero h2 h113
    exact ⟨e, by rw [readF, readV0_dead ha, ok_bind, he]⟩
  · rw [setV0_flive]
    omega
  · have hlive := setV0_flive s a.toNat v
    rw [readV0_live (setV0_clean v hc) (by omega), setV0_written v a.isLt, BitVec.toNat_ofNat, Nat.mod_eq_of_lt hv]
  · intro _ h113 i _ hi x hx
    rw [readV0_setV0_ne v hc h113 a.isLt hi, hx]
  · exact setV0_prec s a.toNat v
  · exact setV0_ownBank s a.toNat v
  · intro t
    obtain ⟨hprec, hlive, hf, -, hv, -, hm, -⟩ := retireTo_sameFloat (setF s d.toNat r) ((setF s d.toNat r).fib.pc + BitVec.ofNat 64 (4 * n))
    obtain ⟨hv0, hm0⟩ := setV0_vectors s d.toNat (vfEncode s.p r.1)
    refine ⟨(setF_sameFibre ..).trans (retireTo_sameFibre ..), (setF_sameModule ..).trans (retireTo_sameModule ..),
      (retireTo_ownBank ..).trans (setV0_ownBank ..), rfl, hv.trans hv0, hm.trans hm0, ?_, hlive.trans (setV0_flive ..), ?_, ?_,
      fun _ => rfl⟩
    · refine hprec.trans ?_
      rw [setF_fib, setV0_prec]
      rfl
    · intro i _ hi hl
      refine (congrArg (Vector.getD · i 0) hf).trans (setV0_kept _ hi hl)
    · intro i hl hi
      exact (congrArg (Vector.getD · i 0) hf).trans (setV0_zeroed _ d.isLt hl hi)

end Sys2Proof.Machine

/-! # The precision and the window (O19)

A write of PREC has four ends: a bad value, a live register that would not fit, a marked register that would be re-encoded, and the
write itself, which changes more than PREC only where P changes. A write of FWIN has three. -/

namespace Sys2Proof.Machine

/-! ## Writing PREC -/

section
variable {s : State} {v : Word}

theorem precFits_ok (hv : precOk v = true) (hf : s.fib.flive ≤ winRegs s.fib.winSize (precP v)) : precFits s v = .ok () := by
  rw [precFits, ensure_ok hv, ok_bind]
  exact ensure_ok (decide_eq_true hf) _

theorem writePrec_refused (hv : precOk v = false) : writePrec s v = illegal s 4 := by
  rw [writePrec, precFits, hv, ensure_false]
  rfl

theorem writePrec_exhausted (hv : precOk v = true) (hf : winRegs s.fib.winSize (precP v) < s.fib.flive) :
    writePrec s v = trap s 0x07 0 v := by
  rw [writePrec, precFits, ensure_ok hv, ok_bind, decide_eq_false (by omega), ensure_false]
  rfl

theorem writePrec_poisoned {i : Nat} (h : precFits s v = .ok ()) (hi : s.fib.firstFPoison v = some i) :
    writePrec s v = .error ⟨s, .poison 1 (BitVec.ofNat 64 i) false⟩ := by
  rw [writePrec, h, ok_bind, hi]

theorem writePrec_clean (h : precFits s v = .ok ()) (hn : s.fib.firstFPoison v = none) : writePrec s v = .ok (putPrec s v) := by
  rw [writePrec, h, ok_bind, hn]

theorem firstFPoison_same (hp : precP v = precP s.fib.prec) : s.fib.firstFPoison v = none := if_pos hp

/-- Only a change of P reads the live registers (R130, R438). -/
theorem firstFPoison_some {i : Nat} (hi : s.fib.firstFPoison v = some i) : precP v ≠ precP s.fib.prec ∧ i < s.fib.flive := by
  unfold Fibre.firstFPoison at hi
  split at hi
  next => cases hi
  next hp => exact ⟨hp, List.mem_range.mp (List.mem_of_find?_eq_some hi)⟩

theorem putPrec_same (hp : precP v = precP s.fib.prec) : putPrec s v = s.setFib fun f => { f with prec := v } := if_pos hp

/-- What a change of P makes of the fibre in focus (R130, R137, R438). -/
theorem putPrec_changed (hp : precP v ≠ precP s.fib.prec) : ∃ b d, (putPrec s v).fib = { s.fib with
    prec := orFlags v (reencode s.fib.f (precP v) (precRm v) s.fib.flive).2
    f := (reencode s.fib.f (precP v) (precRm v) s.fib.flive).1
    rgn := { s.fib.rgn with act := s.fib.rgn.act && s.fib.flive == 0 }
    fbad := b
    dirty := d } := by
  rw [putPrec, if_neg hp]
  obtain ⟨d, h⟩ := touchWindow_eq _ _ _
  exact ⟨_, d, h⟩

theorem putPrec_dev (s : State) (v : Word) : (putPrec s v).dev = s.dev := by
  unfold putPrec
  dsimp only
  split <;> rfl

end

/-! ## Writing FWIN -/

theorem frameStep_pc {f g : Fibre} (h : g.rpt = f.rpt) : g.frameStep.pc = f.frameStep.pc := by
  unfold Fibre.frameStep
  rw [h]
  dsimp only
  split
  · rfl
  · split <;> rfl

/-- Where an instruction goes on depends on the frame alone (R254). -/
theorem retireTo_pc_congr {s t : State} (h : t.fib.rpt = s.fib.rpt) (pc : Word) : (retireTo t pc).fib.pc = (retireTo s pc).fib.pc := by
  rw [retireTo_fib_eq, retireTo_fib_eq, h]
  split
  · exact frameStep_pc (f := s.fib.counted) (g := t.fib.counted) h
  · rfl

section
variable {s : State} {z : Nat}

/-- What writing FWIN.SIZE changes of the fibre in focus: every accepted write discards the window (R128). -/
theorem writeFwin_ok {l : Launch} (hl : s.myLaunch = some l) (hz : z ≤ 4) (hw : winBytes z ≤ winBytes l.win) :
    ∃ t d, writeFwin s z = .ok t ∧ t.fib = { s.fib with
      winSize := z, flive := 0, f := Vector.replicate 64 0, fbad := Vector.replicate 8 0, dirty := d } := by
  rw [writeFwin, ensure_ok (decide_eq_true hz), hl, ok_bind]
  dsimp only
  rw [ensure_ok (decide_eq_true hw), ok_bind]
  obtain ⟨d, h⟩ := touchWindow_eq _ _ _
  exact ⟨_, d, rfl, h⟩

theorem writeFwin_refused (hz : 4 < z) : writeFwin s z = illegal s 4 := by
  rw [writeFwin, decide_eq_false (by omega), ensure_false]
  rfl

theorem writeFwin_exhausted {l : Launch} (hl : s.myLaunch = some l) (hz : z ≤ 4) (hw : winBytes l.win < winBytes z) :
    writeFwin s z = trap s 0x07 0 (BitVec.ofNat 64 z) := by
  rw [writeFwin, ensure_ok (decide_eq_true hz), hl, ok_bind]
  dsimp only
  rw [decide_eq_false (by omega), ensure_false]
  rfl

end

/-! ## The instructions of PREC and FWIN -/

section
variable {s t : State} (hroom : Room s 1) (hs : settled s = .ok ())
include hroom hs

/-- An instruction that waits for copies with a stage runs once they have completed (R205, R270). -/
theorem run_settled {body : Ex State} (hb : body = .ok t) : (run s 1 do settled s; body) = .next (retire t 1) :=
  run_ok hroom (by rw [hs, ok_bind, hb])

theorem precSet_settled {a : GReg} (ha : FullG s a) (ht : writePrec s (s.g a) = .ok t) : exec (.precSet a) s = .next (retire t 1) :=
  run_settled hroom hs (by rw [readG_full ha, ok_bind, ht])

theorem precSwap_settled {a d : GReg} (ha : FullG s a) (hd : FreeG s d) (ht : writePrec s (s.g a) = .ok t) :
    exec (.precSwap d a) s = .next (retire (setG t d s.fib.prec) 1) :=
  run_settled hroom hs (by rw [readG_full ha, ok_bind, destG_free hd, ok_bind, ht, ok_bind])

theorem fwinSet_settled {z : BitVec 3} {l : Launch} (hl : s.myLaunch = some l) (hz : z.toNat ≤ 4)
    (hw : winBytes z.toNat ≤ winBytes l.win) : ∃ u, exec (.fwinSet z) s = .next u ∧ u.fib.winSize = z.toNat ∧ u.fib.flive = 0 ∧
      u.fib.pc = (retire s 1).fib.pc ∧ u.fib.prec = s.fib.prec ∧ u.fib.bank = s.fib.bank := by
  obtain ⟨t, d, ht, hf⟩ := writeFwin_ok hl hz hw
  have hrpt : t.fib.rpt = s.fib.rpt := by rw [hf]
  have hpc : t.fib.pc = s.fib.pc := by rw [hf]
  obtain ⟨hprec, hlive, -⟩ := retireTo_sameFloat t (t.fib.pc + BitVec.ofNat 64 (4 * 1))
  have hwin := (retireTo_sameFibre t (t.fib.pc + BitVec.ofNat 64 (4 * 1))).window.1
  refine ⟨retire t 1, run_settled hroom hs ht, hwin.trans (by rw [hf]), hlive.trans (by rw [hf]), ?_, hprec.trans (by rw [hf]),
    (retireTo_ownBank ..).trans (by rw [hf])⟩
  rw [retire, retireTo_pc_congr hrpt, hpc, retire]

/-- An instruction that waits for copies and then meets a fault raises it. -/
theorem run_settled_trap {body : Ex State} {code sub : Nat} {val : Word} (hb : body = trap s code sub val) :
    (run s 1 do settled s; body) = .next (raise s code sub val false) :=
  run_trap hroom (by rw [hs, ok_bind, hb]; rfl)

end

/-- Settles O19: a write of PREC by its four ends, and each instruction by the write or the read that it makes once copies are done. -/
theorem precision : Obligations.Precision := by
  refine ⟨fun s v => ⟨writePrec_refused, writePrec_exhausted, fun hv hf => ⟨fun hp => ?_, fun i hi => ?_, fun hp hn => ?_⟩⟩,
    fun s t d a n m z fl hroom hs => ⟨fun ha ht => ⟨precSet_settled hroom hs ha ht, fun hd => precSwap_settled hroom hs ha hd ht⟩,
      run_settled hroom hs, run_settled hroom hs, run_settled hroom hs,
      fun hd => ⟨run_settled hroom hs (writeG_free hd _), run_settled hroom hs (writeG_free hd _), run_settled hroom hs (writeG_free hd _)⟩,
      fun l => fwinSet_settled hroom hs, fun hz => run_settled_trap hroom hs (writeFwin_refused hz),
      fun l hl hz hw => run_settled_trap hroom hs (writeFwin_exhausted hl hz hw)⟩⟩
  · rw [writePrec_clean (precFits_ok hv hf) (firstFPoison_same hp), putPrec_same hp]
  · obtain ⟨hp, hlt⟩ := firstFPoison_some hi
    exact ⟨hp, hlt, writePrec_poisoned (precFits_ok hv hf) hi⟩
  · obtain ⟨b, d, h⟩ := putPrec_changed hp
    refine ⟨putPrec s v, writePrec_clean (precFits_ok hv hf) hn, ?_⟩
    rw [h, putPrec_dev]
    refine ⟨⟨rfl, rfl⟩, rfl, fun hl => ?_, fun hl => ?_, rfl, rfl, rfl⟩
    · have hne : (s.fib.flive == 0) = false := beq_false_of_ne (by omega)
      rw [hne, Bool.and_false]
    · rw [hl, beq_self_eq_true, Bool.and_true]

end Sys2Proof.Machine

/-! # Decode tables (O26)

A table load first names its slot and its 1024 bytes, and its end follows from the checks of their content. Every other use of a slot
depends on its name and its valid bit alone. -/

namespace Sys2Proof.Machine

/-! ## Loading a table -/

/-- The outcome of a table load whose checks let it through (R66, R229, R230). -/
abbrev tableLoaded (t : State) (p : Nat) (ad : Bool) (image : List Byte) (ps : List Piece) : Host.Outcome State Fault Refusal :=
  .next (if t.parksFor ps then parkAs (retire t 1) (.table p ad image)
    else retire (t.setCore fun c => { c with slots := c.slots.set! p (slotOf image ad) }) 1)

section
variable {s t : State} {a d : GReg} {sl : BitVec 2} {p : Nat} (hroom : Room s 1)
include hroom

/-- A table load ends as its checks do. -/
theorem tableRun_ok {ad : Bool} {image : List Byte} {ps : List Piece} (h : loadTable s a sl ad = .ok (t, p, image, t.parksFor ps)) :
    tableRun s a sl ad = tableLoaded t p ad image ps := by
  rw [tableRun, ending_room hroom, h]
  rfl

theorem tableRun_trap {ad : Bool} {code sub : Nat} {v : Word} (h : loadTable s a sl ad = trap t code sub v) :
    tableRun s a sl ad = .next (raise t code sub v false) := by
  rw [tableRun, ending_room hroom, h]
  rfl

end

section
variable {s t : State} {a d : GReg} {sl : BitVec 2} {p : Nat} {ad : Bool} {image : List Byte} {ps : List Piece}
  (hg : s.fib.guest = false)
include hg

/-- A slot that the skein was not allocated stops a load before it reads a register (R140, R172). -/
theorem loadTable_unallocated (h : slotNo s sl.toNat = illegal s 3) : loadTable s a sl ad = illegal s 3 := by
  rw [loadTable, notGuest_ok hg, ok_bind, h]
  rfl

variable (hp : slotNo s sl.toNat = .ok p) (ha : FullG s a)
include hp ha

theorem loadTable_misaligned (h : (s.g a).toNat % 64 ≠ 0) : loadTable s a sl ad = trap s 0x0C 5 (s.g a) := by
  rw [loadTable, notGuest_ok hg, ok_bind, hp, ok_bind, readG_full ha, ok_bind, beq_false_of_ne h, ensure_false]
  rfl

variable (hal : (s.g a).toNat % 64 = 0) (hl : s.loadAt (s.g a) 1024 false true = .ok (t, image, ps))
include hal hl

theorem loadTable_bad {sub : Nat} (hc : contentSub image = some sub) : loadTable s a sl ad = trap t 0x0C sub (s.g a) := by
  rw [loadTable, notGuest_ok hg, ok_bind, hp, ok_bind, readG_full ha, ok_bind, hal, beq_self_eq_true, ensure_true, ok_bind, hl, ok_bind]
  dsimp only
  rw [hc]
  rfl

variable (hc : contentSub image = none)
include hc

/-- An image that passes the content checks is left with that of the array (R229). -/
theorem loadTable_checked : loadTable s a sl ad =
    (ensure (!ad || arrayAdmissible image) (tableFault t 4 (s.g a)) >>= fun _ => .ok (t, p, image, t.parksFor ps)) := by
  rw [loadTable, notGuest_ok hg, ok_bind, hp, ok_bind, readG_full ha, ok_bind, hal, beq_self_eq_true, ensure_true, ok_bind, hl, ok_bind]
  dsimp only
  rw [hc]

theorem loadTable_good (h : (!ad || arrayAdmissible image) = true) : loadTable s a sl ad = .ok (t, p, image, t.parksFor ps) := by
  rw [loadTable_checked hg hp ha hal hl hc, ensure_ok h, ok_bind]

theorem loadTable_inadmissible (h : arrayAdmissible image = false) : loadTable s a sl true = trap t 0x0C 4 (s.g a) := by
  rw [loadTable_checked hg hp ha hal hl hc, h]
  rfl

end

/-! ## Using a slot -/

section
variable {s : State} {a d : GReg} {sl : BitVec 2} {p : Nat}

theorem slotNo_unallocated {z : Nat} (h : bits s.skein.skmap 23 3 ≤ z) : slotNo s z = illegal s 3 := if_neg (by omega)

theorem useSlot_valid (hp : slotNo s sl.toNat = .ok p) (hv : (s.core.slots.getD p TableSlot.zero).valid = true) :
    useSlot s sl.toNat = .ok (s.core.slots.getD p TableSlot.zero) := by
  rw [useSlot, hp, ok_bind]
  dsimp only
  rw [ensure_ok hv, ok_bind]

theorem useSlot_invalid (hp : slotNo s sl.toNat = .ok p) (hv : (s.core.slots.getD p TableSlot.zero).valid = false) :
    useSlot s sl.toNat = trap s 0x0C 7 (BitVec.ofNat 64 sl.toNat) := by
  rw [useSlot, hp, ok_bind]
  dsimp only
  rw [hv]
  rfl

variable (hroom : Room s 1) (hg : s.fib.guest = false)
include hroom hg

/-- An instruction of a table slot whose name no guest may use and that was not allocated (R140, R172). -/
theorem run_unallocated {body : Nat → Ex State} (h : slotNo s sl.toNat = illegal s 3) :
    (run s 1 do
      notGuest s
      let p ← slotNo s sl.toNat
      body p) = .next (raise s 0x01 3 (BitVec.ofNat 64 s.core.fetched) false) :=
  run_trap hroom (by rw [notGuest_ok hg, ok_bind, h]; rfl)

variable (hp : slotNo s sl.toNat = .ok p)
include hp

theorem tblInv_allocated : exec (.tblInv sl) s =
    .next (retire (s.setCore fun c => { c with slots := c.slots.set! p TableSlot.zero }) 1) :=
  run_ok hroom (by rw [notGuest_ok hg, ok_bind, hp, ok_bind])

variable (ha : FullG s a)
include ha

theorem tblRd_valid (hd : FreeG s d) (hv : (s.core.slots.getD p TableSlot.zero).valid = true) : exec (.tblRd d a sl) s = wrote s d
    (BitVec.ofNat 64 (field (s.core.slots.getD p TableSlot.zero).image (4 * ((s.g a).toNat % 256)) 4)) 1 :=
  run_ok hroom (by
    rw [notGuest_ok hg, ok_bind, hp, ok_bind, readG_full ha, ok_bind, useSlot_valid hp hv, ok_bind]
    exact writeG_free hd _)

theorem tblRd_invalid (hv : (s.core.slots.getD p TableSlot.zero).valid = false) :
    exec (.tblRd d a sl) s = .next (raise s 0x0C 7 (BitVec.ofNat 64 sl.toNat) false) :=
  run_trap hroom (by
    rw [notGuest_ok hg, ok_bind, hp, ok_bind, readG_full ha, ok_bind, useSlot_invalid hp hv]
    rfl)

end

/-- Settles O26: a table load by what its checks say, and every other use of a slot by its name and its valid bit. -/
theorem decodeTables : Obligations.DecodeTables := by
  refine ⟨fun s t d a sl p image ps hroom hg hp => ⟨fun ha hal hl => ⟨fun hc => ⟨?_, fun had => ?_, fun had => ?_⟩, fun sub hc => ⟨?_, ?_⟩⟩,
    fun ha hal => ⟨?_, ?_⟩, tblInv_allocated hroom hg hp, fun ha hd => ⟨tblRd_valid hroom hg hp ha hd, tblRd_invalid hroom hg hp ha⟩⟩,
    fun s d a sl hroom hg hsl => ?_, fun s p ad image hlive hat hp4 hpark => ?_⟩
  · exact tableRun_ok hroom (loadTable_good hg hp ha hal hl hc rfl)
  · exact tableRun_ok hroom (loadTable_good hg hp ha hal hl hc had)
  · exact tableRun_trap hroom (loadTable_inadmissible hg hp ha hal hl hc had)
  · exact tableRun_trap hroom (loadTable_bad hg hp ha hal hl hc)
  · exact tableRun_trap hroom (loadTable_bad hg hp ha hal hl hc)
  · exact tableRun_trap hroom (loadTable_misaligned hg hp ha hal)
  · exact tableRun_trap hroom (loadTable_misaligned hg hp ha hal)
  · have hno := slotNo_unallocated hsl
    exact ⟨tableRun_trap hroom (loadTable_unallocated hg hno), tableRun_trap hroom (loadTable_unallocated hg hno),
      run_unallocated hroom hg hno, run_unallocated hroom hg hno⟩
  · intro t
    have ht := Host.Outcome.next.inj (dataDelivered_table hlive hpark hat)
    simp only [t, ht]
    exact ⟨rfl, vgetD_set!_same _ hp4 _ _, fun q hq => vgetD_set!_ne _ (Ne.symm hq) _ _, rfl⟩

end Sys2Proof.Machine

/-! # Bit streams (O28)

The readers share one need: the state and the buffer after the refill, or the halt that comes where too few bits stand there. Each is
then what it makes of the bits; `bs.rice` counts the leading ones of them. -/

namespace Sys2Proof.Machine

/-! ## Instructions of a bit stream -/

theorem run_error {s : State} {n : Nat} {body : Ex State} {h : Halt} (hroom : Room s n) (hb : body = .error h) :
    run s n body = stopped h := by
  rw [run, ending_room hroom, hb]
  rfl

section
variable {s t : State} {buf : BitBuf} {w : Nat} {h : Halt}

theorem needBits_enough (hn : w ≤ buf.cnt) : needBits t buf w = .ok () := if_pos hn

/-- Too few bits stand in the buffer: the stop of the byte that cannot be taken (R224). -/
theorem needBits_short (hn : buf.cnt < w) (hb : streamByte t buf.addr = .error h) : needBits t buf w = .error h := by
  rw [needBits, if_neg (by omega), hb]

theorem need_error (hr : refilled s s.fib.bb = .error h) : need s w = .error h := by
  rw [need, hr]
  rfl

section
variable (hr : refilled s s.fib.bb = .ok (t, buf))
include hr

theorem need_enough (hn : w ≤ buf.cnt) : need s w = .ok (t, buf) := by
  rw [need, hr, ok_bind, needBits_enough hn, ok_bind]

theorem need_short (hn : buf.cnt < w) (hb : streamByte t buf.addr = .error h) : need s w = .error h := by
  rw [need, hr, ok_bind, needBits_short hn hb]
  rfl

end

/-! ## What each reader makes of the bits that it needs -/

theorem getBits_ok {d : GReg} (hd : FreeG s d) (hn : need s w = .ok (t, buf)) (signed : Bool) : getBits s d w signed =
    .ok (setG (setBuf t { buf with data := buf.data >>> w, cnt := buf.cnt - w }) d
      (if signed then BitVec.ofInt 64 (toSigned w (buf.data.toNat % 2 ^ w)) else BitVec.ofNat 64 (buf.data.toNat % 2 ^ w))) := by
  rw [getBits, destG_free hd, ok_bind, hn, ok_bind]
  rfl

theorem skipBits_ok (hn : need s w = .ok (t, buf)) :
    skipBits s w = .ok (setBuf t { buf with data := buf.data >>> w, cnt := buf.cnt - w }) := by
  rw [skipBits, hn, ok_bind]
  rfl

/-- Whatever stops the refill or the need of a width stops each reader of that width (R224). -/
theorem readers_stop {d : GReg} {w : BitVec 8} (hroom : Room s 1) (hd : FreeG s d) (hn : need s w.toNat = .error h) :
    exec (.bsGet d w) s = stopped h ∧ exec (.bsGets d w) s = stopped h ∧ exec (.bsPeek d w) s = stopped h ∧
      exec (.bsSkip w) s = stopped h := by
  have hget (signed : Bool) : getBits s d w.toNat signed = .error h := by
    rw [getBits, destG_free hd, ok_bind, hn]
    rfl
  refine ⟨run_error hroom (hget false), run_error hroom (hget true), run_error hroom ?_, run_error hroom ?_⟩
  · rw [destG_free hd, ok_bind, hn]
    rfl
  · rw [skipBits, hn]
    rfl

theorem bsPeek_ok {d : GReg} {w : BitVec 8} (hroom : Room s 1) (hd : FreeG s d) (hn : need s w.toNat = .ok (t, buf)) :
    exec (.bsPeek d w) s = .next (retire (setG (setBuf t buf) d (BitVec.ofNat 64 (buf.data.toNat % 2 ^ w.toNat))) 1) :=
  run_ok hroom (by rw [destG_free hd, ok_bind, hn, ok_bind]; rfl)

end

section
variable {s : State} {b d : GReg} (hroom : Room s 1) (hb : FullG s b)
include hroom hb

theorem bsGetr_some {t : State} (hw : s.g b ≠ 0) (ht : getBits s d (Nat.min (s.g b).toNat 64) false = .ok t) :
    exec (.bsGetr d b) s = .next (retire t 1) :=
  run_ok hroom (by rw [readG_full hb, ok_bind, if_neg hw, ht])

theorem bsSkipr_some {t : State} (hw : s.g b ≠ 0) (ht : skipBits s (Nat.min (s.g b).toNat 64) = .ok t) :
    exec (.bsSkipr b) s = .next (retire t 1) :=
  run_ok hroom (by rw [readG_full hb, ok_bind, if_neg hw, ht])

/-- With width 0, gd becomes 0 and BBUF stays (R226; it is not refilled, assumption 25). -/
theorem bsGetr_zero (hd : FreeG s d) (hw : s.g b = 0) : exec (.bsGetr d b) s = wrote s d 0 1 :=
  run_ok hroom (by rw [readG_full hb, ok_bind, if_pos hw]; exact writeG_free hd 0)

theorem bsSkipr_zero (hw : s.g b = 0) : exec (.bsSkipr b) s = .next (retire s 1) :=
  run_ok hroom (by rw [readG_full hb, ok_bind, if_pos hw])

theorem bsSeek_ok {t : State} {buf : BitBuf} (hz : bits (s.g b) 60 4 = 0)
    (hr : refilled s { data := 0, cnt := 0, addr := BitVec.ofNat 64 (bits (s.g b) 3 57) } = .ok (t, buf)) (hn : bits (s.g b) 0 3 ≤ buf.cnt) :
    exec (.bsSeek b) s = .next (retire (setBuf t { buf with
      data := buf.data >>> bits (s.g b) 0 3, cnt := buf.cnt - bits (s.g b) 0 3 }) 1) :=
  run_ok hroom (by
    rw [readG_full hb, ok_bind, hz, beq_self_eq_true, ensure_true, ok_bind, hr, ok_bind, needBits_enough hn]
    rfl)

theorem bsSeek_far (hz : bits (s.g b) 60 4 ≠ 0) : exec (.bsSeek b) s = .next (raise s 0x04 0 (s.g b >>> 3) false) :=
  run_trap hroom (by rw [readG_full hb, ok_bind, beq_false_of_ne hz]; rfl)

end

/-! ## The Rice code -/

/-- The count of leading ones is the place of the lowest zero, or the limit. -/
theorem leadingOnes_eq : ∀ {k q x : Nat}, q ≤ k → (∀ i, i < q → x.testBit i = true) → (q = k ∨ x.testBit q = false) → leadingOnes x k = q
  | 0, q, _, hk, _, _ => (Nat.le_zero.mp hk).symm
  | k + 1, 0, x, _, _, hz => by
    have h0 : ¬x % 2 = 1 := by
      have h := hz.resolve_left (Nat.zero_ne_add_one k)
      rwa [Nat.testBit_zero, decide_eq_false_iff_not] at h
    rw [leadingOnes, if_neg h0]
  | k + 1, q + 1, x, hk, ho, hz => by
    have h0 : x % 2 = 1 := by
      have h := ho 0 (Nat.succ_pos q)
      rwa [Nat.testBit_zero, decide_eq_true_iff] at h
    have hrest : leadingOnes (x / 2) k = q := by
      refine leadingOnes_eq (by omega) (fun i hi => ?_) (hz.imp (fun h => by omega) fun h => ?_)
      · rw [← Nat.testBit_succ]
        exact ho (i + 1) (by omega)
      · rwa [← Nat.testBit_succ]
    rw [leadingOnes, if_pos h0, hrest]

section
variable {s t : State} {d : GReg} {k : BitVec 4} {buf : BitBuf} {q : Nat} (hroom : Room s 1) (hd : FreeG s d)
  (hr : refilled s s.fib.bb = .ok (t, buf)) (ho : ∀ i, i < q → buf.data.getLsbD i = true)
include hroom hd hr ho

/-- q ones, a zero and k bits give q · 2^k + x (R226). -/
theorem bsRice_code (hq : q < 65) (hz : buf.data.getLsbD q = false) (hn : q + 1 + k.toNat ≤ buf.cnt) :
    exec (.bsRice d k) s = .next (retire (setG (setBuf t { buf with
      data := buf.data >>> (q + 1) >>> k.toNat, cnt := buf.cnt - (q + 1) - k.toNat }) d
      (BitVec.ofNat 64 (q * 2 ^ k.toNat + (buf.data >>> (q + 1)).toNat % 2 ^ k.toNat))) 1) := by
  have hlead : leadingOnes buf.data.toNat (Nat.min buf.cnt 65) = q := leadingOnes_eq (Nat.le_min.mpr ⟨by omega, by omega⟩) ho (.inr hz)
  refine run_ok hroom ?_
  rw [destG_free hd, ok_bind, hr, ok_bind]
  dsimp only
  rw [hlead, if_neg (by omega), needBits_enough hn]
  rfl

/-- 65 ones are the escape, and nothing is taken (R226). -/
theorem bsRice_escape (hq : q = 65) (hn : 65 ≤ buf.cnt) :
    exec (.bsRice d k) s = .next (retire (setG (setBuf t buf) d (BitVec.allOnes 64)) 1) := by
  have hmin : Nat.min buf.cnt 65 = q := by rw [hq]; exact Nat.min_eq_right hn
  refine run_ok hroom ?_
  rw [destG_free hd, ok_bind, hr, ok_bind]
  dsimp only
  rw [leadingOnes_eq hmin.ge ho (.inl hmin.symm), if_pos hq]

end

/-- Settles O28: every reader by what the refill and the need of its width give, and `bs.rice` by the count of leading ones. -/
theorem bitStreams : Obligations.BitStreams := by
  refine ⟨fun s t d b w buf hroom hd => ⟨fun h hr => readers_stop hroom hd (need_error hr), fun hr => ⟨fun hn => ?_, fun h hn hb => ?_,
      fun hb hw hn => ?_⟩, fun hb hw => ⟨bsGetr_zero hroom hb hd hw, bsSkipr_zero hroom hb hw⟩, run_ok hroom rfl,
      run_ok hroom (writeG_free hd _)⟩,
    fun s t d a k buf q hroom => ⟨fun ha hz hr hn => bsSeek_ok hroom ha hz hr hn, fun ha hz => bsSeek_far hroom ha hz,
      fun hd hr ho => ⟨bsRice_code hroom hd hr ho, bsRice_escape hroom hd hr ho⟩⟩⟩
  · have hneed := need_enough hr hn
    exact ⟨run_ok hroom (getBits_ok hd hneed false), run_ok hroom (getBits_ok hd hneed true), bsPeek_ok hroom hd hneed,
      run_ok hroom (skipBits_ok hneed)⟩
  · exact readers_stop hroom hd (need_short hr hn hb)
  · have hneed := need_enough hr hn
    exact ⟨bsGetr_some hroom hb hw (getBits_ok hd hneed false), bsSkipr_some hroom hb hw (skipBits_ok hneed)⟩

end Sys2Proof.Machine

/-! # Mask instructions, reductions and scans (O24)

An instruction that finds the vector unit idle acts in the state in which that serves it, with the lanes and the mask as they stand
there. A reduction and a scan then differ in the result that they write, and integers from VF in the flags that they raise. -/

namespace Sys2Proof.Machine

/-! ## The complement of a mask -/

/-- Exclusive or with ones in every place is the complement. -/
theorem xor_ones {y n : Nat} (h : y < 2 ^ n) : y ^^^ (2 ^ n - 1) = 2 ^ n - 1 - y := by
  refine Nat.eq_of_testBit_eq fun i => ?_
  rw [Nat.testBit_xor, Nat.testBit_two_pow_sub_one, Nat.sub_sub, Nat.add_comm 1, Nat.testBit_two_pow_sub_succ h]
  by_cases hi : i < n
  · rw [decide_eq_true hi, Bool.xor_true, Bool.true_and]
  · rw [decide_eq_false hi, Nat.testBit_lt_two_pow (h.trans_le (Nat.pow_le_pow_right (by omega) (by omega)))]
    rfl

theorem maskFirst_lowest {x i : Nat} (hi : i < 128) (hx : x.testBit i = true) (hl : ∀ j, j < i → x.testBit j = false) : maskFirst x = i := by
  have hfind : (List.range 128).find? x.testBit = some i :=
    List.find?_range_eq_some.mpr ⟨hx, List.mem_range.mpr hi, fun j hj => by rw [hl j hj]; rfl⟩
  rw [maskFirst, hfind, Option.getD_some]

theorem maskFirst_zero : maskFirst 0 = 128 := by decide

/-! ## Instructions that the idle vector unit serves at once -/

/-- The state in which the idle vector unit serves an instruction of the fibre in focus, after its W hold (R272). -/
abbrev State.atVector (s : State) (w : BitVec 1) : State := (s.waited w).served .vector

theorem served_bank (s : State) (w : BitVec 1) : (s.atVector w).bank = s.bank := waited_bank s w

theorem vecOpenG_ok {s : State} {w : BitVec 1} {gs : List GReg} {regs : List Nat} (hw : WaitOver s w) (hg : ∀ g ∈ gs, FullG s g)
    (hr : ∀ i ∈ regs, i < s.fib.nv) : vecOpenG s w gs regs = .ok (s.waited w) := by
  have hreads : readsG (s.waited w) gs = .ok () := by
    clear hr
    induction gs with
    | nil => rfl
    | cons g gs ih =>
      rw [readsG, readG_of_bank (hg g (by simp)) (waited_bank s w), ok_bind]
      exact ih fun r hm => hg r (by simp [hm])
  have hv : needVs (s.waited w) regs = .ok () := needVs_ok (by rw [waited_fib]; exact hr)
  rw [vecOpenG, waitW_over hw, ok_bind, hreads, ok_bind, hv, ok_bind]

/-- An instruction whose issue needs no more than its W hold ends with what its body gives in the state in which the unit serves it. -/
theorem vecRun_idle {s u : State} {w : BitVec 1} {before : Ex State} {body : State → Ex State} (hroom : Room s 1)
    (hf : UnitFree s .vector) (hb : before = .ok (s.waited w)) (hu : body (s.atVector w) = .ok u) :
    vecRun s before body = unitRuns u 1 .vector .vector :=
  vecRun_ok hroom (entered_free hf) hb (waited_unit w hf) hu

/-! ## Mask instructions -/

section
variable {s : State} {w : BitVec 1} (hroom : Room s 1) (hw : WaitOver s w) (hf : UnitFree s .vector)
include hroom hw hf

section
variable {a b d : MReg} {g h : GReg} {x y : Nat} (hx : readM s a.toNat = .ok x)
include hx

theorem maskOp2_idle (hy : readM s b.toNat = .ok y) (f : Nat → Nat → Nat) :
    maskOp2 s d a b w f = unitRuns (setM (s.atVector w) d.toNat (f x y)) 1 .vector .vector :=
  vecRun_idle hroom hf (vecOpenG_ok hw (by simp) (by simp))
    (by rw [served_readM hx, ok_bind, served_readM hy, ok_bind])

theorem mnot_idle (hx128 : x < 2 ^ 128) :
    exec (.mnot d a w) s = unitRuns (setM (s.atVector w) d.toNat (2 ^ 128 - 1 - x)) 1 .vector .vector := by
  change execMnot d a w s = _
  refine vecRun_idle hroom hf (vecOpenG_ok hw (by simp) (by simp)) ?_
  rw [served_readM hx, ok_bind, xor_ones hx128]

theorem maskToG_idle (hg : FreeG s g) (f : Nat → Nat) :
    maskToG s g a w f = unitRuns (setG (s.atVector w) g (BitVec.ofNat 64 (f x))) 1 .vector .vector := by
  refine vecRun_idle hroom hf ?_ (by rw [served_readM hx, ok_bind])
  rw [vecOpenV, vecOpenG_ok hw (by simp) (by simp), ok_bind, destG_free (hg.of_bank (waited_bank s w)), ok_bind]

end

theorem mfromg_idle {d : MReg} {g h : GReg} (hg : FullG s g) (hh : FullG s h) : exec (.mfromg d g h w) s =
    unitRuns (setM (s.atVector w) d.toNat ((s.g g).toNat + 2 ^ 64 * (s.g h).toNat)) 1 .vector .vector := by
  change execMfromg d g h w s = _
  refine vecRun_idle (w := w) hroom hf ?_ ?_
  · rw [vecOpenG_ok hw (by simp [hg, hh]) (by simp), ok_bind]
  · rw [readG_of_bank hg (served_bank s w), ok_bind, readG_of_bank hh (served_bank s w), ok_bind]

end

/-! ## Reductions and scans -/

theorem served_n (s : State) (w : BitVec 1) : (s.atVector w).n = s.n := waited_n w
theorem served_p (s : State) (w : BitVec 1) : (s.atVector w).p = s.p := waited_p w
theorem served_rm (s : State) (w : BitVec 1) : (s.atVector w).rm = s.rm := waited_rm w

section
variable {s : State} {d a : VReg} {w : BitVec 1} {m : MReg} {mask x : Nat} (hv : VecReady s w [d.toNat, a.toNat] m mask)
  (hx : readVec s a.toNat = .ok x)
include hv hx

/-- An instruction on the lanes of one register and a mask runs on the values that stood there before its W hold. -/
theorem vecRun_lanes {u : State} {body : State → Nat → Nat → Ex State} (hu : body (s.atVector w) mask x = .ok u) :
    (vecRun s (vecOpenV s w [d.toNat, a.toNat]) fun t => do
      let mask ← readM t m.toNat
      let x ← readVec t a.toNat
      body t mask x) = unitRuns u 1 .vector .vector := by
  obtain ⟨hroom, hw, hr, hf, hm⟩ := hv
  refine vecRun_idle hroom hf (vecOpenG_ok hw (by simp) hr) ?_
  rw [served_readM hm, ok_bind, served_readVec hx, ok_bind, hu]

theorem reduceInt_idle (z : BitVec 2) (f : IntOp) (empty : Nat → Nat) :
    let e := 2 ^ z.toNat
    reduceInt s d a w m z f empty = unitRuns (setVec (s.atVector w) d.toNat
      ((treeReduce (fun u v => (f (8 * e) 0 u v, (0 : FFlags))) 8 (presentLanes mask (256 / e) x e)).1.getD (empty (8 * e)) %
        2 ^ (8 * e))) 1 .vector .vector :=
  vecRun_lanes hv hx rfl

theorem vscanInt_idle (z : BitVec 2) :
    let e := 2 ^ z.toNat
    exec (.vscanInt d a w m z) s = unitRuns (putScan (s.atVector w) d.toNat e (256 / e)
      (scanFrom (fun u v => ((u + v) % 2 ^ (8 * e), 0)) none (presentLanes mask (256 / e) x e))) 1 .vector .vector := by
  intro e
  change execVscanInt d a w m z s = _
  exact vecRun_lanes hv hx rfl

variable (hok : lanesOk (s.atVector w) s.n (activeLanes mask (vfLanes s.n)) [x] = .ok ())
include hok

theorem reduceVf_idle (f : FOp2) (empty : FV) :
    let l := vfLanes s.n
    let r := treeReduce (encOp2 f s.p s.rm) 8 (presentLanes mask l x s.n)
    reduceVf s d a w m f empty = unitRuns (raiseFlags (setVec (s.atVector w) d.toNat (packLanes s.n
      (r.1.getD (vfEncode s.p empty) :: List.replicate (l - 1) (vfEncode s.p FV.zero)))) r.2) 1 .vector .vector := by
  intro l r
  refine vecRun_lanes hv hx ?_
  rw [served_n, served_p, served_rm]
  dsimp only
  rw [hok, ok_bind]

theorem vscanVf_idle :
    exec (.vscanVf d a w m) s = unitRuns (putScan (s.atVector w) d.toNat s.n (vfLanes s.n)
      (scanFrom (encOp2 FV.add s.p s.rm) none (presentLanes mask (vfLanes s.n) x s.n))) 1 .vector .vector := by
  change execVscanVf d a w m s = _
  refine vecRun_lanes hv hx ?_
  rw [served_n, served_p, served_rm]
  dsimp only
  rw [hok, ok_bind]

end

/-- Settles O24: each instruction by what it does in the state in which the idle vector unit serves it. -/
theorem masksAndReductions : Obligations.MasksAndReductions := by
  refine ⟨fun s d a b g h w hi x y hroom hw hf hx hx128 => ?_, fun s d a w m z mask x hv hx => ?_⟩
  · have toG (hg : FreeG s g) (f : Nat → Nat) := maskToG_idle hroom hw hf hx hg f
    refine ⟨fun hy hy128 => ?_, mnot_idle hroom hw hf hx hx128, fun hg => ⟨toG hg maskCount, fun i hi hxi hl => ?_, fun h0 => ?_, toG hg _⟩,
      mfromg_idle hroom hw hf, rfl, rfl⟩
    · have op (f : Nat → Nat → Nat) := maskOp2_idle (d := d) hroom hw hf hx hy f
      refine ⟨op _, op _, op _, (op fun x y => x &&& (y ^^^ (2 ^ 128 - 1))).trans ?_⟩
      dsimp only
      rw [xor_ones hy128]
    · rw [← maskFirst_lowest hi hxi hl]
      exact toG hg maskFirst
    · subst h0
      exact toG hg maskFirst
  · have int (f : IntOp) (empty : Nat → Nat) := reduceInt_idle hv hx z f empty
    refine ⟨int (intOp 0) fun _ => 0, int (intOp 10) fun w => 2 ^ (w - 1) - 1, int (intOp 11) fun w => 2 ^ (w - 1),
      int (intOp 12) fun w => 2 ^ w - 1, int (intOp 13) fun _ => 0, int (intOp 7) fun w => 2 ^ w - 1, int (intOp 8) fun _ => 0,
      int (intOp 9) fun _ => 0, vscanInt_idle hv hx z, fun hok => ?_⟩
    have vf (f : FOp2) (empty : FV) := reduceVf_idle hv hx hok f empty
    exact ⟨vf FV.add FV.zero, vf (FV.pick true) (.inf false), vf (FV.pick false) (.inf true), vscanVf_idle hv hx hok⟩

end Sys2Proof.Machine

/-! # Semaphores, fences and token waits (O14)

A semaphore gives at once where its line is empty and its count suffices, and a line goes on as long as its head can be served. A fence
is held by updates still out and by messages before it, and otherwise settles and drains what its scope reaches. -/

namespace Sys2Proof.Machine

/-! ## Semaphores -/

section
variable {s : State} {d a : GReg} {k : BitVec 6}

theorem semCount_ok (ha : FullG s a) (hn : (s.g a).toNat < 2 ^ 32) : semCount s a = .ok (s.g a).toNat := by
  have hhigh : bits (s.g a) 32 32 = 0 := by
    rw [bits, Nat.shiftRight_eq_div_pow, Nat.div_eq_of_lt hn]
    rfl
  rw [semCount, readG_full ha, ok_bind, hhigh, beq_self_eq_true, ensure_true, ok_bind]

/-- Nobody waits in a semaphore's line, and its count suffices (R363). -/
abbrev State.semGives (s : State) (k n : Nat) : Bool := (s.sem k).line.isEmpty && decide (n ≤ (s.sem k).count)

theorem semGives_true {k n : Nat} (hl : (s.sem k).line = []) (hn : n ≤ (s.sem k).count) : s.semGives k n = true := by
  rw [State.semGives, hl, decide_eq_true hn]
  rfl

theorem semGives_false {k n : Nat} (h : (s.sem k).line ≠ [] ∨ (s.sem k).count < n) : s.semGives k n = false := by
  rcases h with hl | hn
  · rw [State.semGives, List.isEmpty_eq_false_iff.mpr hl, Bool.false_and]
  · rw [State.semGives, decide_eq_false (Nat.not_le.mpr hn), Bool.and_false]

variable (hroom : Room s 1) (ha : FullG s a) (hn : (s.g a).toNat < 2 ^ 32)
include hroom ha hn

theorem semPost_ok (hu : s.fib.updout = 0) (hb : s.behindMessage true = false) :
    let r := s.settle.drain
    let sum := (r.sem k.toNat).count + (s.g a).toNat
    let u := if sum < 2 ^ 32 then r else r.log 0x0F 0 0 0 k.toNat
    let t := retire (u.onSem k.toNat fun m => { m with count := min sum (2 ^ 32 - 1) }) 1
    exec (.semPost a k) s = .next (t.serveLine t.chip.num k.toNat (t.sem k.toNat).line.length) := by
  intro r sum u t
  change execSemPost a k s = _
  rw [execSemPost, runThen, ending_room hroom, semCount_ok ha hn, ok_bind, release_chip hu hb, ok_bind]
  rfl

theorem semPost_waits (hu : s.fib.updout ≠ 0) : exec (.semPost a k) s = .next (parkAs s .retry) := by
  change execSemPost a k s = _
  rw [execSemPost, runThen, ending_room hroom, semCount_ok ha hn, ok_bind, release_waits (by decide) hu]
  rfl

theorem semWait_none (h0 : (s.g a).toNat = 0) : exec (.semWait a k) s = .next (retire (s.acquire 2) 1) :=
  run_ok hroom (by rw [semCount_ok ha hn, ok_bind]; exact if_pos h0)

theorem semWait_takes (h0 : 0 < (s.g a).toNat) (h : s.semGives k.toNat (s.g a).toNat = true) : exec (.semWait a k) s =
    .next (retire ((s.onSem k.toNat fun v => { v with count := v.count - (s.g a).toNat }).acquire 2) 1) :=
  run_ok hroom (by
    rw [semCount_ok ha hn, ok_bind]
    dsimp only
    rw [if_neg (by omega), if_pos h])

theorem semWait_joins (h0 : 0 < (s.g a).toNat) (h : s.semGives k.toNat (s.g a).toNat = false) : exec (.semWait a k) s =
    .next (parkAs (s.onSem k.toNat fun v => { v with line := v.line ++ [(s.fib.id, (s.g a).toNat)] }) (.sem k.toNat (s.g a).toNat)) :=
  run_hold hroom (by
    rw [semCount_ok ha hn, ok_bind]
    dsimp only
    rw [if_neg (by omega), if_neg (Bool.eq_false_iff.mp h)]
    rfl)

theorem semTry_takes (hd : FreeG s d) (h : s.semGives k.toNat (s.g a).toNat = true) : exec (.semTry d a k) s =
    .next (retire (setG ((s.onSem k.toNat fun v => { v with count := v.count - (s.g a).toNat }).acquire 2) d 1) 1) :=
  run_ok hroom (by
    rw [semCount_ok ha hn, ok_bind, destG_free hd, ok_bind]
    exact if_pos h)

theorem semTry_fails (hd : FreeG s d) (h : s.semGives k.toNat (s.g a).toNat = false) : exec (.semTry d a k) s = wrote s d 0 1 :=
  run_ok hroom (by
    rw [semCount_ok ha hn, ok_bind, destG_free hd, ok_bind]
    exact if_neg (Bool.eq_false_iff.mp h))

end

/-! ## The line of a semaphore -/

section
variable {s : State} {k fuel n : Nat} {id : FibreId} {rest : List (FibreId × Nat)} (hl : (s.sem k).line = (id, n) :: rest)
include hl

theorem serveLine_cons : s.serveLine s.chip.num k (fuel + 1) =
    if n ≤ (s.sem k).count then
      (((s.onSem k fun m => { m with count := m.count - n, line := rest }).acquireFor id).finish id 1).serveLine s.chip.num k fuel
    else s := by
  have hchip : s.chipAt s.chip.num = s.chip := if_pos rfl
  have hput (f : Chip → Chip) : s.onChip s.chip.num f = s.setChip f := if_pos rfl
  have hline : (s.chip.sems.getD k Sem.zero).line = (id, n) :: rest := hl
  rw [State.serveLine]
  simp only [hchip, hput, hline]
  rfl

end

/-! ## Fences and token waits -/

/-- The state after a release at a scope that nothing holds (R375). -/
def State.afterRelease (s : State) (sc : BitVec 3) : State := if sc = 0 then s else if sc = 1 then s.settle else s.settle.drain

section
variable {s : State} {sc : BitVec 3}

theorem release_free (h : sc = 0 ∨ (s.fib.updout = 0 ∧ s.behindMessage (sc.toNat != 1) = false)) :
    s.release sc.toNat = .ok (s.afterRelease sc) := by
  unfold State.release State.afterRelease
  by_cases h0 : sc = 0
  · rw [if_pos h0, if_pos (by rw [h0]; rfl)]
  · obtain ⟨hu, hb⟩ := h.resolve_left h0
    have hstop : ¬(s.fib.updout ≠ 0 ∨ s.behindMessage (sc.toNat != 1) = true) := by simp [hu, hb]
    have hzero : sc.toNat ≠ 0 := fun hz => h0 (BitVec.eq_of_toNat_eq hz)
    have hone : sc.toNat = 1 ↔ sc = 1 := (BitVec.toNat_inj (y := 1#3))
    rw [if_neg h0, if_neg hzero, if_neg hstop]
    by_cases h1 : sc = 1
    · rw [if_pos h1, if_pos (hone.mpr h1)]
    · rw [if_neg h1, if_neg (mt hone.mp h1)]

theorem release_held (h0 : sc ≠ 0) (hu : s.fib.updout ≠ 0) : s.release sc.toNat = hold s .retry :=
  release_waits (fun hz => h0 (BitVec.eq_of_toNat_eq hz)) hu

variable (hroom : Room s 1)
include hroom

theorem fences_free (h : sc = 0 ∨ (s.fib.updout = 0 ∧ s.behindMessage (sc.toNat != 1) = false)) :
    exec (.fence sc) s = .next (retire ((s.afterRelease sc).acquire sc.toNat) 1) ∧
      exec (.fenceRel sc) s = .next (retire (s.afterRelease sc) 1) :=
  ⟨run_ok hroom (by rw [release_free h, ok_bind]), run_ok hroom (release_free h)⟩

theorem fenceAcq_free (h : sc = 0 ∨ s.fib.updout = 0) : exec (.fenceAcq sc) s = .next (retire (s.acquire sc.toNat) 1) :=
  run_ok hroom (if_neg fun hs => h.elim hs.1 hs.2)

theorem fences_held (hu : s.fib.updout ≠ 0) (h0 : sc ≠ 0) : exec (.fence sc) s = .next (parkAs s .retry) ∧
    exec (.fenceAcq sc) s = .next (parkAs s .retry) ∧ exec (.fenceRel sc) s = .next (parkAs s .retry) :=
  ⟨run_hold hroom (by rw [release_held h0 hu]; rfl), run_hold hroom (if_pos ⟨h0, hu⟩), run_hold hroom (release_held h0 hu)⟩

variable {m : BitVec 8}

theorem twait_busy (hb : s.fib.tokens.busy m = true) : exec (.twait m) s = .next (parkAs s .wait) :=
  run_hold hroom (if_pos hb)

variable (hb : s.fib.tokens.busy m = false)
include hb

theorem twait_done (hf : s.fib.tokens.failed m = none) : exec (.twait m) s =
    .next (retire (if m = 0 then s else (s.acquire 2).setFib fun f => { f with mark := max f.mark (f.tokens.latest m) }) 1) :=
  run_ok hroom (by rw [waitOn, hb, hf]; rfl)

theorem twait_failed {i : Nat} (hf : s.fib.tokens.failed m = some i) :
    exec (.twait m) s = .next (raise s 0x13 0 (s.fib.tokens.record.getD i 0) false) :=
  run_trap hroom (by rw [waitOn, hb, hf]; rfl)

end

/-- Settles O14: semaphores by whether a request is served at once, a line by its head, fences and token waits by what holds them. -/
theorem semaphoresFencesTokens : Obligations.SemaphoresFencesTokens := by
  refine ⟨fun s d a k hroom ha hn => ?_, fun s k fuel n id rest hl => ⟨fun hc _ => ⟨_, ?_, rfl⟩, fun hc => ?_⟩,
    fun s sc m hroom => ⟨fences_free hroom, fenceAcq_free hroom, fences_held hroom, twait_busy hroom, twait_done hroom,
      fun i hb => twait_failed hroom hb⟩⟩
  · exact ⟨semPost_ok hroom ha hn, semPost_waits hroom ha hn, semWait_none hroom ha hn,
      fun h0 hl hc => semWait_takes hroom ha hn h0 (semGives_true hl hc), fun h0 h => semWait_joins hroom ha hn h0 (semGives_false h),
      fun hd hl hc => semTry_takes hroom ha hn hd (semGives_true hl hc), fun hd h => semTry_fails hroom ha hn hd (semGives_false h),
      fun hd => run_ok hroom (writeG_free hd _)⟩
  · rw [serveLine_cons hl, if_pos hc]
  · rw [serveLine_cons hl, if_neg (by omega)]

end Sys2Proof.Machine

/-! # Named barriers (O12)

An arrival is a function of the barrier alone, and whether it is refused does not depend on its scope. The arrival that completes a
phase lets its waiters leave one after another. Each of them updates the one fibre of its name and no barrier, so that by induction on
the waiters exactly the parked fibres have gone on. -/

namespace Sys2Proof.Machine

/-! ## Arrivals -/

section
variable {b v : Barrier} {count scope : Nat}

theorem arrive_range (h : count = 0 ∨ 256 < count) : b.arrive count scope = .error 1 := if_pos h

section
variable (h1 : 1 ≤ count) (h256 : count ≤ 256)
include h1 h256

theorem arrive_mismatch (h0 : b.npart ≠ 0) (hn : b.npart ≠ count) : b.arrive count scope = .error 0 := by
  rw [Barrier.arrive, if_neg (by omega), if_pos ⟨h0, hn⟩]

variable (hn : b.npart = 0 ∨ b.npart = count)
include hn

theorem arrive_last (ha : b.arr + 1 = count) :
    b.arrive count scope = .ok { ph := !b.ph, npart := 0, arr := 0, scope := 0, last := max b.scope scope } := by
  rw [Barrier.arrive, if_neg (by omega), if_neg (by omega), if_pos ha]

theorem arrive_early (ha : b.arr + 1 ≠ count) :
    b.arrive count scope = .ok { b with npart := count, arr := b.arr + 1, scope := max b.scope scope } := by
  rw [Barrier.arrive, if_neg (by omega), if_neg (by omega), if_neg ha]

end

/-- Whether an arrival is refused does not depend on its scope. -/
theorem arrive_error_any {sub : Nat} (h : b.arrive count scope = .error sub) (other : Nat) : b.arrive count other = .error sub := by
  unfold Barrier.arrive at h ⊢
  split at h
  next hr => rw [if_pos hr]; exact h
  next hr =>
    rw [if_neg hr]
    split at h
    next hm => rw [if_pos hm]; exact h
    next => split at h <;> cases h

end

/-! ## Updates of the fibres -/

section
variable {α : Type} {p : α → Bool} {f : α → α} {l : List α} {x : α}

theorem mem_updAll_other (hx : x ∈ l) (hp : p x = false) : x ∈ updAll p f l :=
  List.mem_map.mpr ⟨x, hx, by rw [hp]; rfl⟩

theorem mem_updAll_updated (hx : x ∈ l) (hp : p x = true) : f x ∈ updAll p f l :=
  List.mem_map.mpr ⟨x, hx, by rw [hp]; rfl⟩

theorem updAll_nobody (h : ∀ y ∈ l, p y = false) : updAll p f l = l := by
  unfold updAll
  exact (List.map_congr_left fun y hy => by rw [h y hy]; rfl).trans (List.map_id' l)

/-- Two updates of the same elements are one. -/
theorem updAll_updAll {g : α → α} (h : ∀ y, p (f y) = p y) : updAll p g (updAll p f l) = updAll p (fun y => g (f y)) l := by
  unfold updAll
  rw [List.map_map]
  refine List.map_congr_left fun y _ => ?_
  dsimp only [Function.comp]
  by_cases hy : p y = true <;> simp [hy, h]

theorem map_updAll {β : Type} {k : α → β} (h : ∀ y, k (f y) = k y) : (updAll p f l).map k = l.map k := by
  unfold updAll
  rw [List.map_map]
  refine List.map_congr_left fun y _ => ?_
  dsimp only [Function.comp]
  split
  · exact h y
  · rfl

end

/-- No two live fibres have one name. -/
def State.NamesApart (s : State) : Prop := (s.allFibres.map Fibre.id).Nodup

section
variable {s : State} (hs : s.NamesApart)
include hs

theorem State.NamesApart.eq_of_id {x y : Fibre} (hx : x ∈ s.allFibres) (hy : y ∈ s.allFibres) (h : x.id = y.id) : x = y :=
  List.inj_on_of_nodup_map hs hx hy h

theorem fibre?_member {x : Fibre} (hx : x ∈ s.allFibres) : s.fibre? x.id = some x := by
  unfold State.fibre?
  cases h : s.allFibres.find? fun y => y.id == x.id with
  | none => exact absurd (List.find?_eq_none.mp h x hx) (by simp)
  | some y =>
    have hid : (y.id == x.id) = true := List.find?_some (p := fun y : Fibre => y.id == x.id) h
    rw [hs.eq_of_id (List.mem_of_find?_eq_some h) hx (eq_of_beq hid)]

theorem allFibres_onFibre (id : FibreId) {f : Fibre → Fibre} (hlive : ∀ x, (f x).live = x.live) :
    (s.onFibre id f).allFibres = updAll (fun x => x.id == id) f s.allFibres := by
  unfold State.NamesApart State.allFibres at hs
  cases hl : s.fib.live with
  | false => simp [State.onFibre, State.allFibres, hl]
  | true =>
    rw [hl, if_pos rfl, List.map_cons, List.nodup_cons] at hs
    by_cases hid : s.fib.id = id
    · have hrest : updAll (fun x => x.id == id) f s.fibres = s.fibres :=
        updAll_nobody fun y hy => beq_false_of_ne fun h => hs.1 (List.mem_map.mpr ⟨y, hy, h.trans hid.symm⟩)
      have hfocus : s.onFibre id f = { s with fib := f s.fib } := if_pos ⟨hl, hid⟩
      have hcons : updAll (fun x => x.id == id) f (s.fib :: s.fibres) = f s.fib :: updAll (fun x => x.id == id) f s.fibres := by
        simp [updAll, hid]
      simp only [hfocus, State.allFibres, hlive, hl, if_true, hcons, hrest]
    · have hfocus : s.onFibre id f = { s with fibres := updAll (fun x => x.id == id) f s.fibres } := if_neg fun h => hid h.2
      simp [hfocus, State.allFibres, hl, updAll, hid]

theorem State.NamesApart.onFibre (id : FibreId) {f : Fibre → Fibre} (hlive : ∀ x, (f x).live = x.live) (hf : ∀ x, (f x).id = x.id) :
    (s.onFibre id f).NamesApart := by
  rw [State.NamesApart, allFibres_onFibre hs id hlive, map_updAll hf]
  exact hs

end

theorem allFibres_onCore (s : State) (n : Nat) (f : Core → Core) : (s.onCore n f).allFibres = s.allFibres := by
  unfold State.onCore
  split <;> rfl

theorem allFibres_acquireFor (s : State) (id : FibreId) : (s.acquireFor id).allFibres = s.allFibres := by
  unfold State.acquireFor
  split
  · rfl
  · exact allFibres_onCore ..

/-! ## Leaving a barrier -/

/-- The fibre `g` is `f` gone on from its wait at a barrier (R361). -/
def LeftBar (f g : Fibre) : Prop :=
  g.id = f.id ∧ g.at_ = f.at_ ∧ g.park = none ∧ g.pc = f.pc + 4 ∧ g.bwait = none ∧ g.bank = f.bank

/-- The state after the acquire with which a wait at a barrier ends (R361, R375). -/
def State.barAcquired (s : State) (scope : Nat) (id : FibreId) : State := if scope < 2 then s else s.acquireFor id

theorem allFibres_barAcquired (s : State) (scope : Nat) (id : FibreId) : (s.barAcquired scope id).allFibres = s.allFibres := by
  unfold State.barAcquired
  split
  · rfl
  · exact allFibres_acquireFor ..

/-- A fibre without a wait of a barrier whose arrival is counted. -/
def Fibre.unwaiting (f : Fibre) : Fibre := { f with bwait := none }

/-- A fibre whose parked instruction of `n` words has completed (R333, R334). -/
def Fibre.finished (n writes : Nat) (f : Fibre) : Fibre :=
  { f with
    pc := f.pc + BitVec.ofNat 64 (4 * n)
    park := none
    walker := false
    mark := writes
    guestCount := if f.guest then f.guestCount + 1 else f.guestCount }

theorem finish_allFibres {s : State} (hs : s.NamesApart) {x : Fibre} (hx : x ∈ s.allFibres) (n : Nat) :
    ∃ m, (s.finish x.id n).allFibres = updAll (fun y => y.id == x.id) (Fibre.finished n m) s.allFibres := by
  unfold State.finish
  rw [fibre?_member hs hx]
  refine ⟨s.dev.writes, (allFibres_onFibre (f := Fibre.finished n _) ?_ x.id fun _ => rfl).trans ?_⟩
  · rw [State.NamesApart, allFibres_onCore]
    exact hs
  · rw [allFibres_onCore, State.onCore_dev]

/-- Leaving a barrier updates the one fibre that leaves it. -/
theorem leaveBar_allFibres {s : State} (hs : s.NamesApart) (scope : Nat) {x : Fibre} (hx : x ∈ s.allFibres) :
    ∃ m, (s.leaveBar scope x.id).allFibres = updAll (fun y => y.id == x.id) (fun y => y.unwaiting.finished 1 m) s.allFibres := by
  have ha : (s.barAcquired scope x.id).NamesApart := by rw [State.NamesApart, allFibres_barAcquired]; exact hs
  have hu := ha.onFibre x.id (f := Fibre.unwaiting) (fun _ => rfl) fun _ => rfl
  have hul := allFibres_onFibre ha x.id (f := Fibre.unwaiting) fun _ => rfl
  rw [allFibres_barAcquired] at hul
  obtain ⟨m, hm⟩ := finish_allFibres hu (x := x.unwaiting) (hul ▸ mem_updAll_updated hx (beq_self_eq_true _)) 1
  refine ⟨m, hm.trans ?_⟩
  rw [hul]
  exact updAll_updAll fun _ => rfl

theorem leftBar_finished (f : Fibre) (m : Nat) : LeftBar f (f.unwaiting.finished 1 m) := ⟨rfl, rfl, rfl, rfl, rfl, rfl⟩

theorem State.NamesApart.leaveBar {s : State} (hs : s.NamesApart) (scope : Nat) {x : Fibre} (hx : x ∈ s.allFibres) :
    (s.leaveBar scope x.id).NamesApart := by
  obtain ⟨m, h⟩ := leaveBar_allFibres hs scope hx
  rw [State.NamesApart, h, map_updAll (k := Fibre.id) (f := fun y => y.unwaiting.finished 1 m) fun _ => rfl]
  exact hs

/-- Of the fibres, those that leave a barrier one after another go on, and the others stay as they are. -/
theorem leaveAll_allFibres (scope : Nat) : ∀ {l : List FibreId} {s : State}, s.NamesApart → l.Nodup → (∀ id ∈ l, ∃ x ∈ s.allFibres, x.id = id) →
    ∀ f ∈ s.allFibres, let t := l.foldl (fun s id => s.leaveBar scope id) s
      (f.id ∉ l → f ∈ t.allFibres) ∧ (f.id ∈ l → ∃ g ∈ t.allFibres, LeftBar f g)
  | [], s, _, _, _, f, hf => ⟨fun _ => hf, fun h => absurd h List.not_mem_nil⟩
  | id :: l, s, hs, hl, hmem, f, hf => by
    obtain ⟨x, hx, rfl⟩ := hmem id List.mem_cons_self
    obtain ⟨hnot, hnodup⟩ := List.nodup_cons.mp hl
    obtain ⟨m, hall⟩ := leaveBar_allFibres hs scope hx
    have hkept {y : Fibre} (hy : y ∈ s.allFibres) (hne : y.id ≠ x.id) : y ∈ (s.leaveBar scope x.id).allFibres :=
      hall ▸ mem_updAll_other hy (beq_false_of_ne hne)
    have hrest := leaveAll_allFibres scope (hs.leaveBar scope hx) hnodup fun id hid => by
      obtain ⟨y, hy, rfl⟩ := hmem id (List.mem_cons_of_mem _ hid)
      exact ⟨y, hkept hy fun h => hnot (h ▸ hid), rfl⟩
    rw [List.foldl_cons]
    refine ⟨fun hn => ?_, fun h => ?_⟩
    · rw [List.mem_cons, not_or] at hn
      exact (hrest f (hkept hf hn.1)).1 hn.2
    · by_cases he : f.id = x.id
      · have hg : f.unwaiting.finished 1 m ∈ (s.leaveBar scope x.id).allFibres := hall ▸ mem_updAll_updated hf (beq_iff_eq.mpr he)
        exact ⟨_, (hrest _ hg).1 fun h => hnot (he ▸ h), leftBar_finished f m⟩
      · exact (hrest f (hkept hf he)).2 ((List.mem_cons.mp h).resolve_left he)

/-! ## Barriers of the cores -/

theorem onFibre_core (s : State) (id : FibreId) (f : Fibre → Fibre) : (s.onFibre id f).core = s.core := by
  unfold State.onFibre
  split <;> rfl

theorem onFibre_coreAt (s : State) (id : FibreId) (f : Fibre → Fibre) (n : Nat) : (s.onFibre id f).coreAt n = s.coreAt n := by
  unfold State.onFibre
  split <;> rfl

theorem onCore_coreNum {f : Core → Core} (hf : ∀ c, (f c).num = c.num) (s : State) (n : Nat) : (s.onCore n f).core.num = s.core.num := by
  unfold State.onCore
  split
  · exact hf _
  · rfl

theorem coreAt_focus (s : State) : s.coreAt s.core.num = s.core := if_pos rfl

/-- The cores keep their numbers and their barriers, and the same one stays in focus. -/
def SameBars (s t : State) : Prop := t.core.num = s.core.num ∧ ∀ n, (t.coreAt n).bars = (s.coreAt n).bars

theorem SameBars.trans {s t u : State} (h : SameBars s t) (g : SameBars t u) : SameBars s u :=
  ⟨g.1.trans h.1, fun n => (g.2 n).trans (h.2 n)⟩

theorem onFibre_sameBars (s : State) (id : FibreId) (f : Fibre → Fibre) : SameBars s (s.onFibre id f) :=
  ⟨congrArg Core.num (onFibre_core s id f), fun n => congrArg Core.bars (onFibre_coreAt s id f n)⟩

theorem onCore_sameBars {f : Core → Core} (hn : ∀ c, (f c).num = c.num) (hb : ∀ c, (f c).bars = c.bars) (s : State) (m : Nat) :
    SameBars s (s.onCore m f) := by
  refine ⟨onCore_coreNum hn s m, fun n => ?_⟩
  by_cases h : n = m
  · rw [h, coreAt_onCore_same hn, hb]
  · rw [coreAt_onCore_other hn s h]

theorem leaveBar_sameBars (s : State) (scope : Nat) (id : FibreId) : SameBars s (s.leaveBar scope id) := by
  have hacq : SameBars s (if scope < 2 then s else s.acquireFor id) := by
    split
    · exact ⟨rfl, fun _ => rfl⟩
    · unfold State.acquireFor
      split
      · exact ⟨rfl, fun _ => rfl⟩
      · refine onCore_sameBars ?_ ?_ _ _ <;> exact fun _ => rfl
  have hfin (u : State) : SameBars u (u.finish id 1) := by
    unfold State.finish
    split
    · exact ⟨rfl, fun _ => rfl⟩
    · refine (onCore_sameBars ?_ ?_ _ _).trans (onFibre_sameBars ..) <;> exact fun _ => rfl
  exact (hacq.trans (onFibre_sameBars ..)).trans (hfin _)

theorem leaveAll_sameBars (scope : Nat) : ∀ (l : List FibreId) (s : State), SameBars s (l.foldl (fun s id => s.leaveBar scope id) s)
  | [], _ => ⟨rfl, fun _ => rfl⟩
  | id :: l, s => (leaveBar_sameBars s scope id).trans (leaveAll_sameBars scope l _)

/-! ## A barrier after an arrival -/

/-- The fibre is parked at barrier `b` of a core for the phase of a parity (R361). -/
def ParkedAt (core b : Nat) (old : Bool) (f : Fibre) : Prop := f.at_ = core ∧ f.park = some (.barrier b old)

section
variable (s : State) (core b : Nat) (v : Barrier)

/-- The parity of a core's barrier. -/
def State.parity (s : State) (core b : Nat) : Bool := ((s.coreAt core).bars.getD b Barrier.zero).ph

/-- The core with its barrier `b` replaced. -/
def Core.putBar (b : Nat) (v : Barrier) (c : Core) : Core := { c with bars := c.bars.set! b v }

/-- The state in which a core's barrier is replaced and nobody has gone on yet. -/
def State.putBar (s : State) (core b : Nat) (v : Barrier) : State := s.onCore core (Core.putBar b v)

/-- The fibres that wait at a core's barrier for its open phase. -/
def State.waitersAt (s : State) (core b : Nat) (old : Bool) : List FibreId :=
  (s.allFibres.filter fun f => f.at_ == core && f.park == some (.barrier b old)).map Fibre.id

theorem setBar_eq : s.setBar core b v = if v.ph = s.parity core b then s.putBar core b v else
    ((s.putBar core b v).waitersAt core b (s.parity core b)).foldl (fun s id => s.leaveBar v.last id) (s.putBar core b v) := rfl

theorem putBar_allFibres : (s.putBar core b v).allFibres = s.allFibres := allFibres_onCore ..

theorem setBar_sameBars : SameBars (s.putBar core b v) (s.setBar core b v) := by
  rw [setBar_eq]
  split
  · exact ⟨rfl, fun _ => rfl⟩
  · exact leaveAll_sameBars ..

/-- After an arrival the barrier is what the arrival made of it. -/
theorem setBar_bar (hb : b < 32) : ((s.setBar core b v).coreAt core).bars.getD b Barrier.zero = v := by
  rw [(setBar_sameBars s core b v).2 core, State.putBar, coreAt_onCore_same (f := Core.putBar b v) fun _ => rfl]
  exact vgetD_set!_same _ hb _ _

/-- The barrier of the core in focus after an arrival there. -/
theorem setBar_focus (hb : b < 32) : (s.setBar s.core.num b v).bar b = v := by
  have hnum : (s.setBar s.core.num b v).core.num = s.core.num :=
    (setBar_sameBars s s.core.num b v).1.trans (onCore_coreNum (f := Core.putBar b v) (fun _ => rfl) s _)
  rw [State.bar, ← coreAt_focus, hnum]
  exact setBar_bar s s.core.num b v hb

theorem setBar_open (h : v.ph = s.parity core b) : (s.setBar core b v).fib = s.fib ∧ (s.setBar core b v).fibres = s.fibres := by
  rw [setBar_eq, if_pos h, State.putBar]
  unfold State.onCore
  split <;> exact ⟨rfl, rfl⟩

theorem mem_waitersAt {old : Bool} {id : FibreId} : id ∈ s.waitersAt core b old ↔ ∃ f ∈ s.allFibres, ParkedAt core b old f ∧ f.id = id := by
  simp [State.waitersAt, ParkedAt, and_assoc]

/-- The arrival that completes a phase lets the fibres parked for it go on, and no other (R361). -/
theorem setBar_complete (hs : s.NamesApart) (h : v.ph ≠ s.parity core b) : ∀ f ∈ s.allFibres,
    (¬ParkedAt core b (s.parity core b) f → f ∈ (s.setBar core b v).allFibres) ∧
    (ParkedAt core b (s.parity core b) f → ∃ g ∈ (s.setBar core b v).allFibres, LeftBar f g) := by
  intro f hf
  have hfibres := putBar_allFibres s core b v
  have hmem {id : FibreId} : id ∈ (s.putBar core b v).waitersAt core b (s.parity core b) ↔
      ∃ x ∈ s.allFibres, ParkedAt core b (s.parity core b) x ∧ x.id = id := by rw [mem_waitersAt, hfibres]
  have hnodup : ((s.putBar core b v).waitersAt core b (s.parity core b)).Nodup := by
    rw [State.waitersAt, hfibres]
    exact hs.sublist ((List.filter_sublist).map _)
  obtain ⟨hother, hleft⟩ := leaveAll_allFibres v.last (s := s.putBar core b v) (by rw [State.NamesApart, hfibres]; exact hs) hnodup
    (fun id hid => by
      obtain ⟨x, hx, -, he⟩ := hmem.mp hid
      exact ⟨x, hfibres ▸ hx, he⟩) f (hfibres ▸ hf)
  rw [setBar_eq, if_neg h]
  refine ⟨fun hn => hother fun hid => ?_, fun hp => hleft (hmem.mpr ⟨f, hf, hp, rfl⟩)⟩
  obtain ⟨x, hx, hp, he⟩ := hmem.mp hid
  exact hn (hs.eq_of_id hx hf he ▸ hp)

end

/-! ## The instructions -/

/-- The wait that `bar.sync` begins for the phase of parity `old`. -/
def State.syncWait (s : State) (n : BitVec 5) (old : Bool) : BarWait :=
  { at_ := s.fib.pc, domain := false, bar := n.toNat, level := 0, parity := old, phase := 0 }

/-- The state in which `bar.sync` has arrived and its wait begins. -/
def State.joinedBar (s : State) (n : BitVec 5) (old : Bool) : State := s.setFib fun f => { f with bwait := some (s.syncWait n old) }

section
variable {s : State} {d a : GReg} {n : BitVec 5} {b : Nat} {v : Barrier} {count : Word} {scope : Nat}

theorem arriveBar_error {sub : Nat} (h : (s.bar b).arrive count.toNat scope = .error sub) :
    arriveBar s b count scope = trap s 0x14 sub count := by
  rw [arriveBar, h]
  rfl

/-- The arrival is made in the state after the release, where the barrier is still the same. -/
theorem arriveBar_ok {u : State} (hr : s.release scope = .ok u) (hu : u.bar b = s.bar b) (h : (s.bar b).arrive count.toNat scope = .ok v) :
    arriveBar s b count scope = .ok (u.setBar u.core.num b v, (s.bar b).ph) := by
  simp only [arriveBar, h, hr, ok_bind, hu]

theorem release_relaxed (s : State) : s.release 0 = .ok s := rfl

theorem awaitBar_parks (s : State) (b : Nat) : awaitBar s b (s.bar b).ph = hold s (.barrier b (s.bar b).ph) := if_pos rfl

theorem awaitBar_passes {parity : Bool} (h : (s.bar b).ph ≠ parity) : awaitBar s b parity =
    .ok ((s.acquire (max 1 (s.bar b).last)).setFib fun f => { f with bwait := none }) := if_neg h

variable (hguest : s.fib.guest = false) (hb : barNo s.skein n.toNat = some b)
include hguest hb

/-- The instructions of barriers open alike: at home, with the barrier that their index names. -/
theorem barRun_open (body : Nat → Ex State) : (run s 1 do notGuest s; let b ← barName s n.toNat; body b) = run s 1 (body b) := by
  rw [notGuest_ok hguest, ok_bind, barName, hb]
  rfl

theorem barSync_again {w : BarWait} (hw : s.waiting false = some w) : exec (.barSync a n) s = run s 1 (awaitBar s b w.parity) := by
  refine (barRun_open hguest hb _).trans ?_
  rw [hw]

section
variable (ha : FullG s a)
include ha

theorem barArr_run (hd : FreeG s d) : exec (.barArr d a n) s =
    run s 1 (arriveBar s b (s.g a) 1 >>= fun x => .ok (setG x.1 d (if x.2 then 1 else 0))) := by
  refine (barRun_open hguest hb _).trans ?_
  rw [readG_full ha, ok_bind, destG_free hd, ok_bind]

theorem barArrRlx_run (hd : FreeG s d) : exec (.barArrRlx d a n) s =
    run s 1 (arriveBar s b (s.g a) 0 >>= fun x => .ok (setG x.1 d (if x.2 then 1 else 0))) := by
  refine (barRun_open hguest hb _).trans ?_
  rw [readG_full ha, ok_bind, destG_free hd, ok_bind]

theorem barWait_run : exec (.barWait a n) s = run s 1 (awaitBar s b ((s.g a).getLsbD 0)) := by
  refine (barRun_open hguest hb _).trans ?_
  rw [readG_full ha]
  rfl

theorem barSync_first (hw : s.waiting false = none) : exec (.barSync a n) s =
    run s 1 (arriveBar s b (s.g a) 1 >>= fun x => awaitBar (x.1.joinedBar n x.2) b x.2) := by
  refine (barRun_open hguest hb _).trans ?_
  rw [hw, readG_full ha]
  rfl

end
end

/-- Settles O12: an arrival by its count, each instruction by the arrival and the wait it is made of, and a completed phase by the fibres
that were parked for it. -/
theorem barriers : Obligations.Barriers := by
  refine ⟨fun b count scope => ⟨arrive_range, arrive_mismatch, fun h1 h256 hn => ?_⟩, fun s d a n b v hroom hguest ha hb => ?_,
    fun s core b v hb hs => ⟨setBar_bar s core b v hb, setBar_open s core b v, setBar_complete s core b v hs⟩⟩
  · by_cases hl : b.arr + 1 = count
    · exact ⟨_, arrive_last h1 h256 hn hl, fun _ => ⟨rfl, rfl, rfl, rfl, rfl⟩, fun h => absurd hl h⟩
    · exact ⟨_, arrive_early h1 h256 hn hl, fun h => absurd h hl, fun _ => ⟨rfl, rfl, rfl, rfl⟩⟩
  · refine ⟨fun hd hv => ?_, fun hd hu hm hsame hv => ?_, fun sub he => ⟨fun hd => ⟨?_, ?_⟩, fun hw => ?_⟩, fun h => ?_, fun h => ?_,
      fun hw hu hm hsame hv hlt => ?_, fun w hw => ⟨fun h => ?_, fun h => ?_⟩⟩
    · rw [barArrRlx_run hguest hb ha hd, arriveBar_ok (release_relaxed s) rfl hv]
      exact run_ok hroom rfl
    · rw [barArr_run hguest hb ha hd, arriveBar_ok (release_core hu hm) hsame hv]
      exact run_ok hroom rfl
    · rw [barArr_run hguest hb ha hd, arriveBar_error he]
      exact run_trap hroom rfl
    · rw [barArrRlx_run hguest hb ha hd, arriveBar_error (arrive_error_any he 0)]
      exact run_trap hroom rfl
    · rw [barSync_first hguest hb ha hw, arriveBar_error he]
      exact run_trap hroom rfl
    · rw [barWait_run hguest hb ha]
      exact run_ok hroom (awaitBar_passes h)
    · rw [barWait_run hguest hb ha, ← h]
      exact run_hold hroom (awaitBar_parks s b)
    · have hbar : ((s.settle.setBar s.settle.core.num b v).joinedBar n (s.bar b).ph).bar b = v := setBar_focus s.settle b v hlt
      rw [barSync_first hguest hb ha hw, arriveBar_ok (release_core hu hm) hsame hv]
      refine ⟨State.syncWait _ n _, rfl, rfl, rfl, fun h => ?_, fun h => ?_⟩
      · refine run_ok hroom ((awaitBar_passes (by rwa [hbar])).trans ?_)
        rw [hbar]
        rfl
      · exact run_hold hroom (if_pos (by rwa [hbar]))
    · rw [barSync_again hguest hb hw]
      exact run_ok hroom (awaitBar_passes h)
    · rw [barSync_again hguest hb hw, ← h]
      exact run_hold hroom (awaitBar_parks s b)

end Sys2Proof.Machine

/-! # Reset (O52)

The fields of the reset state, each by evaluation; a chiplet that is not in focus is found in no list, and is the chiplet of its number
as reset leaves it. -/

namespace Sys2Proof.Machine

/-- A chiplet out of focus is, at reset, that of its number in its first state. -/
theorem reset_chipAt_state (ch : Nat) : (State.reset.chipAt ch).state = 0 := by
  unfold State.chipAt
  split
  · rfl
  · rfl

/-- Settles O52: every register by its first value, and each chiplet by whether it is in focus. -/
theorem resetState : Obligations.ResetState :=
  ⟨by decide, rfl, rfl, rfl, rfl, rfl, rfl, rfl, rfl, rfl, rfl, rfl, rfl, rfl, rfl, rfl, fun ch _ => reset_chipAt_state ch, rfl, rfl⟩

end Sys2Proof.Machine

/-! # Words and their fields (O54, O55)

What the formats read of the words that they write, what each check of the decoder lets pass, and what the decoders of the majors have in
common. -/

namespace Sys2Proof

/-! ## Fields of a word -/

/-- A field that lies above the low part of a word is a field of the high part. -/
@[simp] theorem slice_append_high {v w lo len : Nat} (a : BitVec v) (b : BitVec w) (h : w ≤ lo) :
    (no_index (a ++ b)).extractLsb' lo len = a.extractLsb' (lo - w) len :=
  BitVec.extractLsb'_append_eq_of_le h

/-- A field that lies within the low part of a word is a field of it. -/
@[simp] theorem slice_append_low {v w lo len : Nat} (a : BitVec v) (b : BitVec w) (h : lo + len ≤ w) :
    (no_index (a ++ b)).extractLsb' lo len = b.extractLsb' lo len :=
  BitVec.extractLsb'_append_eq_of_add_le h

@[simp] theorem FmtR.unpack_pack (f : FmtR) : unpack f.pack = f := by simp [unpack, pack]
@[simp] theorem FmtI.unpack_pack (f : FmtI) : unpack f.pack = f := by simp [unpack, pack]
@[simp] theorem FmtB.unpack_pack (f : FmtB) : unpack f.pack = f := by simp [unpack, pack]
@[simp] theorem FmtJ.unpack_pack (f : FmtJ) : unpack f.pack = f := by simp [unpack, pack]
@[simp] theorem FmtF.unpack_pack (f : FmtF) : unpack f.pack = f := by simp [unpack, pack]
@[simp] theorem FmtF4.unpack_pack (f : FmtF4) : unpack f.pack = f := by simp [unpack, pack]
@[simp] theorem FmtV.unpack_pack (f : FmtV) : unpack f.pack = f := by simp [unpack, pack]
@[simp] theorem FmtM.unpack_pack (f : FmtM) : unpack f.pack = f := by simp [unpack, pack]
@[simp] theorem FmtP.unpack_pack (f : FmtP) : unpack f.pack = f := by simp [unpack, pack]
@[simp] theorem FmtS.unpack_pack (f : FmtS) : unpack f.pack = f := by simp [unpack, pack]
@[simp] theorem FmtL.unpack_pack (f : FmtL) : unpack f.pack = f := by simp [unpack, pack]
@[simp] theorem FmtXO.unpack_pack (f : FmtXO) : unpack f.pack = f := by simp [unpack, pack]
@[simp] theorem FmtXC.unpack_pack (f : FmtXC) : unpack f.pack = f := by simp [unpack, pack]
@[simp] theorem FmtXA.unpack_pack (f : FmtXA) : unpack f.pack = f := by simp [unpack, pack]
@[simp] theorem FmtXD.unpack_pack (f : FmtXD) : unpack f.pack = f := by simp [unpack, pack]
@[simp] theorem FmtXP.unpack_pack (f : FmtXP) : unpack f.pack = f := by simp [unpack, pack]
@[simp] theorem FmtXM.unpack_pack (f : FmtXM) : unpack f.pack = f := by simp [unpack, pack]
@[simp] theorem FmtXS.unpack_pack (f : FmtXS) : unpack f.pack = f := by simp [unpack, pack]

theorem FmtR.major_pack (f : FmtR) : f.pack.extractLsb' 25 7 = f.major := congrArg major f.unpack_pack
theorem FmtI.major_pack (f : FmtI) : f.pack.extractLsb' 25 7 = f.major := congrArg major f.unpack_pack
theorem FmtB.major_pack (f : FmtB) : f.pack.extractLsb' 25 7 = f.major := congrArg major f.unpack_pack
theorem FmtJ.major_pack (f : FmtJ) : f.pack.extractLsb' 25 7 = f.major := congrArg major f.unpack_pack
theorem FmtF.major_pack (f : FmtF) : f.pack.extractLsb' 25 7 = f.major := congrArg major f.unpack_pack
theorem FmtF4.major_pack (f : FmtF4) : f.pack.extractLsb' 25 7 = f.major := congrArg major f.unpack_pack
theorem FmtV.major_pack (f : FmtV) : f.pack.extractLsb' 25 7 = f.major := congrArg major f.unpack_pack
theorem FmtM.major_pack (f : FmtM) : f.pack.extractLsb' 25 7 = f.major := congrArg major f.unpack_pack
theorem FmtP.major_pack (f : FmtP) : f.pack.extractLsb' 25 7 = f.major := congrArg major f.unpack_pack
theorem FmtS.major_pack (f : FmtS) : f.pack.extractLsb' 25 7 = f.major := congrArg major f.unpack_pack
theorem FmtL.major_pack (f : FmtL) : f.pack.extractLsb' 25 7 = f.major := congrArg major f.unpack_pack

@[simp] theorem lowReg_append (d : BitVec 3) : lowReg (0#1 ++ d) = true := by simp [lowReg]

@[simp] theorem reg3_append (d : BitVec 3) : reg3 (0#1 ++ d) = d := by simp [reg3]

/-! ## Values of narrow fields -/

theorem bitVec1_cases : ∀ z : BitVec 1, z = 0 ∨ z = 1 := by decide

theorem bitVec2_cases : ∀ z : BitVec 2, z = 0 ∨ z = 1 ∨ z = 2 ∨ z = 3 := by decide

theorem le_four_cases : ∀ k : BitVec 3, k.toNat ≤ 4 → k = 0 ∨ k = 1 ∨ k = 2 ∨ k = 3 ∨ k = 4 := by decide

theorem le_five_cases : ∀ k : BitVec 3, k.toNat ≤ 5 → k = 0 ∨ k = 1 ∨ k = 2 ∨ k = 3 ∨ k = 4 ∨ k = 5 := by decide

/-- A vector of offsets stands in the index field as 8 to 14 (R157). -/
theorem vector_index : ∀ j : BitVec 3, (j != 7) = true → 8 ≤ (1#1 ++ j).toNat ∧ (1#1 ++ j).toNat ≤ 14 := by decide

/-- An index field that names a general register or none names no vector of offsets (R157). -/
theorem ixOk_not_vector : ∀ i : BitVec 4, ixOk i = true → ¬(8 ≤ i.toNat ∧ i.toNat ≤ 14) := by decide

/-- The function codes of `cp.pull` (R165). -/
theorem pull_function_lt : ∀ fn : BitVec 2, (0#4 ++ fn).toNat < 4 := by decide

/-! ## Function codes of vector words (R155) -/

/-- A code with an element size stays below 16, so that it leaves room for a slot count. -/
theorem sized_code_lt (c : BitVec 8) (z : BitVec 2) (h : c.toNat ≤ 12) : (c + z.setWidth 8).toNat < 16 := by
  have hz := z.isLt
  simp only [BitVec.toNat_add, BitVec.toNat_setWidth]
  omega

/-- `FmtV.code` reads the code that `vcode` writes. -/
theorem FmtV.code_vcode {major : BitVec 7} {d a b n : BitVec 4} {s w : BitVec 1} {m : BitVec 3} {c : BitVec 8} (h : c.toNat < 16) :
    (FmtV.mk major d a b s w m (vcode s n c)).code = c := by
  obtain rfl | rfl := bitVec1_cases s
  · rfl
  · apply BitVec.eq_of_toNat_eq
    simp [code, vcode]
    omega

/-- `FmtV.slots` reads the slot count that `vcode` writes. -/
theorem FmtV.slots_vcode {major : BitVec 7} {d a b n : BitVec 4} {s w : BitVec 1} {m : BitVec 3} {c : BitVec 8}
    (h : spoolOk s n = true) : (FmtV.mk major d a b s w m (vcode s n c)).slots = n := by
  obtain rfl | rfl := bitVec1_cases s
  · exact (eq_of_beq h).symm
  · simp [slots, vcode]

/-! ## Checks of the decoder -/

theorem need5_ok {c : Bool} {r : Dec} {i : Instr} (hc : c = true) (hr : r = .ok i) : need5 c r = .ok i := by
  rw [hc, hr]
  rfl

theorem need6_ok {c : Bool} {r : Dec} {i : Instr} (hc : c = true) (hr : r = .ok i) : need6 c r = .ok i := by
  rw [hc, hr]
  rfl

/-- The zero word has no major. -/
theorem shape_zero (e : BitVec 32) : shape 0 e = .error 1 := rfl

/-- Decoding gives the instruction that the fields give, where it is well-formed (R171, R172). -/
theorem decode_eq_ok {x e : BitVec 32} {i : Instr} : decode x e = .ok i ↔ shape x e = .ok i ∧ i.wf = true := by
  unfold decode
  split
  · rename_i hx
    rw [hx, shape_zero]
    constructor
    · nofun
    · rintro ⟨hs, -⟩
      nomatch hs
  · split
    · rename_i hs
      simp [hs]
    · rename_i j hs
      rw [hs]
      constructor
      · intro h
        split at h
        · rename_i hf
          split at h
          · rename_i hc
            cases h
            exact ⟨rfl, Bool.and_eq_true_iff.mpr ⟨hf, hc⟩⟩
          · nomatch h
        · nomatch h
      · rintro ⟨⟨⟩, hw⟩
        obtain ⟨hf, hc⟩ := Bool.and_eq_true_iff.mp hw
        rw [if_pos hf, if_pos hc]

/-! ## What the decoders answer -/

/-- What the decoders are made of: instructions that have words, subcauses of R173, and the checks between them. -/
inductive Dec.Sound : Dec → Prop where
  | ok {i : Instr} (h : (encode i).isSome = true) : Sound (.ok i)
  | error {c : Nat} (h : c ≤ 6) : Sound (.error c)
  | need5 {c : Bool} {r : Dec} (h : Sound r) : Sound (need5 c r)
  | need6 {c : Bool} {r : Dec} (h : Sound r) : Sound (need6 c r)
  | ite {p : Prop} [Decidable p] {r q : Dec} (hr : Sound r) (hq : Sound q) : Sound (if p then r else q)

theorem shape_sound (x e : BitVec 32) : (shape x e).Sound := by
  unfold shape
  split
  case h_76 => exact .error (by decide)
  all_goals simp only [dec01, dec02, dec03, dec04, dec05, dec06, dec07, dec08, dec09, dec10, dec11, dec12, dec13, dec18, dec19, dec1A,
    dec1B, dec1C, dec20, dec21, dec22, dec23, dec24, dec25, dec26, dec27, dec28, dec29, dec2A, dec2B, dec30, dec31, dec32, dec33, dec34,
    dec35, dec38, dec39, dec3A, dec3B, dec3C, dec40, dec41, dec42, dec43, dec44, dec45, dec50, dec51, dec52, dec53, dec54, dec55, dec56,
    dec57, dec60, dec61, dec62, dec63, dec64, dec68, dec69, dec6A, dec6C, dec6D, dec70, dec71, dec72, dec74, dec75, dec76, dec78, dec79,
    dec7A, dec7B]
  all_goals repeat' constructor
  all_goals split
  all_goals repeat' constructor

theorem Dec.Sound.spec {r : Dec} (h : r.Sound) : (∀ i, r = .ok i → (encode i).isSome = true) ∧ ∀ c, r = .error c → c ≤ 6 := by
  have refusal : ∀ n ≤ 6, (∀ i, (.error n : Dec) = .ok i → (encode i).isSome = true) ∧ ∀ c, (.error n : Dec) = .error c → c ≤ 6 := by
    refine fun n hn => ⟨fun i hi => (nomatch hi), fun c hc => ?_⟩
    cases hc
    exact hn
  induction h with
  | ok h =>
    refine ⟨fun i hi => ?_, fun c hc => nomatch hc⟩
    cases hi
    exact h
  | error h => exact refusal _ h
  | @need5 c r _ ih =>
    cases c
    · exact refusal 5 (by decide)
    · exact ih
  | @need6 c r _ ih =>
    cases c
    · exact refusal 6 (by decide)
    · exact ih
  | ite _ _ ihr ihq =>
    split
    · exact ihr
    · exact ihq

/-- The subcauses of R173 end at 6. -/
theorem decode_subcause_le {x e : BitVec 32} {c : Nat} (h : decode x e = .error c) : c ≤ 6 := by
  unfold decode at h
  split at h
  · cases h
    decide
  · split at h
    · rename_i hs
      cases h
      exact (shape_sound x e).spec.2 _ hs
    · split at h
      · split at h <;> cases h
        decide
      · cases h
        decide

end Sys2Proof

/-! # Encoding and decoding (O54, O53)

A word is read by the decoder of its major. For each format, an instruction whose word has that format is given back where that decoder
gives it back from the fields; then the cases of `Instr` are taken in the groups that have the same fields. -/

namespace Sys2Proof

/-- The fields of the words of an instruction give it back. -/
def Decodes (i : Instr) : Prop := ∀ w e, encode i = some (w, e) → shape w (e.getD 0) = .ok i

theorem decodes_of_words {i : Instr} {w : BitVec 32} {e : Option (BitVec 32)} (he : encode i = some (w, e))
    (h : shape w (e.getD 0) = .ok i) : Decodes i := by
  intro w' e' he'
  cases he.symm.trans he'
  exact h

/-! ## One rule for each format -/

/-- The decoders of format R, by major (R154). -/
noncomputable def FmtR.dec (f : FmtR) : Dec :=
  match f.major.toNat with
  | 0x01 => dec01 f
  | 0x08 => dec08 f
  | 0x09 => dec09 f
  | 0x12 => dec12 f
  | 0x18 => dec18 f
  | 0x19 => dec19 f
  | 0x1A => dec1A f
  | 0x1B => dec1B f
  | 0x1C => dec1C f
  | 0x29 => dec29 f
  | 0x30 => dec30 f
  | 0x31 => dec31 f
  | 0x32 => dec32 f
  | 0x33 => dec33 f
  | 0x38 => dec38 f
  | 0x39 => dec39 f
  | 0x3A => dec3A f
  | 0x3B => dec3B f
  | 0x3C => dec3C f
  | 0x44 => dec44 f
  | 0x57 => dec57 f
  | 0x60 => dec60 f
  | 0x61 => dec61 f
  | 0x62 => dec62 f
  | 0x63 => dec63 f
  | 0x64 => dec64 f
  | 0x6A => dec6A f
  | 0x6D => dec6D f
  | 0x76 => dec76 f
  | 0x79 => dec79 f
  | 0x7A => dec7A f
  | 0x7B => dec7B f
  | _ => .error 1

theorem FmtR.decodes {f : FmtR} {i : Instr} (he : encode i = some (f.pack, none)) (h : f.dec = .ok i) : Decodes i := by
  refine decodes_of_words he ?_
  unfold dec at h
  split at h
  case h_33 => nomatch h
  all_goals
    rename_i hm
    rw [shape, major_pack, hm, unpack_pack]
    exact h

/-- The decoders of format I, by major (R154). -/
noncomputable def FmtI.dec (f : FmtI) : Dec :=
  match f.major.toNat with
  | 0x02 => dec02 f
  | 0x03 => dec03 f
  | 0x04 => dec04 f
  | 0x05 => dec05 f
  | 0x06 => dec06 f
  | 0x07 => dec07 f
  | _ => .error 1

theorem FmtI.decodes {f : FmtI} {i : Instr} (he : encode i = some (f.pack, none)) (h : f.dec = .ok i) : Decodes i := by
  refine decodes_of_words he ?_
  unfold dec at h
  split at h
  case h_7 => nomatch h
  all_goals
    rename_i hm
    rw [shape, major_pack, hm, unpack_pack]
    exact h

theorem FmtB.decodes {f : FmtB} {i : Instr} (he : encode i = some (f.pack, none)) (hm : f.major = 0x10) (h : dec10 f = .ok i) :
    Decodes i := by
  refine decodes_of_words he ?_
  rw [shape, major_pack, hm, unpack_pack]
  exact h

theorem FmtJ.decodes {f : FmtJ} {i : Instr} (he : encode i = some (f.pack, none)) (hm : f.major = 0x11) (h : dec11 f = .ok i) :
    Decodes i := by
  refine decodes_of_words he ?_
  rw [shape, major_pack, hm, unpack_pack]
  exact h

/-- The decoders of format F, by major (R154). -/
noncomputable def FmtF.dec (f : FmtF) : Dec :=
  match f.major.toNat with
  | 0x40 => dec40 f
  | 0x43 => dec43 f
  | 0x45 => dec45 f
  | _ => .error 1

theorem FmtF.decodes {f : FmtF} {i : Instr} (he : encode i = some (f.pack, none)) (h : f.dec = .ok i) : Decodes i := by
  refine decodes_of_words he ?_
  unfold dec at h
  split at h
  case h_4 => nomatch h
  all_goals
    rename_i hm
    rw [shape, major_pack, hm, unpack_pack]
    exact h

/-- The decoders of format F4, by major (R154). -/
noncomputable def FmtF4.dec (f : FmtF4) : Dec :=
  match f.major.toNat with
  | 0x41 => dec41 f
  | 0x42 => dec42 f
  | _ => .error 1

theorem FmtF4.decodes {f : FmtF4} {i : Instr} (he : encode i = some (f.pack, none)) (h : f.dec = .ok i) : Decodes i := by
  refine decodes_of_words he ?_
  unfold dec at h
  split at h
  case h_3 => nomatch h
  all_goals
    rename_i hm
    rw [shape, major_pack, hm, unpack_pack]
    exact h

/-- The decoders of format V, by major (R154). -/
noncomputable def FmtV.dec (f : FmtV) : Dec :=
  match f.major.toNat with
  | 0x50 => dec50 f
  | 0x51 => dec51 f
  | 0x52 => dec52 f
  | 0x53 => dec53 f
  | 0x54 => dec54 f
  | 0x55 => dec55 f
  | 0x56 => dec56 f
  | _ => .error 1

theorem FmtV.decodes {f : FmtV} {i : Instr} (he : encode i = some (f.pack, none)) (h : f.dec = .ok i) : Decodes i := by
  refine decodes_of_words he ?_
  unfold dec at h
  split at h
  case h_8 => nomatch h
  all_goals
    rename_i hm
    rw [shape, major_pack, hm, unpack_pack]
    exact h

/-- The decoders of format M, by major (R154). -/
noncomputable def FmtM.dec (f : FmtM) : Dec :=
  match f.major.toNat with
  | 0x20 => dec20 f
  | 0x21 => dec21 f
  | 0x22 => dec22 f
  | 0x23 => dec23 f
  | 0x24 => dec24 f
  | 0x25 => dec25 f
  | 0x26 => dec26 f
  | 0x27 => dec27 f
  | 0x28 => dec28 f
  | 0x2A => dec2A f
  | _ => .error 1

theorem FmtM.decodes {f : FmtM} {i : Instr} (he : encode i = some (f.pack, none)) (h : f.dec = .ok i) : Decodes i := by
  refine decodes_of_words he ?_
  unfold dec at h
  split at h
  case h_11 => nomatch h
  all_goals
    rename_i hm
    rw [shape, major_pack, hm, unpack_pack]
    exact h

theorem FmtP.decodes {f : FmtP} {i : Instr} (he : encode i = some (f.pack, none)) (hm : f.major = 0x13) (h : dec13 f = .ok i) :
    Decodes i := by
  refine decodes_of_words he ?_
  rw [shape, major_pack, hm, unpack_pack]
  exact h

theorem FmtS.decodes {f : FmtS} {i : Instr} (he : encode i = some (f.pack, none)) (hm : f.major = 0x78) (h : dec78 f = .ok i) :
    Decodes i := by
  refine decodes_of_words he ?_
  rw [shape, major_pack, hm, unpack_pack]
  exact h

/-- The decoders of the majors whose extension word has format XO (R171). -/
noncomputable def FmtXO.dec (f : FmtL) (e : FmtXO) : Dec :=
  match f.major.toNat with
  | 0x2B => dec2B f e
  | 0x34 => dec34 f e
  | 0x35 => dec35 f e
  | _ => .error 1

theorem FmtXO.decodes {f : FmtL} {e : FmtXO} {i : Instr} (he : encode i = some (f.pack, some e.pack)) (h : e.dec f = .ok i) :
    Decodes i := by
  refine decodes_of_words he ?_
  unfold dec at h
  split at h
  case h_4 => nomatch h
  all_goals
    rename_i hm
    rw [shape, FmtL.major_pack, hm, FmtL.unpack_pack, Option.getD_some, unpack_pack]
    exact h

/-- The decoders of the majors whose extension word has format XC (R171). -/
noncomputable def FmtXC.dec (f : FmtL) (e : FmtXC) : Dec :=
  match f.major.toNat with
  | 0x70 => dec70 f e
  | 0x71 => dec71 f e
  | 0x72 => dec72 f e
  | _ => .error 1

theorem FmtXC.decodes {f : FmtL} {e : FmtXC} {i : Instr} (he : encode i = some (f.pack, some e.pack)) (h : e.dec f = .ok i) :
    Decodes i := by
  refine decodes_of_words he ?_
  unfold dec at h
  split at h
  case h_4 => nomatch h
  all_goals
    rename_i hm
    rw [shape, FmtL.major_pack, hm, FmtL.unpack_pack, Option.getD_some, unpack_pack]
    exact h

theorem FmtXA.decodes {f : FmtL} {e : FmtXA} {i : Instr} (he : encode i = some (f.pack, some e.pack)) (hm : f.major = 0x68)
    (h : dec68 f e = .ok i) : Decodes i := by
  refine decodes_of_words he ?_
  rw [shape, FmtL.major_pack, hm, FmtL.unpack_pack, Option.getD_some, unpack_pack]
  exact h

theorem FmtXD.decodes {f : FmtL} {e : FmtXD} {i : Instr} (he : encode i = some (f.pack, some e.pack)) (hm : f.major = 0x69)
    (h : dec69 f e = .ok i) : Decodes i := by
  refine decodes_of_words he ?_
  rw [shape, FmtL.major_pack, hm, FmtL.unpack_pack, Option.getD_some, unpack_pack]
  exact h

theorem FmtXP.decodes {f : FmtL} {e : FmtXP} {i : Instr} (he : encode i = some (f.pack, some e.pack)) (hm : f.major = 0x6C)
    (h : dec6C f e = .ok i) : Decodes i := by
  refine decodes_of_words he ?_
  rw [shape, FmtL.major_pack, hm, FmtL.unpack_pack, Option.getD_some, unpack_pack]
  exact h

theorem FmtXM.decodes {f : FmtL} {e : FmtXM} {i : Instr} (he : encode i = some (f.pack, some e.pack)) (hm : f.major = 0x74)
    (h : dec74 f e = .ok i) : Decodes i := by
  refine decodes_of_words he ?_
  rw [shape, FmtL.major_pack, hm, FmtL.unpack_pack, Option.getD_some, unpack_pack]
  exact h

theorem FmtXS.decodes {f : FmtL} {e : FmtXS} {i : Instr} (he : encode i = some (f.pack, some e.pack)) (hm : f.major = 0x75)
    (h : dec75 f e = .ok i) : Decodes i := by
  refine decodes_of_words he ?_
  rw [shape, FmtL.major_pack, hm, FmtL.unpack_pack, Option.getD_some, unpack_pack]
  exact h

/-! ## Every instruction -/

/-- By cases on the instruction, in groups that have the same fields. A field of one or two bits that is part of the function code is taken
by its values; an operand that shares its field with bits that are zero is read back out of it. What is left at the end are the steps of
agents, which have no words. -/
theorem decodes_of_fieldOk {i : Instr} (hw : i.fieldOk = true) : Decodes i := by
  cases i
  -- each field of the word is one operand, or fixed
  case add | sub | and | or | xor | andn | sll | srl | sra | slt | sltu | min | max | minu | maxu | mov | leaF | bfExtu | bfExts | bfIns |
      popc | clz | ctz | mul | mulh | mulhu | div | divu | rem | remu | jr | jalr | ret | spawn | exit | yield | sleep | evret | evWait |
      rgnBegin | rgnEnd | topoGrid | topoSelf | topoCore | topoDom | topoState | topoLaunch | launch | lchStat | ckpt | lqSet | lchAbort |
      lchResume | ldFeTake | feClr | feSet | feTest | gEmpty | migrate | migrateRet | twait | precSet | precGet | precSwap | fflagsRd |
      fwinGet | tritPack | tritUnpack | tritPackM | tritUnpackM | bsSeek | bsGet | bsGets | bsPeek | bsSkip | bsGetr | bsSkipr | bsAlign |
      bsPos | arrWscaleRd | arrWscale | plOpen | plClose | plNext | plSkip | plScore | plStat | netDrain | strRoute | strRdroute | trap |
      tret | tretRgn | hallmark | diagLdc | diagLdr | diagPoison | diagFence | diagHmrd | l1Inv | l1Drain | l2Wb | l2Wbinv | l2Inv |
      l2WbinvSlice | mscWbinvKey | cmSync | tlbInvVa | tlbInvAs | tlbInvAll | tlbSync | tlbProbe =>
    exact FmtR.decodes rfl rfl
  case addi | andi | ori | xori | ldi | ldiCat =>
    exact FmtI.decodes rfl rfl
  case ldF | stF | ldFAdv | pfL2 | pfMsc | pfL1 =>
    exact FmtM.decodes rfl rfl
  case fadd | fsub | fmul | fdiv | fsqrt | fmin | fmax | frint | frintX | fmov | fneg | fabs | fsgn | fsgnn | fsgnx | fconst =>
    exact FmtF.decodes rfl rfl
  case fma | fnma | fms | fnms =>
    exact FmtF4.decodes rfl rfl
  case vsqrtVf | vnegVf | vabsVf | vrintVf | vrsumVf | vrminVf | vrmaxVf | vscanVf | vsplatVf | vmov =>
    exact FmtV.decodes rfl rfl
  case bEq | bNe | bLt | bGe | bLtu | bGeu | bZ | bNz =>
    exact FmtB.decodes rfl rfl rfl
  case jal =>
    exact FmtJ.decodes rfl rfl rfl
  case rpt =>
    exact FmtP.decodes rfl rfl rfl
  case srd | swr | sswp | sset | sclr =>
    exact FmtS.decodes rfl rfl rfl
  -- operands that share a field with zero bits, or with each other
  case lea | evEn | evDis | barArr | barArrRlx | barWait | barSync | barRmt | semPost | semWait | semTry | semRd | fence | fenceAcq |
      fenceRel | dbarArr | dbarWait | dbarSync | dphase | dphaseT | precP | precRm | fflagsClr | fwinSet | splRd | splFill | cvtVfE8m10 |
      cvtE8m10Vf | tblLoad | tblLoadArr | tblRd | tblInv | qntBf16 | qntF32 | qntVf | qntFin | bsRice | arrAnchor | arrAnchorOs |
      arrClearLd | arrStat | arrStatRec | strBind | strUnbind | strExp | diagStc =>
    exact FmtR.decodes rfl (need5_ok (by simp) (by simp))
  case splWait | splRel | splWr | splCommit | arrClear =>
    exact FmtR.decodes rfl (congrArg Except.ok (by simp))
  case feq | flt | fle | fltQ | fleQ | fcmp | fclass =>
    exact FmtF.decodes rfl (need5_ok (by simp) (by simp))
  case mand | mor | mxor | mandn | mnot | mpopc | mfirst | mfromg | mtog | vextVf | vinsVf =>
    exact FmtV.decodes rfl (need5_ok (by simp) (need6_ok rfl (by simp)))
  case st | stRel | stFe | stNt =>
    exact FmtM.decodes rfl (need5_ok (by simp) (by simp))
  case ld | ldAcq | ldFe | ldNt =>
    exact FmtM.decodes rfl (congrArg Except.ok (by simp))
  -- the index field says whether a vector access gathers
  case vld | vst =>
    obtain ⟨hi, -⟩ := Bool.and_eq_true_iff.mp hw
    exact FmtM.decodes rfl ((if_neg (ixOk_not_vector _ hi)).trans (by simp))
  case vldF | vstF =>
    obtain ⟨hi, -⟩ := Bool.and_eq_true_iff.mp hw
    exact FmtM.decodes rfl ((if_neg (ixOk_not_vector _ hi)).trans (need5_ok (by simp) (by simp)))
  case vldGather | vstScatter =>
    obtain ⟨hj, -⟩ := Bool.and_eq_true_iff.mp hw
    exact FmtM.decodes rfl ((if_pos (vector_index _ hj)).trans (by simp))
  case vldFGather | vstFScatter =>
    obtain ⟨hj, -⟩ := Bool.and_eq_true_iff.mp hw
    exact FmtM.decodes rfl ((if_pos (vector_index _ hj)).trans (need5_ok (by simp) (by simp)))
  -- the function code holds a size or a format
  case amoAdd | amoAnd | amoOr | amoXor | amoMin | amoMax | amoMinu | amoMaxu | amoSwap | amoInc | amoDec | updAdd | updAnd | updOr |
      updXor | updMin | updMax | updMinu | updMaxu =>
    rename_i s
    obtain rfl | rfl := bitVec1_cases s
    all_goals exact FmtR.decodes rfl rfl
  case cas =>
    rename_i s c
    obtain rfl | rfl := bitVec1_cases s
    all_goals exact FmtR.decodes rfl (need5_ok (by simp) (by simp))
  case cvtVfInt | cvtVfIeee | cvtIeeeVf =>
    rename_i z f
    obtain rfl | rfl | rfl | rfl := bitVec2_cases z
    all_goals exact FmtR.decodes rfl (need5_ok (by simp) (by simp))
  case cvtIntVf =>
    rename_i z r f
    obtain rfl | rfl | rfl | rfl := bitVec2_cases z
    all_goals exact FmtR.decodes rfl (need5_ok (by simp) (by simp))
  case vaddus | vsubs | vsubus | vand | vor | vxor | vminInt | vmaxInt | vminu | vmaxu | vsll | vsrl | vsra | vmulh | vmulhu | vrsumInt |
      vrminInt | vrmaxInt | vrminu | vrmaxu | vrand | vror | vrxor | vscanInt | vcvtIntVf | vcvtIntVfRtz | vcvtVfIeee | vcvtIeeeVf =>
    rename_i z
    obtain rfl | rfl | rfl | rfl := bitVec2_cases z
    all_goals exact FmtV.decodes rfl rfl
  case vsplatInt | vextInt | vinsInt =>
    rename_i z
    obtain rfl | rfl | rfl | rfl := bitVec2_cases z
    all_goals exact FmtV.decodes rfl (need5_ok (by simp) (need6_ok rfl (by simp)))
  case vcompress =>
    rename_i k
    obtain rfl | rfl | rfl | rfl | rfl := le_four_cases k (of_decide_eq_true hw)
    all_goals exact FmtV.decodes rfl rfl
  case vslideup | vslidedn =>
    rename_i k
    obtain rfl | rfl | rfl | rfl | rfl := le_four_cases k (of_decide_eq_true hw)
    all_goals exact FmtV.decodes rfl (need5_ok (by simp) (need6_ok rfl (by simp)))
  case vcvtVfInt =>
    rename_i k
    obtain rfl | rfl | rfl | rfl | rfl | rfl := le_five_cases k (of_decide_eq_true hw)
    all_goals exact FmtV.decodes rfl rfl
  -- the function code may hold the slot count of a spool operand
  case vaddVf | vsubVf | vmulVf | vdivVf | vminVf | vmaxVf =>
    refine FmtV.decodes rfl (?_ : dec50 _ = _)
    rw [dec50, FmtV.code_vcode (by decide), FmtV.slots_vcode hw]
    rfl
  case vfmaVf | vfmsVf | vfnmaVf | vfnmsVf =>
    refine FmtV.decodes rfl (?_ : dec52 _ = _)
    rw [dec52, FmtV.code_vcode (by decide), FmtV.slots_vcode hw]
    rfl
  case vaddInt | vsubInt | vmulInt | vadds =>
    rename_i z
    refine FmtV.decodes rfl (?_ : dec51 _ = _)
    rw [dec51, FmtV.code_vcode (sized_code_lt _ z (by decide)), FmtV.slots_vcode hw]
    obtain rfl | rfl | rfl | rfl := bitVec2_cases z
    all_goals rfl
  case vmac =>
    rename_i z
    refine FmtV.decodes rfl (?_ : dec52 _ = _)
    rw [dec52, FmtV.code_vcode (sized_code_lt _ z (by decide)), FmtV.slots_vcode hw]
    obtain rfl | rfl | rfl | rfl := bitVec2_cases z
    all_goals rfl
  case vcmpEqVf | vcmpLtVf | vcmpLeVf | vcmpUnVf =>
    refine FmtV.decodes rfl (?_ : dec53 _ = _)
    rw [dec53, FmtV.code_vcode (by decide), FmtV.slots_vcode hw]
    exact need5_ok (by simp) (by simp)
  case vcmpEqInt | vcmpLtInt | vcmpLtuInt =>
    rename_i z
    obtain ⟨hn, -⟩ := Bool.and_eq_true_iff.mp hw
    refine FmtV.decodes rfl (?_ : dec53 _ = _)
    rw [dec53, FmtV.code_vcode (sized_code_lt _ z (by decide)), FmtV.slots_vcode hn]
    obtain rfl | rfl | rfl | rfl := bitVec2_cases z
    all_goals exact need5_ok (by simp) (by simp)
  case vperm =>
    rename_i k
    obtain ⟨hn, hk⟩ := Bool.and_eq_true_iff.mp hw
    refine FmtV.decodes rfl (?_ : dec55 _ = _)
    obtain rfl | rfl | rfl | rfl | rfl := le_four_cases k (of_decide_eq_true hk)
    all_goals rw [dec55, FmtV.code_vcode (by decide), FmtV.slots_vcode hn]
    all_goals rfl
  -- long instructions
  case ldScoped =>
    exact FmtXO.decodes rfl (need5_ok (by simp) ((if_pos (by simp)).trans (by simp)))
  case stScoped =>
    exact FmtXO.decodes rfl (need5_ok (by simp) ((if_neg (by simp)).trans (need5_ok (by simp) (by simp))))
  case amoScoped =>
    obtain ⟨hop, -⟩ := Bool.and_eq_true_iff.mp hw
    exact FmtXO.decodes rfl ((if_pos (of_decide_eq_true hop)).trans rfl)
  case casScoped =>
    rename_i s sc o m
    obtain rfl | rfl := bitVec1_cases s
    all_goals exact FmtXO.decodes rfl rfl
  case arrMv | arrMm =>
    exact FmtXA.decodes rfl rfl rfl
  case arrDrain =>
    exact FmtXD.decodes rfl rfl rfl
  case plIsect | plUnion =>
    rename_i out osp
    have hout : (out == 1 || osp == 0) = true := hw
    refine FmtXP.decodes rfl rfl (need5_ok ?_ rfl)
    obtain rfl | rfl := bitVec1_cases out
    · simpa using hout
    · rfl
  case plFuse | plTopk =>
    exact FmtXP.decodes rfl rfl rfl
  case cpPull =>
    rename_i esz _ lc _ _ _ _ _
    have hesz : (esz == 0 || bit lc 0 || bit lc 1) = true := hw
    exact FmtXC.decodes rfl ((if_pos (pull_function_lt _)).trans (need5_ok (by simpa using hesz) (need6_ok rfl (by simp))))
  case cpPush =>
    obtain ⟨hfn, hd⟩ := Bool.and_eq_true_iff.mp hw
    exact FmtXC.decodes rfl ((if_pos (of_decide_eq_true hfn)).trans (need5_ok (by simpa using hd) (need6_ok rfl (by simp))))
  case cpGather =>
    rename_i s _ _ ixw _
    have hix : ixw.toNat < 2 := of_decide_eq_true hw
    obtain rfl | rfl := bitVec1_cases s
    all_goals exact FmtXC.decodes rfl (need5_ok (by simpa using hix) (need6_ok rfl (by simp)))
  case msgSend =>
    exact FmtXM.decodes rfl rfl (need5_ok (by simp) (by simp))
  case msgReply =>
    exact FmtXM.decodes rfl rfl rfl
  case strSend =>
    exact FmtXS.decodes rfl rfl (need5_ok (by simp) (by simp))
  case strRecv =>
    exact FmtXS.decodes rfl rfl rfl
  all_goals exact fun _ _ h => nomatch h

theorem decode_encode {i : Instr} {w : BitVec 32} {e : Option (BitVec 32)} (hw : i.wf = true) (he : encode i = some (w, e)) :
    decode w (e.getD 0) = .ok i :=
  decode_eq_ok.mpr ⟨decodes_of_fieldOk (Bool.and_eq_true_iff.mp hw).1 w e he, hw⟩

/-- The word of a short instruction decodes to it. -/
theorem decodeTableWord_short {i : Instr} {w : BitVec 32} (hw : i.wf = true) (he : encode i = some (w, none)) :
    decodeTableWord 32 w.toNat = some i := by
  have hlt := w.isLt
  have hbase : BitVec.ofNat 32 (w.toNat % 2 ^ 32) = w := by
    apply BitVec.eq_of_toNat_eq
    simp only [BitVec.toNat_ofNat]
    omega
  have hext : BitVec.ofNat 32 (w.toNat % 2 ^ 32 / 2 ^ 32) = 0 := by
    have h0 : w.toNat % 2 ^ 32 / 2 ^ 32 = 0 := by omega
    rw [h0]
    rfl
  have hd := decode_encode hw he
  rw [Option.getD_none] at hd
  simp only [decodeTableWord, hbase, hext, hd]

/-- The two words of a long instruction decode to it, the base word in the low half. -/
theorem decodeTableWord_long {i : Instr} {w e : BitVec 32} (hw : i.wf = true) (he : encode i = some (w, some e)) :
    decodeTableWord 64 (e ++ w).toNat = some i := by
  have hlt := w.isLt
  have hlt' := e.isLt
  have hnat : (e ++ w).toNat = e.toNat * 2 ^ 32 + w.toNat := by
    rw [BitVec.toNat_append, ← Nat.shiftLeft_add_eq_or_of_lt hlt, Nat.shiftLeft_eq]
  have hbase : BitVec.ofNat 32 ((e ++ w).toNat % 2 ^ 64) = w := by
    apply BitVec.eq_of_toNat_eq
    simp only [BitVec.toNat_ofNat, hnat]
    omega
  have hext : BitVec.ofNat 32 ((e ++ w).toNat % 2 ^ 64 / 2 ^ 32) = e := by
    apply BitVec.eq_of_toNat_eq
    simp only [BitVec.toNat_ofNat, hnat]
    omega
  have hd := decode_encode hw he
  rw [Option.getD_some] at hd
  simp only [decodeTableWord, hbase, hext, hd]

end Sys2Proof

namespace Sys2Proof.Machine

/-- Settles O54: by cases on the instruction, its words give its fields back, and its well-formedness passes the checks. -/
theorem encodeDecode : Obligations.EncodeDecode := fun _ _ _ => decode_encode

/-- Settles O53: each word is the encoding of its instruction, and the zero word is refused first. -/
theorem decodeWords : Obligations.DecodeWords :=
  ⟨decodeTableWord_short (w := 0xF2180007) rfl rfl, decodeTableWord_short (w := 0xF2000100) rfl rfl,
    decodeTableWord_short (w := 0x23C000C0) rfl rfl, decodeTableWord_short (w := 0x25D80100) rfl rfl,
    decodeTableWord_short (w := 0x24380200) rfl rfl, decodeTableWord_short (w := 0x30530000) rfl rfl,
    decodeTableWord_long (w := 0xEA000004) (e := 0x24190600) rfl rfl, rfl⟩

end Sys2Proof.Machine

/-! # Fetched words (O55, O56)

What becomes of words that were fetched, and which words a step fetches. -/

namespace Sys2Proof.Machine

/-! ## Issue of fetched words -/

@[simp] theorem State.setFetched_fib (s : State) (x y : BitVec 32) : (s.setFetched x y).fib = s.fib := rfl

@[simp] theorem State.setFetched_upset (s : State) (x y : BitVec 32) : (s.setFetched x y).upset = s.upset := rfl

/-- Refused words trap (R172). -/
theorem issueWords_illegal {s : State} {x y : BitVec 32} {c : Nat} (hd : decode x y = .error c)
    (hc : ¬(c = 6 ∧ s.fib.rpt.refuses x y = true)) : issueWords s x y = exec (.illegalInstruction x y c) (s.setFetched x y) := by
  simp only [issueWords, hd]
  exact if_neg hc

/-- Words that R162 refuses close the frame and trap, whether they decode or are a forbidden combination. -/
theorem issueWords_refused {s : State} {x y : BitVec 32} {i : Instr} (hr : s.fib.rpt.refuses x y = true)
    (hd : decode x y = .ok i ∨ decode x y = .error 6) : issueWords s x y = refuseBody (s.setFetched x y) x y := by
  obtain hd | hd := hd
  · simp only [issueWords, hd]
    exact if_pos hr
  · simp only [issueWords, hd]
    exact if_pos ⟨trivial, hr⟩

/-- Outside the capture of a frame, words run under their check (R439). -/
theorem issueWords_runs {s : State} {x y : BitVec 32} {i : Instr} (hd : decode x y = .ok i) (hb : s.fib.rpt.inBody = false) :
    issueWords s x y = checked x (s.setFetched x y) (exec i) := by
  have hr : s.fib.rpt.refuses x y = false := by simp [Frame.refuses, hb]
  simp only [issueWords, hd]
  exact (if_neg (by simp [hr])).trans (if_neg (by simp [hb]))

/-- In the capture of a frame, words that R162 admits are kept and run under their check (R253). -/
theorem issueWords_captures {s : State} {x y : BitVec 32} {i : Instr} (hd : decode x y = .ok i)
    (hr : s.fib.rpt.refuses x y = false) (hb : s.fib.rpt.inBody = true) :
    issueWords s x y = checked x ((s.setFetched x y).setFib fun f =>
      ({ f with rpt := { f.rpt with words := s.fib.rpt.capture x y } } : Fibre).touch Dirty.rpt) (exec i) := by
  simp only [issueWords, hd]
  exact (if_neg (by simp [hr])).trans (if_pos hb)

/-- Where no check fails, an instruction runs as it is. -/
theorem checked_of_no_upset {x : BitVec 32} {s : State} {go : State → Host.Outcome State Fault Refusal} (h : s.upset = 0) :
    checked x s go = go s := by
  unfold checked
  rw [h]

theorem Frame.refuses_iff (r : Frame) (x y : BitVec 32) :
    r.refuses x y = true ↔ r.inBody = true ∧ (bodyMajor x = false ∨ 16 < bodyWords (r.capture x y)) := by
  simp [Frame.refuses]

/-- Settles O55: a decoder gives words an instruction that has words or a subcause of R173, and refused words trap. -/
theorem decodeRefuses : Obligations.DecodeRefuses := by
  refine ⟨fun x e i h => ?_, fun s x y => ⟨rfl, fun c hd => ⟨decode_subcause_le hd, issueWords_illegal hd⟩,
    fun i hr hd => issueWords_refused hr hd⟩⟩
  obtain ⟨hs, hw⟩ := decode_eq_ok.mp h
  exact ⟨hw, (shape_sound x e).spec.1 i hs⟩

/-! ## Which words a step issues -/

/-- From the second iteration of a frame on, issue replays a captured instruction (R254). -/
theorem issue_replays {s : State} (hb : s.takeSlot.settleLocal.fib.rpt.inBody = true) (hi : 0 < s.takeSlot.settleLocal.fib.rpt.iter) :
    issue s = checked (s.takeSlot.settleLocal.fib.rpt.words.getD s.takeSlot.settleLocal.fib.rpt.pos (0, 0)).1 s.takeSlot.settleLocal
      (exec .repeatReplay) :=
  if_pos (by simp [hb, hi])

section
variable {s t : State} (hb : s.takeSlot.settleLocal.fib.rpt.inBody = false ∨ s.takeSlot.settleLocal.fib.rpt.iter = 0)
include hb

theorem not_replaying :
    ¬(s.takeSlot.settleLocal.fib.rpt.inBody && decide (0 < s.takeSlot.settleLocal.fib.rpt.iter)) = true := by
  obtain h | h := hb <;> simp [h]

/-- An instruction in a service queue is not fetched again (R272). -/
theorem issue_queued {x y : BitVec 32} (hq : s.takeSlot.settleLocal.queuedWords = some (x, y)) :
    issue s = issueWords s.takeSlot.settleLocal x y := by
  simp only [issue, if_neg (not_replaying hb), hq]

theorem issue_fetched {x y : BitVec 32} (hq : s.takeSlot.settleLocal.queuedWords = none)
    (hf : s.takeSlot.settleLocal.fetch s.takeSlot.settleLocal.fib.pc = (t, .ok (x, y))) : issue s = issueWords t x y := by
  simp only [issue, if_neg (not_replaying hb), hq, hf]

theorem issue_fetch_traps {code sub : Nat} {val : Word} (hq : s.takeSlot.settleLocal.queuedWords = none)
    (hf : s.takeSlot.settleLocal.fetch s.takeSlot.settleLocal.fib.pc = (t, .error (.trap code sub val))) :
    issue s = exec (.instructionFetchFault code sub val) t := by
  simp only [issue, if_neg (not_replaying hb), hq, hf]

theorem issue_fetch_parks {p : Park} (hq : s.takeSlot.settleLocal.queuedWords = none)
    (hf : s.takeSlot.settleLocal.fetch s.takeSlot.settleLocal.fib.pc = (t, .error (.park p))) : issue s = .next (parkAs t p) := by
  simp only [issue, if_neg (not_replaying hb), hq, hf]

theorem issue_fetch_stops {e : Fault} (hq : s.takeSlot.settleLocal.queuedWords = none)
    (hf : s.takeSlot.settleLocal.fetch s.takeSlot.settleLocal.fib.pc = (t, .error (.hole e))) : issue s = .fault e := by
  simp only [issue, if_neg (not_replaying hb), hq, hf]

end

theorem step_issues {s : State} (ht : s.turn = .issue) (hc : s.canIssue s.fib = true) : step s = onNext State.afterIssue (issue s) := by
  simp only [step, ht, hc, if_true]

theorem step_rests {s : State} (ht : s.turn = .issue) (hc : s.canIssue s.fib = false) : step s = .next s.afterIssue := by
  simp only [step, ht, hc, Bool.false_eq_true, if_false]

/-- The first step in `sched` is taken at the turn of the rest of the module, and with fewer than two failed checks it is just its
meaning (R439). -/
theorem step_agent {s : State} {i : Instr} {rest : List Instr} (ht : s.turn = .device) (hs : s.sched = i :: rest)
    (ha : ofAgent i = true) (hu : s.upset < 2) : step s = onNext State.afterDevice (exec i { s with sched := rest }) := by
  have hturn : step s = onNext State.afterDevice (deviceStep s) := by simp only [step, ht]
  have hnext : deviceStep s = runAgent i { s with sched := rest } := by simp only [deviceStep, hs]
  have hrun : runAgent i { s with sched := rest } = exec i { s with sched := rest } := (if_pos ha).trans (if_pos hu)
  rw [hturn, hnext, hrun]

/-- Settles O56: a step by its turn, and issue by the words that it takes and what becomes of them. -/
theorem stepRuns : Obligations.StepRuns := by
  intro s t x y i
  refine ⟨fun ht hc => ⟨fun hb hi => ?_, fun hb => ⟨fun hw => ?_, fun code sub val hq hf => ?_, fun p hq hf => ?_, fun e hq hf => ?_⟩⟩,
    step_rests, Frame.refuses_iff _ x y, fun rest => step_agent, fun n w => ⟨rfl, rfl, rfl, ?_⟩⟩
  · rw [step_issues ht hc, issue_replays hb hi]
  · have hstep : step s = onNext State.afterIssue (issueWords t x y) := by
      rw [step_issues ht hc]
      obtain ⟨hq, rfl⟩ | ⟨hq, hf⟩ := hw
      · rw [issue_queued hb hq]
      · rw [issue_fetched hb hq hf]
    rw [hstep]
    refine ⟨fun c hd hn => ?_, fun hr hd => ?_, fun hd hr => ⟨fun hin => ?_, fun hin => ?_⟩⟩
    · rw [issueWords_illegal hd hn]
    · rw [issueWords_refused hr hd]
      rfl
    · rw [issueWords_runs hd hin]
      exact ⟨rfl, fun hu => by rw [checked_of_no_upset (s := t.setFetched x y) hu]⟩
    · rw [issueWords_captures hd hr hin]
  · rw [step_issues ht hc, issue_fetch_traps hb hq hf]
  · rw [step_issues ht hc, issue_fetch_parks hb hq hf]
    rfl
  · rw [step_issues ht hc, issue_fetch_stops hb hq hf]
    rfl
  · show (s.focusCore 0).fib.bank = s.fib.bank
    rw [focusCore_fib]

end Sys2Proof.Machine

/-! # Where accesses go (O9)

Bytes are cut at the boundaries of words and of 64-byte blocks. What a store and a load do to a list of pieces follows by induction on
how the bytes were cut, from what they do to one piece. -/

namespace Sys2Proof.Machine

/-! ## Cut bytes -/

/-- A list of pieces that are not empty, each within one aligned block of `k` bytes, one behind the other from `pa` on, which together
are `bs`. -/
inductive Cuts (k : Nat) : Nat → List Byte → List (Nat × List Byte) → Prop where
  | nil (pa : Nat) : Cuts k pa [] []
  | cons {pa : Nat} {b bs : List Byte} {l : List (Nat × List Byte)} (hne : b ≠ []) (hfit : pa % k + b.length ≤ k)
      (hrest : Cuts k (pa + b.length) bs l) : Cuts k pa (b ++ bs) ((pa, b) :: l)

theorem Cuts.eq_nil {k pa : Nat} {l : List (Nat × List Byte)} (h : Cuts k pa [] l) : l = [] := by
  generalize hb : ([] : List Byte) = bs at h
  cases h with
  | nil => rfl
  | cons hne => exact absurd (List.nil_eq_append_iff.mp hb).1 hne

/-- The piece up to the next boundary comes first. -/
theorem Cuts.cut {k pa : Nat} {bs : List Byte} {l : List (Nat × List Byte)} (hk : 0 < k) (hne : bs ≠ [])
    (h : Cuts k (pa + (k - pa % k)) (bs.drop (k - pa % k)) l) : Cuts k pa bs ((pa, bs.take (k - pa % k)) :: l) := by
  have hmod : pa % k < k := Nat.mod_lt pa hk
  have hpos : 0 < bs.length := List.length_pos_iff.mpr hne
  have hlen : (bs.take (k - pa % k)).length = min (k - pa % k) bs.length := List.length_take
  have hrest : Cuts k (pa + (bs.take (k - pa % k)).length) (bs.drop (k - pa % k)) l := by
    by_cases hb : k - pa % k ≤ bs.length
    · rwa [hlen, Nat.min_eq_left hb]
    · rw [List.drop_eq_nil_of_le (by omega)] at h ⊢
      rw [h.eq_nil]
      exact .nil _
  have hcons := Cuts.cons (List.ne_nil_of_length_pos (by omega)) (by omega) hrest
  rwa [List.take_append_drop] at hcons

theorem wordPieces_cuts : ∀ {fuel pa : Nat} {bs : List Byte}, bs.length ≤ fuel → Cuts 8 pa bs (wordPieces fuel pa bs)
  | 0, pa, bs, h => by
    rw [List.eq_nil_of_length_eq_zero (Nat.le_zero.mp h)]
    exact .nil pa
  | _ + 1, pa, [], _ => .nil pa
  | fuel + 1, pa, b :: bs, h => .cut (by omega) (List.cons_ne_nil b bs) (wordPieces_cuts (by
      rw [List.length_drop]
      omega))

theorem blockPieces_cuts : ∀ {fuel pa : Nat} {bs : List Byte}, bs.length ≤ fuel → Cuts 64 pa bs (blockPieces fuel pa bs)
  | 0, pa, bs, h => by
    rw [List.eq_nil_of_length_eq_zero (Nat.le_zero.mp h)]
    exact .nil pa
  | _ + 1, pa, [], _ => .nil pa
  | fuel + 1, pa, b :: bs, h => .cut (by omega) (List.cons_ne_nil b bs) (blockPieces_cuts (by
      rw [List.length_drop]
      omega))

/-- Bytes within one block are one piece. -/
theorem blockPieces_one {pa : Nat} {bs : List Byte} (hne : bs ≠ []) (h : pa % 64 + bs.length ≤ 64) :
    blockPieces bs.length pa bs = [(pa, bs)] := by
  match bs with
  | b :: bs =>
    have hfits : (b :: bs).length ≤ 64 - pa % 64 := by omega
    rw [List.length_cons, blockPieces, List.take_of_length_le hfits, List.drop_eq_nil_of_le hfits]
    · cases bs.length <;> rfl
    · exact hne

theorem Cuts.flatten {k pa : Nat} {bs : List Byte} {l : List (Nat × List Byte)} (h : Cuts k pa bs l) : (l.map Prod.snd).flatten = bs := by
  induction h with
  | nil => rfl
  | cons _ _ _ ih => rw [List.map_cons, List.flatten_cons, ih]

/-- Every piece lies within its block and among the bytes that were cut. -/
theorem Cuts.mem {k pa : Nat} {bs : List Byte} {l : List (Nat × List Byte)} (h : Cuts k pa bs l) :
    ∀ e ∈ l, e.1 % k + e.2.length ≤ k ∧ pa ≤ e.1 ∧ e.1 < pa + bs.length := by
  induction h with
  | nil => simp
  | @cons pa b bs l hne hfit _ ih =>
    have hpos : 0 < b.length := List.length_pos_iff.mpr hne
    intro e he
    rw [List.length_append]
    obtain rfl | he := List.mem_cons.mp he
    · exact ⟨hfit, by omega, by omega⟩
    · obtain ⟨hk, hlo, hhi⟩ := ih e he
      exact ⟨hk, by omega, by omega⟩

/-! ## A store at home -/

theorem OnlyDev.frame {s t : State} (h : OnlyDev s t) :
    t.fib = s.fib ∧ t.fibres = s.fibres ∧ t.skein = s.skein ∧ t.skeins = s.skeins ∧ t.core = s.core ∧ t.chip = s.chip := by
  unfold OnlyDev at h
  rw [h]
  exact ⟨rfl, rfl, rfl, rfl, rfl, rfl⟩

/-- Bytes at home whose words can be written in part: none is absent or poisoned, and no syndrome is pending (R57, R384, R437). -/
structure State.Sound (s : State) (pa n : Nat) : Prop where
  ecc : s.dev.ecc = []
  soft : s.dev.soft = []
  present : ∀ i, i < n → s.absentPa (pa + i) = false
  clean : ∀ i, i < n → s.poisonedWord ((pa + i) / 8) = false

theorem State.Sound.first {s : State} {pa n m : Nat} (h : s.Sound pa n) (hm : m ≤ n) : s.Sound pa m :=
  ⟨h.ecc, h.soft, fun i hi => h.present i (by omega), fun i hi => h.clean i (by omega)⟩

theorem State.Sound.rest {s : State} {pa n m : Nat} (h : s.Sound pa (m + n)) : s.Sound (pa + m) n :=
  ⟨h.ecc, h.soft, fun i hi => Nat.add_assoc pa m i ▸ h.present (m + i) (by omega),
    fun i hi => Nat.add_assoc pa m i ▸ h.clean (m + i) (by omega)⟩

theorem setDel_eq_erase (x : Nat) : ∀ l : List Nat, setDel x l = l.erase x
  | [] => rfl
  | y :: ys => by
    rw [setDel, List.erase_cons, setDel_eq_erase x ys]
    exact if_congr (by rw [beq_iff_eq, eq_comm]) rfl rfl

/-- A write of a word poisons no word. -/
theorem putWord_poisonedWord {s : State} {w : Nat} (h : s.poisonedWord w = false) (pa : Nat) (bs : List Byte) :
    (s.putWord pa bs).poisonedWord w = false := by
  have hpois : ∀ {l : List Nat}, w ∉ l → w ∉ if bs.length = 8 then setDel (pa / 8) l else l := by
    intro l hl
    split
    · rw [setDel_eq_erase]
      exact fun hm => hl (List.mem_of_mem_erase hm)
    · exact hl
  have hren : ∀ {c : Prop} [Decidable c] {l : List Nat}, w ∈ l → w ∈ if c then setIns (pa / 8) l else l := by
    intro c _ l hl
    split
    · exact mem_setIns.mpr (.inr hl)
    · exact hl
  have habs (a : Nat) : (s.putWord pa bs).absentPa a = s.absentPa a := rfl
  have hsp : (s.putWord pa bs).onSpare w = s.onSpare w := rfl
  simp only [State.poisonedWord, Bool.or_eq_false_iff, List.contains_eq_mem, decide_eq_false_iff_not, habs, hsp, Bool.and_eq_false_iff,
    Bool.not_eq_false', decide_eq_true_eq] at h ⊢
  obtain ⟨⟨hp, ha⟩, hr⟩ := h
  exact ⟨⟨hpois hp, ha⟩, hr.imp_right hren⟩

theorem putWord_sound {s : State} {a n : Nat} (h : s.Sound a n) (pa : Nat) (bs : List Byte) : (s.putWord pa bs).Sound a n where
  ecc := by simp [State.putWord, h.ecc, assocDel]
  soft := by simp [State.putWord, h.soft, assocDel]
  present := h.present
  clean i hi := putWord_poisonedWord (h.clean i hi) pa bs

/-- Bytes are written at home from `pa` on, and what was sound stays so. -/
def Writes (s t : State) (pa : Nat) (bs : List Byte) : Prop :=
  t.dev.mem = memPut s.dev.mem pa bs ∧ ∀ a n, s.Sound a n → t.Sound a n

theorem memPut_append : ∀ (b bs : List Byte) (m : List Host.Cell) (pa : Nat),
    memPut m pa (b ++ bs) = memPut (memPut m pa b) (pa + b.length) bs
  | [], _, _, _ => rfl
  | x :: b, bs, m, pa => by
    rw [List.cons_append, memPut, memPut, memPut_append b bs, List.length_cons, Nat.add_assoc, Nat.add_comm 1]

theorem writeWord_sound {s : State} {pa : Nat} {bs : List Byte} (hne : bs ≠ []) (h : s.Sound pa bs.length) :
    Writes s (s.writeWord pa bs) pa bs := by
  have hpos : 0 < bs.length := List.length_pos_iff.mpr hne
  have hpres : s.absentPa pa = false := h.present 0 hpos
  have hclean : s.poisonedWord (pa / 8) = false := h.clean 0 hpos
  have hput : s.writeWord pa bs = s.putWord pa bs := by simp [State.writeWord, hpres, hclean, detect_nil h.ecc h.soft]
  rw [hput]
  exact ⟨rfl, fun a n ha => putWord_sound ha pa bs⟩

/-- Pieces that are each written where they are sound are written together. -/
theorem foldl_writes {k : Nat} {f : State → Nat × List Byte → State}
    (hf : ∀ {s pa b}, b ≠ [] → s.Sound pa b.length → Writes s (f s (pa, b)) pa b) {pa : Nat} {bs : List Byte}
    {l : List (Nat × List Byte)} (hl : Cuts k pa bs l) : ∀ {s : State}, s.Sound pa bs.length → Writes s (l.foldl f s) pa bs := by
  induction hl with
  | nil => exact fun _ => ⟨rfl, fun _ _ => id⟩
  | @cons pa b bs l hne _ _ ih =>
    intro s h
    rw [List.length_append] at h
    obtain ⟨hmem, hsound⟩ := hf hne (h.first (Nat.le_add_right ..))
    obtain ⟨hmem', hsound'⟩ := ih (hsound _ _ h.rest)
    exact ⟨by rw [List.foldl_cons, hmem', hmem, memPut_append], fun a n ha => hsound' a n (hsound a n ha)⟩

theorem writeBlock_sound {s : State} {pa : Nat} {bs : List Byte} (h : s.Sound pa bs.length) : Writes s (s.writeBlock pa bs) pa bs := by
  obtain ⟨hmem, hsound⟩ := foldl_writes (f := fun s p => s.writeWord p.1 p.2) writeWord_sound (wordPieces_cuts le_rfl) h
  refine ⟨hmem, fun a n ha => ?_⟩
  obtain ⟨hecc, hsoft, hpres, hclean⟩ := hsound a n ha
  exact ⟨hecc, hsoft, hpres, hclean⟩

theorem writeHome_sound {s : State} {pa : Nat} {bs : List Byte} (h : s.Sound pa bs.length) : Writes s (s.writeHome pa bs) pa bs :=
  foldl_writes (f := fun s p => s.writeBlock p.1 p.2) (fun _ => writeBlock_sound) (blockPieces_cuts le_rfl) h

/-! ## Poisoned words -/

section
variable {s : State} {pa : Nat} {bs : List Byte}

theorem writeWord_absent (h : s.absentPa pa = true) : s.writeWord pa bs = s.logWord 0x03 (pa / 8) bs.length := if_pos h

section
variable (hecc : s.dev.ecc = []) (hsoft : s.dev.soft = [])
include hecc hsoft

theorem writeWord_poisoned (h : s.poisonedWord (pa / 8) = true) (hlen : bs.length < 8) :
    s.writeWord pa bs = s.logWord 0x03 (pa / 8) bs.length := by
  simp [State.writeWord, detect_nil hecc hsoft, hlen, h]

theorem writeWord_whole (ha : s.absentPa pa = false) (hlen : bs.length = 8) : s.writeWord pa bs = s.putWord pa bs := by
  simp [State.writeWord, detect_nil hecc hsoft, hlen, ha]

end

theorem putWord_whole_clears (ha : s.absentPa pa = false) (hs : s.onSpare (pa / 8) = false) (h8 : pa % 8 = 0) (hlen : bs.length = 8)
    (hn : s.dev.pois.Nodup) : (s.putWord pa bs).poisonedWord (pa / 8) = false := by
  have hpa : 8 * (pa / 8) = pa := by omega
  have habs : (s.putWord pa bs).absentPa (8 * (pa / 8)) = false := by rw [hpa]; exact ha
  have hspare : (s.putWord pa bs).onSpare (pa / 8) = false := hs
  have hpois : pa / 8 ∉ (s.putWord pa bs).dev.pois := by
    simp only [State.putWord, State.setDev_dev, if_pos hlen, setDel_eq_erase]
    exact hn.not_mem_erase
  simp [State.poisonedWord, habs, hspare, hpois]

end

/-! ## The parts of a store -/

/-- A store within one block is one part (R185). -/
theorem storePieces_one {s : State} {p : Piece} {bs : List Byte} (hlen : bs.length = p.len) (hpos : 0 < p.len)
    (hfit : p.pa % 64 + p.len ≤ 64) : s.storePieces [p] bs = s.storePart true { leaf := p.leaf, pa := p.pa, data := bs } := by
  have hone : blockPieces p.len p.pa bs = [(p.pa, bs)] := by
    rw [← hlen] at hpos hfit ⊢
    exact blockPieces_one (List.length_pos_iff.mp hpos) hfit
  simp [State.storePieces, storeParts, List.take_of_length_le hlen.le, hone, State.storeParts]

/-- What a part of a store puts into the write-through buffer (R61). -/
def StorePart.entry (id : FibreId) (seq : Nat) (p : StorePart) : Buffered :=
  { fib := id, seq := seq, key := keyArg p.leaf, pa := p.pa, data := p.data, full := false }

/-- Parts enter the write-through buffer in order, and no byte at home changes. -/
structure Buffers (s t : State) (l : List StorePart) : Prop where
  dev : t.dev = s.dev
  fib : t.fib = s.fib
  ctr : t.ctr = s.ctr
  wtb : t.core.wtb = s.core.wtb ++ l.map (StorePart.entry s.fib.id s.ctr)

theorem Buffers.append {s t u : State} {l l' : List StorePart} (h : Buffers s t l) (g : Buffers t u l') : Buffers s u (l ++ l') where
  dev := g.dev.trans h.dev
  fib := g.fib.trans h.fib
  ctr := g.ctr.trans h.ctr
  wtb := by rw [g.wtb, h.wtb, h.fib, h.ctr, List.map_append, List.append_assoc]

theorem storePart_buffers {p : StorePart} (h : isPad p.pa = false) (s : State) (now : Bool) : Buffers s (s.storePart now p) [p] := by
  rw [State.storePart, if_neg (by simp [h])]
  exact ⟨rfl, rfl, rfl, rfl⟩

theorem foldl_buffers {now : Bool} : ∀ {l : List StorePart}, (∀ p ∈ l, isPad p.pa = false) → ∀ s : State,
    Buffers s (l.foldl (fun s p => s.storePart now p) s) l
  | [], _, _ => ⟨rfl, rfl, rfl, (List.append_nil _).symm⟩
  | p :: l, h, s => (storePart_buffers (h p (by simp)) s now).append (foldl_buffers (fun q hq => h q (by simp [hq])) _)

theorem storeAll_buffers {l : List StorePart} (h : ∀ p ∈ l, isPad p.pa = false) (s : State) (n : Nat) : Buffers s (s.storeAll n l) l := by
  have hall := (foldl_buffers (now := true) (l := l.take n) (fun p hp => h p (List.mem_of_mem_take hp)) s).append
    (foldl_buffers (now := false) (l := l.drop n) (fun p hp => h p (List.mem_of_mem_drop hp)) _)
  rwa [List.take_append_drop] at hall

/-- The parts of one instruction enter the buffer in the order of their bytes or in reverse (R185) (assumption 57). -/
theorem storeParts_buffers {l : List StorePart} (h : ∀ p ∈ l, isPad p.pa = false) (s : State) :
    ∃ l', Buffers s (s.storeParts l) l' ∧ (l' = l ∨ l' = l.reverse) := by
  match l with
  | [] => exact ⟨[], ⟨rfl, rfl, rfl, (List.append_nil _).symm⟩, .inl rfl⟩
  | [p] => exact ⟨[p], storePart_buffers (h p (by simp)) s true, .inl rfl⟩
  | p :: q :: l =>
    have hall : s.storeParts (p :: q :: l) = s.storeAll (Config.partsNow s.ctr % ((p :: q :: l).length + 1))
        (if Config.partsBack s.ctr then (p :: q :: l).reverse else p :: q :: l) := rfl
    rw [hall]
    split
    · exact ⟨_, storeAll_buffers (fun x hx => h x (List.mem_reverse.mp hx)) s _, .inr rfl⟩
    · exact ⟨_, storeAll_buffers h s _, .inl rfl⟩

theorem storeParts_flatten : ∀ {ps : List Piece} {bs : List Byte}, (ps.map Piece.len).sum = bs.length →
    ((storeParts ps bs).map StorePart.data).flatten = bs
  | [], bs, h => (List.eq_nil_of_length_eq_zero h.symm).symm
  | p :: ps, bs, h => by
    have hcuts : Cuts 64 p.pa (bs.take p.len) (blockPieces p.len p.pa (bs.take p.len)) :=
      blockPieces_cuts (List.length_take_le ..)
    have hrest : (ps.map Piece.len).sum = (bs.drop p.len).length := by
      rw [List.map_cons, List.sum_cons] at h
      rw [List.length_drop]
      omega
    rw [storeParts, List.map_append, List.flatten_append, List.map_map, storeParts_flatten hrest]
    exact (congrArg (· ++ _) hcuts.flatten).trans (List.take_append_drop ..)

/-- Every part of a store to DRAM lies within one block, in DRAM. -/
theorem mem_storeParts : ∀ {ps : List Piece} {bs : List Byte},
    (∀ p ∈ ps, isDram p.pa = true ∧ p.pa % 2 ^ 16 + p.len ≤ 2 ^ 16) →
    ∀ e ∈ storeParts ps bs, e.pa % 64 + e.data.length ≤ 64 ∧ isPad e.pa = false
  | [], _, _, e, he => by simp [storeParts] at he
  | p :: ps, bs, h, e, he => by
    rw [storeParts, List.mem_append] at he
    obtain he | he := he
    · obtain ⟨c, hc, rfl⟩ := List.mem_map.mp he
      obtain ⟨hdram, hpage⟩ := h p (by simp)
      obtain ⟨hfit, hlo, hhi⟩ := (blockPieces_cuts (List.length_take_le ..)).mem c hc
      have hlen : (bs.take p.len).length ≤ p.len := List.length_take_le ..
      simp only [isDram, isPad, beq_iff_eq, beq_eq_false_iff_ne] at hdram ⊢
      exact ⟨hfit, by omega⟩
    · exact mem_storeParts (fun q hq => h q (by simp [hq])) e he

/-! ## A load at home -/

/-- Bytes that an access under a key finds as they stand at home (R68, R372). -/
def State.Plain (s : State) (key : BitVec 512) (pa n : Nat) : Prop :=
  ∀ i, i < n → isDram (pa + i) = true → s.lineKeyOf ((pa + i) / 128) = key ∧ s.altLine ((pa + i) / 128) = none

theorem viewByte_plain {s : State} {key : BitVec 512} {pa : Nat}
    (h : isDram pa = true → s.lineKeyOf (pa / 128) = key ∧ s.altLine (pa / 128) = none) : s.viewByte key pa = memRead s.dev.mem pa := by
  unfold State.viewByte
  split
  · next hd =>
    obtain ⟨hk, ha⟩ := h hd
    simp [ha, hk, State.deciphered]
  · rfl

/-- A load in one part that takes nothing from the buffer or the L1 takes each byte at home (R372). -/
theorem loadByte_home {s : State} (hw : s.core.wtb = []) (key : BitVec 512) (pa : Nat) :
    s.loadByte false key none pa = s.nowByte key pa := by
  simp [State.loadByte, hw, bufferedByte, State.homeByte, State.moment]

section
variable {s : State} {key : BitVec 512} (hw : s.core.wtb = [])
include hw

theorem loadBytes_clean : ∀ {n pa : Nat} (va : Nat), s.Plain key pa n → s.firstPoison pa n = none →
    s.loadBytes false key none pa va n = .ok (memBytes s.dev.mem pa n)
  | 0, _, _, _, _ => rfl
  | n + 1, pa, va, hp, hn => by
    rw [State.firstPoison] at hn
    split at hn
    · cases hn
    · next hbad =>
      have hb : s.nowByte key pa = some (memRead s.dev.mem pa) := by
        rw [State.nowByte, if_neg hbad, viewByte_plain (pa := pa) (hp 0 (by omega))]
      have hp' : s.Plain key (pa + 1) n := fun i hi => by
        have := hp (i + 1) (by omega)
        rwa [← Nat.add_assoc, Nat.add_right_comm] at this
      rw [State.loadBytes, loadByte_home hw, hb, loadBytes_clean (va + 1) hp' hn, memBytes]

theorem loadBytes_poison : ∀ {n pa : Nat} (va : Nat) {x : Nat}, s.firstPoison pa n = some x →
    s.loadBytes false key none pa va n = .error (va + (x - pa)) ∧ pa ≤ x
  | n + 1, pa, va, x, hn => by
    rw [State.firstPoison] at hn
    rw [State.loadBytes, loadByte_home hw, State.nowByte]
    split at hn
    · next hbad =>
      cases hn
      simp [hbad]
    · next hbad =>
      obtain ⟨hl, hx⟩ := loadBytes_poison (va + 1) hn
      have hva : va + 1 + (x - (pa + 1)) = va + (x - pa) := by omega
      rw [if_neg hbad, hl, hva]
      exact ⟨rfl, by omega⟩

end

theorem reachSlice_mem (s : State) (p : Piece) : (s.reachSlice p).dev.mem = s.dev.mem := by
  unfold State.reachSlice
  split
  · exact List.foldlRecOn (motive := fun t : State => t.dev.mem = s.dev.mem) _ _ rfl
      fun t h l _ => (t.holdSlice_mem _ l _).trans h
  · rfl

/-- What a load without the L1 leaves in the caches changes neither the fibre, nor the core, nor a byte at home. -/
theorem fillParts_frame {s : State} {p : Piece} {nt : Bool} (h : s.usesL1 p nt = false) :
    (s.fillParts nt [p]).fib = s.fib ∧ (s.fillParts nt [p]).core = s.core ∧ (s.fillParts nt [p]).dev.mem = s.dev.mem := by
  obtain ⟨hfib, -, -, -, hcore, -⟩ := (reachSlice_onlyDev s p).frame
  have hl1 : (s.reachSlice p).usesL1 p nt = false := by
    unfold State.usesL1 at h ⊢
    rwa [hfib]
  have hfill : s.fillParts nt [p] = s.reachSlice p := if_neg (by simp [hl1])
  rw [hfill]
  exact ⟨hfib, hcore, reachSlice_mem s p⟩

section
variable {s : State} {p : Piece} {nt : Bool} (hl1 : s.usesL1 p nt = false) (hw : s.core.wtb = []) (hecc : s.dev.ecc = [])
  (hsoft : s.dev.soft = []) (hfit : p.pa % 64 + p.len ≤ 64)
include hl1 hw hecc hsoft hfit

theorem loadPieces_clean (hkey : isDram p.pa = true → s.lineKeyOf (p.pa / 128) = s.key (leafKey p.leaf) ∧ s.altLine (p.pa / 128) = none)
    (hn : s.firstPoison p.pa p.len = none) : s.loadPieces nt [p] = .ok (s.fillParts nt [p], memBytes s.dev.mem p.pa p.len) := by
  have hplain : s.Plain (s.key (leafKey p.leaf)) p.pa p.len := fun i hi hd => by
    have hline : (p.pa + i) / 128 = p.pa / 128 := by omega
    rw [hline]
    simp only [isDram, beq_iff_eq] at hd hkey
    exact hkey (by omega)
  simp [State.loadPieces, oneBlock, hfit, State.loadParts, State.readParts, hl1, detect_nil hecc hsoft, loadBytes_clean hw p.va hplain hn,
    bind, Except.bind]

theorem loadPieces_poison {x : Nat} (hn : s.firstPoison p.pa p.len = some x) :
    s.loadPieces nt [p] = .error ⟨s, .poison 0 (BitVec.ofNat 64 (p.va + x - p.pa)) false⟩ := by
  obtain ⟨hload, hx⟩ := loadBytes_poison (key := s.key (leafKey p.leaf)) hw p.va hn
  simp [State.loadPieces, oneBlock, hfit, State.loadParts, State.readParts, hl1, detect_nil hecc hsoft, hload, bind, Except.bind,
    Nat.add_sub_assoc hx]

end

/-! ## The statement -/

/-- Settles O9: a store by how its bytes are cut, and a load within one block byte by byte. -/
theorem whereAccessesGo : Obligations.WhereAccessesGo := by
  refine ⟨fun s pa bs hecc hsoft hpres hclean hwf => ?_, fun s pa bs hecc hsoft => ⟨writeWord_poisoned hecc hsoft, writeWord_absent,
    fun ha hs h8 hlen hn => ?_⟩, fun s p bs hlen hpos hfit => ?_, fun s ps bs hps hsum => ?_, fun s p nt hl1 hw hecc hsoft hfit hkey =>
    ⟨fun hn => ⟨_, loadPieces_clean hl1 hw hecc hsoft hfit hkey hn, fillParts_frame hl1⟩, fun x => loadPieces_poison hl1 hw hecc hsoft hfit⟩⟩
  · obtain ⟨hmem, -⟩ := writeHome_sound ⟨hecc, hsoft, hpres, hclean⟩
    obtain ⟨hfib, hfibres, hskein, -, hcore, hchip⟩ := (writeHome_onlyDev s pa bs).frame
    refine ⟨fun i hi => ?_, fun a ha => ?_, hfib, hfibres, hskein, hcore, hchip, State.writeHome_wf hwf pa bs⟩
    · rw [hmem, memRead_memPut_inside bs pa i hwf hi]
    · rw [hmem, memRead_memPut_outside bs pa a hwf ha]
  · rw [writeWord_whole hecc hsoft ha hlen]
    exact putWord_whole_clears ha hs h8 hlen hn
  · rw [storePieces_one hlen hpos hfit, State.storePart]
    refine ⟨fun hpad hown => ?_, fun hpad hother => ?_, fun hpad => ?_⟩
    · rw [if_pos hpad, if_pos (by simp [hown])]
    · rw [if_pos hpad, if_neg (by simp [hother])]
    · rw [if_neg (by simp [hpad])]
  · have hparts := mem_storeParts (bs := bs) hps
    obtain ⟨l, hbuf, hl⟩ := storeParts_buffers (fun e he => (hparts e he).2) s
    have hlike : l.map (fun e => (e.pa, e.data)) = (storeParts ps bs).map (fun e => (e.pa, e.data)) ∨
        l.map (fun e => (e.pa, e.data)) = (storeParts ps bs).reverse.map (fun e => (e.pa, e.data)) := by
      obtain rfl | rfl := hl
      · exact .inl rfl
      · exact .inr rfl
    refine ⟨hbuf.dev, hbuf.fib, storeParts_flatten hsum, _, hbuf.wtb, fun e he => ?_, by rwa [List.map_map]⟩
    obtain ⟨p, hp, rfl⟩ := List.mem_map.mp he
    have hmem : p ∈ storeParts ps bs := by
      obtain rfl | rfl := hl
      · exact hp
      · exact List.mem_reverse.mp hp
    exact ⟨rfl, (hparts p hmem).1⟩

end Sys2Proof.Machine

/-! # Integer loads and stores, and prefetches (O6)

A load or a store waits, reads its registers and makes its access, and ends with what the access gives. A prefetch first reads the
registers of its address, one after another; what it does then changes only what caches hold. -/

namespace Sys2Proof.Machine

/-! ## Integer loads and stores -/

theorem runLoad_landed {s t : State} {n : Nat} {parks : Bool} {body : Ex (State × Bool)} (h : Room s n) (hb : body = .ok (t, parks)) :
    runLoad s n body = landed t parks n := runLoad_ok h hb

theorem extendLoad_bit (n : Nat) (e : BitVec 1) (x : Nat) :
    extendLoad n (e == 1) x = if e = 1 then BitVec.ofInt 64 (toSigned (8 * n) x) else BitVec.ofNat 64 x :=
  if_congr beq_iff_eq rfl rfl

section
variable {s t : State} {z : BitVec 2} {d b : GReg} {i : BitVec 4} {w : BitVec 1} {ps : List Piece}
  (hw : WaitOver s w) (hb : FullG s b) (hi : FullIx s i)
include hw hb hi

section
variable {x u : State} {bs : List Byte} {sc : Option Nat} (hd : FreeG s d)
include hd

theorem loadM_ok (hroom : Room s 1) {m : BitVec 9} {e : BitVec 1} {nt : Bool}
    (ha : (s.waited w).access (s.waited w).accLoad (s.eaM b i m (sizeBytes z)) (sizeBytes z) false = .ok (t, ps))
    (ho : (t.acquired sc).ownFirst nt ps = .ok x) (hl : x.loadPieces nt ps = .ok (u, bs)) :
    loadM s z e d b i w m nt sc = landed (setG u d (extendLoad (sizeBytes z) (e == 1) (ofBytes bs))) (u.parksFor ps) 1 :=
  runLoad_landed hroom (by
    rw [waitW_over hw, ok_bind, effAddr_w w hb hi, ok_bind]
    exact loadG_ok (by rwa [waited_free]) ha ho hl)

theorem ldScoped_ok (hroom : Room s 2) {m : BitVec 22} {e : BitVec 1} {k : BitVec 4} {o : BitVec 2}
    (ha : (s.waited w).access (s.waited w).accLoad (s.eaX b i m (sizeBytes z)) (sizeBytes z) false = .ok (t, ps))
    (ho : (if o = 1 then t.acquire k.toNat else t).ownFirst false ps = .ok x) (hl : x.loadPieces false ps = .ok (u, bs)) :
    exec (.ldScoped d b w z e k o i m) s =
      landed (setG u d (extendLoad (sizeBytes z) (e == 1) (ofBytes bs))) (u.parksFor ps) 2 := by
  have hacq : t.acquired (if o = 1 then some k.toNat else none) = if o = 1 then t.acquire k.toNat else t := by split <;> rfl
  refine runLoad_landed hroom ?_
  rw [waitW_over hw, ok_bind, scopedAddr_w w hb hi, ok_bind]
  exact loadG_ok (by rwa [waited_free]) ha (by rwa [hacq]) hl

end

section
variable {u : State} {g : GReg} {sc : Option Nat} (hg : FullG s g)
include hg

theorem storeM_ok (hroom : Room s 1) {m : BitVec 9}
    (ha : (s.waited w).access (s.waited w).accStore (s.eaM b i m (sizeBytes z)) (sizeBytes z) false = .ok (t, ps))
    (hr : t.released sc = .ok u) (hs : u.storeRoom ps = .ok ()) :
    storeM s z g b i w m sc = .next (retire (u.settleLocal.storePieces ps (bytesOf (sizeBytes z) (s.g g).toNat)) 1) :=
  run_ok hroom (by
    rw [waitW_over hw, ok_bind, readG_of_bank hg (waited_bank s w), ok_bind, effAddr_w w hb hi, ok_bind]
    exact storeVal_ok (by rwa [bytesOf_length]) hr hs)

theorem stScoped_ok (hroom : Room s 2) {m : BitVec 22} {k : BitVec 4} {o : BitVec 2}
    (ha : (s.waited w).access (s.waited w).accStore (s.eaX b i m (sizeBytes z)) (sizeBytes z) false = .ok (t, ps))
    (hr : (if o = 2 then t.release k.toNat else .ok t) = .ok u) (hs : u.storeRoom ps = .ok ()) :
    exec (.stScoped g b w z k o i m) s =
      .next (retire (u.settleLocal.storePieces ps (bytesOf (sizeBytes z) (s.g g).toNat)) 2) := by
  have hrel : t.released (if o = 2 then some k.toNat else none) = if o = 2 then t.release k.toNat else .ok t := by split <;> rfl
  refine run_ok hroom ?_
  rw [waitW_over hw, ok_bind, readG_of_bank hg (waited_bank s w), ok_bind, scopedAddr_w w hb hi, ok_bind]
  exact storeVal_ok (by rwa [bytesOf_length]) (by rwa [hrel]) hs

end

end

/-! ## Reading the registers of a prefetch -/

theorem unmark_frame (s : State) (a : GReg) : (unmark s a).dev = s.dev ∧ (unmark s a).fibres = s.fibres ∧
    (unmark s a).skeins = s.skeins ∧ (unmark s a).fib.guest = s.fib.guest := by
  unfold unmark
  split <;> exact ⟨rfl, rfl, rfl, rfl⟩

/-- What reading some registers once does (R380): where a reply filled one of them, it is an acquire, and no more than the marks of
their first reads and the L1 change. -/
structure ReadOnce (rs : List GReg) (s t : State) : Prop where
  val : t.bank.val = s.bank.val
  fill : t.bank.fill = s.bank.fill
  dev : t.dev = s.dev
  fibres : t.fibres = s.fibres
  skeins : t.skeins = s.skeins
  guest : t.fib.guest = s.fib.guest
  marks : ∀ g, FirstRead t g → FirstRead s g
  acquires : ∀ g, FirstRead s g → ¬FirstRead t g → t.core.l1 = []
  empty : s.core.l1 = [] → t.core.l1 = []
  read : ∀ g ∈ rs, IsFull s g → ¬FirstRead t g
  same : (∀ g ∈ rs, ¬FirstRead s g) → t = s

theorem ReadOnce.full {rs : List GReg} {s t : State} (h : ReadOnce rs s t) (g : GReg) : IsFull t g ↔ IsFull s g := by
  unfold IsFull
  rw [h.fill]

/-- Nothing is read. -/
theorem ReadOnce.refl {rs : List GReg} {s : State} (h : ∀ g ∈ rs, IsFull s g → ¬FirstRead s g) : ReadOnce rs s s :=
  ⟨rfl, rfl, rfl, rfl, rfl, rfl, fun _ => id, fun _ hy hn => absurd hy hn, id, h, fun _ => rfl⟩

theorem ReadOnce.append {a b : List GReg} {s t u : State} (h : ReadOnce a s t) (g : ReadOnce b t u) : ReadOnce (a ++ b) s u where
  val := g.val.trans h.val
  fill := g.fill.trans h.fill
  dev := g.dev.trans h.dev
  fibres := g.fibres.trans h.fibres
  skeins := g.skeins.trans h.skeins
  guest := g.guest.trans h.guest
  marks r := h.marks r ∘ g.marks r
  acquires r hs hu := by
    by_cases ht : FirstRead t r
    · exact g.acquires r ht hu
    · exact g.empty (h.acquires r hs ht)
  empty := g.empty ∘ h.empty
  read r hr hf := by
    obtain hr | hr := List.mem_append.mp hr
    · exact mt (g.marks r) (h.read r hr hf)
    · exact g.read r hr ((h.full r).mpr hf)
  same hn := by
    have hts : t = s := h.same fun r hr => hn r (List.mem_append_left b hr)
    subst hts
    exact g.same fun r hr => hn r (List.mem_append_right a hr)

/-- The first read of one register that a reply filled. -/
theorem unmark_readOnce {s : State} {a : GReg} (ha : FirstRead s a) :
    ReadOnce [a] s ((unmark s a).setCore fun c => { c with l1 := [] }) := by
  obtain ⟨hdev, hfibres, hskeins, hguest⟩ := unmark_frame s a
  have hbank : ((unmark s a).setCore fun c => { c with l1 := [] }).bank = s.bank.mark a false := unmark_bank s a
  refine ⟨by rw [hbank]; rfl, by rw [hbank]; rfl, hdev, hfibres, hskeins, hguest, fun g hg => ?_, fun _ _ _ => rfl, fun _ => rfl,
    fun g hg _ => ?_, fun hn => absurd ha (hn a (by simp))⟩
  · by_cases h : g = a
    · rwa [h]
    · unfold FirstRead at hg
      rw [hbank] at hg
      exact (vgetD_set!_ne s.bank.acq (fun he => h (BitVec.eq_of_toNat_eq he.symm)) false false).symm.trans hg
  · rw [List.mem_singleton.mp hg]
    unfold FirstRead
    rw [hbank]
    exact Bool.eq_false_iff.mp (vgetD_set!_same s.bank.acq (by have := a.isLt; omega) false false)

theorem firstReads_readOnce : ∀ (rs : List GReg) (s : State), ReadOnce rs s (firstReads s rs)
  | [], s => .refl (by simp)
  | a :: rs, s => by
    have hone : ReadOnce [a] s (firstReads s [a]) := by
      rw [firstReads, List.foldl_cons, List.foldl_nil]
      split
      · next h => exact unmark_readOnce h.2
      · next h => exact .refl fun g hg hf hy => h (List.mem_singleton.mp hg ▸ ⟨hf, hy⟩)
    exact hone.append (firstReads_readOnce rs _)

/-! ## What fetching into caches leaves -/

/-- The fibres and skeins are as before, and where no syndrome is pending, the device but for what its caches hold. -/
structure Fetched (s t : State) : Prop where
  fib : t.fib = s.fib
  fibres : t.fibres = s.fibres
  skein : t.skein = s.skein
  skeins : t.skeins = s.skeins
  quiet : s.dev.ecc = [] → s.dev.soft = [] → ∃ sl al ms, t.dev = { s.dev with slices := sl, alts := al, msc := ms }

theorem Fetched.refl (s : State) : Fetched s s := ⟨rfl, rfl, rfl, rfl, fun _ _ => ⟨_, _, _, rfl⟩⟩

theorem Fetched.trans {s t u : State} (h : Fetched s t) (g : Fetched t u) : Fetched s u where
  fib := g.fib.trans h.fib
  fibres := g.fibres.trans h.fibres
  skein := g.skein.trans h.skein
  skeins := g.skeins.trans h.skeins
  quiet he hs := by
    obtain ⟨sl, al, ms, ht⟩ := h.quiet he hs
    obtain ⟨sl', al', ms', hu⟩ := g.quiet (by rw [ht]; exact he) (by rw [ht]; exact hs)
    exact ⟨sl', al', ms', by rw [hu, ht]⟩

theorem OnlyDev.fetched {s t : State} (h : OnlyDev s t)
    (hq : s.dev.ecc = [] → s.dev.soft = [] → ∃ sl al ms, t.dev = { s.dev with slices := sl, alts := al, msc := ms }) : Fetched s t := by
  obtain ⟨hfib, hfibres, hskein, hskeins, -, -⟩ := h.frame
  exact ⟨hfib, hfibres, hskein, hskeins, hq⟩

theorem detect_fetched (s : State) (pa n : Nat) : Fetched s (s.detect pa n) :=
  (detect_onlyDev s pa n).fetched fun he hs => ⟨_, _, _, by rw [detect_nil he hs]⟩

theorem holdSlice_fetched (s : State) (key : BitVec 512) (line home : Nat) : Fetched s (s.holdSlice key line home) :=
  (holdSlice_onlyDev ..).fetched fun _ _ => by
    unfold State.holdSlice
    split <;> exact ⟨_, _, _, rfl⟩

theorem reachSlice_fetched (s : State) (p : Piece) : Fetched s (s.reachSlice p) := by
  unfold State.reachSlice
  split
  · exact List.foldlRecOn (motive := Fetched s) _ _ (.refl s) fun t h l _ => h.trans (holdSlice_fetched t _ l _)
  · exact .refl s

theorem putMsc_fetched (s : State) (line key : Nat) (dirty : Bool) : Fetched s (s.putMsc line key dirty) :=
  ⟨rfl, rfl, rfl, rfl, fun _ _ => ⟨_, _, _, rfl⟩⟩

theorem fillL1_fetched (s : State) (key : BitVec 512) (line : Nat) : Fetched s (s.fillL1 key line) := by
  unfold State.fillL1
  split
  · exact .refl s
  · dsimp only
    split
    · exact detect_fetched ..
    · exact (detect_fetched ..).trans ⟨rfl, rfl, rfl, rfl, fun _ _ => ⟨_, _, _, rfl⟩⟩

theorem walkRead_fetched (s : State) (asid level va pa : Nat) : Fetched s (s.walkRead asid level va pa).2 := by
  have hd := detect_fetched s pa 8
  have hcached (m : Word) : Fetched s ((s.detect pa 8).setChip fun c => c.walked asid level va m) :=
    hd.trans ⟨rfl, rfl, rfl, rfl, fun _ _ => ⟨_, _, _, rfl⟩⟩
  unfold State.walkRead
  dsimp only
  split
  · split
    · exact hd
    · split
      · exact hd
      · exact hcached _
  · exact hcached _

/-! ## What every read of a walker keeps, translation keeps -/

section
variable {R : State → State → Prop} (hrefl : ∀ s, R s s) (htrans : ∀ {s t u}, R s t → R t u → R s u)
  (hread : ∀ (s : State) (asid level va pa : Nat), R s (s.walkRead asid level va pa).2)
include hrefl htrans hread

theorem walkFrom_keeps (asid va : Nat) : ∀ (l : List (Nat × Nat)) (level table : Nat) (s : State),
    R s (walkFrom asid va l level table s).2
  | [], _, _, s => hrefl s
  | (sh, bs) :: rest, level, table, s => by
    have hr := hread s asid level (va / 2 ^ sh) (table + 8 * (va / 2 ^ sh % 2 ^ bs))
    rw [walkFrom]
    dsimp only
    split
    · exact hrefl s
    split
    · exact hr
    split
    · split
      · exact hr
      · split
        · exact hr
        · exact htrans hr (walkFrom_keeps asid va _ _ _ _)
    · split <;> exact hr

theorem walk_keeps (s : State) (asid va : Nat) : R s (walk s asid va).2 := by
  have hr := hread s asid 0 0 (s.dev.astabbase.toNat + 8 * asid)
  unfold walk
  dsimp only
  split
  · exact hrefl s
  split
  · exact hr
  split
  · exact hr
  · exact htrans hr (walkFrom_keeps hrefl htrans hread ..)

theorem check_keeps {s t : State} {a : Acc} {va : Nat} {r : Word × Nat} (h : s.check a va = .ok (t, r)) : R s t := by
  have hw := walk_keeps hrefl htrans hread s a.asid va
  unfold State.check at h
  dsimp only at h
  split at h
  · cases h
  split at h
  · cases h
  · cases h
  · next hu =>
    split at h
    · cases h
    · cases h
      rwa [hu] at hw

theorem pages_keeps (a : Acc) : ∀ (fuel va n : Nat) {s t : State} {ps : List Piece}, s.pages a fuel va n = .ok (t, ps) → R s t
  | 0, _, _, s, _, _, h => by
    cases h
    exact hrefl s
  | fuel + 1, va, n, s, t, ps, h => by
    rw [State.pages] at h
    split at h
    · cases h
      exact hrefl s
    · dsimp only at h
      cases hc : s.check a va with
      | error e => rw [hc] at h; cases h
      | ok r =>
        rw [hc, ok_bind] at h
        cases hp : r.1.pages a fuel (va + min n (2 ^ 16 - va % 2 ^ 16)) (n - min n (2 ^ 16 - va % 2 ^ 16)) with
        | error e => rw [hp] at h; cases h
        | ok q =>
          rw [hp, ok_bind] at h
          cases h
          exact htrans (check_keeps hrefl htrans hread hc) (pages_keeps a fuel _ _ hp)

theorem access_keeps {s t : State} {a : Acc} {va : Word} {n : Nat} {nr : Bool} {ps : List Piece}
    (h : s.access a va n nr = .ok (t, ps)) : R s t := by
  unfold State.access at h
  simp only [bind, Except.bind] at h
  split at h
  · cases h
  split at h
  · cases h
  next hp =>
    split at h
    · cases h
    split at h
    · cases h
    · cases h
      exact pages_keeps hrefl htrans hread _ _ _ _ hp

end

theorem access_fetched {s t : State} {a : Acc} {va : Word} {n : Nat} {nr : Bool} {ps : List Piece}
    (h : s.access a va n nr = .ok (t, ps)) : Fetched s t := access_keeps Fetched.refl Fetched.trans walkRead_fetched h

/-! ## Prefetches -/

/-- The registers of the address of a prefetch (R157). -/
def addrRegs (b : GReg) (i : BitVec 4) : List GReg := b :: if i.toNat ≤ 7 then [i.setWidth 3] else []

theorem mem_addrRegs {b g : GReg} {i : BitVec 4} : g ∈ addrRegs b i ↔ g = b ∨ (i.toNat ≤ 7 ∧ g = i.setWidth 3) := by
  unfold addrRegs
  split <;> simp [*]

section
variable {s : State} {b : GReg} {i : BitVec 4}

/-- The state after the first reads of a prefetch. -/
abbrev State.addrRead (s : State) (b : GReg) (i : BitVec 4) : State := firstReads s (addrRegs b i)

theorem addrRead_readOnce (s : State) (b : GReg) (i : BitVec 4) : ReadOnce (addrRegs b i) s (s.addrRead b i) := firstReads_readOnce _ s

theorem addrRead_eaM (m : BitVec 9) (e : Nat) : (s.addrRead b i).eaM b i m e = s.eaM b i m e := by
  simp only [State.eaM, State.ix, State.g, (addrRead_readOnce s b i).val]

theorem peekG_full {r : GReg} (h : IsFull s r) : peekG s r = some (s.g r) := if_pos h

theorem peekG_not {r : GReg} (h : ¬IsFull s r) : peekG s r = none := if_neg h

theorem prefetchAddr_full (hb : IsFull s b) (hi : i.toNat ≤ 7 → IsFull s (i.setWidth 3)) (m : BitVec 9) :
    prefetchAddr s b i m = some (s.eaM b i m 128) := by
  have hix : (if i.toNat ≤ 7 then peekG s (i.setWidth 3) else some 0) = some (s.ix i) := by
    unfold State.ix
    split
    · next h => exact peekG_full (hi h)
    · rfl
  rw [prefetchAddr, peekG_full hb, hix]
  rfl

theorem prefetchAddr_not (h : ¬IsFull s b ∨ (i.toNat ≤ 7 ∧ ¬IsFull s (i.setWidth 3))) (m : BitVec 9) : prefetchAddr s b i m = none := by
  unfold prefetchAddr
  obtain hb | ⟨h7, hi⟩ := h
  · rw [peekG_not hb]
  · rw [if_pos h7, peekG_not hi]
    cases peekG s b <;> rfl

variable {m : BitVec 9} {f : State → Piece → State}

theorem prefetch_unread (h : prefetchAddr (s.addrRead b i) b i m = none) : prefetch s b i m f = s.addrRead b i := by
  unfold State.addrRead addrRegs at h ⊢
  simp only [prefetch, h]

/-- What a prefetch does with what translation and checks gave it (R200). -/
def State.fetching (r : State) (f : State → Piece → State) : Ex (State × List Piece) → State
  | .ok (t, p :: _) => if isDram p.pa then f t p else r
  | _ => r

/-- A prefetch after its first reads, where no register of its address holds it up. -/
theorem prefetch_read (hb : IsFull s b) (hi : i.toNat ≤ 7 → IsFull s (i.setWidth 3)) : prefetch s b i m f =
    (s.addrRead b i).fetching f ((s.addrRead b i).access (s.addrRead b i).accLoad (s.eaM b i m 128) 1 false) := by
  have hr := addrRead_readOnce s b i
  have ha : prefetchAddr (s.addrRead b i) b i m = some (s.eaM b i m 128) := by
    rw [prefetchAddr_full ((hr.full b).mpr hb) fun h7 => (hr.full _).mpr (hi h7), addrRead_eaM]
  unfold State.addrRead addrRegs at ha ⊢
  simp only [prefetch, ha]
  rfl

/-- A prefetch that cannot read a register of its address, or whose address cannot be loaded, does nothing more (R200). -/
theorem prefetch_stays (h : ¬IsFull s b ∨ (i.toNat ≤ 7 ∧ ¬IsFull s (i.setWidth 3)) ∨
      ∃ e, (s.addrRead b i).access (s.addrRead b i).accLoad (s.eaM b i m 128) 1 false = .error e) :
    prefetch s b i m f = s.addrRead b i := by
  have hr := addrRead_readOnce s b i
  by_cases hread : ¬IsFull s b ∨ (i.toNat ≤ 7 ∧ ¬IsFull s (i.setWidth 3))
  · refine prefetch_unread (prefetchAddr_not ?_ m)
    rwa [hr.full, hr.full]
  · obtain ⟨hb, hi⟩ := not_or.mp hread
    obtain ⟨e, he⟩ := (h.resolve_left hb).resolve_left hi
    rw [prefetch_read (not_not.mp hb) fun h7 => not_not.mp fun hn => hi ⟨h7, hn⟩, he]
    rfl

section
variable (hb : IsFull s b) (hi : i.toNat ≤ 7 → IsFull s (i.setWidth 3)) {t : State} {p : Piece} {ps : List Piece}
  (ha : (s.addrRead b i).access (s.addrRead b i).accLoad (s.eaM b i m 128) 1 false = .ok (t, p :: ps))
include hb hi ha

/-- A prefetch of a scratchpad does nothing more (R200). -/
theorem prefetch_pad (hp : isPad p.pa = true) : prefetch s b i m f = s.addrRead b i := by
  have hd : isDram p.pa = false := by
    simp only [isPad, isDram, beq_iff_eq, beq_eq_false_iff_ne] at hp ⊢
    omega
  rw [prefetch_read hb hi, ha]
  exact if_neg (Bool.eq_false_iff.mp hd)

theorem prefetch_dram (hd : isDram p.pa = true) : prefetch s b i m f = f t p := by
  rw [prefetch_read hb hi, ha]
  exact if_pos hd

end

/-- A prefetch changes no more after its first reads than what it does to the caches. -/
theorem prefetch_fetched (hf : ∀ t p, Fetched t (f t p)) : Fetched (s.addrRead b i) (prefetch s b i m f) := by
  have hstay {t : State} (ht : t = s.addrRead b i) : Fetched (s.addrRead b i) t := ht ▸ .refl t
  by_cases hread : IsFull s b ∧ (i.toNat ≤ 7 → IsFull s (i.setWidth 3))
  · obtain ⟨hb, hi⟩ := hread
    match ha : (s.addrRead b i).access (s.addrRead b i).accLoad (s.eaM b i m 128) 1 false with
    | .error e => exact hstay (prefetch_stays (.inr (.inr ⟨e, ha⟩)))
    | .ok (t, []) => exact hstay (by rw [prefetch_read hb hi, ha]; rfl)
    | .ok (t, p :: ps) =>
      by_cases hd : isDram p.pa = true
      · rw [prefetch_dram hb hi ha hd]
        exact (access_fetched ha).trans (hf t p)
      · exact hstay (by rw [prefetch_read hb hi, ha]; exact if_neg hd)
  · rw [not_and_or, Classical.not_imp] at hread
    exact hstay (prefetch_stays (hread.imp_right .inl))

end

/-! ## What each prefetch leaves in its cache -/

/-- What `pf.l1` does with the line that it found (R200). -/
def State.fetchL1 (t : State) (p : Piece) : State :=
  if t.usesL1 p false then (t.reachSlice p).fillL1 (t.key (leafKey p.leaf)) (p.pa / 128) else t

/-- What `pf.msc` does with the line that it found (R200). -/
def State.fetchMsc (t : State) (p : Piece) : State :=
  if t.dev.msc.any fun x => x.line == p.pa / 128 then t else t.putMsc (p.pa / 128) (leafKey p.leaf) false

theorem fetchL1_fetched (t : State) (p : Piece) : Fetched t (t.fetchL1 p) := by
  unfold State.fetchL1
  split
  · exact (reachSlice_fetched t p).trans (fillL1_fetched ..)
  · exact .refl t

theorem fetchMsc_fetched (t : State) (p : Piece) : Fetched t (t.fetchMsc p) := by
  unfold State.fetchMsc
  split
  · exact .refl t
  · exact putMsc_fetched ..

section
variable {s t : State} {b : GReg} {i : BitVec 4} {m : BitVec 9}

theorem prefetches_run (hroom : Room s 1) : exec (.pfL1 b i m) s = .next (retire (prefetch s b i m State.fetchL1) 1) ∧
    exec (.pfL2 b i m) s = .next (retire (prefetch s b i m State.reachSlice) 1) ∧
    exec (.pfMsc b i m) s = .next (retire (prefetch s b i m State.fetchMsc) 1) :=
  ⟨run_ok hroom rfl, run_ok hroom rfl, run_ok hroom rfl⟩

theorem firstPoison_congr (h : ∀ w, t.poisonedWord w = s.poisonedWord w) : ∀ n pa : Nat, t.firstPoison pa n = s.firstPoison pa n
  | 0, _ => rfl
  | n + 1, pa => by rw [State.firstPoison, State.firstPoison, h, firstPoison_congr h n]

variable {p : Piece}

theorem lines_byte (h : p.len = 1) : p.lines = [p.pa / 128] := by
  have hone : (p.pa % 128 + 1 + 127) / 128 = 1 := by omega
  rw [Piece.lines, h, hone]
  rfl

theorem reachSlice_any (hd : isDram p.pa = true) (hlen : p.len = 1) (hbyp : leafByp p.leaf = false) :
    ((t.reachSlice p).dev.slices.any fun e => e.1 == p.pa / 128) = true := by
  rw [State.reachSlice, if_pos (by simp [hd, hbyp]), lines_byte hlen]
  exact holdSlice_any ..

theorem fetchMsc_any : ((t.fetchMsc p).dev.msc.any fun x => x.line == p.pa / 128) = true := by
  unfold State.fetchMsc
  split
  · assumption
  · simp [State.putMsc]

/-- A line without poison enters the L1 (R61). -/
theorem fillL1_any {key : BitVec 512} {line : Nat} (he : t.dev.ecc = []) (hs : t.dev.soft = [])
    (hn : t.firstPoison (128 * line) 128 = none) : ((t.fillL1 key line).core.l1.any fun e => e.1 == line) = true := by
  unfold State.fillL1
  split
  · assumption
  · simp [detect_nil he hs, hn]

theorem fetchL1_any (hd : isDram p.pa = true) (hbyp : leafByp p.leaf = false) (hg : t.fib.guest = false) (he : t.dev.ecc = [])
    (hs : t.dev.soft = []) (hn : t.firstPoison (128 * (p.pa / 128)) 128 = none) :
    ((t.fetchL1 p).core.l1.any fun e => e.1 == p.pa / 128) = true := by
  obtain ⟨sl, al, ms, hdev⟩ := (reachSlice_fetched t p).quiet he hs
  have hpoison : ∀ w, (t.reachSlice p).poisonedWord w = t.poisonedWord w := fun w => by
    simp only [State.poisonedWord, State.absentPa, State.onSpare, hdev]
  rw [State.fetchL1, if_pos (by simp [State.usesL1, hd, hbyp, hg])]
  exact fillL1_any (by rw [hdev]; exact he) (by rw [hdev]; exact hs) (by rw [firstPoison_congr hpoison]; exact hn)

end

/-! ## The statement -/

/-- Settles O6: loads and stores by the access that they make, and a prefetch by its first reads and by what it fetches. -/
theorem integerMemory : Obligations.IntegerMemory := by
  refine ⟨fun s t x u z e d b i w m ps bs hroom hw hb hi hd => ?_, fun s t z g b i w m ps hroom hw hg hb hi => ?_,
    fun s t x u z e d a sc o i w m ps bs hroom hw ha hi => ?_, fun s b i m hroom => ?_⟩
  · intro n v hacc out
    have hload {nt : Bool} {sc : Option Nat} (ho : (t.acquired sc).ownFirst nt ps = .ok x) (hl : x.loadPieces nt ps = .ok (u, bs)) :
        loadM s z e d b i w m nt sc = out := by
      rw [loadM_ok hw hb hi hd hroom hacc ho hl, extendLoad_bit]
    exact ⟨hload (sc := none), hload (sc := some 2), hload (sc := none)⟩
  · intro n v hacc bs
    have hstore {u : State} {sc : Option Nat} (hr : t.released sc = .ok u) (hs : u.storeRoom ps = .ok ()) :=
      storeM_ok hw hb hi hg hroom hacc hr hs
    exact ⟨fun hs => ⟨hstore (sc := none) rfl hs, hstore (sc := none) rfl hs⟩,
      fun hu hm => hstore (sc := some 2) (release_chip hu hm)⟩
  · exact ⟨fun hd hacc ho hl => ldScoped_ok hw ha hi hd hroom hacc ho hl, fun hg hacc hr hs => stScoped_ok hw ha hi hg hroom hacc hr hs⟩
  · have hr := addrRead_readOnce s b i
    obtain ⟨hl1, hl2, hmsc⟩ := prefetches_run (b := b) (i := i) (m := m) hroom
    refine ⟨_, _, _, hl1, hl2, hmsc, ⟨hr.val, hr.fill, hr.dev, fun g hg hf => ?_⟩, fun hn => hr.same fun g hg => hn g (mem_addrRegs.mp hg),
      fun t ht => ?_, fun h => ⟨prefetch_stays h, prefetch_stays h, prefetch_stays h⟩, fun hb hi u p ps hacc => ⟨fun hp => ?_,
      fun hd hlen hbyp => ?_⟩⟩
    · have hread := hr.read g (mem_addrRegs.mpr hg) hf
      exact ⟨hread, fun hfirst => hr.acquires g hfirst hread⟩
    · have hf : Fetched (s.addrRead b i) t := by
        simp only [List.mem_cons, List.not_mem_nil, or_false] at ht
        obtain rfl | rfl | rfl := ht
        · exact prefetch_fetched fetchL1_fetched
        · exact prefetch_fetched reachSlice_fetched
        · exact prefetch_fetched fetchMsc_fetched
      refine ⟨hf.fib, hf.fibres.trans hr.fibres, hf.skein, hf.skeins.trans hr.skeins, fun he hs => ?_⟩
      obtain ⟨sl, al, ms, hdev⟩ := hf.quiet (by rw [hr.dev]; exact he) (by rw [hr.dev]; exact hs)
      rw [hdev, hr.dev]
      exact ⟨rfl, rfl, rfl⟩
    · exact ⟨prefetch_pad hb hi hacc hp, prefetch_pad hb hi hacc hp, prefetch_pad hb hi hacc hp⟩
    · rw [prefetch_dram hb hi hacc hd, prefetch_dram hb hi hacc hd, prefetch_dram hb hi hacc hd]
      have hguest : u.fib.guest = s.fib.guest := (congrArg Fibre.guest (access_fetched hacc).fib).trans hr.guest
      exact ⟨reachSlice_any hd hlen hbyp, fetchMsc_any, fun hg => fetchL1_any hd hbyp (hguest.trans hg)⟩

end Sys2Proof.Machine

/-! # Full/empty memory (O7)

A full/empty load is one access at its word's home, which completes there or waits; a full/empty store and the bit operations end with
what they leave of the word. -/

namespace Sys2Proof.Machine

/-! ## Full/empty loads -/

/-- The access of a full/empty load or take (R196, R197). -/
def State.accFe (s : State) (take : Bool) : Acc := if take then s.accAtomic else s.accLoad

/-- What a take leaves of a full word, and a load of it not (R197). -/
def State.taken (s : State) (take : Bool) (p : Piece) : State :=
  if take then (s.touchBit (keyArg p.leaf) p.pa).setFull (p.pa / 8) false else s

/-- The request of a full/empty load at an empty word (R196). -/
def State.feRequest (t : State) (p : Piece) (n : Nat) (signed take : Bool) (d : GReg) : FeWait :=
  { fib := t.fib.id, pa := p.pa, len := n, signed := signed, take := take, d := d, shadow := t.fib.inev, key := keyArg p.leaf,
    asid := t.fib.asid, va := p.va }

section
variable {s t : State} {d : GReg} {va : Word} {n : Nat} {signed take : Bool} {p : Piece} (hd : FreeG s d)
  (ha : fePiece s (s.accFe take) va n = .ok (t, p))
include hd ha

theorem feLoad_full {u : State} {bs : List Byte} (hfull : t.emptyWord (p.pa / 8) = false) (hl : t.loadPieces true [p] = .ok (u, bs)) :
    feLoad s d va n signed take = .ok (setG ((u.acquire 2).taken take p) d (extendLoad n signed (ofBytes bs)),
      ((u.acquire 2).taken take p).parksFor [p]) := by
  unfold State.accFe at ha
  rw [feLoad, destG_free hd, ok_bind, ha, ok_bind]
  dsimp only
  rw [if_neg (Bool.eq_false_iff.mp hfull), hl, ok_bind]
  rfl

theorem feLoad_empty (hempty : t.emptyWord (p.pa / 8) = true) : feLoad s d va n signed take =
    hold (t.setDev fun x => { x with feWait := x.feWait ++ [t.feRequest p n signed take d] }) .fe := by
  unfold State.accFe at ha
  rw [feLoad, destG_free hd, ok_bind, ha, ok_bind]
  exact if_pos hempty

end

section
variable {s t : State} {z : BitVec 2} {d b : GReg} {p : Piece} (hroom : Room s 1) (hb : FullG s b) (hd : FreeG s d)
include hroom hb hd

section
variable {e : BitVec 1} {i : BitVec 4} {w : BitVec 1} {m : BitVec 9} (hw : WaitOver s w) (hi : FullIx s i)
  (ha : fePiece (s.waited w) (s.waited w).accLoad (s.eaM b i m (sizeBytes z)) (sizeBytes z) = .ok (t, p))
include hw hi ha

theorem ldFe_full {u : State} {bs : List Byte} (hfull : t.emptyWord (p.pa / 8) = false) (hl : t.loadPieces true [p] = .ok (u, bs)) :
    exec (.ldFe z e d b i w m) s =
      landed (setG (u.acquire 2) d (extendLoad (sizeBytes z) (e == 1) (ofBytes bs))) ((u.acquire 2).parksFor [p]) 1 :=
  runLoad_landed hroom (by
    rw [waitW_over hw, ok_bind, effAddr_w w hb hi, ok_bind]
    exact feLoad_full (take := false) (by rwa [waited_free]) ha hfull hl)

theorem ldFe_empty (hempty : t.emptyWord (p.pa / 8) = true) : exec (.ldFe z e d b i w m) s =
    .next (parkAs (t.setDev fun x => { x with feWait := x.feWait ++ [t.feRequest p (sizeBytes z) (e == 1) false d] }) .fe) :=
  runLoad_hold hroom (by
    rw [waitW_over hw, ok_bind, effAddr_w w hb hi, ok_bind]
    exact feLoad_empty (take := false) (by rwa [waited_free]) ha hempty)

end

section
variable (ha : fePiece s s.accAtomic (s.g b) 8 = .ok (t, p))
include ha

theorem ldFeTake_full {u : State} {bs : List Byte} (hfull : t.emptyWord (p.pa / 8) = false)
    (hl : t.loadPieces true [p] = .ok (u, bs)) : exec (.ldFeTake d b) s =
    landed (setG ((u.acquire 2).taken true p) d (extendLoad 8 false (ofBytes bs))) (((u.acquire 2).taken true p).parksFor [p]) 1 :=
  runLoad_landed hroom (by
    rw [readG_full hb, ok_bind]
    exact feLoad_full (take := true) hd ha hfull hl)

theorem ldFeTake_empty (hempty : t.emptyWord (p.pa / 8) = true) : exec (.ldFeTake d b) s =
    .next (parkAs (t.setDev fun x => { x with feWait := x.feWait ++ [t.feRequest p 8 false true d] }) .fe) :=
  runLoad_hold hroom (by
    rw [readG_full hb, ok_bind]
    exact feLoad_empty (take := true) hd ha hempty)

end

end

/-! ## Full/empty stores and bit operations -/

section
variable {s t : State} {b g : GReg} {p : Piece} (hroom : Room s 1)
include hroom

theorem stFe_ok {z : BitVec 2} {i : BitVec 4} {w : BitVec 1} {m : BitVec 9} (hb : FullG s b) (hw : WaitOver s w) (hi : FullIx s i)
    (hg : FullG s g) (ha : fePlace (s.waited w) (s.waited w).accStore (s.eaM b i m (sizeBytes z)) (sizeBytes z) = .ok (t, p))
    (hu : t.fib.updout = 0) (hm : t.behindMessage true = false) (hs : t.settle.drain.storeRoom [p] = .ok ()) :
    exec (.stFe z g b i w m) s =
      .next (retire (t.settle.drain.settleLocal.feStorePart p (bytesOf (sizeBytes z) (s.g g).toNat)) 1) := by
  refine run_ok hroom ?_
  rw [waitW_over hw, ok_bind, readG_of_bank hg (waited_bank s w), ok_bind, effAddr_w w hb hi, ok_bind, feStore, bytesOf_length, ha, ok_bind]
  dsimp only
  rw [release_chip hu hm, ok_bind, hs, ok_bind]

theorem feClr_ok (hb : FullG s b) (ha : fePiece s s.accStore (s.g b) 8 = .ok (t, p)) :
    exec (.feClr b) s = .next (retire ((t.touchBit (keyArg p.leaf) p.pa).setFull (p.pa / 8) false) 1) :=
  run_ok hroom (by rw [readG_full hb, ok_bind, ha, ok_bind])

theorem feSet_ok {u : State} (hb : FullG s b) (ha : fePlace s s.accStore (s.g b) 8 = .ok (t, p)) (hu : t.fib.updout = 0)
    (hm : t.behindMessage true = false) (hh : t.settle.drain.homeFirst [t.settle.drain.pieceWay p] [p] [] = .ok u) :
    exec (.feSet b) s = .next (retire (((u.detect p.pa p.len).touchBit (keyArg p.leaf) p.pa).makeFull (p.pa / 8)) 1) :=
  run_ok hroom (by
    rw [readG_full hb, ok_bind, ha, ok_bind]
    dsimp only
    rw [release_chip hu hm, ok_bind, hh, ok_bind])

theorem feTest_ok (hb : FullG s b) (hg : FreeG s g) (ha : fePiece s s.accLoad (s.g b) 8 = .ok (t, p)) :
    exec (.feTest g b) s = landed (setG t g (if t.emptyWord (p.pa / 8) then 0 else 1)) (t.parksFor [p]) 1 :=
  runLoad_landed hroom (by rw [readG_full hb, ok_bind, destG_free hg, ok_bind, ha, ok_bind])

theorem gEmpty_ok (hg : FreeG s g) : exec (.gEmpty g) s = .next (retire (setFill s g (s.g g) Fill.empty) 1) :=
  run_ok hroom (by rw [destG_free hg, ok_bind]; rfl)

end

/-! ## A word that becomes full -/

theorem emptyWord_eq (s : State) (x : Nat) : s.emptyWord x = decide (x ∈ s.dev.empt) := List.contains_eq_mem ..

/-- Where nothing waits at a word, it becomes full and no more (R196). -/
theorem makeFull_nobody {s : State} {w : Nat} (h : ∀ e ∈ s.dev.feWait, e.pa / 8 ≠ w) : s.makeFull w = s.setFull w true := by
  have hmine : ((s.setFull w true).dev.feWait.filter fun e => e.pa / 8 == w) = [] :=
    List.filter_eq_nil_iff.mpr fun e he => by simpa using h e he
  simp [State.makeFull, hmine]

theorem setFull_emptyWord_same {s : State} {w : Nat} (hn : s.dev.empt.Nodup) : (s.setFull w true).emptyWord w = false := by
  rw [emptyWord_eq]
  simpa [State.setFull, setDel_eq_erase] using hn.not_mem_erase

theorem setFull_emptyWord_ne (s : State) {w x : Nat} (h : x ≠ w) : (s.setFull w true).emptyWord x = s.emptyWord x := by
  rw [emptyWord_eq, emptyWord_eq]
  simp [State.setFull, setDel_eq_erase, List.mem_erase_of_ne h]

/-! ## The statement -/

/-- Settles O7: each instruction by its access and what it leaves of the word. -/
theorem fullEmptyMemory : Obligations.FullEmptyMemory := by
  refine ⟨fun s t u z e d b i w m p bs hroom hb hd => ⟨fun hw hi ha => ⟨ldFe_full hroom hb hd hw hi ha, fun hempty =>
      ⟨t.feRequest p (sizeBytes z) (e == 1) false d, rfl, rfl, rfl, rfl, rfl, rfl, rfl, ldFe_empty hroom hb hd hw hi ha hempty⟩⟩,
    fun ha => ⟨ldFeTake_full hroom hb hd ha, fun hempty =>
      ⟨t.feRequest p 8 false true d, rfl, rfl, rfl, rfl, rfl, ldFeTake_empty hroom hb hd ha hempty⟩⟩⟩,
    fun s t z g b i w m p hroom => ⟨fun hb hw hi hg ha hu hm hs => ?_, feClr_ok hroom, fun u => feSet_ok hroom, feTest_ok hroom, gEmpty_ok hroom⟩,
    fun s b hfull => if_pos hfull, fun s w h => ?_⟩
  · rw [stFe_ok hroom hb hw hi hg ha hu hm hs]
    intro x
    rw [State.feStorePart]
    refine ⟨fun hrem => ?_, fun hrem hpad => ?_, fun hpad => ?_⟩
    · rw [if_pos hrem]
    · rw [if_neg (Bool.eq_false_iff.mp hrem), if_pos hpad]
    · have hrem : ¬x.remote p = true := by simp [State.remote, hpad]
      rw [if_neg hrem, if_neg (Bool.eq_false_iff.mp hpad)]
  · rw [makeFull_nobody h]
    exact ⟨setFull_emptyWord_same, rfl, rfl, fun x hx => setFull_emptyWord_ne s hx⟩

end Sys2Proof.Machine

/-! # VF and vector memory (O8)

A VF load makes two accesses, of the length byte and of the value. A vector load or store makes one for each lane of a list. The
instructions differ in the lanes that they list and in how they check and pack them, so that each follows from what is said once of a
list of lanes. -/

namespace Sys2Proof.Machine

/-- A release at chip scope where ord asks for it (R158). -/
theorem ordScope_released {t : State} {o : BitVec 2} (h : o = 1 → t.fib.updout = 0 ∧ t.behindMessage true = false) :
    t.released (ordScope o) = .ok (if o = 1 then t.settle.drain else t) := by
  unfold ordScope
  split
  · next ho => exact release_chip (h ho).1 (h ho).2
  · rfl

/-! ## Scalar VF accesses -/

theorem loadF_ok {s t t0 t1 t2 t2' t3 : State} {f : FReg} {ea : Word} {o : BitVec 2} {ps qs : List Piece} {b0 bs : List Byte}
    (ha : s.access s.accLoad ea 1 false = .ok (t, ps)) (ho : (if o = 1 then t.acquire 2 else t).ownFirst (o == 3) ps = .ok t0)
    (hr : t0.readParts (o == 3) (some 0) ps = .ok (t1, b0)) (hlen : 2 ≤ ofBytes b0 % 16)
    (ha' : t1.access t1.accLoad ea (ofBytes b0 % 16 + 1) (crosses ea (ofBytes b0 % 16 + 1)) = .ok (t2, qs))
    (ho' : t2.ownFirst (o == 3) qs = .ok t2') (hl : t2'.loadParts (o == 3) (some 0) qs = .ok (t3, bs)) :
    loadF s f ea o = .ok (setF t3 f.toNat ((vfDecode (ofBytes bs)).convert (Fmt.vf t3.p) t3.rm), t3.parksFor qs,
      ofBytes b0 % 16 + 1) := by
  rw [loadF, ha, ok_bind]
  dsimp only
  rw [ho, ok_bind, hr, ok_bind]
  dsimp only
  rw [ensure_ok (decide_eq_true hlen), ok_bind, ha', ok_bind]
  dsimp only
  rw [ho', ok_bind, hl, ok_bind]

section
variable {s : State} {f : FReg} {b : GReg} {w : BitVec 1} {o : BitVec 2} (hroom : Room s 1) (hw : WaitOver s w) (hb : FullG s b)
  (hf : f.toNat < s.k)
include hroom hw hb hf

section
variable {y : State} {parks : Bool} {n : Nat}

theorem ldF_ok {i : BitVec 4} {m : BitVec 9} (hi : FullIx s i) (h : loadF (s.waited w) f (s.eaM b i m s.n) o = .ok (y, parks, n)) :
    exec (.ldF f b i w o m) s = landed y parks 1 :=
  runLoad_landed hroom (by
    rw [waitW_over hw, ok_bind, waited_n, effAddr_w w hb hi, ok_bind, needF_ok (by rwa [waited_k]), ok_bind, h, ok_bind])

theorem ldFAdv_ok (h : loadF (s.waited w) f (s.g b) o = .ok (y, parks, n)) :
    exec (.ldFAdv f b w o) s = landed (setG y b (s.g b + BitVec.ofNat 64 n)) parks 1 :=
  runLoad_landed hroom (by
    rw [waitW_over hw, ok_bind, readG_of_bank hb (waited_bank s w), ok_bind, needF_ok (by rwa [waited_k]), ok_bind, h, ok_bind])

end

theorem stF_ok {t u : State} {i : BitVec 4} {m : BitVec 9} {ps : List Piece} {x : Nat} (hi : FullIx s i)
    (hx : readV0 (s.waited w) f.toNat = .ok x)
    (ha : (s.waited w).access (s.waited w).accStore (s.eaM b i m s.n) s.n (crosses (s.eaM b i m s.n) s.n) = .ok (t, ps))
    (hr : t.released (ordScope o) = .ok u) (hs : u.storeRoom ps = .ok ()) :
    exec (.stF f b i w o m) s = .next (retire (u.settleLocal.storePieces ps (bytesOf s.n x)) 1) :=
  run_ok hroom (by
    rw [waitW_over hw, ok_bind, waited_n, effAddr_w w hb hi, ok_bind, needF_ok (by rwa [waited_k]), ok_bind, hx, ok_bind]
    exact storeVal_ok (by rwa [bytesOf_length]) hr hs)

end

/-! ## Lanes -/

section
variable {s t x' u : State} {v e l : Nat} {o : BitVec 2} {at_ : List (Nat × Word)} {ps : List (Nat × List Piece)} {got : List (Nat × Nat)}

theorem loadLanes_ok (ha : laneAccess s.accLoad e noCheck at_ s = .ok (t, ps))
    (ho : (if o = 1 then t.acquire 2 else t).ownFirst (o == 3) (ps.flatMap Prod.snd) = .ok x')
    (hl : laneLoads (o == 3) ps x' = .ok (u, got)) :
    loadLanes s v e l o at_ = .ok (setVec u v (packLanes e (placeLanes l got 0)), ps.any fun q => u.parksFor q.2) := by
  rw [loadLanes, ha, ok_bind]
  dsimp only
  rw [ho, ok_bind, hl, ok_bind]

theorem ordAcquire_accLoad (s : State) (o : BitVec 2) : (if o = 1 then s.acquire 2 else s).accLoad = s.accLoad := by
  split <;> rfl

theorem loadLanesF_ok (ha : laneAccess s.accLoad s.n (memLaneOk s.n (o == 3)) at_ (if o = 1 then s.acquire 2 else s) = .ok (t, ps))
    (hl : laneLoads (o == 3) ps t = .ok (u, got)) :
    loadLanesF s v l o at_ = .ok (raiseFlags (setVec u v (packLanes s.n
      (placeLanes l (roundLanes s.p s.rm got).1 (vfEncode s.p FV.zero)))) (roundLanes s.p s.rm got).2, ps.any fun q => u.parksFor q.2) := by
  rw [loadLanesF]
  dsimp only
  rw [ordAcquire_accLoad, ha, ok_bind, hl, ok_bind]

theorem storeLanes_ok {x : Nat} {scatter : Bool} {chk : LaneCheck} (ha : laneAccess s.accStore e chk at_ s = .ok (t, ps))
    (hr : o = 1 → t.fib.updout = 0 ∧ t.behindMessage true = false)
    (hs : (if o = 1 then t.settle.drain else t).storeRoom (ps.flatMap Prod.snd) = .ok ()) :
    storeLanes s x e scatter chk o at_ = .ok (laneStores (if o = 1 then t.settle.drain else t).settleLocal e x scatter ps) := by
  rw [storeLanes, ha, ok_bind]
  dsimp only
  by_cases ho : o = 1
  · obtain ⟨hu, hm⟩ := hr ho
    rw [if_pos ho] at hs
    rw [if_pos ho, if_pos ho, release_chip hu hm, ok_bind, hs, ok_bind]
  · rw [if_neg ho] at hs
    rw [if_neg ho, if_neg ho, ok_bind, hs, ok_bind]

end

/-! ## Vector accesses -/

section
variable {s y : State} {z : BitVec 2} {v : VReg} {b : GReg} {w : BitVec 1} {o : BitVec 2} {m : BitVec 9} {parks : Bool} {x : Nat}
  (hw : WaitOver s w) (hb : FullG s b) (hv : v.toNat < s.fib.nv)
include hw hb hv

section
variable {i : BitVec 4} (hi : FullIx s i)
include hi

/-- What comes before a row of lanes of `e` bytes. -/
theorem row_opens {α : Type} {e : State → Nat} (he : e (s.waited w) = e s) (body : State → Word → Ex α) :
    (do
      needV s v.toNat
      let t ← waitW s w
      let ea ← effAddr t b i m (e t)
      body t ea) = body (s.waited w) (s.eaM b i m (e s)) := by
  rw [needV_ok hv, ok_bind, waitW_over hw, ok_bind, he, effAddr_w w hb hi, ok_bind]

variable (hroom : Room s 1)
include hroom

theorem vld_ok (h : loadLanes (s.waited w) v.toNat (sizeBytes z) (256 / sizeBytes z) o
      (rowLanes (s.eaM b i m (sizeBytes z)) (sizeBytes z) (256 / sizeBytes z)) = .ok (y, parks)) :
    exec (.vld z v b i w o m) s = landed y parks 1 :=
  runLoad_landed hroom ((row_opens (e := fun _ => sizeBytes z) hw hb hv hi rfl _).trans h)

theorem vldF_ok (h : loadLanesF (s.waited w) v.toNat (vfLanes s.n) o (rowLanes (s.eaM b i m s.n) s.n (vfLanes s.n)) = .ok (y, parks)) :
    exec (.vldF v b i w o m) s = landed y parks 1 :=
  runLoad_landed hroom ((row_opens (e := State.n) hw hb hv hi (waited_n w) _).trans (by rwa [waited_n]))

variable (hx : readVec (s.waited w) v.toNat = .ok x)
include hx

theorem vst_ok (h : storeLanes (s.waited w) x (sizeBytes z) false noCheck o
      (rowLanes (s.eaM b i m (sizeBytes z)) (sizeBytes z) (256 / sizeBytes z)) = .ok y) :
    exec (.vst z v b i w o m) s = .next (retire y 1) :=
  run_ok hroom ((row_opens (e := fun _ => sizeBytes z) hw hb hv hi rfl _).trans (by rwa [hx, ok_bind]))

theorem vstF_ok (h : storeLanes (s.waited w) x s.n false (regLaneOk s.n x) o (rowLanes (s.eaM b i m s.n) s.n (vfLanes s.n)) = .ok y) :
    exec (.vstF v b i w o m) s = .next (retire y 1) :=
  run_ok hroom ((row_opens (e := State.n) hw hb hv hi (waited_n w) _).trans (by rwa [hx, ok_bind, waited_n]))

end

section
variable {j : BitVec 3} {offs : Nat} (hj : j.toNat < s.fib.nv) (ho : readVec (s.waited w) j.toNat = .ok offs)
include hj ho

/-- What comes before gathered or scattered lanes. -/
theorem jump_opens {α : Type} (body : State → Word → Nat → Ex α) :
    (do
      needVs s [v.toNat, j.toNat]
      let t ← waitW s w
      let base ← readG t b
      let offs ← readVec t j.toNat
      body t base offs) = body (s.waited w) (s.g b) offs := by
  rw [needVs_ok (by simp [hv, hj]), ok_bind, waitW_over hw, ok_bind, readG_of_bank hb (waited_bank s w), ok_bind, ho, ok_bind]

variable (hroom : Room s 1)
include hroom

theorem vldGather_ok (h : loadLanes (s.waited w) v.toNat (sizeBytes z) (256 / sizeBytes z) o
      (jumpLanes (s.g b) offs m (sizeBytes z) (256 / sizeBytes z)) = .ok (y, parks)) :
    exec (.vldGather z v b j w o m) s = landed y parks 1 :=
  runLoad_landed hroom ((jump_opens hw hb hv hj ho _).trans h)

theorem vldFGather_ok (h : loadLanesF (s.waited w) v.toNat (vfLanes s.n) o
      (jumpLanes (s.g b) offs m s.n (Nat.min (vfLanes s.n) 64)) = .ok (y, parks)) :
    exec (.vldFGather v b j w o m) s = landed y parks 1 :=
  runLoad_landed hroom ((jump_opens hw hb hv hj ho _).trans (by rwa [waited_n]))

variable (hx : readVec (s.waited w) v.toNat = .ok x)
include hx

theorem vstScatter_ok (h : storeLanes (s.waited w) x (sizeBytes z) true noCheck o
      (jumpLanes (s.g b) offs m (sizeBytes z) (256 / sizeBytes z)) = .ok y) :
    exec (.vstScatter z v b j w o m) s = .next (retire y 1) :=
  run_ok hroom ((jump_opens hw hb hv hj ho _).trans (by rwa [hx, ok_bind]))

theorem vstFScatter_ok (h : storeLanes (s.waited w) x s.n true (regLaneOk s.n x) o
      (jumpLanes (s.g b) offs m s.n (Nat.min (vfLanes s.n) 64)) = .ok y) :
    exec (.vstFScatter v b j w o m) s = .next (retire y 1) :=
  run_ok hroom ((jump_opens hw hb hv hj ho _).trans (by rwa [hx, ok_bind, waited_n]))

end

end

/-! ## The statement -/

/-- Settles O8: a VF load by its two accesses, and each vector access by its list of lanes. -/
theorem floatAndVectorMemory : Obligations.FloatAndVectorMemory := by
  refine ⟨fun s t t0 t1 t2 t2' t3 f b i w o m ps qs b0 bs x hroom hw hb hf => ?_,
    fun s t x' u z v b j i w o m ps got x offs hroom hw hb hv => ?_⟩
  · intro r n reads y
    have hload {ea : Word} (h : reads ea) : loadF r f ea o = .ok (y, t3.parksFor qs, n) := by
      obtain ⟨ha, ho, hr, hlen, ha', ho', hl⟩ := h
      exact loadF_ok ha ho hr hlen ha' ho' hl
    exact ⟨fun hi h => ldF_ok hroom hw hb hf hi (hload h), fun h => ldFAdv_ok hroom hw hb hf (hload h),
      fun hi hx ha hr hs => stF_ok hroom hw hb hf hi hx ha (ordScope_released hr) hs⟩
  · intro r e l k all acq rel loads loadsF stores parks ints q vfs row jump stored
    have hint {lanes : List (Nat × Word)} (h : loads lanes) : loadLanes r v.toNat e l o lanes = .ok (ints, parks) := by
      obtain ⟨ha, ho, hl⟩ := h
      exact loadLanes_ok ha ho hl
    have hvf {lanes : List (Nat × Word)} (h : loadsF lanes) : loadLanesF r v.toNat k o lanes = .ok (vfs, parks) := by
      obtain ⟨ha, hl⟩ := h
      have hready := loadLanesF_ok (v := v.toNat) (l := k) (s := s.waited w) (by rw [waited_n]; exact ha) hl
      rwa [waited_n, waited_p, waited_rm] at hready
    have hst {e : Nat} {chk : LaneCheck} {lanes : List (Nat × Word)} (scatter : Bool) (h : stores e chk lanes) :
        storeLanes r x e scatter chk o lanes = .ok (laneStores (rel t).settleLocal e x scatter ps) := by
      obtain ⟨-, ha, hr, hs⟩ := h
      exact storeLanes_ok ha hr hs
    exact ⟨fun hi => ⟨fun h => vld_ok hw hb hv hi hroom (hint h), fun h => vldF_ok hw hb hv hi hroom (hvf h),
        fun h => vst_ok hw hb hv hi hroom h.1 (hst false h), fun h => vstF_ok hw hb hv hi hroom h.1 (hst false h)⟩,
      fun hj ho => ⟨fun h => vldGather_ok hw hb hv hj ho hroom (hint h), fun h => vldFGather_ok hw hb hv hj ho hroom (hvf h),
        fun h => vstScatter_ok hw hb hv hj ho hroom h.1 (hst true h), fun h => vstFScatter_ok hw hb hv hj ho hroom h.1 (hst true h)⟩⟩

end Sys2Proof.Machine

/-! # Copies, their issue and their delivery (O32)

Whatever checks an accepted copy passes, its acceptance ends by adding it to the chiplet's copies with its decode table filled in, so that
the other captured fields are those that the instruction gave it. The copy's own core is in focus, so that a step of the engine finds the
copy, and acts, where it stands. -/

namespace Sys2Proof.Machine

/-! ## Acceptance -/

/-- Every state that a computation answers has a property. -/
def Answers (P : State → Prop) (x : Ex State) : Prop := ∀ u, x = .ok u → P u

theorem Answers.bind {α : Type} {P : State → Prop} {f : α → Ex State} (h : ∀ a, Answers P (f a)) (x : Ex α) : Answers P (x >>= f) := by
  intro u hu
  cases x with
  | error _ => cases hu
  | ok a => exact h a u hu

/-- A copy stands last on the chiplet in focus, with the image of the decode table that it uses (R204, R205). -/
def Joined (c : Copy) (u : State) : Prop := ∃ old image, u.chip.copies = old ++ [{ c with slot := image }]

/-- R204: an accepted copy joins the chiplet's copies as it was given, whichever of the checks it needed. -/
theorem acceptCopy_joined (s : State) (c : Copy) (q : Bool) : Answers (Joined c) (acceptCopy s c q) := by
  unfold acceptCopy
  refine .bind (fun _ => .bind (fun _ => .bind (fun _ => .bind (fun ⟨t, _⟩ => ?_) _) _) _) _
  dsimp -zeta only
  extract_lets afterPlace
  have hplace : ∀ x, Answers (Joined c) (afterPlace x) := by
    rintro ⟨v, dst⟩
    unfold afterPlace
    dsimp -zeta only
    extract_lets afterSlot afterSpool afterHome
    have hslot : ∀ x, Answers (Joined c) (afterSlot x) := by
      intro image
      unfold afterSlot
      split
      · rintro u ⟨⟩
      · refine .bind (fun y => ?_) _
        rintro u ⟨⟩
        exact ⟨_, image, rfl⟩
    have hspool : ∀ x, Answers (Joined c) (afterSpool x) := by
      intro _
      unfold afterSpool
      split
      · exact .bind (fun _ => .bind (fun _ => .bind hslot _) _) _
      · exact .bind hslot _
    have hhome : ∀ x, Answers (Joined c) (afterHome x) := by
      intro _
      unfold afterHome
      split
      · exact .bind (fun _ => .bind (fun _ => .bind hspool _) _) _
      · exact .bind hspool _
    split
    · split <;> exact .bind hhome _
    · exact .bind hhome _
  split
  · exact .bind (fun ⟨_, _⟩ => .bind hplace _) _
  · exact .bind hplace _

section
variable {s u : State} {w : BitVec 1} {base : FmtL} {ext : FmtXC} {ra rb rc rd : Word} {gd : Option GReg} {q : Bool}

/-- R202, R204, R205: an accepted copy holds what was captured at its issue. -/
theorem acceptCopy_captures (h : acceptCopy (s.waited w) (newCopy (s.waited w) base ext ra rb rc rd gd) q = .ok u) :
    ∃ old k, u.chip.copies = old ++ [k] ∧ k.ra = ra ∧ k.rb = rb ∧ k.rc = rc ∧ k.rd = rd ∧ k.base.extractLsb' 25 7 = base.major ∧
      k.token = base.x.toNat % 8 ∧ k.plan = none ∧ k.ntf = (ext.nt == 1) ∧ k.prec = s.fib.prec ∧ k.asid = s.fib.asid ∧
      k.fib = s.fib.id := by
  obtain ⟨old, image, hold⟩ := acceptCopy_joined _ _ _ u h
  refine ⟨old, _, hold, rfl, rfl, rfl, rfl, base.major_pack, rfl, rfl, rfl, ?_⟩
  simp only [newCopy, waited_fib, and_self]

end

/-- The token stands in the low three bits of its field (R202). -/
theorem toNat_append_token (hi tok : BitVec 3) : (hi ++ tok : BitVec 6).toNat % 8 = tok.toNat := by
  rw [BitVec.toNat_append, ← Nat.shiftLeft_add_eq_or_of_lt tok.isLt, Nat.shiftLeft_eq]
  omega

/-- A check made only where a stage is selected is passed where that stage's check is. -/
theorem checkIf_bind {α : Type} {b : Bool} {x : Ex α} {a : α} {f : Ex State} (h : b = true → ∃ y, x = .ok y) :
    (if b = true then x >>= fun _ => f else (.ok a : Ex α) >>= fun _ => f) = f := by
  split
  · obtain ⟨y, rfl⟩ := h ‹_›
    rfl
  · rfl

section
variable {s u : State} {d a b c : GReg} {w : BitVec 1} {sl : BitVec 2} (hroom : Room s 2) (hw : WaitOver s w)
  (ha : FullG s a) (hb : FullG s b) (hc : FullG s c)

/-- A register reads after the W hold as before it. -/
theorem readG_waited {r : GReg} (w : BitVec 1) (h : FullG s r) : readG (s.waited w) r = .ok (s.g r) :=
  readG_of_bank h (waited_bank s w)

include hroom hw ha hb hc

theorem cpPull_accepted {fn : BitVec 2} {esz tok lc fmt : BitVec 3} {nt : BitVec 1} {tr tc : BitVec 6}
    (hsl : lc.getLsbD 1 = true → ∃ p, slotNo s sl.toNat = .ok p)
    (h : acceptCopy (s.waited w) (newCopy (s.waited w)
      { major := 0x70, d := 0, a := a, b := b, c := c, w := w, fn := fn.setWidth 6, x := esz ++ tok }
      { lc := lc, scs := 0, nt := nt, sl := sl, fmt := fmt, tr := tr, tc := tc, ixw := 0, rblk := 0 } (s.g a) (s.g b) (s.g c) 0 none)
      (lc.getLsbD 1) = .ok u) :
    exec (.cpPull a b c w fn esz tok lc nt sl fmt tr tc) s = .next (retire u 2) := by
  refine run_ok hroom ?_
  refine (checkIf_bind hsl).trans ?_
  rw [waitW_over hw, ok_bind, readG_waited w ha, ok_bind, readG_waited w hb, ok_bind, readG_waited w hc, ok_bind]
  exact h

theorem cpPush_accepted {fn : BitVec 6} {tok scs fmt : BitVec 3} {nt : BitVec 1}
    (hsl : scs.getLsbD 1 = true → ∃ p, slotNo s sl.toNat = .ok p) (hd : scs.getLsbD 0 = true → FreeG s d)
    (h : acceptCopy (s.waited w) (newCopy (s.waited w)
      { major := 0x71, d := d, a := a, b := b, c := c, w := w, fn := fn, x := 0#3 ++ tok }
      { lc := 0, scs := scs, nt := nt, sl := sl, fmt := fmt, tr := 0, tc := 0, ixw := 0, rblk := 0 } (s.g a) (s.g b) (s.g c) 0
      (if scs.getLsbD 0 then some d else none)) (scs.getLsbD 1) = .ok u) :
    exec (.cpPush d a b c w fn tok scs nt sl fmt) s = .next (retire u 2) := by
  have hdest (hz : scs.getLsbD 0 = true) : ∃ y, destG (s.waited w) d = .ok y :=
    ⟨(), destG_free ((hd hz).of_bank (waited_bank s w))⟩
  refine run_ok hroom ?_
  refine (checkIf_bind hsl).trans ?_
  rw [waitW_over hw, ok_bind, readG_waited w ha, ok_bind, readG_waited w hb, ok_bind, readG_waited w hc, ok_bind]
  exact (checkIf_bind hdest).trans h

theorem cpGather_accepted {spl nt : BitVec 1} {tok : BitVec 3} {ixw : BitVec 2} {rblk : BitVec 6} (hd : FullG s d)
    (h : acceptCopy (s.waited w) (newCopy (s.waited w)
      { major := 0x72, d := d, a := a, b := b, c := c, w := w, fn := if spl = 1 then 3 else 0, x := 0#3 ++ tok }
      { lc := 0, scs := 0, nt := nt, sl := 0, fmt := 0, tr := 0, tc := 0, ixw := ixw, rblk := rblk } (s.g a) (s.g b) (s.g c) (s.g d) none)
      false = .ok u) :
    exec (.cpGather d a b c w spl tok nt ixw rblk) s = .next (retire u 2) := by
  refine run_ok hroom ?_
  rw [waitW_over hw, ok_bind, readG_waited w ha, ok_bind, readG_waited w hb, ok_bind, readG_waited w hc, ok_bind, readG_waited w hd,
    ok_bind, h]

end

/-! ## Delivery -/

theorem chipAt_focus (s : State) : s.chipAt s.chip.num = s.chip := if_pos rfl

/-- A core whose chiplet is in focus with it is there already. -/
theorem focusCore_self {s : State} {n : Nat} (hn : n = s.core.num) (h : s.chip.num = chipNum s.core.num) : s.focusCore n = s := by
  subst hn
  unfold State.focusCore
  dsimp only
  rw [if_pos rfl, if_pos h]

section
variable {s t : State} {k : Nat} {c : Copy} {p : CopyPlan} (hc : s.chip.copies[k]? = some c)
include hc

/-- R206, R207 (assumption 42): the first step of a copy forms its plan, and delivers nothing itself where the units go to a spool or
there are none. -/
theorem unitDeliver_plans (hfocus : s.focusCore c.core = s) (hplan : c.plan = none) (hm : c.makePlan s = .ok (t, p))
    (hno : c.toSpool = true ∨ p.units = []) :
    exec (.copyUnitDeliver s.chip.num k) s = .next (t.putCopy s.chip.num k { c with plan := some p }) := by
  have hfirst : (if ({ c with plan := some p } : Copy).toSpool = true then none else p.units.head?) = none := by
    split
    · rfl
    · rw [hno.resolve_left ‹_›]
      rfl
  simp only [exec, execCopyUnitDeliver, chipAt_focus, hc, hfocus, State.planned, hplan, hm, ok_bind, hfirst]
  simp [agentStep]

variable {x : CopyUnit} {rest : List CopyUnit} (hplan : c.plan = some p) (hunits : p.units = x :: rest)
include hplan hunits

section
variable (hfocus : s.focusCore c.core = s) (hto : c.toSpool = false)
include hfocus hto

/-- R207: a planned copy to an address takes its next unit there and keeps what is left. -/
theorem unitDeliver_delivers (hd : c.deliver s x = .ok (t, none)) (hrest : rest ≠ []) : exec (.copyUnitDeliver s.chip.num k) s =
    .next (t.putCopy s.chip.num k { c with plan := some { p with units := rest }, done := c.done + 1 }) := by
  simp [exec, execCopyUnitDeliver, chipAt_focus, hc, hfocus, State.planned, hplan, hunits, hto, hd, ok_bind, CopyPlan.after, hrest,
    agentStep]

/-- R207, R208: a fault at a unit ends the copy there. -/
theorem unitDeliver_faults {f : CopyFault} (hd : c.deliver s x = .ok (t, some f)) : exec (.copyUnitDeliver s.chip.num k) s =
    .next ((c.closeTail t x.off).putCopy s.chip.num k { c with plan := some { p with units := [], fault := some f } }) := by
  simp [exec, execCopyUnitDeliver, chipAt_focus, hc, hfocus, State.planned, hplan, hunits, hto, hd, ok_bind, CopyPlan.after, agentStep]

end

variable (hto : c.toSpool = true)
include hto

/-- R426 (assumption 48): where the skein is gone, so is the spool. -/
theorem spoolPiece_gone (hgone : s.skein? c.fib.lid c.fib.skn = none) : exec (.copySpoolPiece s.chip.num k) s =
    .next (s.putCopy s.chip.num k { c with plan := some { p with units := rest }, done := c.done + 1 }) := by
  simp [exec, execCopySpoolPiece, chipAt_focus, hc, hplan, hunits, hto, hgone, CopyPlan.after]

variable {sk : Skein} (hsk : s.skein? c.fib.lid c.fib.skn = some sk) (hcore : c.core = s.core.num)
include hsk hcore

/-- R216: a copy to a spool fills slot WIX and counts it. -/
theorem spoolPiece_fills (hchip : s.chip.num = chipNum s.core.num) (hen : (s.spool (sk.spb + c.rb.toNat)).en = true)
    (hfree : (s.spool (sk.spb + c.rb.toNat)).fill < (s.spool (sk.spb + c.rb.toNat)).nslot) :
    exec (.copySpoolPiece s.chip.num k) s = .next (((markSlot (s.fillSlot c.core (sk.spb + c.rb.toNat) 0 x.data)
      (padAddr s.chip.num (s.spool (sk.spb + c.rb.toNat)).writeOff) x.bad).countSlots c.core (sk.spb + c.rb.toNat) 1).putCopy s.chip.num k
        { c with plan := some { p with units := rest }, done := c.done + 1 }) := by
  have hat : s.coreAt c.core = s.core := if_pos hcore.symm
  have hpad : chipNum c.core = s.chip.num := by rw [hcore, hchip]
  unfold State.spool at hen hfree ⊢
  simp [exec, execCopySpoolPiece, chipAt_focus, hc, hplan, hunits, hto, hsk, CopyPlan.after, hat, hen, hfree, hpad]

/-- R216: it waits while no slot is free. -/
theorem spoolPiece_waits (hfull : (s.spool (sk.spb + c.rb.toNat)).nslot ≤ (s.spool (sk.spb + c.rb.toNat)).fill) :
    exec (.copySpoolPiece s.chip.num k) s = .next s := by
  have hat : s.coreAt c.core = s.core := if_pos hcore.symm
  unfold State.spool at hfull
  simp [exec, execCopySpoolPiece, chipAt_focus, hc, hplan, hunits, hto, hsk, hat, hfull]

end

/-! ## The statement -/

/-- Settles O32: a copy is captured as it is accepted, and each step finds it where it stands and does what its plan says. -/
theorem copiesIssueAndDeliver : Obligations.CopiesIssueAndDeliver := by
  refine ⟨fun s u d a b c w nt spl fn2 fn6 esz tok lc scs fmt sl ixw tr tc rblk hroom hw ha hb hc => ?_,
    fun s t k c p _ hchip hc hcore hplan hm => ?_, fun s t k c p x rest _ hchip hc hplan hunits hcore => ?_⟩
  · intro v taken xc base
    have captured {i : Instr} {hi : BitVec 3} {base : FmtL} {ext : FmtXC} {rd : Word} {gd : Option GReg} {q : Bool}
        (hx : base.x = hi ++ tok) (hn : ext.nt = nt) (hi : exec i s = .next (retire u 2))
        (h : acceptCopy v (newCopy v base ext (s.g a) (s.g b) (s.g c) rd gd) q = .ok u) : taken i base.major rd := by
      obtain ⟨old, k, hold, hk⟩ := acceptCopy_captures h
      rw [hx, toNat_append_token, hn] at hk
      exact ⟨hi, old, k, hold, hk⟩
    exact ⟨fun hsl h => captured rfl rfl (cpPull_accepted hroom hw ha hb hc hsl h) h,
      fun hsl hd h => captured rfl rfl (cpPush_accepted hroom hw ha hb hc hsl hd h) h,
      fun hd h => captured rfl rfl (cpGather_accepted hroom hw ha hb hc hd h) h⟩
  · have hplans := unitDeliver_plans hc (focusCore_self hcore hchip) hplan hm
    exact ⟨fun hto => hplans (.inl hto), fun hno => hplans (.inr hno)⟩
  · have hfocus := focusCore_self hcore hchip
    exact ⟨unitDeliver_delivers hc hplan hunits hfocus, fun f hto hd => unitDeliver_faults hc hplan hunits hfocus hto hd,
      fun sk hto hsk => ⟨spoolPiece_fills hc hplan hunits hto hsk hcore hchip, spoolPiece_waits hc hplan hunits hto hsk hcore⟩,
      spoolPiece_gone hc hplan hunits⟩

end Sys2Proof.Machine

/-! # Copies that complete (O33)

A completion merges the flags, fills gd, ends the token and takes the copy off the chiplet, and at last notifies. Filling a register and
making an event pending change no other part of the fibre in focus and nothing of the chiplet, so that each of the parts is read off the
step that makes it. -/

namespace Sys2Proof.Machine

/-! ## The end of a token -/

section
variable (t : Tokens) (i : Nat)

theorem end_count (r : Option Word) : (t.end_ i r).count = t.count.set! i (t.count.getD i 0 - 1) := by
  unfold Tokens.end_
  split
  · rfl
  · dsimp only
    split <;> rfl

theorem end_err_none : (t.end_ i none).err = t.err := rfl

/-- R209: the record of a fault is kept where there was none. -/
theorem end_fault (h : t.err.getD i false = false) (r : Word) :
    (t.end_ i (some r)).err = t.err.set! i true ∧ (t.end_ i (some r)).record = t.record.set! i r := by
  simp [Tokens.end_, h]

end

/-- The fibre in focus with the end of a copy in its token `i` (R205). -/
def State.tokenEnded (s : State) (i : Nat) (r : Option Word) : State :=
  s.setFib fun f => { f with tokens := { f.tokens.end_ i r with since := f.tokens.since.set! i s.dev.writes } }

theorem endToken_focus {s : State} (hl : s.fib.live = true) {i : Nat} (he : s.fib.tokens.err.getD i false = false) (r : Option Word) :
    s.endToken s.fib.id i r = s.tokenEnded i r := by
  unfold State.endToken
  dsimp only
  rw [fibre?_focus hl]
  dsimp only
  rw [onFibre_focus hl, he]
  cases r <;> rfl

/-! ## Fills -/

/-- Only registers, of the fibre's own bank or of its skein's, have changed where the focus is. -/
structure Filled (s t : State) : Prop where
  chip : t.chip = s.chip
  fib : ∃ b m, t.fib = { s.fib with bank := b, dirty := m }
  skein : ∃ b, t.skein = { s.skein with shadow := b }

theorem Filled.trans {s t u : State} (h : Filled s t) (g : Filled t u) : Filled s u := by
  obtain ⟨hc, ⟨b, m, hf⟩, x, hs⟩ := h
  obtain ⟨gc, ⟨b', m', gf⟩, x', gs⟩ := g
  exact ⟨gc.trans hc, ⟨b', m', by rw [gf, hf]⟩, x', by rw [gs, hs]⟩

theorem OnlyDev.filled {s t : State} (h : OnlyDev s t) : Filled s t := by
  unfold OnlyDev at h
  rw [h]
  exact ⟨rfl, ⟨_, _, rfl⟩, _, rfl⟩

theorem onFibre_filled (s : State) (id : FibreId) {f : Fibre → Fibre} (h : ∀ x, ∃ b m, f x = { x with bank := b, dirty := m }) :
    Filled s (s.onFibre id f) := by
  unfold State.onFibre
  split
  · exact ⟨rfl, h s.fib, _, rfl⟩
  · exact ⟨rfl, ⟨_, _, rfl⟩, _, rfl⟩

theorem onSkein_filled (s : State) (l k : Nat) {f : Skein → Skein} (h : ∀ x, ∃ b, f x = { x with shadow := b }) :
    Filled s (s.onSkein l k f) := by
  unfold State.onSkein
  split
  · exact ⟨rfl, ⟨_, _, rfl⟩, h s.skein⟩
  · exact ⟨rfl, ⟨_, _, rfl⟩, _, rfl⟩

theorem putReg_filled (s : State) (id : FibreId) (sh : Bool) (r : GReg) (v : Word) (st : Fill) : Filled s (s.putReg id sh r v st) := by
  unfold State.putReg
  split
  · exact (onSkein_filled s _ _ fun x => ⟨_, rfl⟩).trans (onFibre_filled _ _ fun x => ⟨_, _, rfl⟩)
  · exact onFibre_filled s _ fun x => ⟨_, _, rfl⟩

theorem markReg_filled (s : State) (id : FibreId) (sh : Bool) (r : GReg) (on : Bool) : Filled s (s.markReg id sh r on) := by
  unfold State.markReg
  split
  · exact onSkein_filled s _ _ fun x => ⟨_, rfl⟩
  · exact onFibre_filled s _ fun x => ⟨_, _, rfl⟩

theorem agentWrite_onlyDev (s : State) (asid va : Nat) (bs : List Byte) : OnlyDev s (s.agentWrite asid va bs) :=
  foldl_onlyDev _ (fun t p => by
    split
    · rfl
    · exact perform_onlyDev ..) _ s

theorem stray_onlyDev (s : State) (id : FibreId) (sh : Bool) (r : GReg) : OnlyDev s (s.stray id sh r) := logAt_onlyDev ..

theorem fill_filled (s : State) (id : FibreId) (sh : Bool) (r : GReg) (v : Word) (nack : Bool) : Filled s (s.fill id sh r v nack) := by
  have hstray : Filled s (s.stray id sh r) := (stray_onlyDev ..).filled
  unfold State.fill
  extract_lets st
  split
  · extract_lets bank
    split
    · exact (putReg_filled ..).trans (markReg_filled ..)
    · exact hstray
  · split
    · exact hstray
    · extract_lets p
      split
      · exact (agentWrite_onlyDev ..).filled
      · exact hstray

/-- R127, R380: a fill of a pending register of the fibre in focus, whose first read is then an acquire unless it is a fault token. -/
theorem fill_pending {s : State} (hl : s.fib.live = true) {r : GReg} (hp : s.fib.bank.fill.getD r.toNat 0 = Fill.pending)
    (v : Word) (nack : Bool) : (s.fill s.fib.id false r v nack).fib.bank =
      (s.fib.bank.put r v (if nack then Fill.token else Fill.full)).mark r (!nack) := by
  have hfib (st : Fill) : (s.putReg s.fib.id false r v st) = s.setFib fun f => f.setReg r v st := onFibre_focus hl _
  have hmark (st : Fill) : ((s.setFib fun f => f.setReg r v st).markReg s.fib.id false r (!nack)).fib.bank =
      (s.fib.bank.put r v st).mark r (!nack) := by
    rw [State.markReg, if_neg Bool.false_ne_true]
    exact congrArg (fun t : State => t.fib.bank) (onFibre_focus (s := s.setFib fun f => f.setReg r v st) hl _)
  unfold State.fill
  rw [fibre?_focus hl]
  simp only [Bool.false_eq_true, if_false, hp, if_true, hfib, hmark]

section
variable (b : Bank) (r : GReg) (v : Word) (st : Fill) (on : Bool)

theorem put_mark_val : ((b.put r v st).mark r on).val.getD r.toNat 0 = v := vgetD_set!_same _ r.isLt _ _
theorem put_mark_fill : ((b.put r v st).mark r on).fill.getD r.toNat 0 = st := vgetD_set!_same _ r.isLt _ _
theorem put_mark_acq : ((b.put r v st).mark r on).acq.getD r.toNat false = on := vgetD_set!_same _ r.isLt _ _

end

/-! ## Events -/

theorem pendImage_onlyDev (s : State) (l k n : Nat) : OnlyDev s (s.pendImage l k n) := by
  unfold State.pendImage
  split
  · rfl
  · dsimp only
    split
    · exact agentWrite_onlyDev ..
    · rfl

/-- An event that becomes pending leaves the fibre and the chiplet in focus. -/
theorem pendEvent_frame (s : State) (l k n : Nat) : (s.pendEvent l k n).fib = s.fib ∧ (s.pendEvent l k n).chip = s.chip := by
  have himage : (s.pendImage l k n).fib = s.fib ∧ (s.pendImage l k n).chip = s.chip := by
    have h := pendImage_onlyDev s l k n
    unfold OnlyDev at h
    rw [h]
    exact ⟨rfl, rfl⟩
  unfold State.pendEvent
  split
  · split
    · unfold State.onSkein
      split <;> exact ⟨rfl, rfl⟩
    · exact himage
  · exact himage

theorem pendEvent_focus {s : State} {l k : Nat} (h : s.skein.is l k = true) (hr : s.skein.resident = true) (n : Nat) :
    s.pendEvent l k n = s.setSkein fun x => x.pend n := by
  rw [State.pendEvent, State.skein?, if_pos h]
  dsimp only
  rw [if_pos hr, State.onSkein, if_pos h]
  rfl

theorem pend_copy (k : Skein) : (k.pend 1).evPend.getLsbD 1 = true := by simp [Skein.pend]

/-! ## The steps of a completion -/

/-- What gd of a compressing push takes (R215): the coded length, or a token of the copy's fault. -/
def CopyPlan.answer (p : CopyPlan) : Word × Bool :=
  match p.fault with
  | none => (p.coded, false)
  | some f => (BitVec.ofNat 64 (f.code + 2 ^ 16 * f.sub), true)

/-- The state in which gd of a compressing push is filled. -/
def State.answered (s : State) (c : Copy) (p : CopyPlan) : State :=
  match c.gd, p.fault with
  | some (sh, d), none => s.fill c.fib sh d p.coded false
  | some (sh, d), some f => s.fill c.fib sh d (BitVec.ofNat 64 (f.code + 2 ^ 16 * f.sub)) true
  | none, _ => s

theorem answered_none {c : Copy} (h : c.gd = none) (s : State) (p : CopyPlan) : s.answered c p = s := by
  simp only [State.answered, h]

theorem answered_some {c : Copy} {sh : Bool} {d : GReg} (h : c.gd = some (sh, d)) (s : State) (p : CopyPlan) :
    s.answered c p = s.fill c.fib sh d p.answer.1 p.answer.2 := by
  cases hp : p.fault <;> simp only [State.answered, CopyPlan.answer, h, hp]

theorem answered_filled (s : State) (c : Copy) (p : CopyPlan) : Filled s (s.answered c p) := by
  cases h : c.gd with
  | none =>
    rw [answered_none h]
    exact OnlyDev.filled rfl
  | some r =>
    rw [answered_some h]
    exact fill_filled ..

/-- The state in which flags have joined PREC of the fibre in focus (R205). -/
def State.flagged (s : State) (f : FFlags) : State := s.setFib fun x => { x with prec := orFlags x.prec f }

/-- The state in which a copy has ended, before it notifies. -/
def State.copyEnded (s : State) (k : Nat) (c : Copy) (p : CopyPlan) : State :=
  (((s.flagged p.flags).answered c p).tokenEnded c.token (p.fault.map fun f => f.record c.token)).setChip fun x =>
    { x with copies := dropAt x.copies k, copiesDone := x.copiesDone + 1 }

/-- The state in which a copy with NTF has made the copy event pending (R221). -/
def State.notified (s : State) (c : Copy) : State := if c.ntf then s.pendEvent c.fib.lid c.fib.skn 1 else s

theorem notified_frame (s : State) (c : Copy) : (s.notified c).fib = s.fib ∧ (s.notified c).chip = s.chip := by
  unfold State.notified
  split
  · exact pendEvent_frame ..
  · exact ⟨rfl, rfl⟩

section
variable {s : State} {k : Nat} {c : Copy} {p : CopyPlan}

theorem copyEnded_chip : (s.copyEnded k c p).chip =
    { s.chip with copies := dropAt s.chip.copies k, copiesDone := s.chip.copiesDone + 1 } := by
  have h : ((s.flagged p.flags).answered c p).chip = s.chip := (answered_filled (s.flagged p.flags) c p).chip
  simp only [State.copyEnded, State.tokenEnded, State.setChip_chip, State.setFib_chip, h]

theorem copyEnded_fib : ∃ b m x, (s.copyEnded k c p).fib = { s.fib with
    prec := orFlags s.fib.prec p.flags, bank := b, dirty := m
    tokens := { s.fib.tokens.end_ c.token (p.fault.map fun f => f.record c.token) with since := x } } := by
  obtain ⟨b, m, h⟩ := (answered_filled (s.flagged p.flags) c p).fib
  refine ⟨b, m, s.fib.tokens.since.set! c.token ((s.flagged p.flags).answered c p).dev.writes, ?_⟩
  simp only [State.copyEnded, State.tokenEnded, State.setChip_fib, State.setFib_fib, h]
  rfl

theorem copyEnded_skein : ∃ b, (s.copyEnded k c p).skein = { s.skein with shadow := b } :=
  (answered_filled (s.flagged p.flags) c p).skein

/-- A copy without gd changes the fibre and the chiplet in focus alone. -/
theorem copyEnded_noReg (hgd : c.gd = none) :
    (s.copyEnded k c p).dev = s.dev ∧ (s.copyEnded k c p).skein = s.skein ∧ (s.copyEnded k c p).fib.bank = s.fib.bank := by
  rw [State.copyEnded, answered_none hgd]
  exact ⟨rfl, rfl, rfl⟩

variable (hlive : s.fib.live = true) (hfib : c.fib = s.fib.id)
include hlive hfib

theorem copyEnded_bank {d : GReg} (hgd : c.gd = some (false, d)) (hp : s.fib.bank.fill.getD d.toNat 0 = Fill.pending) :
    (s.copyEnded k c p).fib.bank =
      (s.fib.bank.put d p.answer.1 (if p.answer.2 then Fill.token else Fill.full)).mark d (!p.answer.2) := by
  have h := fill_pending (s := s.flagged p.flags) hlive hp p.answer.1 p.answer.2
  rw [State.copyEnded, answered_some hgd, hfib]
  exact h

/-- R205, R209, R221: a copy with nothing left ends and notifies. -/
theorem copyComplete_eq (hchip : s.chip.num = chipNum s.core.num) (hc : s.chip.copies[k]? = some c) (hplan : c.plan = some p)
    (hunits : p.units = []) (hcore : c.core = s.core.num) (herr : s.fib.tokens.err.getD c.token false = false) :
    exec (.copyComplete s.chip.num k) s = .next ((s.copyEnded k c p).notified c) := by
  have hflag : (s.onFibre s.fib.id fun f => { f with prec := orFlags f.prec p.flags }) = s.flagged p.flags := onFibre_focus hlive _
  have hans := answered_filled (s.flagged p.flags) c p
  obtain ⟨b, m, hf⟩ := hans.fib
  have hend (r : Option Word) : ((s.flagged p.flags).answered c p).endToken s.fib.id c.token r =
      ((s.flagged p.flags).answered c p).tokenEnded c.token r := by
    have hid : ((s.flagged p.flags).answered c p).fib.id = s.fib.id := by rw [hf]; rfl
    rw [← hid]
    exact endToken_focus (by rw [hf]; exact hlive) (by rw [hf]; exact herr) r
  have hchips (i : Nat) (r : Option Word) (f : Chip → Chip) :
      (((s.flagged p.flags).answered c p).tokenEnded i r).onChip s.chip.num f =
        (((s.flagged p.flags).answered c p).tokenEnded i r).setChip f := if_pos (congrArg Chip.num hans.chip)
  rw [State.notified, State.copyEnded, ← hchips, ← hend, State.answered, hfib]
  simp only [exec, execCopyComplete, chipAt_focus, hc, hplan, hunits, focusCore_self hcore hchip, hfib,
    fibre?_focus hlive, hflag] <;> rfl

end

/-! ## The statement -/

/-- Settles O33: what each step of a completion changes, read off the state in which the copy has ended and notified. -/
theorem copiesComplete : Obligations.CopiesComplete := by
  intro s k c p _ hchip hc hplan hunits hcore hlive hfib htok herr
  refine ⟨_, copyComplete_eq hlive hfib hchip hc hplan hunits hcore herr, ?_⟩
  obtain ⟨htf, htc⟩ := notified_frame (s.copyEnded k c p) c
  obtain ⟨_, _, _, hf⟩ := copyEnded_fib (s := s) (k := k) (c := c) (p := p)
  have hended := htf.trans hf
  have hnoReg (h : c.gd = none) := copyEnded_noReg (s := s) (k := k) (p := p) h
  have hsilent (h : c.ntf = false) : (s.copyEnded k c p).notified c = s.copyEnded k c p := if_neg (by simp [h])
  rw [htc, copyEnded_chip]
  refine ⟨rfl, rfl, by rw [hended]; rfl, by rw [hended], ?_, fun i _ hi => ?_, fun hp => ?_, fun _ hgd hn => ?_, fun f hp => ?_,
    fun hgd => ⟨?_, fun hn => ?_⟩, fun d hgd hpend => ?_, fun hn his hres => ?_⟩
  · rw [hended]
    simp only [end_count]
    exact vgetD_set!_same _ htok _ _
  · rw [hended]
    simp only [end_count]
    exact vgetD_set!_ne _ (Ne.symm hi) _ _
  · rw [hended]
    simp only [hp, Option.map_none, end_err_none]
  · rw [hsilent hn]
    exact (hnoReg hgd).1
  · obtain ⟨he, hr⟩ := end_fault s.fib.tokens c.token herr (f.record c.token)
    rw [hended]
    simp only [hp, Option.map_some, he, hr]
    exact ⟨vgetD_set!_same _ htok _ _, vgetD_set!_same _ htok _ _⟩
  · rw [htf]
    exact (hnoReg hgd).2.2
  · rw [hsilent hn]
    exact (hnoReg hgd).2.1
  · rw [htf, copyEnded_bank hlive hfib hgd hpend, put_mark_val, put_mark_fill, put_mark_acq]
    refine ⟨fun hp => ?_, fun f hp => ?_⟩ <;> simp [CopyPlan.answer, hp]
  · obtain ⟨_, hs⟩ := copyEnded_skein (s := s) (k := k) (c := c) (p := p)
    have hpend : (s.copyEnded k c p).notified c = (s.copyEnded k c p).setSkein fun x => x.pend 1 :=
      (if_pos hn).trans (pendEvent_focus (by rw [hs]; exact his) (by rw [hs]; exact hres) 1)
    rw [hpend]
    exact ⟨pend_copy _, fun _ hgd => (hnoReg hgd).1⟩

end Sys2Proof.Machine

/-! # Conversions and packed trits (O20)

A packed byte and a word are numbers in base 3 and in base 256, so that Mathlib's digits say what stands at each place. A check of packed
trits names the lowest byte that fails, which is the index that a search of the list finds. -/

namespace Sys2Proof.Machine

/-! ## Digits -/

/-- The digit at a place of a number put together from digits of its base. -/
theorem ofDigits_digit {b : Nat} (hb : 0 < b) {l : List Nat} (hl : ∀ x ∈ l, x < b) (i : Nat) :
    Nat.ofDigits b l / b ^ i % b = l.getD i 0 := by
  rw [Nat.ofDigits_div_pow_eq_ofDigits_drop i hb l hl]
  by_cases hi : i < l.length
  · rw [List.drop_eq_getElem_cons hi, Nat.ofDigits_cons, Nat.add_mul_mod_self_left,
      Nat.mod_eq_of_lt (hl _ (List.getElem_mem hi)), List.getD_eq_getElem _ _ hi]
  · rw [List.drop_eq_nil_of_le (by omega), List.getD_eq_default _ _ (by omega), Nat.ofDigits_nil, Nat.zero_mod]

theorem packTrits_eq_ofDigits : ∀ ds : List Nat, packTrits ds = Nat.ofDigits 3 ds
  | [] => rfl
  | d :: ds => by rw [packTrits, packTrits_eq_ofDigits ds, Nat.ofDigits_cons]

theorem ofBytes_eq_ofDigits : ∀ bs : List Byte, ofBytes bs = Nat.ofDigits 256 (bs.map BitVec.toNat)
  | [] => rfl
  | b :: bs => by rw [ofBytes, ofBytes_eq_ofDigits bs, List.map_cons, Nat.ofDigits_cons]

section
variable {ds : List Nat} (h : ∀ d ∈ ds, d < 3)
include h

/-- A packed byte holds the digits that it was packed from (R93). -/
theorem tritDigit_packTrits (i : Nat) : tritDigit (packTrits ds) i = ds.getD i 0 := by
  rw [tritDigit, packTrits_eq_ofDigits]
  exact ofDigits_digit (by decide) h i

theorem packTrits_lt : packTrits ds < 3 ^ ds.length := by
  rw [packTrits_eq_ofDigits]
  exact Nat.ofDigits_lt_base_pow_length (by decide) h

end

/-- Each byte of a word put together from at most eight bytes (R6). -/
theorem bits_ofBytes {bs : List Byte} (h : bs.length ≤ 8) (j : Nat) :
    bits (BitVec.ofNat 64 (ofBytes bs)) (8 * j) 8 = (bs.getD j 0).toNat := by
  have hbytes : ∀ x ∈ bs.map BitVec.toNat, x < 256 := fun x hx => by
    obtain ⟨b, _, rfl⟩ := List.mem_map.mp hx
    exact b.isLt
  have hlt : ofBytes bs < 2 ^ 64 := by
    have hpow := Nat.ofDigits_lt_base_pow_length (by decide) hbytes
    rw [List.length_map] at hpow
    rw [ofBytes_eq_ofDigits]
    exact hpow.trans_le (Nat.pow_le_pow_right (by decide) h)
  rw [bits, BitVec.toNat_ofNat, Nat.mod_eq_of_lt hlt, Nat.shiftRight_eq_div_pow, pow_mul, ofBytes_eq_ofDigits]
  exact (ofDigits_digit (by decide) hbytes j).trans (List.getD_map bs 0 BitVec.toNat)

theorem bytesOf_getElem : ∀ {n x j : Nat} (h : j < (bytesOf n x).length), (bytesOf n x)[j] = BitVec.ofNat 8 (x / 256 ^ j)
  | n + 1, x, 0, _ => by simp [bytesOf]
  | n + 1, x, j + 1, h => by
    rw [pow_succ', ← Nat.div_div_eq_div_mul]
    exact bytesOf_getElem (Nat.lt_of_succ_lt_succ h)

theorem bytesOf_mem {n x : Nat} {b : Byte} (h : b ∈ bytesOf n x) : ∃ i, i < n ∧ b = BitVec.ofNat 8 (x / 256 ^ i) := by
  obtain ⟨i, hi, rfl⟩ := List.getElem_of_mem h
  exact ⟨i, by rwa [bytesOf_length] at hi, bytesOf_getElem hi⟩

/-! ## The lowest byte that fails -/

theorem firstBad_eq {α : Type} (p : α → Bool) : ∀ (l : List α) (i : Nat), firstBad p l i = (l.findIdx? p).map (· + i)
  | [], i => rfl
  | x :: xs, i => by
    rw [firstBad, List.findIdx?_cons]
    split
    · rw [Option.map_some, Nat.zero_add]
    · rw [firstBad_eq p xs, Option.map_map]
      exact congrArg (Option.map · _) (funext fun k => by rw [Function.comp_apply]; omega)

section
variable {x : Word}

/-- The bytes of `trit.pack`'s operand have the digits of trits (R234). -/
abbrev BytesAreTrits (x : Word) : Prop := ∀ i, i < 5 → (byteDigit (BitVec.ofNat 8 (x.toNat / 256 ^ i))).isSome = true

theorem firstBad_trits (h : BytesAreTrits x) : firstBad (fun b => (byteDigit b).isNone) (bytesOf 5 x.toNat) 0 = none := by
  rw [firstBad_eq, Option.map_eq_none_iff, List.findIdx?_eq_none_iff]
  intro b hb
  obtain ⟨i, hi, rfl⟩ := bytesOf_mem hb
  exact Option.isNone_eq_false_iff.mpr (h i hi)

theorem firstBad_lowest {j : Nat} (hj : j < 5) (hbad : byteDigit (BitVec.ofNat 8 (x.toNat / 256 ^ j)) = none)
    (hlow : ∀ i, i < j → (byteDigit (BitVec.ofNat 8 (x.toNat / 256 ^ i))).isSome = true) :
    firstBad (fun b => (byteDigit b).isNone) (bytesOf 5 x.toNat) 0 = some j := by
  rw [firstBad_eq, Option.map_eq_some_iff]
  refine ⟨j, List.findIdx?_eq_some_iff_getElem.mpr ⟨by rwa [bytesOf_length], ?_, fun i hi => ?_⟩, rfl⟩
  · rw [bytesOf_getElem, hbad]
    rfl
  · rw [bytesOf_getElem, Option.isNone_eq_false_iff.mpr (hlow i hi)]
    exact Bool.false_ne_true

end

theorem find?_range_lowest {n j : Nat} {p : Nat → Bool} (hj : j < n) (hp : p j = true) (hlow : ∀ i, i < j → p i = false) :
    (List.range n).find? p = some j :=
  List.find?_range_eq_some.mpr ⟨hp, List.mem_range.mpr hj, fun i hi => by rw [hlow i hi]; rfl⟩

theorem find?_range_nowhere {n : Nat} {p : Nat → Bool} (h : ∀ i, i < n → p i = false) : (List.range n).find? p = none :=
  List.find?_range_eq_none.mpr fun i hi => by rw [h i hi]; rfl

/-! ## Between general and float registers -/

section
variable {s : State} {f : FReg}

theorem convertIn_ok {a : GReg} (hf : f.toNat < s.k) (ha : FullG s a) (conv : Word → FV) :
    convertIn s a f conv = .ok (setF s f.toNat ((conv (s.g a)).convert (Fmt.vf s.p) s.rm)) := by
  rw [convertIn, needF_ok hf, ok_bind, readG_full ha, ok_bind]

theorem convertOut_ok {d : GReg} {x : FV} (hf : f.toNat < s.k) (hx : readF s f.toNat = .ok x) (hd : FreeG s d)
    (conv : FV → Word × FFlags) : convertOut s d f conv = .ok (raiseFlags (setG s d (conv x).1) (conv x).2) := by
  rw [convertOut, needF_ok hf, ok_bind, hx, ok_bind, destG_free hd, ok_bind]

end

theorem outKindBits (k : Nat) : 8 * outKindBytes k = if k < 2 then 32 else 64 := by
  unfold outKindBytes
  split <;> rfl

theorem cvtVfInt_ok {s : State} {a : GReg} {f : FReg} (hroom : Room s 1) (hf : f.toNat < s.k) (ha : FullG s a) (k : BitVec 2) :
    let w := if k.toNat < 2 then 32 else 64
    exec (.cvtVfInt a k f) s = .next (retire (setF s f.toNat ((FV.ofInt (if k.toNat % 2 = 0 then toSigned w (s.g a).toNat
      else (((s.g a).toNat % 2 ^ w : Nat) : Int))).convert (Fmt.vf s.p) s.rm)) 1) := by
  dsimp only
  rw [← outKindBits]
  exact run_ok hroom (convertIn_ok hf ha _)

/-! ## Packed trits -/

theorem byteDigit_lt {b : Byte} {n : Nat} (h : byteDigit b = some n) : n < 3 := by
  unfold byteDigit at h
  split_ifs at h <;> cases h <;> decide

theorem maskDigit_lt (x y : Word) (i : Nat) : maskDigit x y i < 3 := by
  unfold maskDigit
  split_ifs <;> decide

/-- The digits of the bytes of `trit.pack`'s operand (R234). -/
def wordTrits (x : Word) : List Nat := (bytesOf 5 x.toNat).map fun b => (byteDigit b).getD 0

theorem wordTrits_lt (x : Word) : ∀ d ∈ wordTrits x, d < 3 := by
  intro d hd
  obtain ⟨b, _, rfl⟩ := List.mem_map.mp hd
  cases h : byteDigit b with
  | none => exact Nat.succ_pos 2
  | some n => exact byteDigit_lt h

theorem wordTrits_length (x : Word) : (wordTrits x).length = 5 := by rw [wordTrits, List.length_map, bytesOf_length]

theorem wordTrits_getD {x : Word} (h : BytesAreTrits x) {i : Nat} (hi : i < 5) :
    byteDigit (BitVec.ofNat 8 (x.toNat / 256 ^ i)) = some ((wordTrits x).getD i 0) := by
  obtain ⟨n, hn⟩ := Option.isSome_iff_exists.mp (h i hi)
  rw [List.getD_eq_getElem _ _ (by rwa [wordTrits_length])]
  simp only [wordTrits, List.getElem_map, bytesOf_getElem, hn, Option.getD_some]

/-- The result of `trit.pack` (R234). -/
def packedWord (x : Word) : Word := BitVec.ofNat 64 (packTrits (wordTrits x))

theorem packTrits_wordTrits_lt (x : Word) : packTrits (wordTrits x) < 3 ^ 5 := wordTrits_length x ▸ packTrits_lt (wordTrits_lt x)

theorem packedWord_toNat (x : Word) : (packedWord x).toNat = packTrits (wordTrits x) :=
  Nat.mod_eq_of_lt ((packTrits_wordTrits_lt x).trans (by decide))

theorem packedWord_lt (x : Word) : (packedWord x).toNat < 243 := by
  rw [packedWord_toNat]
  exact packTrits_wordTrits_lt x

theorem byteDigit_packedWord {x : Word} (h : BytesAreTrits x) {i : Nat} (hi : i < 5) :
    byteDigit (BitVec.ofNat 8 (x.toNat / 256 ^ i)) = some ((packedWord x).toNat / 3 ^ i % 3) := by
  rw [packedWord_toNat, wordTrits_getD h hi]
  exact congrArg some (tritDigit_packTrits (wordTrits_lt x) i).symm

/-- Both masks have the bit of an element (R234). -/
abbrev BothMasks (x y : Word) (i : Nat) : Prop := x.getLsbD i = true ∧ y.getLsbD i = true

theorem bit_and_both {x y : Word} {i : Nat} (h : BothMasks x y i) : (bit x i && bit y i) = true := Bool.and_eq_true_iff.mpr h

theorem bit_and_not_both {x y : Word} {i : Nat} (h : ¬BothMasks x y i) : (bit x i && bit y i) = false :=
  Bool.eq_false_iff.mpr fun hb => h (Bool.and_eq_true_iff.mp hb)

/-- The packed byte of the elements 5 j to 5 j + 4 of a pair of masks (R234). -/
def maskByte (x y : Word) (j : Nat) : Byte := BitVec.ofNat 8 (packTrits ((List.range 5).map fun i => maskDigit x y (5 * j + i)))

theorem tritDigit_maskByte (x y : Word) (j : Nat) {i : Nat} (hi : i < 5) :
    tritDigit (maskByte x y j).toNat i = maskDigit x y (5 * j + i) := by
  have hdigits : ∀ d ∈ (List.range 5).map fun i => maskDigit x y (5 * j + i), d < 3 := fun d hd => by
    obtain ⟨k, _, rfl⟩ := List.mem_map.mp hd
    exact maskDigit_lt x y _
  have hlt := packTrits_lt hdigits
  rw [List.length_map, List.length_range] at hlt
  rw [maskByte, BitVec.toNat_ofNat, Nat.mod_eq_of_lt (hlt.trans (by decide)), tritDigit_packTrits hdigits,
    List.getD_eq_getElem _ _ (by rwa [List.length_map, List.length_range]), List.getElem_map, List.getElem_range]

/-- The word of `trit.pack.m` has the digit of each element (R234). -/
theorem tritDigit_maskBytes (x y : Word) {i : Nat} (hi : i < 40) :
    tritDigit (bits (BitVec.ofNat 64 (ofBytes ((List.range 8).map (maskByte x y)))) (8 * (i / 5)) 8) (i % 5) = maskDigit x y i := by
  rw [bits_ofBytes (by rw [List.length_map, List.length_range]),
    List.getD_eq_getElem _ _ (by rw [List.length_map, List.length_range]; omega), List.getElem_map, List.getElem_range,
    tritDigit_maskByte x y _ (by omega), Nat.div_add_mod]

section
variable {s : State} {a d e : GReg} (hroom : Room s 1) (ha : FullG s a)
include hroom ha

theorem tritPack_trits (hd : FreeG s d) (h : BytesAreTrits (s.g a)) :
    exec (.tritPack d a) s = wrote s d (packedWord (s.g a)) 1 :=
  run_ok hroom (by
    rw [readG_full ha, ok_bind]
    dsimp only
    rw [firstBad_trits h]
    exact writeG_free hd _)

theorem tritPack_illegal {j : Nat} (hj : j < 5) (hbad : byteDigit (BitVec.ofNat 8 ((s.g a).toNat / 256 ^ j)) = none)
    (hlow : ∀ i, i < j → (byteDigit (BitVec.ofNat 8 ((s.g a).toNat / 256 ^ i))).isSome = true) :
    exec (.tritPack d a) s = .next (raise s 0x09 0 (BitVec.ofNat 64 j) false) :=
  run_trap hroom (by
    rw [readG_full ha, ok_bind]
    dsimp only
    rw [firstBad_lowest hj hbad hlow]
    rfl)

theorem tritUnpack_trits (hd : FreeG s d) (h : (s.g a).toNat % 256 < 243) : exec (.tritUnpack d a) s = wrote s d
    (BitVec.ofNat 64 (ofBytes ((List.range 5).map fun i => digitByte ((s.g a).toNat % 256 / 3 ^ i % 3)))) 1 :=
  run_ok hroom (by
    rw [readG_full ha, ok_bind]
    dsimp only
    rw [if_neg (by omega)]
    exact writeG_free hd _)

theorem tritUnpack_illegal (h : 243 ≤ (s.g a).toNat % 256) :
    exec (.tritUnpack d a) s = .next (raise s 0x09 0 (BitVec.ofNat 64 0) false) :=
  run_trap hroom (by
    rw [readG_full ha, ok_bind]
    dsimp only
    rw [if_pos h]
    rfl)

theorem tritPackM_masks (he : FullG s e) (hd : FreeG s d)
    (h : ∀ i, i < 40 → ¬BothMasks (s.g a) (s.g e) i) :
    exec (.tritPackM d a e) s = wrote s d (BitVec.ofNat 64 (ofBytes ((List.range 8).map (maskByte (s.g a) (s.g e))))) 1 :=
  run_ok hroom (by
    rw [readG_full ha, ok_bind, readG_full he, ok_bind, find?_range_nowhere fun i hi => bit_and_not_both (h i hi)]
    exact writeG_free hd _)

theorem tritPackM_illegal (he : FullG s e) {j : Nat} (hj : j < 40) (hboth : BothMasks (s.g a) (s.g e) j)
    (hlow : ∀ i, i < j → ¬BothMasks (s.g a) (s.g e) i) :
    exec (.tritPackM d a e) s = .next (raise s 0x09 0 (BitVec.ofNat 64 (j / 5)) false) :=
  run_trap hroom (by
    rw [readG_full ha, ok_bind, readG_full he, ok_bind, find?_range_lowest hj (bit_and_both hboth) fun i hi => bit_and_not_both (hlow i hi)]
    rfl)

theorem tritUnpackM_trits (hd : FreeG s d) (he : FreeG s e) (h : ∀ j, j < 8 → bits (s.g a) (8 * j) 8 < 243) :
    exec (.tritUnpackM d a e) s = .next (retire (setG (setG s d (digitMask (s.g a) 1)) e (digitMask (s.g a) 2)) 1) :=
  run_ok hroom (by
    rw [readG_full ha, ok_bind, find?_range_nowhere fun j hj => decide_eq_false (Nat.not_le.mpr (h j hj))]
    dsimp only
    rw [destG_free hd, ok_bind, destG_free he, ok_bind])

theorem tritUnpackM_illegal {j : Nat} (hj : j < 8) (hbad : 243 ≤ bits (s.g a) (8 * j) 8)
    (hlow : ∀ i, i < j → bits (s.g a) (8 * i) 8 < 243) :
    exec (.tritUnpackM d a e) s = .next (raise s 0x09 0 (BitVec.ofNat 64 j) false) :=
  run_trap hroom (by
    rw [readG_full ha, ok_bind, find?_range_lowest hj (decide_eq_true hbad) fun i hi => decide_eq_false (Nat.not_le.mpr (hlow i hi))]
    rfl)

end

/-- Settles O20: conversions by what their operand registers hold, packed trits by the digits of bytes and words, and their faults by the
lowest byte that fails. -/
theorem conversions : Obligations.Conversions := by
  intro s a d e f k r x hroom
  refine ⟨fun ha hf => ⟨cvtVfInt_ok hroom hf ha k, run_ok hroom (convertIn_ok hf ha _), run_ok hroom (convertIn_ok hf ha _)⟩,
    fun hf hx hd => ⟨run_ok hroom (convertOut_ok hf hx hd _), run_ok hroom (convertOut_ok hf hx hd _),
      run_ok hroom (convertOut_ok hf hx hd _)⟩,
    fun ha hd => ⟨fun h => ?_, tritUnpack_trits hroom ha hd, fun he h => ?_, fun he => tritUnpackM_trits hroom ha hd he⟩,
    fun ha => ⟨fun j hj hbad hlow => tritPack_illegal hroom ha hj hbad hlow, tritUnpack_illegal hroom ha,
      fun j he hj hboth hlow => tritPackM_illegal hroom ha he hj hboth hlow,
      fun j hj hbad hlow => tritUnpackM_illegal hroom ha hj hbad hlow⟩⟩
  · exact ⟨_, tritPack_trits hroom ha hd h, packedWord_lt _, fun i hi => byteDigit_packedWord h hi⟩
  · exact ⟨_, tritPackM_masks hroom ha he hd h, fun i hi => tritDigit_maskBytes (s.g a) (s.g e) hi⟩

end Sys2Proof.Machine

/-! # Quantisation (O27)

A quantisation goes through its checks in a row, each of which answers what its hypothesis says; the stores and the updates of registers
then follow in one go. -/

namespace Sys2Proof.Machine

/-- A computation goes on with what its first part answers. -/
theorem bind_ok {α β : Type} {x : Ex α} {y : α} {f : α → Ex β} {r : Ex β} (hx : x = .ok y) (hf : f y = r) : (x >>= f) = r := by
  rw [hx, ok_bind, hf]

/-- Two branches that go on alike. -/
theorem ite_bind {α β : Type} {c : Prop} [Decidable c] (x y : Ex α) (f : α → Ex β) :
    (if c then x >>= f else y >>= f) = (if c then x else y) >>= f := (apply_ite (· >>= f) c x y).symm

/-! ## What stores leave -/

@[simp] theorem State.storePart_places (s : State) (now : Bool) (p : StorePart) : (s.storePart now p).places = s.places := by
  unfold State.storePart
  split
  · split
    · exact s.writeHome_places ..
    · rfl
  · rfl

@[simp] theorem State.storeAll_places (s : State) (n : Nat) (ps : List StorePart) : (s.storeAll n ps).places = s.places :=
  (foldl_places _ (fun t p => t.storePart_places false p) _ _).trans (foldl_places _ (fun t p => t.storePart_places true p) _ s)

@[simp] theorem State.storePieces_places (s : State) (ps : List Piece) (bs : List Byte) : (s.storePieces ps bs).places = s.places := by
  unfold State.storePieces State.storeParts
  split
  · rfl
  · exact s.storePart_places ..
  · exact s.storeAll_places ..

/-- The stores behind an access do not change whether its fibre parks for its data (R66). -/
theorem State.parksFor_storePieces (s : State) (ps qs : List Piece) (bs : List Byte) :
    (s.storePieces ps bs).parksFor qs = s.parksFor qs := by
  have hchip : (s.storePieces ps bs).chip = s.chip := congrArg Prod.fst (s.storePieces_places ps bs)
  unfold State.parksFor State.remote
  rw [hchip]

/-! ## The statement -/

/-- Settles O27: each check answers as its hypothesis says, and the stores and register updates behind the last one are those stated. -/
theorem quantisation : Obligations.Quantisation := by
  refine ⟨fun s t1 t2 t3 t4 t5 t6 d a b sl k slot pe pc pk pt raw old xs q hroom hg hd ha hb ⟨p, hp⟩ hslot hok => ?_,
    fun s t1 t2 t3 t4 d b sl slot pb pp pt body hroom hg hd hb ⟨p, hp⟩ hslot hok => ?_⟩
  · intro nb j n tile helems hcodes hscale htrailer hraw hold hstore hxs hq am sat u u1 next cw u2 done
    have hbody : quantise s d a b sl k = .ok (u2, u2.parksFor (pe ++ pt)) := by
      refine bind_ok (notGuest_ok hg) <| bind_ok hp <| bind_ok (readG_full hd) <| bind_ok (readG_full ha) <| bind_ok (readG_full hb) <|
        bind_ok hslot <| bind_ok (ensure_ok hok _) <| bind_ok helems <| bind_ok hcodes <| bind_ok hscale <| bind_ok htrailer <|
        bind_ok hraw <| (ite_bind ..).trans <| bind_ok hold ?_
      dsimp only
      rw [hxs]
      dsimp only
      rw [hq]
      exact bind_ok hstore rfl
    have hland (kind : Nat) (h : k = kind) : runLoad s 1 (quantise s d a b sl kind) = landed u2 (u2.parksFor (pe ++ pt)) 1 :=
      h ▸ runLoad_landed hroom hbody
    exact ⟨hland 0, hland 1, hland 2⟩
  · intro nb size tile hblocks hpad htrailer hraw hstore u
    exact runLoad_landed hroom <| bind_ok (notGuest_ok hg) <| bind_ok hp <| bind_ok (readG_full hd) <| bind_ok (readG_full hb) <|
      bind_ok hslot <| bind_ok (ensure_ok hok _) <| bind_ok hblocks <| bind_ok hpad <| bind_ok htrailer <| bind_ok hraw <|
      bind_ok hstore <| congrArg (fun parks => Except.ok (u, parks)) (State.parksFor_storePieces ..).symm

end Sys2Proof.Machine

/-! # Repeat frames (O3)

A replayed instruction runs on the state in which its words are recorded, whose fibre is the same one. Where the frame goes on depends on
its position and its iteration alone, with one equation for each of the three ways. -/

namespace Sys2Proof.Machine

/-! ## Replay -/

/-- How far the current iteration of a frame advances the fields of its body (R161). -/
def Frame.steps (r : Frame) : Steps where
  d := r.iter * bits r.word 10 3
  a := r.iter * bits r.word 7 3
  b := r.iter * bits r.word 4 3
  c := r.iter * bits r.word 1 3

/-- The state in which captured words are replayed: they are the words in issue (R430). -/
def State.replaying (s : State) (x e : BitVec 32) : State :=
  s.setCore fun c => { c with fetched := x.toNat + if wordsOf x = 2 then e.toNat * 2 ^ 32 else 0 }

theorem repeatReplay_captured {s : State} {x e : BitVec 32} (hb : s.fib.rpt.inBody = true) (hi : 0 < s.fib.rpt.iter)
    (hw : s.fib.rpt.words[s.fib.rpt.pos]? = some (x, e)) :
    exec .repeatReplay s = replayWords x e s.fib.rpt.steps (s.replaying x e) := by
  have hgo : ¬(!s.fib.rpt.inBody || s.fib.rpt.iter == 0) = true := by
    simp only [hb, beq_false_of_ne (Nat.ne_of_gt hi), Bool.not_true, Bool.or_self, Bool.false_eq_true, not_false_eq_true]
  change execRepeatReplay s = _
  rw [execRepeatReplay, if_neg hgo, hw]
  rfl

theorem replayWords_fadd (d a b : FReg) (e : BitVec 32) (k : Steps) (s : State) :
    replayWords (FmtF.pack { major := 0x40, d := d, a := a, b := b, fn := 0 }) e k s =
      exec (.fadd (adv d k.d) (adv a k.a) (adv b k.b)) s := by
  rw [replayWords, FmtF.major_pack, FmtF.unpack_pack]
  rfl

/-- A float result leaves the same fibre whether or not the words in issue were recorded. -/
theorem retire_setF_replaying (s : State) (x e : BitVec 32) (i : Nat) (r : FV × FFlags) :
    (retire (setF (s.replaying x e) i r) 1).fib = (retire (setF s i r) 1).fib := by
  have hset : setF (s.replaying x e) i r = (setF s i r).replaying x e := rfl
  rw [hset, retire, retire, retireTo_fib_eq, retireTo_fib_eq]
  rfl

section
variable {s t : State}

/-- A float register reads the same from every state with this fibre. -/
theorem readF_of_fib {i : Nat} {x : FV} (hf : t.fib = s.fib) (h : readF s i = .ok x) : readF t i = .ok x := by
  unfold readF readV0 State.n State.p at *
  rw [hf]
  split_ifs at h ⊢
  · exact h
  · nomatch h
  · exact h

/-- `fadd` on a state, read off another state with this fibre (R262). -/
theorem fadd_of_fib {d a b : FReg} {x y : FV} (hf : t.fib = s.fib) (hroom : Room s 1) (hd : d.toNat < s.k) (ha : a.toNat < s.k)
    (hb : b.toNat < s.k) (hx : readF s a.toNat = .ok x) (hy : readF s b.toNat = .ok y) :
    exec (.fadd d a b) t = .next (retire (setF t d.toNat (x.add y s.p s.rm)) 1) := by
  have hk : t.k = s.k := by simp only [State.k, State.p, hf]
  have hp : t.p = s.p := by simp only [State.p, hf]
  have hrm : t.rm = s.rm := by simp only [State.rm, hf]
  have hneed : needFs t [d.toNat, a.toNat, b.toNat] = .ok () := needFs_ok (by simp [hk, hd, ha, hb])
  have hroom' : Room t 1 := by rwa [Room, endsSpace, hf]
  exact run_ok hroom' (by rw [floatOp2, hneed, ok_bind, readF_of_fib hf hx, ok_bind, readF_of_fib hf hy, ok_bind, hp, hrm])

end

/-! ## Where a frame goes on -/

section
variable {f : Fibre}

theorem frameStep_within (h : f.rpt.pos + 1 < f.rpt.k) :
    f.frameStep = { f with rpt := { f.rpt with pos := f.rpt.pos + 1 }, pc := f.rpt.addr (f.rpt.pos + 1) } := if_pos h

theorem frameStep_again (hpos : f.rpt.pos + 1 = f.rpt.k) (hiter : f.rpt.iter + 1 < f.rpt.count) :
    f.frameStep = { f with rpt := { f.rpt with pos := 0, iter := f.rpt.iter + 1 }, pc := f.rpt.addr 0 } :=
  (if_neg (by omega)).trans (if_pos hiter)

theorem frameStep_done (hpos : f.rpt.pos + 1 = f.rpt.k) (hiter : f.rpt.iter + 1 = f.rpt.count) :
    f.frameStep = { f with rpt := f.rpt.close, pc := f.rpt.addr f.rpt.words.length } :=
  (if_neg (by omega)).trans (if_neg (by omega))

end

theorem addr_zero (r : Frame) : r.addr 0 = r.start + 4 := rfl

/-- The address past the body (R255). -/
theorem addr_length (r : Frame) : r.addr r.words.length = r.start + BitVec.ofNat 64 (4 + 4 * bodyWords r.words) := by
  rw [Frame.addr, Frame.wordsBefore, List.take_length, bodyWords]

theorem retireTo_inBody {s : State} (h : s.fib.rpt.inBody = true) (pc : Word) :
    (retireTo s pc).fib = s.fib.counted.frameStep.touch Dirty.rpt := by
  rw [retireTo_fib_eq, if_pos h]

/-! ## Opening -/

theorem encode_rpt (k : BitVec 4) (n : BitVec 8) (d a b c : BitVec 3) : encode (.rpt k n d a b c) = some (rptWord k n d a b c, none) := rfl

/-- The state in which an `rpt` has retired and its frame is in the capture pass (R253). -/
def State.opened (s : State) (w : BitVec 32) : State :=
  (retireTo s (s.fib.pc + 4)).setFib fun f =>
    ({ f with rpt := { act := true, aside := false, iter := 0, pos := 0, word := w, start := s.fib.pc, words := [] } } : Fibre).touch Dirty.rpt

theorem rpt_opens {s : State} (hroom : Room s 1) (k : BitVec 4) (n : BitVec 8) (d a b c : BitVec 3) :
    exec (.rpt k n d a b c) s = .next (s.opened (rptWord k n d a b c)) :=
  if_neg (Bool.eq_false_iff.mp hroom)

/-- Settles O3: the opened frame, the replayed `fadd` run on its recorded words, and the three ways a frame goes on. -/
theorem repeatFrames : Obligations.RepeatFrames := by
  refine ⟨fun s k n d a b c hroom hb => ?_, fun s d a b e hroom hb hi hw x y hd ha hb' hx hy => ?_, fun s pc hb _ _ => ?_⟩
  · exact ⟨_, rpt_opens hroom k n d a b c, retireTo_pc hb _, rfl, rfl, rfl, encode_rpt k n d a b c, rfl, rfl, retireTo_ownBank s _,
      (retireTo_sameFloat s _).1, retireTo_dev s (s.fib.pc + 4)⟩
  · rw [repeatReplay_captured hb hi hw, replayWords_fadd]
    exact ⟨_, fadd_of_fib (s := s) rfl hroom hd ha hb' hx hy, retire_setF_replaying .., retireTo_dev ..⟩
  · obtain ⟨hact, -⟩ := Bool.and_eq_true_iff.mp hb
    intro r f
    have hf : f = s.fib.counted.frameStep.touch Dirty.rpt := retireTo_inBody hb pc
    rw [hf]
    refine ⟨fun hpos => ?_, fun hpos hiter => ?_, fun hpos hiter => ?_⟩
    · rw [frameStep_within (f := s.fib.counted) hpos]
      exact ⟨hact, rfl, rfl, rfl⟩
    · rw [frameStep_again (f := s.fib.counted) hpos hiter]
      exact ⟨hact, rfl, rfl, addr_zero r⟩
    · rw [frameStep_done (f := s.fib.counted) hpos hiter]
      exact ⟨rfl, rfl, rfl, rfl, addr_length r⟩

end Sys2Proof.Machine

/-! # Integer results (O1)

Every integer instruction reads its sources, computes and writes its destination, so that it retires with its result once the sources are
full. What is left is what the counts of bits say of their operand. -/

namespace Sys2Proof.Machine

/-! ## Counts of bits -/

theorem popCount_eq (x : Nat) : ∀ k, popCount x k = ((List.range k).filter fun j => x.testBit j).length
  | 0 => rfl
  | k + 1 => by
    rw [popCount, popCount_eq x k, List.range_succ, List.filter_append, List.length_append]
    cases h : x.testBit k <;> simp [h]

theorem popCount_le (x k : Nat) : popCount x k ≤ k := by
  rw [popCount_eq]
  exact (List.length_filter_le ..).trans_eq List.length_range

theorem trailingZeros_le (x : Nat) : ∀ i k, trailingZeros x i k ≤ k
  | _, 0 => Nat.le_refl 0
  | i, k + 1 => by
    have := trailingZeros_le x (i + 1) k
    rw [trailingZeros]
    split <;> omega

/-- The bits that are counted are 0. -/
theorem testBit_of_lt_trailingZeros (x : Nat) : ∀ i k j, j < trailingZeros x i k → x.testBit (i + j) = false
  | _, 0, _, h => absurd h (Nat.not_lt_zero _)
  | i, k + 1, j, h => by
    rw [trailingZeros] at h
    split at h
    next => exact absurd h (Nat.not_lt_zero _)
    next hi =>
      cases j with
      | zero => exact Bool.eq_false_iff.mpr hi
      | succ j =>
        rw [← Nat.add_assoc, Nat.add_right_comm]
        exact testBit_of_lt_trailingZeros x (i + 1) k j (by omega)

/-- The bit at which the count stops is 1. -/
theorem testBit_trailingZeros (x : Nat) : ∀ i k, trailingZeros x i k < k → x.testBit (i + trailingZeros x i k) = true
  | _, 0, h => absurd h (Nat.not_lt_zero _)
  | i, k + 1, h => by
    rw [trailingZeros] at h ⊢
    split
    next hi => exact hi
    next hi =>
      rw [if_neg hi] at h
      rw [← Nat.add_assoc]
      exact testBit_trailingZeros x (i + 1) k (by omega)

theorem mod_two_pow_eq_zero {x n : Nat} (h : ∀ j, j < n → x.testBit j = false) : x % 2 ^ n = 0 := by
  refine Nat.eq_of_testBit_eq fun j => ?_
  rw [Nat.testBit_mod_two_pow, Nat.zero_testBit]
  by_cases hj : j < n
  · rw [h j hj, Bool.and_false]
  · rw [decide_eq_false hj, Bool.false_and]

/-- The highest 1 bit of a word stands right below the zeros that are counted (R244). -/
theorem leadingZeros_spec {x : Nat} (hx : x < 2 ^ 64) :
    leadingZeros x ≤ 64 ∧ x < 2 ^ (64 - leadingZeros x) ∧ (leadingZeros x < 64 → 2 ^ (63 - leadingZeros x) ≤ x) := by
  unfold leadingZeros
  split
  next h => simp [h]
  next h =>
    have hlog : x.log2 < 64 := (Nat.log2_lt h).mpr hx
    have hhigh : 64 - (63 - x.log2) = x.log2 + 1 := by omega
    have hlow : 63 - (63 - x.log2) = x.log2 := by omega
    rw [hhigh, hlow]
    exact ⟨by omega, Nat.lt_log2_self, fun _ => Nat.log2_self_le h⟩

/-- A count of at most 64 is itself as a word. -/
theorem count_toNat {n : Nat} (h : n ≤ 64) : (BitVec.ofNat 64 n).toNat = n := Nat.mod_eq_of_lt (by omega)

/-! ## Comparisons and quotients -/

theorem ite_slt (x y u v : Word) : (if x.slt y then u else v) = if x.toInt < y.toInt then u else v := by simp only [BitVec.slt_iff_toInt_lt]

theorem ite_ult (x y u v : Word) : (if x.ult y then u else v) = if x.toNat < y.toNat then u else v := by simp only [BitVec.ult_iff_toNat_lt]

theorem quotUnsigned_eq (x y : Word) : quotUnsigned x y = if y = 0 then BitVec.allOnes 64 else BitVec.ofNat 64 (x.toNat / y.toNat) := by
  rw [← BitVec.toNat_udiv, BitVec.ofNat_toNat, BitVec.setWidth_eq]
  rfl

theorem remUnsigned_eq (x y : Word) : remUnsigned x y = if y = 0 then x else BitVec.ofNat 64 (x.toNat % y.toNat) := by
  rw [← BitVec.toNat_umod, BitVec.ofNat_toNat, BitVec.setWidth_eq]
  rfl

/-! ## Instructions -/

section
variable {s : State} {d a b : GReg} {i : Instr} {v : Word}

/-- An instruction with two sources ends with its result. -/
theorem binary_wrote {f : Word → Word → Word} (hroom : Room s 1) (ha : FullG s a) (hb : FullG s b) (hd : FreeG s d)
    (hi : exec i s = run s 1 (binaryG s d a b f)) (hv : f (s.g a) (s.g b) = v) : exec i s = wrote s d v 1 := by
  rw [hi, run_ok hroom (binaryG_ok ha hb hd f), hv]
  rfl

/-- An instruction with one source ends with its result. -/
theorem unary_wrote {f : Word → Word} (hroom : Room s 1) (ha : FullG s a) (hd : FreeG s d)
    (hi : exec i s = run s 1 (unaryG s d a f)) (hv : f (s.g a) = v) : exec i s = wrote s d v 1 := by
  rw [hi, run_ok hroom (unaryG_ok ha hd f), hv]
  rfl

theorem shiftAmount_ok {x : BitVec 8} (h : bit x 6 = true ∨ FullG s b) :
    shiftAmount s b x = .ok (if bit x 6 then bits x 0 6 else bits (s.g b) 0 6) := by
  unfold shiftAmount
  split
  next => rfl
  next hx => rw [readG_full (h.resolve_left hx), ok_bind]

/-- A shift reads its second source only where its amount is no immediate (R241). -/
theorem shift_wrote {x : BitVec 8} {f : Word → Nat → Word} (hroom : Room s 1) (ha : FullG s a) (hd : FreeG s d)
    (hb : bit x 6 = true ∨ FullG s b) (hi : exec i s = run s 1 (shiftG s d a b x f)) :
    exec i s = wrote s d (f (s.g a) (if bit x 6 then bits x 0 6 else bits (s.g b) 0 6)) 1 :=
  hi.trans (run_ok hroom (by rw [shiftG, readG_full ha, ok_bind, shiftAmount_ok hb, ok_bind, writeG_free hd]))

theorem bfIns_wrote (hroom : Room s 1) (ha : FullG s a) (hb : FullG s b) (hfull : FullG s d) (hd : FreeG s d) :
    exec (.bfIns d a b) s = wrote s d (insertField (s.g d) (s.g a) (s.g b)) 1 :=
  run_ok hroom (by rw [readG_full ha, ok_bind, readG_full hb, ok_bind, readG_full hfull, ok_bind, writeG_free hd])

end

/-- Settles O1: each instruction ends with its result, and a count of bits is what its recursion counts. -/
theorem integerResults : Obligations.IntegerResults := by
  refine ⟨fun s d a b k hroom ha hb hd => ?_, fun s d a b i x8 hroom ha hd => ?_⟩
  · intro x y lo wd out
    have result {i : Instr} {f : Word → Word → Word} {v : Word} (hi : exec i s = run s 1 (binaryG s d a b f)) (hv : f x y = v) :
        exec i s = out v := binary_wrote hroom ha hb hd hi hv
    exact ⟨result rfl rfl, result rfl rfl, result rfl rfl, result rfl rfl, result rfl rfl, result rfl rfl,
      result rfl (ite_slt x y 1 0), result rfl (ite_ult x y 1 0), result rfl (ite_slt x y x y), result rfl (ite_slt x y y x),
      result rfl (ite_ult x y x y), result rfl (ite_ult x y y x), result rfl rfl, result rfl rfl, result rfl rfl, result rfl rfl,
      result rfl rfl, result rfl rfl, result rfl rfl, result rfl rfl, result rfl (quotUnsigned_eq x y), result rfl rfl,
      result rfl (remUnsigned_eq x y)⟩
  · intro x im out amount
    have result {i : Instr} {f : Word → Word} {v : Word} (hi : exec i s = run s 1 (unaryG s d a f)) (hv : f x = v) :
        exec i s = out v := unary_wrote hroom ha hd hi hv
    refine ⟨fun hb => ⟨shift_wrote hroom ha hd hb rfl, shift_wrote hroom ha hd hb rfl, shift_wrote hroom ha hd hb rfl⟩,
      result rfl rfl, result rfl rfl, result rfl rfl, result rfl rfl, result rfl rfl, run_ok hroom (writeG_free hd _),
      fun hfull => unary_wrote hroom hfull hd rfl rfl, fun hb hfull => bfIns_wrote hroom ha hb hfull hd,
      ⟨_, result rfl rfl, ?_⟩, ⟨_, result rfl rfl, ?_⟩, ⟨_, result rfl rfl, ?_⟩⟩
    · rw [count_toNat (popCount_le x.toNat 64)]
      exact popCount_eq x.toNat 64
    · have hspec := leadingZeros_spec x.isLt
      rw [count_toNat hspec.1]
      exact hspec
    · have hle := trailingZeros_le x.toNat 0 64
      rw [count_toNat hle]
      refine ⟨hle, mod_two_pow_eq_zero fun j hj => ?_, fun hlt => ?_⟩
      · exact Nat.zero_add j ▸ testBit_of_lt_trailingZeros x.toNat 0 64 j hj
      · exact Nat.zero_add (trailingZeros x.toNat 0 64) ▸ testBit_trailingZeros x.toNat 0 64 hlt

end Sys2Proof.Machine

/-! # Branches and jumps (O2)

Clearing bits 1:0 of a target does not move it across 2^57, so a jump is near or far by the target itself. A branch is a jump, or an
instruction that transfers no control, once its condition is known. -/

namespace Sys2Proof.Machine

/-- Bits 63:57 of a word are not touched by clearing bits 1:0. -/
theorem aligned_high (w : Word) : (w &&& 0xFFFFFFFFFFFFFFFC#64).toNat / 2 ^ 57 = w.toNat / 2 ^ 57 := by
  have hhigh : w.toNat / 2 ^ 57 < 2 ^ 7 := Nat.div_lt_of_lt_mul w.isLt
  have hmask : (0xFFFFFFFFFFFFFFFC#64).toNat >>> 57 = 2 ^ 7 - 1 := by decide
  rw [BitVec.toNat_and, ← Nat.shiftRight_eq_div_pow, Nat.shiftRight_and_distrib, hmask, Nat.and_two_pow_sub_one_eq_mod,
    Nat.shiftRight_eq_div_pow, Nat.mod_eq_of_lt hhigh]

theorem aligned_lt (w : Word) : (w &&& 0xFFFFFFFFFFFFFFFC#64).toNat < 2 ^ 57 ↔ w.toNat < 2 ^ 57 := by
  have := aligned_high w
  omega

section
variable {s t : State} {w : Word}

theorem jump_near (h : w.toNat < 2 ^ 57) : jump s w t = .ok (retireTo t (w &&& 0xFFFFFFFFFFFFFFFC#64)) :=
  if_neg (Nat.not_le.mpr ((aligned_lt w).mpr h))

/-- A target outside the address space faults, and nothing else happens (R251). -/
theorem jump_far (h : 2 ^ 57 ≤ w.toNat) : jump s w t = trap s 0x04 0 (w &&& 0xFFFFFFFFFFFFFFFC#64) :=
  if_pos (Nat.not_lt.mp (mt (aligned_lt w).mp (Nat.not_lt.mpr h)))

theorem conclude_jump_near (h : w.toNat < 2 ^ 57) :
    conclude (jump s w t) = .next (retireTo t (w &&& 0xFFFFFFFFFFFFFFFC#64)) := by
  rw [jump_near h]
  rfl

theorem conclude_jump_far (h : 2 ^ 57 ≤ w.toNat) :
    conclude (jump s w t) = .next (raise s 0x04 0 (w &&& 0xFFFFFFFFFFFFFFFC#64) false) := by
  rw [jump_far h]
  rfl

end

/-- An instruction whose body ends well faults at the top of the address space (R251). -/
theorem run_ends {s t : State} {n : Nat} {body : Ex State} (h : endsSpace s n = true) (hb : body = .ok t) :
    run s n body = .next (raise s 0x04 0 (BitVec.ofNat 64 (2 ^ 57)) false) := by
  unfold run ending
  rw [if_pos h, hb]
  rfl

/-! ## Branches -/

section
variable {s : State} {a b : GReg}

theorem cond1_full (ha : FullG s a) (f : Word → Bool) : cond1 s a f = .ok (f (s.g a)) := by
  rw [cond1, readG_full ha, ok_bind]

theorem cond2_full (ha : FullG s a) (hb : FullG s b) (f : Word → Word → Bool) : cond2 s a b f = .ok (f (s.g a) (s.g b)) := by
  rw [cond2, readG_full ha, ok_bind, readG_full hb, ok_bind]

/-- Where a branch goes once its condition is known (R248, R251). -/
theorem branch_goes {i : Instr} {o : BitVec 15} {x : Ex Bool} {c c' : Bool} (hi : exec i s = branchIf s x o) (hx : x = .ok c)
    (hc : c = c') :
    let target := s.fib.pc + (o.signExtend 64 <<< 2)
    (c' = true → target.toNat < 2 ^ 57 → exec i s = .next (retireTo s (target &&& 0xFFFFFFFFFFFFFFFC#64))) ∧
    (c' = true → 2 ^ 57 ≤ target.toNat → exec i s = .next (raise s 0x04 0 (target &&& 0xFFFFFFFFFFFFFFFC#64) false)) ∧
    (c' = false → Room s 1 → exec i s = .next (retire s 1)) ∧
    (c' = false → endsSpace s 1 = true → exec i s = .next (raise s 0x04 0 (BitVec.ofNat 64 (2 ^ 57)) false)) := by
  subst hc
  rw [hi, hx]
  refine ⟨?_, ?_, ?_, ?_⟩ <;> rintro rfl h
  · exact conclude_jump_near h
  · exact conclude_jump_far h
  · exact run_ok h rfl
  · exact run_ends h rfl

end

/-! ## Conditions -/

theorem bne_eq_decide (x y : Word) : (x != y) = decide (x ≠ y) := (decide_not ..).symm

theorem not_slt_eq_decide (x y : Word) : (!x.slt y) = decide (y.toInt ≤ x.toInt) := by
  rw [BitVec.slt, ← decide_not]
  exact decide_eq_decide.mpr Int.not_lt

theorem not_ult_eq_decide (x y : Word) : (!x.ult y) = decide (y.toNat ≤ x.toNat) := by
  rw [BitVec.ult, ← decide_not]
  exact decide_eq_decide.mpr Nat.not_lt

/-! ## Jumps -/

section
variable {s : State} {d a : GReg}

theorem jal_jumps (hd : FreeG s d) (o : BitVec 22) :
    exec (.jal d o) s = conclude (jump s (s.fib.pc + (o.signExtend 64 <<< 2)) (setG s d (s.fib.pc + 4))) := by
  change execJal d o s = _
  rw [execJal, destG_free hd]
  rfl

theorem jr_jumps (ha : FullG s a) : exec (.jr a) s = conclude (jump s (s.g a) s) := by
  change execJr a s = _
  rw [execJr, readG_full ha, ok_bind]

theorem ret_jumps (ha : FullG s a) : exec (.ret a) s = conclude (jump s (s.g a) s) := by
  change execRet a s = _
  rw [execRet, readG_full ha, ok_bind]

theorem jalr_jumps (ha : FullG s a) (hd : FreeG s d) :
    exec (.jalr d a) s = conclude (jump s (s.g a) (setG s d (s.fib.pc + 4))) := by
  change execJalr d a s = _
  rw [execJalr, readG_full ha, ok_bind, destG_free hd, ok_bind]

end

/-- Settles O2: a branch by its condition and its target, and each jump as a jump to its target that is near or far. -/
theorem branchesAndJumps : Obligations.BranchesAndJumps := by
  refine ⟨fun s a b o ha => ⟨fun hb => ⟨?_, ?_, ?_, ?_, ?_, ?_⟩, ?_, ?_⟩, fun s d a o ha hd => ?_⟩
  · exact branch_goes rfl (cond2_full ha hb _) rfl
  · exact branch_goes rfl (cond2_full ha hb _) (bne_eq_decide ..)
  · exact branch_goes rfl (cond2_full ha hb _) rfl
  · exact branch_goes rfl (cond2_full ha hb _) (not_slt_eq_decide ..)
  · exact branch_goes rfl (cond2_full ha hb _) rfl
  · exact branch_goes rfl (cond2_full ha hb _) (not_ult_eq_decide ..)
  · exact branch_goes rfl (cond1_full ha _) rfl
  · exact branch_goes rfl (cond1_full ha _) (bne_eq_decide ..)
  · rw [jal_jumps hd, jr_jumps ha, ret_jumps ha, jalr_jumps ha hd]
    exact ⟨rfl, conclude_jump_near, conclude_jump_far,
      fun h => ⟨conclude_jump_near h, conclude_jump_near h, conclude_jump_near h⟩,
      fun h => ⟨conclude_jump_far h, conclude_jump_far h, conclude_jump_far h⟩⟩

end Sys2Proof.Machine

/-! # Float arithmetic (O16)

An instruction on float registers is a function of values behind two checks: its indices lie in the window, and its source registers are
readable. The rules for the shapes of these instructions say so once. -/

namespace Sys2Proof.Machine

/-! ## Shapes of float instructions -/

section
variable {s : State} {d a b c : FReg} {x y z : FV}

theorem floatOp1_ok (hd : d.toNat < s.k) (ha : a.toNat < s.k) (hx : readF s a.toNat = .ok x) (f : FOp1) :
    floatOp1 s d a f = .ok (setF s d.toNat (f x s.p s.rm)) := by
  rw [floatOp1, needFs_ok (by simp [hd, ha]), ok_bind, hx, ok_bind]

theorem floatOp2_ok (hd : d.toNat < s.k) (ha : a.toNat < s.k) (hb : b.toNat < s.k) (hx : readF s a.toNat = .ok x)
    (hy : readF s b.toNat = .ok y) (f : FOp2) : floatOp2 s d a b f = .ok (setF s d.toNat (f x y s.p s.rm)) := by
  rw [floatOp2, needFs_ok (by simp [hd, ha, hb]), ok_bind, hx, ok_bind, hy, ok_bind]

theorem floatOp3_ok (hd : d.toNat < s.k) (ha : a.toNat < s.k) (hb : b.toNat < s.k) (hc : c.toNat < s.k)
    (hx : readF s a.toNat = .ok x) (hy : readF s b.toNat = .ok y) (hz : readF s c.toNat = .ok z) (negProd negAdd : Bool) :
    floatOp3 s d a b c negProd negAdd = .ok (setF s d.toNat (FV.fused negProd negAdd x y z s.p s.rm)) := by
  rw [floatOp3, needFs_ok (by simp [hd, ha, hb, hc]), ok_bind, hx, ok_bind, hy, ok_bind, hz, ok_bind]

end

/-! ## Fused forms -/

/-- A fused form with a NaN among its operands is `fma` of the operands as they are (R114, R265). -/
theorem FV.fused_nan {x y z : FV} (h : (x.isNan || y.isNan || z.isNan) = true) (negProd negAdd : Bool) :
    FV.fused negProd negAdd x y z = x.fma y z := by
  funext p mode
  exact if_pos h

/-- The signs of a fused form of numbers enter before rounding (R265). -/
theorem FV.fused_number {x y z : FV} (hx : x.isNan = false) (hy : y.isNan = false) (hz : z.isNan = false) (negProd negAdd : Bool) :
    FV.fused negProd negAdd x y z = (if negProd then x.neg else x).fma y (if negAdd then z.neg else z) := by
  funext p mode
  exact if_neg (by rw [hx, hy, hz]; decide)

/-- With neither sign changed a fused form is `fma`, whatever its operands (R265). -/
theorem FV.fused_plain (x y z : FV) : FV.fused false false x y z = x.fma y z := by
  funext p mode
  exact ite_self _

/-- Settles O16: each instruction writes its operation of the operands read, and a fused form is `fma` of operands that carry the signs
unless one is a NaN. -/
theorem floatArithmetic : Obligations.FloatArithmetic := by
  intro s d a b c x y z hroom hd ha hx out p rm
  have op1 (f : FOp1) : run s 1 (floatOp1 s d a f) = out (f x p rm) := run_ok hroom (floatOp1_ok hd ha hx f)
  refine ⟨op1 _, op1 _, op1 _, fun hb hy => ?_⟩
  have op2 (f : FOp2) : run s 1 (floatOp2 s d a b f) = out (f x y p rm) := run_ok hroom (floatOp2_ok hd ha hb hx hy f)
  refine ⟨op2 _, op2 FV.sub, op2 _, op2 _, op2 _, op2 _, fun hc hz => ?_⟩
  have fused {negProd negAdd : Bool} {f : Nat → RMode → FV × FFlags} (hf : FV.fused negProd negAdd x y z = f) :
      run s 1 (floatOp3 s d a b c negProd negAdd) = out (f p rm) := hf ▸ run_ok hroom (floatOp3_ok hd ha hb hc hx hy hz _ _)
  refine ⟨fused (FV.fused_plain x y z), fun hx' hy' hz' => ?_, fun hnan => ?_⟩
  · have number := FV.fused_number hx' hy' hz'
    exact ⟨fused (number true true), fused (number false true), fused (number true false)⟩
  · have nan := FV.fused_nan hnan
    exact ⟨fused (nan true true), fused (nan false true), fused (nan true false)⟩

end Sys2Proof.Machine

/-! # Float compares, classes, moves and constants (O18)

A compare raises NV by whether it signals, and a move is an exclusive or with the sign bit of the encoding, or nothing. -/

namespace Sys2Proof.Machine

/-! ## Compares and classes -/

section
variable {s : State} {d : GReg} {a b : FReg} {x y : FV}

theorem compareF_ok (ha : a.toNat < s.k) (hb : b.toNat < s.k) (hx : readF s a.toNat = .ok x) (hy : readF s b.toNat = .ok y)
    (hd : FreeG s d) (signals : Bool) (f : Option Ordering → Word) :
    compareF s d a b signals f = .ok (raiseFlags (setG s d (f (x.cmp y))) (cmpFlags x y signals)) := by
  rw [compareF, needFs_ok (by simp [ha, hb]), ok_bind, hx, ok_bind, hy, ok_bind, destG_free hd, ok_bind]

theorem fclass_wrote (hroom : Room s 1) (ha : a.toNat < s.k) (hx : readF s a.toNat = .ok x) (hd : FreeG s d) :
    exec (.fclass d a) s = wrote s d (1#64 <<< x.classBit) 1 := by
  have hbit : BitVec.ofNat 64 (2 ^ x.classBit) = 1#64 <<< x.classBit :=
    BitVec.eq_of_toNat_eq (BitVec.toNat_twoPow ..).symm
  rw [← hbit]
  exact run_ok hroom (by rw [needF_ok ha, ok_bind, hx, ok_bind, writeG_free hd])

end

/-- A quiet compare raises NV for a signalling NaN alone (R266). -/
theorem cmpFlags_quiet (x y : FV) : cmpFlags x y false = if (x.isSnan || y.isSnan) = true then FFlags.nv else 0 := by
  rw [cmpFlags, Bool.false_and, Bool.or_false]

/-- A signalling compare raises NV for any NaN (R266). -/
theorem cmpFlags_signals (x y : FV) :
    cmpFlags x y true = if (x.isSnan || y.isSnan || (x.isNan || y.isNan)) = true then FFlags.nv else 0 := rfl

/-! ## Moves -/

theorem putSign_same (v : Nat) : putSign v (v.testBit 4) = v := if_pos rfl

theorem putSign_not (v : Nat) : putSign v (!v.testBit 4) = v ^^^ 16 := if_neg (Bool.eq_not_self _).mp

section
variable {s : State} {d a b : FReg} {v u : Nat}

theorem moveF_ok (hd : d.toNat < s.k) (ha : a.toNat < s.k) (hv : readV0 s a.toNat = .ok v) (f : Bool → Bool) :
    moveF s d a f = .ok (setV0 s d.toNat (putSign v (f (v.testBit 4)))) := by
  rw [moveF, needFs_ok (by simp [hd, ha]), ok_bind, hv, ok_bind]

theorem moveF2_ok (hd : d.toNat < s.k) (ha : a.toNat < s.k) (hb : b.toNat < s.k) (hv : readV0 s a.toNat = .ok v)
    (hu : readV0 s b.toNat = .ok u) (f : Bool → Bool → Bool) :
    moveF2 s d a b f = .ok (setV0 s d.toNat (putSign v (f (v.testBit 4) (u.testBit 4)))) := by
  rw [moveF2, needFs_ok (by simp [hd, ha, hb]), ok_bind, hv, ok_bind, hu, ok_bind]

end

/-- Settles O18: a compare writes what its order says and flags by its kind, and a move gives its operand's encoding a sign. -/
theorem floatComparesAndMoves : Obligations.FloatComparesAndMoves := by
  refine ⟨fun s d a b x y hroom ha hb hx hy hd => ?_, fun s d a b n v u hroom hd => ?_⟩
  · intro snan nan out truth o
    have quiet {f : Option Ordering → Word} {w : Word} (hw : f o = w) : run s 1 (compareF s d a b false f) = out w snan := by
      rw [run_ok hroom (compareF_ok ha hb hx hy hd false f), hw, cmpFlags_quiet]
    have ordered {f : Option Ordering → Word} {q : Option Ordering} (ho : o = q) :
        run s 1 (compareF s d a b false f) = out (f q) snan := quiet (congrArg f ho)
    have signalling {f : Option Ordering → Word} {w : Word} (hw : f o = w) :
        run s 1 (compareF s d a b true f) = out w (snan || nan) := by
      rw [run_ok hroom (compareF_ok ha hb hx hy hd true f), hw, cmpFlags_signals]
    have holds (q : Option Ordering) : (if o = q then 1 else 0) = truth (o == q) := by simp only [truth, beq_iff_eq]
    have atMost : (if o = some .lt ∨ o = some .eq then 1 else 0) = truth (o == some .lt || o == some .eq) := by
      simp only [truth, Bool.or_eq_true, beq_iff_eq]
    exact ⟨quiet (holds _), signalling (holds _), signalling atMost, quiet (holds _), quiet atMost, ordered, ordered, ordered, ordered,
      fclass_wrote hroom ha hx hd⟩
  · intro out sign
    refine ⟨run_ok hroom (by rw [needF_ok hd, ok_bind]), fun ha hv => ?_⟩
    have move {f : Bool → Bool} {w : Nat} (hw : putSign v (f (v.testBit 4)) = w) : run s 1 (moveF s d a f) = out w := by
      rw [run_ok hroom (moveF_ok hd ha hv f), hw]
    refine ⟨move (putSign_same v), move (putSign_not v), move rfl, fun hb hu => ?_⟩
    have move2 (f : Bool → Bool → Bool) : run s 1 (moveF2 s d a b f) = out (sign (f (v.testBit 4) (u.testBit 4))) :=
      run_ok hroom (moveF2_ok hd ha hb hv hu f)
    exact ⟨move2 fun _ y => y, move2 fun _ y => !y, move2 fun x y => x != y⟩

end Sys2Proof.Machine

/-! # The fibre in focus may issue whenever any fibre may (O59, O60)

Rotation brings the next ready fibre into focus, with its skein, its core and its chiplet. Whether a fibre may issue is read by name,
so that bringing one into focus, and passing the turn, change nothing of it. -/

namespace Sys2Proof.Machine

/-! ## Focus by name -/

theorem findOr_chip_num (n : Nat) : ∀ l : List Chip, (findOr (fun c => c.num == n) (Chip.zero n) l).num = n
  | [] => rfl
  | x :: xs => by
    rw [findOr]
    split
    · rename_i h
      exact eq_of_beq h
    · exact findOr_chip_num n xs

theorem chipAt_num (s : State) (n : Nat) : (s.chipAt n).num = n := by
  unfold State.chipAt
  split
  · assumption
  · exact findOr_chip_num n _

/-- The core brought into focus is the one of that number. -/
theorem focusCore_core (s : State) (n : Nat) : (s.focusCore n).core = s.coreAt n := by
  unfold State.focusCore
  dsimp only
  by_cases h : s.core.num = n
  · simp only [h, if_true]
    split <;> simp only [State.coreAt, h, if_true]
  · simp only [h, if_false]
    split <;> rfl

/-- Its chiplet comes into focus with it. -/
theorem focusCore_chip (s : State) (n : Nat) : (s.focusCore n).chip = s.chipAt (chipNum n) := by
  unfold State.focusCore
  dsimp only
  by_cases h : s.core.num = n
  · simp only [h, if_true]
    split <;> rename_i hc
    · simp only [State.chipAt, hc, if_true]
    · rfl
  · simp only [h, if_false]
    split <;> rename_i hc
    · simp only [State.chipAt, hc, if_true]
    · rfl

theorem coreAt_focusCore (s : State) (n : Nat) : (s.focusCore n).coreAt n = s.coreAt n := by
  rw [State.coreAt, if_pos (focusCore_num s n), focusCore_core]

theorem chipAt_focusCore (s : State) (n : Nat) : (s.focusCore n).chipAt (chipNum n) = s.chipAt (chipNum n) := by
  rw [State.chipAt, focusCore_chip, if_pos (chipAt_num s _)]

theorem skein?_focusCore (s : State) (n l k : Nat) : (s.focusCore n).skein? l k = s.skein? l k := by
  unfold State.focusCore State.skein?
  dsimp only
  split <;> split <;> rfl

theorem skein?_focusSkein (s : State) (l k : Nat) : (s.focusSkein l k).skein? l k = s.skein? l k := by
  unfold State.focusSkein
  split
  · rfl
  · rename_i hs
    split <;> rename_i h
    · rfl
    · rename_i x
      have hx : x.is l k = true := List.find?_some (p := fun k' : Skein => k'.is l k) h
      simp only [State.skein?, hx, hs, h, if_true, Bool.false_eq_true, if_false]

theorem coreAt_focusSkein (s : State) (l k n : Nat) : (s.focusSkein l k).coreAt n = s.coreAt n := by
  unfold State.focusSkein
  split
  · rfl
  · split <;> rfl

theorem chipAt_focusSkein (s : State) (l k n : Nat) : (s.focusSkein l k).chipAt n = s.chipAt n := by
  unfold State.focusSkein
  split
  · rfl
  · split <;> rfl

/-! ## Whether a fibre may issue -/

/-- Whether a fibre may issue is read from its skein, its core and its chiplet, each by name. -/
theorem canIssue_congr {s t : State} {f : Fibre} (hk : t.skein? f.id.lid f.id.skn = s.skein? f.id.lid f.id.skn)
    (hc : t.coreAt f.at_ = s.coreAt f.at_) (hp : t.chipAt (chipNum f.at_) = s.chipAt (chipNum f.at_)) : t.canIssue f = s.canIssue f := by
  unfold State.canIssue State.coreLive State.atIssue State.turnOf
  rw [hk, hc, hp]

/-- The fibre that a name finds comes into focus, and may issue there where it might before. -/
theorem canIssue_focus {s : State} {id : FibreId} {g : Fibre} (h : s.fibre? id = some g) (hg : s.canIssue g = true) :
    (s.focus id).canIssue (s.focus id).fib = true := by
  have hid : g.id = id := eq_of_beq (List.find?_some (p := fun f : Fibre => f.id == id) h)
  subst hid
  have placed (u : State) (hu : u.fib = g) (hk : u.skein? g.id.lid g.id.skn = s.skein? g.id.lid g.id.skn)
      (hc : u.coreAt g.at_ = s.coreAt g.at_) (hp : u.chipAt (chipNum g.at_) = s.chipAt (chipNum g.at_)) :
      ((u.focusSkein g.id.lid g.id.skn).focusCore g.at_).canIssue ((u.focusSkein g.id.lid g.id.skn).focusCore g.at_).fib = true := by
    rw [focusCore_fib, focusSkein_fib, hu, ← hg]
    refine canIssue_congr ?_ ?_ ?_
    · rw [skein?_focusCore, skein?_focusSkein, hk]
    · rw [coreAt_focusCore, coreAt_focusSkein, hc]
    · rw [chipAt_focusCore, chipAt_focusSkein, hp]
  unfold State.fibre? State.allFibres at h
  unfold State.focus
  by_cases hf : s.fib.live ∧ s.fib.id = g.id
  · obtain ⟨hl, hn⟩ := hf
    simp only [hl, if_true, List.find?_cons, hn, beq_self_eq_true, Option.some.injEq] at h
    rw [if_pos ⟨hl, hn⟩, h]
    exact placed s h rfl rfl rfl
  · have hr : s.fibres.find? (fun f => f.id == g.id) = some g := by
      by_cases hl : s.fib.live = true
      · have hn : (s.fib.id == g.id) = false := by simpa using fun e => hf ⟨hl, e⟩
        simpa only [hl, if_true, List.find?_cons, hn] using h
      · simpa only [hl, if_false, Bool.false_eq_true] using h
    rw [if_neg hf, hr]
    exact placed { s with fib := g, fibres := _ } rfl rfl rfl rfl

/-! ## The next fibre -/

/-- A core with a ready fibre is the core of one of them. -/
theorem mem_readyCores {c : Nat} {l : List Fibre} (h : c ∈ readyCores l) : ∃ f ∈ l, f.at_ = c := by
  have key : ∀ (l : List Fibre) (cs : List Nat), c ∈ l.foldl (fun cs f => setIns f.at_ cs) cs → c ∈ cs ∨ ∃ f ∈ l, f.at_ = c := by
    intro l
    induction l with
    | nil => exact fun cs h => .inl h
    | cons f l ih =>
      intro cs h
      rcases ih _ h with h | ⟨g, hg, e⟩
      · rcases mem_setIns.mp h with rfl | h
        · exact .inr ⟨f, by simp, rfl⟩
        · exact .inl h
      · exact .inr ⟨g, by simp [hg], e⟩
  rcases key l [] h with h | h
  · simp at h
  · exact h

theorem setIns_ne_nil (x : Nat) : ∀ l : List Nat, setIns x l ≠ []
  | [] => by simp [setIns]
  | y :: ys => by
    unfold setIns
    split
    · simp
    · split <;> simp

theorem readyCores_ne_nil {l : List Fibre} (h : l ≠ []) : readyCores l ≠ [] := by
  obtain ⟨f, l', rfl⟩ := List.exists_cons_of_ne_nil h
  have key : ∀ (l : List Fibre) (cs : List Nat), cs ≠ [] → l.foldl (fun cs f => setIns f.at_ cs) cs ≠ [] := by
    intro l
    induction l with
    | nil => exact fun cs h => h
    | cons f l ih => exact fun cs _ => ih _ (setIns_ne_nil _ _)
  exact key l' _ (setIns_ne_nil _ _)

/-- The fibre of the lowest entry, as `nextEntry` finds it. -/
def leastEntry (l : List Fibre) : Option Fibre := l.foldl (fun m f => match m with
  | none => some f
  | some g => if f.entry < g.entry then some f else some g) none

theorem leastEntry_mem {l : List Fibre} {f : Fibre} (h : leastEntry l = some f) : f ∈ l := by
  have key : ∀ (l : List Fibre) (m : Option Fibre), l.foldl (fun m f => match m with
      | none => some f
      | some g => if f.entry < g.entry then some f else some g) m = some f → m = some f ∨ f ∈ l := by
    intro l
    induction l with
    | nil => exact fun m h => .inl h
    | cons x l ih =>
      intro m h
      rcases ih _ h with h | h
      · cases m with
        | none => exact .inr (by simp_all)
        | some g =>
          dsimp only at h
          split at h
          · exact .inr (by simp_all)
          · exact .inl h
      · exact .inr (by simp [h])
  rcases key l none h with h | h
  · simp at h
  · exact h

theorem leastEntry_cons (f : Fibre) (l : List Fibre) : leastEntry (f :: l) ≠ none := by
  have key : ∀ (l : List Fibre) (g : Fibre), l.foldl (fun m f => match m with
      | none => some f
      | some g => if f.entry < g.entry then some f else some g) (some g) ≠ none := by
    intro l
    induction l with
    | nil => simp
    | cons x l ih =>
      intro g
      rw [List.foldl_cons]
      dsimp only
      split <;> exact ih _
  exact key l f

theorem nextEntry_eq (rr : Nat) (l : List Fibre) : nextEntry rr l = match leastEntry (l.filter fun f => decide (rr ≤ f.entry)) with
    | some f => some f
    | none => leastEntry l := rfl

/-- Of some fibres one is the next. -/
theorem nextEntry_mem {rr : Nat} {l : List Fibre} (h : l ≠ []) : ∃ f ∈ l, nextEntry rr l = some f := by
  rw [nextEntry_eq]
  cases hf : leastEntry (l.filter fun f => decide (rr ≤ f.entry)) with
  | some f => exact ⟨f, List.mem_of_mem_filter (leastEntry_mem hf), rfl⟩
  | none =>
    obtain ⟨x, l', rfl⟩ := List.exists_cons_of_ne_nil h
    obtain ⟨f, hf⟩ := Option.ne_none_iff_exists'.mp (leastEntry_cons x l')
    exact ⟨f, leastEntry_mem hf, hf⟩

/-- Rotation brings a ready fibre into focus, where there is one. -/
theorem rotate_ready {s : State} (h : s.readyFibres ≠ []) : ∃ f ∈ s.readyFibres, s.rotate = s.focus f.id := by
  have on {c : Nat} (hc : c ∈ readyCores s.readyFibres) : ∃ f ∈ s.readyFibres,
      nextEntry (s.coreAt c).rr (s.readyFibres.filter fun f => f.at_ == c) = some f := by
    obtain ⟨g, hg, hat⟩ := mem_readyCores hc
    have hne : (s.readyFibres.filter fun f => f.at_ == c) ≠ [] := List.ne_nil_of_mem (List.mem_filter.mpr ⟨hg, by simp [hat]⟩)
    obtain ⟨f, hf, hn⟩ := nextEntry_mem (rr := (s.coreAt c).rr) hne
    exact ⟨f, List.mem_of_mem_filter hf, hn⟩
  unfold State.rotate
  dsimp only
  split
  · rename_i hr
    exact absurd hr (readyCores_ne_nil h)
  · rename_i c hr
    obtain ⟨f, hf, hn⟩ := on (c := c) (by simp [hr])
    exact ⟨f, hf, by rw [hn]⟩
  · have hlt : Config.pick (s.ctr + 1) % (readyCores s.readyFibres).length < (readyCores s.readyFibres).length :=
      Nat.mod_lt _ (List.length_pos_iff.mpr (readyCores_ne_nil h))
    obtain ⟨f, hf, hn⟩ := on (c := (readyCores s.readyFibres).getD (Config.pick (s.ctr + 1) % (readyCores s.readyFibres).length) 0) (by
      rw [List.getD_eq_getElem _ _ hlt]
      exact List.getElem_mem hlt)
    exact ⟨f, hf, by rw [hn]⟩

/-- After rotation the fibre in focus may issue, where any may. -/
theorem canIssue_rotate {s : State} (h : s.readyFibres ≠ []) : s.rotate.canIssue s.rotate.fib = true := by
  obtain ⟨f, hf, he⟩ := rotate_ready h
  have hr := (List.mem_filter.mp hf).2
  rw [he]
  cases hg : s.fibre? f.id with
  | none => simp [hg] at hr
  | some g => exact canIssue_focus hg (by simpa [hg] using hr)

theorem rotate_idle {s : State} (h : s.readyFibres = []) : s.rotate = s := by
  unfold State.rotate
  rw [h]
  rfl

/-- The turn of the fibre in focus, after any step of the rest of the module. -/
theorem focusReady_afterDevice (s : State) : FocusReady s.afterDevice := by
  intro _ hr
  unfold State.afterDevice at hr ⊢
  generalize State.restCores _ = u at hr ⊢
  by_cases h : u.readyFibres = []
  · rw [rotate_idle h] at hr
    exact absurd h hr
  · exact canIssue_rotate h

/-- At the turn of the rest of the module nothing is asked of the fibre in focus. -/
theorem focusReady_afterIssue (s : State) : FocusReady s.afterIssue := fun h => nomatch h

theorem onNext_next {f : State → State} {r : Host.Outcome State Fault Refusal} {t : State} (h : onNext f r = .next t) :
    ∃ s, t = f s := by
  cases r with
  | next s => exact ⟨s, (Host.Outcome.next.inj h).symm⟩
  | fault e => nomatch h
  | refused e => nomatch h

/-- Settles O59: every step ends in the turn of the rest of the module, or in a rotation, which brings a ready fibre into focus. -/
theorem focusInvariant : Obligations.FocusInvariant := by
  intro s t _ h
  unfold step at h
  split at h
  · split at h
    · obtain ⟨u, rfl⟩ := onNext_next h
      exact focusReady_afterIssue u
    · cases h
      exact focusReady_afterIssue s
  · obtain ⟨u, rfl⟩ := onNext_next h
    exact focusReady_afterDevice u

/-- Settles O60: no fibre is live at reset. -/
theorem focusAtReset : Obligations.FocusAtReset := fun _ h => absurd rfl h

end Sys2Proof.Machine

/-! # Topology queries (O5)

A query writes one word, computed from the grade, the home core, the core map or the launch. -/

namespace Sys2Proof.Machine

section
variable {s : State} {d a : GReg} (hroom : Room s 1) (ha : FullG s a) (hd : FreeG s d)
include hroom ha hd

theorem topoCore_outside (h : s.exposed ≤ (s.g a).toNat) : exec (.topoCore d a) s = wrote s d (BitVec.allOnes 64) 1 := by
  have hw : exec (.topoCore d a) s = wrote s d _ 1 := run_ok hroom (unaryG_ok ha hd _)
  rw [hw, if_pos h]

theorem topoCore_inside (h : (s.g a).toNat < s.exposed) : exec (.topoCore d a) s = wrote s d
    (wordOf [(0, 8, coreOfPos (mapPos (s.mapEntry (s.g a).toNat)) / 4), (8, 2, mapState (s.mapEntry (s.g a).toNat))]) 1 := by
  have hw : exec (.topoCore d a) s = wrote s d _ 1 := run_ok hroom (unaryG_ok ha hd _)
  rw [hw, if_neg (Nat.not_le.mpr h)]

/-- What `topo.dom` answers for a level: MEMB of the home core holds the four domains, and no other level has one. -/
def domainWord (m : Word) : Nat → Word
  | 1 => wordOf [(0, 10, bits m 0 8), (10, 1, 1)]
  | 2 => wordOf [(0, 10, bits m 12 10), (10, 1, bits m 22 1)]
  | 3 => wordOf [(0, 10, bits m 23 10), (10, 1, bits m 33 1)]
  | 4 => wordOf [(0, 10, bits m 34 10), (10, 1, bits m 44 1)]
  | _ => BitVec.allOnes 64

omit hroom ha hd in
theorem domainWord_none (m : Word) {n : Nat} (h : n = 0 ∨ 4 < n) : domainWord m n = BitVec.allOnes 64 := by
  unfold domainWord
  split
  case h_5 => rfl
  all_goals omega

theorem topoDom_wrote : exec (.topoDom d a) s = wrote s d (domainWord (s.coreAt s.fib.home).memb (s.g a).toNat) 1 :=
  run_ok hroom (by rw [unaryG_ok ha hd]; rfl)

theorem topoDom_of {n : Nat} {w : Word} (hw : domainWord (s.coreAt s.fib.home).memb n = w) (hn : (s.g a).toNat = n) :
    exec (.topoDom d a) s = wrote s d w 1 := by
  rw [topoDom_wrote hroom ha hd, hn, hw]

end

/-- Settles O5: each query is one word written to gd. -/
theorem topologyQueries : Obligations.TopologyQueries := by
  intro s d a hroom ha hd c n out
  have written {v : Word} : run s 1 (writeG s d v) = out v := run_ok hroom (writeG_free hd v)
  refine ⟨written, written, topoCore_outside hroom ha hd, topoCore_inside hroom ha hd, topoDom_of hroom ha hd rfl,
    topoDom_of hroom ha hd rfl, topoDom_of hroom ha hd rfl, topoDom_of hroom ha hd rfl, fun h => ?_,
    run_ok hroom (unaryG_ok ha hd _), fun l hl => run_ok hroom ?_⟩
  · exact topoDom_of hroom ha hd (domainWord_none _ h) rfl
  · rw [hl]
    exact writeG_free hd _

end Sys2Proof.Machine

/-! # Fibres (O4)

A spawn with room finds the lowest free index and a free home entry, of which the 256 of a core leave one. A fibre that exits leaves the
skein to those that remain, or takes it along. -/

namespace Sys2Proof.Machine

/-! ## Waits and events -/

section
variable {s : State} {a : GReg} (hroom : Room s 1)
include hroom

theorem sleep_zero (ha : FullG s a) (h : s.g a = 0) : exec (.sleep a) s = .next (retire s 1) :=
  run_ok hroom (by
    rw [readG_full ha, ok_bind]
    exact if_pos h)

theorem sleep_parks (ha : FullG s a) (h : s.g a ≠ 0) :
    exec (.sleep a) s = .next (parkAs s (.sleep (s.now + (s.g a).toNat) (s.skein.evPend &&& s.skein.evEn))) :=
  run_hold hroom (by
    rw [readG_full ha, ok_bind]
    exact if_neg h)

theorem evWait_parks (hg : s.fib.guest = false) (he : s.fib.evf = true) : exec .evWait s = .next (parkAs s .event) :=
  run_hold hroom (by
    rw [notGuest_ok hg, ok_bind, ensure_ok he]
    rfl)

omit hroom in
theorem evret_ok (hg : s.fib.guest = false) (hi : s.fib.inev = true) (hf : FullG s 7) : exec .evret s =
    .next (retireTo (s.setFib fun f => { f with inev := false }) (s.g 7 &&& 0xFFFFFFFFFFFFFFFC#64)) := by
  change execEvret s = _
  rw [execEvret, notGuest_ok hg, ok_bind, ensure_ok hi, ok_bind, readG_full hf]
  rfl

/-- The state in which `rgn.begin` has opened a region at the next instruction (R341). -/
def State.regionOpened (s : State) : State := s.setFib fun f =>
  ({ f with rgn := { act := true, pc := f.pc + 4, snap := f.bank, prec := f.prec, count := 0 } } : Fibre).touch Dirty.snap

theorem rgnBegin_ok (hg : s.fib.guest = false) (hs : settled s = .ok ()) (hp : s.fib.anyPending = false) :
    exec .rgnBegin s = .next (retire s.regionOpened 1) :=
  run_ok hroom (by
    rw [notGuest_ok hg, ok_bind, hs, ok_bind]
    exact if_neg (Bool.eq_false_iff.mp hp))

end

theorem run_notGuest {s t : State} {x : Ex State} (hroom : Room s 1) (hg : s.fib.guest = false) (hx : x = .ok t) :
    (run s 1 do notGuest s; x) = .next (retire t 1) :=
  run_ok hroom (by rw [notGuest_ok hg, ok_bind, hx])

/-! ## Spawn -/

theorem vgetD_replicate {α : Type} {n i : Nat} (x : α) : (Vector.replicate n x).getD i x = x := by
  rw [vgetD_eq]
  by_cases h : i < n <;> simp [h]

theorem fibresOf_index {s : State} {lid skn i : Nat} : i ∈ (s.fibresOf lid skn).map (fun f => f.id.fix) ↔
    ∃ g ∈ s.allFibres, g.id.lid = lid ∧ g.id.skn = skn ∧ g.id.fix = i := by
  simp only [State.fibresOf, List.mem_map, List.mem_filter, Bool.and_eq_true, beq_iff_eq, and_assoc]

/-- The free index of a skein is the lowest of 0 to FM1 that none of its fibres holds (R336). -/
theorem freeIndex_some {s : State} {l : Launch} {skn fix : Nat} (hle : fix ≤ l.fm1)
    (hfree : ¬∃ g ∈ s.allFibres, g.id.lid = l.lid ∧ g.id.skn = skn ∧ g.id.fix = fix)
    (hlow : ∀ i < fix, ∃ g ∈ s.allFibres, g.id.lid = l.lid ∧ g.id.skn = skn ∧ g.id.fix = i) : s.freeIndex l skn = some fix := by
  refine find?_range_lowest (by omega) ?_ fun i hi => ?_
  · simpa only [Bool.not_eq_true', List.contains_eq_mem, decide_eq_false_iff_not, fibresOf_index] using hfree
  · simpa only [Bool.not_eq_false', List.contains_eq_mem, decide_eq_true_eq, fibresOf_index] using hlow i hi

theorem freeIndex_none {s : State} {l : Launch} {skn : Nat}
    (h : ∀ i ≤ l.fm1, ∃ g ∈ s.allFibres, g.id.lid = l.lid ∧ g.id.skn = skn ∧ g.id.fix = i) : s.freeIndex l skn = none := by
  refine find?_range_nowhere fun i hi => ?_
  simpa only [Bool.not_eq_false', List.contains_eq_mem, decide_eq_true_eq, fibresOf_index] using h i (by omega)

theorem myLaunch_lid {s : State} {l : Launch} (h : s.myLaunch = some l) : l.lid = s.fib.id.lid :=
  eq_of_beq (List.find?_some (p := fun l : Launch => l.lid == s.fib.id.lid) h)

/-- Of 256 numbers a shorter list leaves one. -/
theorem exists_unused {l : List Nat} (h : l.length < 256) : ∃ i < 256, i ∉ l := by
  by_contra hn
  have hsub : List.range 256 ⊆ l := fun i hi => by
    by_contra hm
    exact hn ⟨i, List.mem_range.mp hi, hm⟩
  have := (List.nodup_range.subperm hsub).length_le
  simp at this
  omega

/-- The home entry that a core gives to one more fibre is one of its 256, and held by none. -/
theorem freeHome_free {s : State} {n : Nat} (h : (s.homeFibres n).length < 256) :
    s.freeHome n < 256 ∧ ∀ g ∈ s.homeFibres n, g.homeEntry ≠ s.freeHome n := by
  obtain ⟨i, hi, hn⟩ := exists_unused (l := (s.homeFibres n).map Fibre.homeEntry) (by simpa using h)
  have hsome : ((List.range 256).find? fun i => !((s.homeFibres n).map Fibre.homeEntry).contains i).isSome = true :=
    List.find?_isSome.mpr ⟨i, List.mem_range.mpr hi, by simpa only [Bool.not_eq_true', List.contains_eq_mem, decide_eq_false_iff_not] using hn⟩
  obtain ⟨e, he⟩ := Option.isSome_iff_exists.mp hsome
  have hfree : s.freeHome n = e := by
    simp only [State.freeHome, he, Option.getD_some]
  rw [hfree]
  refine ⟨List.mem_range.mp (List.mem_of_find?_eq_some he), fun g hg heq => ?_⟩
  have hun := List.find?_some he
  simp only [Bool.not_eq_true', List.contains_eq_mem, decide_eq_false_iff_not] at hun
  exact hun (List.mem_map.mpr ⟨g, hg, heq⟩)

theorem roomFor_entries {s : State} {n : Nat} {l : Launch} (h : s.roomFor n l 1 = true) : (s.homeFibres n).length < 256 := by
  simp only [State.roomFor, Bool.and_eq_true, decide_eq_true_eq] at h
  omega

section
variable {s : State} {d a b : GReg} {l : Launch} (hroom : Room s 1) (hg : s.fib.guest = false) (ha : FullG s a) (hb : FullG s b)
  (hd : FreeG s d) (hl : s.myLaunch = some l)

theorem newFibre_val (l : Launch) (id : FibreId) (core e : Nat) (pc g0 : Word) (sup evf : Bool) (mark : Nat) {i : Nat} (h0 : 0 < i)
    (h7 : i < 7) : (newFibre l id core e pc g0 sup evf mark).bank.val.getD i 0 = 0 := by
  change (((Vector.replicate 8 (0 : Word)).set! 0 g0).set! 7 _).getD i 0 = 0
  rw [vgetD_set!_ne _ (by omega), vgetD_set!_ne _ (by omega)]
  exact vgetD_replicate ..

/-- The fibre that `spawn` adds (R336). -/
def State.spawned (s : State) (l : Launch) (fix : Nat) (entry arg : Word) : Fibre :=
  newFibre l { s.fib.id with fix := fix } s.core.num (s.freeHome s.core.num) entry arg s.fib.sup false s.settle.dev.writes

include hroom hg ha hb hd hl

theorem spawn_room {fix : Nat} (hf : s.freeIndex l s.fib.id.skn = some fix) (hr : s.roomFor s.core.num l 1 = true)
    (hu : s.fib.updout = 0) (hm : s.behindMessage false = false) : exec (.spawn d a b) s =
      wrote { s.settle with fibres := s.settle.fibres ++ [s.spawned l fix (s.g a) (s.g b)] } d
        (BitVec.ofNat 64 (s.freeHome s.core.num)) 1 :=
  run_ok hroom (by
    rw [notGuest_ok hg, ok_bind, readG_full ha, ok_bind, readG_full hb, ok_bind, destG_free hd, ok_bind, hl]
    dsimp only
    rw [hf]
    dsimp only
    rw [if_neg (by simp [hr]), release_core hu hm, ok_bind]
    rfl)

theorem spawn_noRoom (h : s.freeIndex l s.fib.id.skn = none ∨ s.roomFor s.core.num l 1 = false) :
    exec (.spawn d a b) s = wrote s d (BitVec.allOnes 64) 1 :=
  run_ok hroom (by
    rw [notGuest_ok hg, ok_bind, readG_full ha, ok_bind, readG_full hb, ok_bind, destG_free hd, ok_bind, hl]
    dsimp only
    cases hf : s.freeIndex l s.fib.id.skn with
    | none => rfl
    | some fix => exact if_pos (by simpa [hf] using h))

end

/-! ## Exit -/

/-- The fibre in focus has left its core, and its skein looks at what remains (R337). -/
def State.left (u : State) : State :=
  let s := u.setCore fun c => { c with retired := c.retired + 1, lastRetire := u.clk }
  (s.setFib fun f => { f with live := false, park := none }).onLaunch u.fib.id.lid fun l => { l with lastLeft := s.dev.ticks }

/-- The other fibres of the skein of the fibre in focus. -/
abbrev State.others (u : State) : List Fibre := u.fibres.filter fun x => x.id.lid == u.fib.id.lid && x.id.skn == u.fib.id.skn

/-- A fibre takes the event fibre's part, with the shadow bank (R147, R337). -/
def Fibre.eventPart (f : Fibre) : Fibre := ({ f with evf := true } : Fibre).touch Dirty.shadow

/-- The event fibre's part passes to the lowest index that remains (R337). -/
def State.eventPassed (u : State) : State :=
  u.left.onFibre { u.fib.id with fix := u.others.foldl (fun m f => min m f.id.fix) 256 } Fibre.eventPart

theorem leave_eq (u : State) : leave u =
    if u.others.isEmpty then u.left.exitSkein u.skein else if u.fib.evf then u.eventPassed else u.left := rfl

theorem leave_last {u : State} (h : u.others = []) : leave u = u.left.exitSkein u.skein := by
  rw [leave_eq, if_pos (by rw [h]; rfl)]

theorem leave_plain {u : State} (h : u.others ≠ []) (he : u.fib.evf = false) : leave u = u.left := by
  rw [leave_eq, if_neg (by simpa only [List.isEmpty_iff] using h), if_neg (by simp [he])]

theorem leave_event {u : State} (h : u.others ≠ []) (he : u.fib.evf = true) : leave u = u.eventPassed := by
  rw [leave_eq, if_neg (by simpa only [List.isEmpty_iff] using h), if_pos he]

theorem exit_ok {s : State} (hroom : Room s 1) (hg : s.fib.guest = false) (hi : s.fib.inev = false)
    (hb : s.fib.tokens.busy 0xFF = false) (hu : s.fib.updout = 0) (hp : s.fib.anyPending = false)
    (hm : s.behindMessage false = false) (hf : s.settle.fib.tokens.failed 0xFF = none) : exec .exit s = .next (leave s.settle) := by
  change execExit s = _
  have hstop : ¬(s.fib.tokens.busy 0xFF = true ∨ s.fib.updout ≠ 0 ∨ s.fib.anyPending = true) := by rw [hb, hu, hp]; decide
  rw [execExit, ending_room hroom, notGuest_ok hg, ok_bind, ensure_ok (by simp [hi]), ok_bind]
  rw [if_neg hstop, release_core hu hm, ok_bind]
  simp only [hf]
  rfl

/-- The lowest index of some fibres is the one that none of them is below. -/
theorem lowest_index {l : List Fibre} {g : Fibre} (hg : g ∈ l) (hlt : g.id.fix < 256) (hlow : ∀ h ∈ l, g.id.fix ≤ h.id.fix) :
    l.foldl (fun m f => min m f.id.fix) 256 = g.id.fix := by
  have key : ∀ (l : List Fibre) (m : Nat), (∀ h ∈ l, g.id.fix ≤ h.id.fix) → g.id.fix ≤ m → (g ∈ l ∨ m = g.id.fix) →
      l.foldl (fun m f => min m f.id.fix) m = g.id.fix := by
    intro l
    induction l with
    | nil => intro m _ _ h; simpa using h
    | cons x l ih =>
      intro m hl hm h
      have hx := hl x (by simp)
      refine ih _ (fun h hh => hl h (by simp [hh])) (le_min hm hx) ?_
      rcases h with h | rfl
      · rcases List.mem_cons.mp h with rfl | h
        · exact .inr (min_eq_right hm)
        · exact .inl h
      · exact .inr (min_eq_left hx)
  exact key l 256 hlow (by omega) (.inl hg)

theorem eventPassed_eq (u : State) : u.eventPassed =
    { u.left with fibres := updAll (fun x => x.id == { u.fib.id with fix := u.others.foldl (fun m f => min m f.id.fix) 256 }) Fibre.eventPart u.fibres } := by
  rw [State.eventPassed, State.onFibre, if_neg fun h => nomatch h.1]
  rfl

/-- The fibre of the lowest index becomes the event fibre, and its shadow bank is to be saved (R337). -/
theorem eventPassed_lowest {u : State} {g : Fibre} (hg : g ∈ u.others) (hlt : g.id.fix < 256) (hlow : ∀ h ∈ u.others, g.id.fix ≤ h.id.fix) :
    g.eventPart ∈ u.eventPassed.fibres := by
  obtain ⟨hmem, hname⟩ := List.mem_filter.mp hg
  obtain ⟨hl, hs⟩ : g.id.lid = u.fib.id.lid ∧ g.id.skn = u.fib.id.skn := by simpa using hname
  rw [eventPassed_eq, lowest_index hg hlt hlow]
  dsimp only
  rw [← hl, ← hs]
  exact mem_updAll_updated hmem (beq_self_eq_true _)

/-- Settles O4: the checks of each instruction pass, and `spawn` and `exit` go by what their core and their skein hold. -/
theorem fibres : Obligations.Fibres := by
  refine ⟨fun s a hroom => ⟨run_ok hroom rfl, sleep_zero hroom, sleep_parks hroom⟩, fun s m hroom hg => ?_,
    fun s d a b l hroom hg ha hb hd hl => ?_,
    fun s hroom hg hi hb hu hp hm hf => ?_⟩
  · refine ⟨run_notGuest hroom hg rfl, run_notGuest hroom hg rfl, evWait_parks hroom hg, evret_ok hg, fun hs hp => ?_,
      run_notGuest hroom hg rfl⟩
    refine ⟨_, rgnBegin_ok hroom hg hs hp, ?_⟩
    obtain ⟨r, p, d, n, h⟩ := retireTo_fib s.regionOpened (s.regionOpened.fib.pc + BitVec.ofNat 64 (4 * 1))
    simp only [retire, h]
    exact ⟨rfl, rfl, rfl, rfl, rfl, rfl, rfl⟩
  · rw [← myLaunch_lid hl]
    refine ⟨fun fix hle hfree hlow hr hu hm => ?_, fun h => spawn_noRoom hroom hg ha hb hd hl (h.imp_left freeIndex_none)⟩
    obtain ⟨he, hfresh⟩ := freeHome_free (roomFor_entries hr)
    have hexec := spawn_room hroom hg ha hb hd hl (freeIndex_some hle hfree hlow) hr hu hm
    refine ⟨s.spawned l fix (s.g a) (s.g b), _, hexec, hexec, rfl, rfl, he, hfresh, rfl, rfl, rfl, rfl, rfl, fun i => newFibre_val _ _ _ _ _ _ _ _ _,
      fun i _ => vgetD_replicate .., rfl, rfl, rfl, rfl, rfl, rfl, rfl, rfl, rfl, rfl, rfl⟩
  · intro u left
    refine ⟨leave u, u.left, exit_ok hroom hg hi hb hu hp hm hf, rfl, rfl, rfl, rfl, rfl, leave_last, leave_plain, fun h he => ?_⟩
    rw [leave_event h he]
    refine ⟨?_, ?_, ?_, fun g hg => eventPassed_lowest hg⟩ <;> rw [eventPassed_eq]

end Sys2Proof.Machine

/-! # Migration (O11)

A fibre in focus stays there while it ships, arrives and goes home: bringing it into focus again moves only its core and its chiplet.
A guest entry is granted as the lowest number that no guest of the core holds. -/

namespace Sys2Proof.Machine

/-! ## Shipping -/

/-- An instruction whose effect lies on another core ships its fibre there (R343). -/
theorem run_ship {s t : State} {n : Nat} {body : Ex State} {core : Nat} (h : Room s n) (hb : body = .error ⟨t, .ship core⟩) :
    run s n body = .next (shipTo t core) := by
  rw [run, ending_room h, hb]
  rfl

section
variable {s t : State} {d a b : GReg} {p : Piece} {h : Nat} (hroom : Room s 1) (ha : FullG s a)
include hroom ha

theorem migrate_here (hh : atomicHome s s.accLoad (s.g a) 1 1 = .ok (t, p, h)) (he : h = t.chip.num) :
    exec (.migrate a) s = .next (retire t 1) :=
  run_ok hroom (by
    rw [readG_full ha, ok_bind, hh, ok_bind]
    exact if_pos he)

theorem migrate_ships (hh : atomicHome s s.accLoad (s.g a) 1 1 = .ok (t, p, h)) (he : h ≠ t.chip.num) (hu : t.fib.updout = 0)
    (hm : t.behindMessage true = false) :
    exec (.migrate a) s = .next (shipTo t.settle.drain (t.settle.drain.execCore h p.pa)) :=
  run_ship hroom (by
    rw [readG_full ha, ok_bind, hh, ok_bind]
    dsimp only
    rw [if_neg he, release_chip hu hm]
    rfl)

theorem amoAdd_ships {z : BitVec 1} (hb : FullG s b) (hd : FreeG s d)
    (hh : atomicHome s s.accAtomic (s.g a) (4 * 2 ^ z.toNat) (4 * 2 ^ z.toNat) = .ok (t, p, h)) (he : h ≠ t.chip.num)
    (hu : t.fib.updout = 0) (hm : t.behindMessage true = false) :
    exec (.amoAdd d a b z) s = .next (shipTo t.settle.drain (t.settle.drain.execCore h p.pa)) :=
  run_ship hroom (by
    rw [readG_full ha, ok_bind, readG_full hb, ok_bind, atomic, destG_free hd, ok_bind, hh, ok_bind]
    dsimp only
    rw [ok_bind, if_pos he, release_chip hu hm]
    rfl)

end

section
variable {s : State} (hroom : Room s 1)
include hroom

theorem migrateRet_guest (hg : s.fib.guest = true) (hu : s.fib.updout = 0) (hm : s.behindMessage true = false)
    (hr : s.reach (chipNum s.fib.home) = .ok ()) :
    exec .migrateRet s = .next ((retire s.settle.drain 1).setFib fun f => { f with travel := some .home }) := by
  change execMigrateRet s = _
  rw [execMigrateRet, if_pos hg]
  exact runThen_ok hroom (by rw [hr, ok_bind, release_chip hu hm])

theorem migrateRet_home (hg : s.fib.guest = false) : exec .migrateRet s = .next (retire s 1) := by
  change execMigrateRet s = _
  rw [execMigrateRet, if_neg (by simp [hg])]
  exact run_ok hroom rfl

end

/-! ## Guest entries -/

theorem usedEntry_iff {s : State} {core i : Nat} : i ∈ (s.allFibres.filter fun y => y.holdsEntry core).map Fibre.guestEntry ↔
    ∃ y ∈ s.allFibres, y.holdsEntry core = true ∧ y.guestEntry = i := by
  simp only [List.mem_map, List.mem_filter, and_assoc]

/-- The entry that a core grants is the lowest of its own that none of its guests holds (R332, R343). -/
theorem freeEntry_iff {s : State} {core e : Nat} : s.freeEntry core = some e ↔
    e < guestRoom core ∧ (∀ y ∈ s.allFibres, y.holdsEntry core = true → y.guestEntry ≠ e) ∧
      ∀ i < e, ∃ y ∈ s.allFibres, y.holdsEntry core = true ∧ y.guestEntry = i := by
  have hfree {i : Nat} : (!((s.allFibres.filter fun y => y.holdsEntry core).map Fibre.guestEntry).contains i) = true ↔
      ¬∃ y ∈ s.allFibres, y.holdsEntry core = true ∧ y.guestEntry = i := by
    rw [Bool.not_eq_true', List.contains_eq_mem, decide_eq_false_iff_not, usedEntry_iff]
  have hnone : (¬∃ y ∈ s.allFibres, y.holdsEntry core = true ∧ y.guestEntry = e) ↔
      ∀ y ∈ s.allFibres, y.holdsEntry core = true → y.guestEntry ≠ e := by grind
  rw [← hnone, State.freeEntry]
  rw [List.find?_range_eq_some, hfree]
  simp only [List.mem_range, Bool.not_eq_true', ← Bool.not_eq_true, hfree, not_not]
  grind

/-! ## Arrival -/

section
variable {s : State} {f : Fibre} (hlive : s.fib.live = true) (hf : s.fib = f)
include hlive hf

theorem fibre?_infocus : s.fibre? f.id = some f := by rw [← hf]; exact fibre?_focus hlive

/-- The fibre in focus keeps everything but its place when it takes a guest entry, and its core comes into focus (R343). -/
theorem takeEntry_focus (core e : Nat) : (takeEntry (s.focus f.id) core e).core.num = core ∧
    (takeEntry (s.focus f.id) core e).fib =
      { f with at_ := core, guest := true, guestEntry := e, guestCount := 0, travel := none, park := none } := by
  obtain ⟨hfib, -⟩ := focus_self hlive (congrArg Fibre.id hf)
  rw [hf] at hfib hlive
  unfold takeEntry
  dsimp only
  rw [hfib]
  obtain ⟨h, hc⟩ := focus_self (s := (s.focus f.id).setFib fun y =>
    { y with at_ := core, guest := true, guestEntry := e, guestCount := 0, travel := none, park := none })
    (by rw [State.setFib_fib, hfib]; exact hlive) (id := f.id) (by rw [State.setFib_fib, hfib])
  rw [State.setFib_fib, hfib] at h hc
  exact ⟨hc, h⟩

variable {core : Nat} {h : Hop} (ht : f.travel = some (.out core h))
include ht

theorem arrival_behind (hb : (s.migHops.any fun e => e.before h) = true) : exec (.migrationArrival f.id) s = .next s := by
  change execMigrationArrival f.id s = _
  simp only [execMigrationArrival, fibre?_infocus hlive hf, ht, hb, if_true]

variable (hb : (s.migHops.any fun e => e.before h) = false) (hw : ∀ y ∈ s.allFibres, y.waitsAt core = false)
include hb hw

theorem arrival_granted {e : Nat} (he : s.freeEntry core = some e) :
    exec (.migrationArrival f.id) s = .next (takeEntry (s.focus f.id) core e) := by
  change execMigrationArrival f.id s = _
  have hn : (s.allFibres.any fun y => y.waitsAt core) = false := List.any_eq_false.mpr fun y hy => by simp [hw y hy]
  simp only [execMigrationArrival, fibre?_infocus hlive hf, ht, hb, hn, he, Bool.false_eq_true, if_false]

theorem arrival_waits (he : s.freeEntry core = none) : exec (.migrationArrival f.id) s = .next (s.setFib fun y => { y with
    travel := some (.waiting core s.ctr), parkedAt := s.clkAt (chipNum core), parkedTick := s.wtick (chipNum core) }) := by
  change execMigrationArrival f.id s = _
  have hn : (s.allFibres.any fun y => y.waitsAt core) = false := List.any_eq_false.mpr fun y hy => by simp [hw y hy]
  simp only [execMigrationArrival, fibre?_infocus hlive hf, ht, hb, hn, he, Bool.false_eq_true, if_false]
  rw [← hf, onFibre_focus hlive]

end

/-! ## Going home -/

/-- What a guest does that has come home, by why it went (R351). -/
def homecoming (t : State) : Travel → Host.Outcome State Fault Refusal
  | .homeTrap code sub val pa => .next (takeTrap t code sub val pa true)
  | .homeRestart => conclude (restart t)
  | _ => .next t

section
variable {s : State} {f : Fibre} (hlive : s.fib.live = true) (hf : s.fib = f)
include hlive hf

theorem sendHome_focus : (s.sendHome f.id).fib = { f with park := none, travel := some .home } := by
  have hl : (s.forgetWaits fun id => id == f.id).fib.live = true := hlive
  have hid : (s.forgetWaits fun id => id == f.id).fib.id = f.id := congrArg Fibre.id hf
  rw [State.sendHome, State.onFibre, if_pos ⟨hl, hid⟩, ← hf]
  rfl

theorem instructionLimit_sends (hg : f.guest = true) (ht : f.travel = none) (hc : 64 ≤ f.guestCount) :
    exec (.guestInstructionLimit f.id) s = .next (s.sendHome f.id) := by
  change execGuestInstructionLimit f.id s = _
  simp only [execGuestInstructionLimit, fibre?_infocus hlive hf, hg, ht, hc, Option.isNone_none, decide_true, Bool.and_self, if_true]

theorem parkLimit_sends (hg : f.guest = true) (ht : f.travel = none) (hp : f.parked = true)
    (hc : s.clocksSince (chipNum f.at_) f.parkedAt 4096 = true) : exec (.guestParkLimit f.id) s = .next (s.sendHome f.id) := by
  change execGuestParkLimit f.id s = _
  simp only [execGuestParkLimit, fibre?_infocus hlive hf, hg, ht, hp, hc, Option.isNone_none, Bool.and_self, if_true]

/-- A guest that has arrived at its home entry, after a release and an acquire at chip scope (R351). -/
def State.arrivedHome (s : State) (id : FibreId) : State :=
  (((s.focus id).settle.drain.setFib fun y => { y with
    at_ := y.home, guest := false, guestEntry := 0, guestCount := 0, travel := none, park := none }).focus id).acquire 2

theorem arrivedHome_focus : (s.arrivedHome f.id).fib = { (s.focus f.id).settle.drain.fib with
      at_ := (s.focus f.id).settle.drain.fib.home, guest := false, guestEntry := 0, guestCount := 0, travel := none, park := none } ∧
    (s.arrivedHome f.id).core.num = (s.focus f.id).settle.drain.fib.home ∧ (s.arrivedHome f.id).core.l1 = [] := by
  obtain ⟨hfib, -⟩ := focus_self hlive (congrArg Fibre.id hf)
  have hsame : SameName (s.focus f.id) (s.focus f.id).settle.drain := (settle_sameName _).trans (drain_sameName _)
  obtain ⟨hid, hl⟩ := hsame
  rw [hfib, hf] at hid hl
  rw [hf] at hlive
  unfold State.arrivedHome
  generalize (s.focus f.id).settle.drain = u at hid hl ⊢
  obtain ⟨h, hc⟩ := focus_self (s := u.setFib fun y => { y with
    at_ := y.home, guest := false, guestEntry := 0, guestCount := 0, travel := none, park := none }) (hl.trans hlive) hid
  exact ⟨h, hc, rfl⟩

variable {why : Travel} (ht : f.travel = some why) (hw : why = .home ∨ why = .homeRestart ∨ ∃ c b v p, why = .homeTrap c b v p)
include ht hw

theorem returnHome_eq : exec (.guestReturnHome f.id) s =
    if f.updout ≠ 0 ∨ (s.focus f.id).behindMessage true ∨
      ((s.focus f.id).migHops.any fun e => e.along ((s.focus f.id).hop (chipNum f.home))) then .next s
    else homecoming (s.arrivedHome f.id) why := by
  change execGuestReturnHome f.id s = _
  rw [execGuestReturnHome, fibre?_infocus hlive hf]
  dsimp only
  rw [ht]
  rcases hw with rfl | rfl | ⟨c, b, v, p, rfl⟩ <;> rfl

theorem returnHome_waits (hu : f.updout ≠ 0) : exec (.guestReturnHome f.id) s = .next s := by
  rw [returnHome_eq hlive hf ht hw, if_pos (.inl hu)]

theorem returnHome_arrives (hu : f.updout = 0) (hm : (s.focus f.id).behindMessage true = false)
    (hh : ((s.focus f.id).migHops.any fun e => e.along ((s.focus f.id).hop (chipNum f.home))) = false) :
    exec (.guestReturnHome f.id) s = homecoming (s.arrivedHome f.id) why := by
  rw [returnHome_eq hlive hf ht hw, if_neg]
  rintro (h | h | h)
  · exact h hu
  · exact absurd (h.symm.trans hm) (by decide)
  · exact absurd (h.symm.trans hh) (by decide)

end

/-- Settles O11: instructions ship by where their effect lies, and the steps of a travelling fibre keep it in focus. -/
theorem migration : Obligations.Migration := by
  refine ⟨fun s t d a b z p h hroom ha => ⟨fun hh => ⟨migrate_here hroom ha hh, migrate_ships hroom ha hh⟩,
    fun hb hd => amoAdd_ships hroom ha hb hd, migrateRet_guest hroom, migrateRet_home hroom⟩,
    fun s core => ⟨_, rfl, rfl, rfl⟩, fun s core e => freeEntry_iff, fun s f hlive hf => ⟨fun core h ht => ?_, fun hg ht hc => ?_,
    fun hg ht hp hc => ?_, fun why ht hw => ?_⟩⟩
  · refine ⟨arrival_behind hlive hf ht, fun hb hw => ⟨fun e he => ?_, fun he => ?_⟩⟩
    · exact ⟨_, arrival_granted hlive hf ht hb hw he, takeEntry_focus hlive hf core e⟩
    · exact ⟨_, s.ctr, arrival_waits hlive hf ht hb hw he, rfl, by rw [← hf]; rfl, by rw [← hf]; rfl⟩
  · exact ⟨_, instructionLimit_sends hlive hf hg ht hc, sendHome_focus hlive hf⟩
  · exact ⟨_, parkLimit_sends hlive hf hg ht hp hc, sendHome_focus hlive hf⟩
  · refine ⟨returnHome_waits hlive hf ht hw, fun hu hm hh => ⟨s.arrivedHome f.id, arrivedHome_focus hlive hf, ?_, ?_, ?_⟩⟩
    · rintro rfl
      exact returnHome_arrives hlive hf ht hw hu hm hh
    · rintro rfl
      exact returnHome_arrives hlive hf ht hw hu hm hh
    · rintro c b v p rfl
      exact returnHome_arrives hlive hf ht hw hu hm hh

end Sys2Proof.Machine

/-! # Atomics and remote updates (O10)

Every atomic reads its operands and runs one indivisible read and write; they differ in the function of the old value. -/

namespace Sys2Proof.Machine

/-! ## Relaxed atomics -/

/-- The state before the indivisible access of an atomic to `p`: earlier stores that it has to follow are performed (R352). -/
abbrev State.atomicFirst (s : State) (p : Piece) : Ex State :=
  s.homeFirst [] [p] (if isDram p.pa then [p.pa / 128] else [])

/-- The result of an atomic that found `o` in the state `u` after its access: its new value stands in the L1 as well (R352, R353). -/
def atomicResult (u : State) (d : GReg) (p : Piece) (n o : Nat) : Option Nat → State
  | none => setG u d (BitVec.ofNat 64 o)
  | some v => setG (u.setCore fun k => { k with l1 := putL1 p.pa (bytesOf n v) k.l1 }) d (BitVec.ofNat 64 o)

section
variable {s t r e u : State} {d : GReg} {ea : Word} {n o : Nat} {aq rl : Option Nat} {f : Nat → Option Nat} {p : Piece}

theorem atomic_result (hd : FreeG s d) (ha : atomicHome s s.accAtomic ea n n = .ok (t, p, r.chip.num)) (hr : t.released rl = .ok r)
    (hf : r.settleLocal.atomicFirst p = .ok e) (hm : (e.reachSlice p).rmw (keyArg p.leaf) p.pa n f = (u, some o)) :
    atomic s d ea n aq rl f = .ok (atomicResult (u.acquired aq) d p n o (f o)) := by
  rw [atomic_ok hd ha hr rfl hf hm]
  cases f o <;> rfl

end

section
variable {s t e u : State} {d a b c : GReg} {z : BitVec 1} {p : Piece} {h o : Nat} (hroom : Room s 1) (ha : FullG s a) (hb : FullG s b)
  (hd : FreeG s d) (hh : atomicHome s s.accAtomic (s.g a) (4 * 2 ^ z.toNat) (4 * 2 ^ z.toNat) = .ok (t, p, h)) (hc : h = t.chip.num)
  (hf : t.settleLocal.atomicFirst p = .ok e)
include hroom ha hb hd hh hc hf

theorem amoPlain_ok {op : Nat} (hm : (e.reachSlice p).rmw (keyArg p.leaf) p.pa (4 * 2 ^ z.toNat)
      (fun x => some (amoValue op (8 * (4 * 2 ^ z.toNat)) x ((s.g b).toNat % 2 ^ (8 * (4 * 2 ^ z.toNat))))) = (u, some o)) :
    amoPlain s op d a b z = .next (retire (atomicResult u d p (4 * 2 ^ z.toNat) o
      (some (amoValue op (8 * (4 * 2 ^ z.toNat)) o ((s.g b).toNat % 2 ^ (8 * (4 * 2 ^ z.toNat)))))) 1) := by
  subst hc
  exact run_ok hroom (by
    rw [readG_full ha, ok_bind, readG_full hb, ok_bind]
    exact atomic_result hd hh rfl hf hm)

theorem cas_ok (hg : FullG s c) (hm : (e.reachSlice p).rmw (keyArg p.leaf) p.pa (4 * 2 ^ z.toNat)
      (fun x => casValue (8 * (4 * 2 ^ z.toNat)) x (s.g b).toNat (s.g c).toNat) = (u, some o)) :
    exec (.cas d a b z c) s = .next (retire (atomicResult u d p (4 * 2 ^ z.toNat) o
      (casValue (8 * (4 * 2 ^ z.toNat)) o (s.g b).toNat (s.g c).toNat)) 1) := by
  subst hc
  exact run_ok hroom (by
    rw [readG_full ha, ok_bind, readG_full hb, ok_bind, readG_full hg, ok_bind]
    exact atomic_result hd hh rfl hf hm)

end

/-! ## Atomics with a scope -/

section
variable {s t r e u : State} {d a b c : GReg} {w : BitVec 1} {sc : BitVec 4} {o : BitVec 2} {m : BitVec 22} {p : Piece} {n x : Nat}
  (hroom : Room s 2) (hw : WaitOver s w) (ha : FullG s a) (hb : FullG s b) (hd : FreeG s d)
  (hr : (if bit o 1 then t.release sc.toNat else .ok t) = (.ok r : Ex State)) (hf : r.settleLocal.atomicFirst p = .ok e)

theorem released_ordRel (t : State) (o : BitVec 2) (sc : BitVec 4) :
    t.released (ordRel o sc) = if bit o 1 then t.release sc.toNat else .ok t := by
  unfold ordRel
  split <;> rfl

theorem acquired_ordAcq (u : State) (o : BitVec 2) (sc : BitVec 4) :
    u.acquired (ordAcq o sc) = if bit o 0 then u.acquire sc.toNat else u := by
  unfold ordAcq
  split <;> rfl

include hroom hw ha hb hd hr hf

theorem amoScoped_ok {op : BitVec 6} (hn : n = 4 * 2 ^ (op.toNat % 2))
    (hh : atomicHome (s.waited w) (s.waited w).accAtomic (s.g a + m.signExtend 64) n n = .ok (t, p, r.chip.num))
    (hm : (e.reachSlice p).rmw (keyArg p.leaf) p.pa n
      (fun y => some (amoValue (op.toNat / 2) (8 * n) y ((s.g b).toNat % 2 ^ (8 * n)))) = (u, some x)) :
    exec (.amoScoped d a b w op sc o m) s = .next (retire (atomicResult (if bit o 0 then u.acquire sc.toNat else u) d p n x
      (some (amoValue (op.toNat / 2) (8 * n) x ((s.g b).toNat % 2 ^ (8 * n))))) 2) := by
  subst hn
  rw [← acquired_ordAcq]
  exact run_ok hroom (by
    rw [waitW_over hw, ok_bind, readG_waited w ha, ok_bind, readG_waited w hb, ok_bind]
    exact atomic_result ((waited_free w).mpr hd) hh ((released_ordRel t o sc).trans hr) hf hm)

theorem casScoped_ok {z : BitVec 1} (hg : FullG s c) (hn : n = 4 * 2 ^ z.toNat)
    (hh : atomicHome (s.waited w) (s.waited w).accAtomic (s.g a + m.signExtend 64) n n = .ok (t, p, r.chip.num))
    (hm : (e.reachSlice p).rmw (keyArg p.leaf) p.pa n (fun y => casValue (8 * n) y (s.g b).toNat (s.g c).toNat) = (u, some x)) :
    exec (.casScoped d a b c w z sc o m) s = .next (retire (atomicResult (if bit o 0 then u.acquire sc.toNat else u) d p n x
      (casValue (8 * n) x (s.g b).toNat (s.g c).toNat)) 2) := by
  subst hn
  rw [← acquired_ordAcq]
  exact run_ok hroom (by
    rw [waitW_over hw, ok_bind, readG_waited w ha, ok_bind, readG_waited w hb, ok_bind, readG_waited w hg, ok_bind]
    exact atomic_result ((waited_free w).mpr hd) hh ((released_ordRel t o sc).trans hr) hf hm)

end

/-! ## Remote updates -/

/-- A remote update on its way to its executing core, which leaves its fibre free to go on (R358). -/
def State.updateSent (e t : State) (op n : Nat) (y : Word) (p : Piece) (core : Nat) : State :=
  (e.setDev fun d => { d with updates := d.updates ++
    [{ fib := t.fib.id, op := op, size := n, b := BitVec.ofNat 64 (y.toNat % 2 ^ (8 * n)), pa := p.pa, key := keyArg p.leaf
       core := core, asid := t.fib.asid, va := p.va, hop := t.hop (chipNum core) }] }).setFib fun f => { f with updout := f.updout + 1 }

section
variable {s t e : State} {a b : GReg} {z : BitVec 1} {p : Piece} {h : Nat}

theorem runUpd_ok (hroom : Room s 1) (ha : FullG s a) (hb : FullG s b)
    (hh : atomicHome s s.accAtomic (s.g a) (4 * 2 ^ z.toNat) (4 * 2 ^ z.toNat) = .ok (t, p, h)) (hu : t.fib.updout < 65535)
    (hf : t.atomicFirst p = .ok e) (op : Nat) :
    runUpd s op a b z = .next (retire (e.updateSent t op (4 * 2 ^ z.toNat) (s.g b) p (t.execCore h p.pa)) 1) :=
  run_ok hroom (by
    rw [readG_full ha, ok_bind, readG_full hb, ok_bind]
    dsimp only
    rw [hh, ok_bind]
    dsimp only
    rw [if_neg (by omega)]
    exact bind_ok hf rfl)

end

section
variable {s : State} {k : Nat} {u : Update} (hu : s.dev.updates[k]? = some u)
include hu

/-- What a remote update waits behind: earlier updates and stores of its fibre to the same place, and its way (R31, R359). -/
def State.updateBehind (s : State) (k : Nat) (u : Update) : Bool :=
  (s.dev.updates.take k).any (fun e => e.fib == u.fib && e.pa / 8 == u.pa / 8) ||
    s.dev.posted.any (fun p => p.fib == u.fib && decide (p.pa < u.pa + u.size) && decide (u.pa < p.pa + p.data.length)) ||
    s.migHops.any (fun h => h.before u.hop)

theorem updateExecute_eq : exec (.remoteUpdateExecute k) s =
    if s.updateBehind k u || (s.allFibres.any fun f => f.waitsAt u.core) || (s.freeEntry u.core).isNone then .next s
    else
      let r := (s.setDev fun d => { d with updates := dropAt d.updates k }).rmw u.key u.pa u.size fun o =>
        some (amoValue u.op (8 * u.size) o u.b.toNat)
      .next (match r.2 with
        | some _ => r.1.updateDone u
        | none => r.1.updateLost u) := by
  change execRemoteUpdateExecute k s = _
  rw [execRemoteUpdateExecute, hu]
  rfl

theorem updateExecute_behind (h : s.updateBehind k u = true) : exec (.remoteUpdateExecute k) s = .next s := by
  rw [updateExecute_eq hu, if_pos (by simp [h])]

/-- The log record of an update that met poison and does no store (R359). -/
def State.updateLogged (t : State) (o : Option Nat) (u : Update) : State :=
  if o.isSome then t else t.logAt 0x03 0 0 (coreBlk u.core) (coreLoc u.core) u.fib.lid (8 * (u.pa / 8)) u.size

theorem updateExecute_applies {t : State} {o : Option Nat} (h : s.updateBehind k u = false)
    (hw : ∀ f ∈ s.allFibres, f.waitsAt u.core = false) (he : (s.freeEntry u.core).isSome = true)
    (hm : (s.setDev fun d => { d with updates := dropAt d.updates k }).rmw u.key u.pa u.size
      (fun x => some (amoValue u.op (8 * u.size) x u.b.toNat)) = (t, o)) :
    exec (.remoteUpdateExecute k) s = .next ((t.updateLogged o u).updateDone u) := by
  have hn : (s.allFibres.any fun f => f.waitsAt u.core) = false := List.any_eq_false.mpr fun f hf => by simp [hw f hf]
  have hnone : (s.freeEntry u.core).isNone = false := by simpa using he
  rw [updateExecute_eq hu, h, hn, hnone, if_neg (by decide), hm]
  cases o <;> rfl

end

/-- Settles O10: an atomic is one access under the function of its row, an update one message and one access where it arrives. -/
theorem atomics : Obligations.Atomics := by
  refine ⟨fun s t u e d a b c z p h o hroom ha hb hd => ?_, fun s t r e u d a b c w z op sc o m p x hroom hw ha hb hd => ?_,
    fun s t e a b z p h hroom ha hb => ?_, fun s t k o u hu => ?_⟩
  · intro n w y hh hc hf m done op
    have plain (k : Nat) {i : Instr} {f : Nat → Nat} (hi : exec i s = amoPlain s k d a b z) (hk : f = fun x => amoValue k w x y) :
        op i f := by
      subst hk
      exact fun hm => hi.trans (amoPlain_ok hroom ha hb hd hh hc hf hm)
    refine ⟨plain 0 rfl rfl, plain 1 rfl rfl, plain 2 rfl rfl, plain 3 rfl rfl, plain 4 rfl rfl, plain 5 rfl rfl, plain 6 rfl rfl,
      plain 7 rfl rfl, plain 8 rfl rfl, plain 9 rfl rfl, plain 10 rfl rfl, fun hg hm => ?_⟩
    rw [cas_ok hroom ha hb hd hh hc hf hg hm]
    by_cases hy : o = y
    · rw [casValue, if_pos hy, if_pos hy]
      rfl
    · rw [casValue, if_neg hy, if_neg hy]
      rfl
  · intro v ea rel mine acq done
    refine ⟨?_, fun hg => ?_⟩
    · intro n f hh hr hf hm
      exact amoScoped_ok hroom hw ha hb hd hr hf rfl hh hm
    · intro n f hh hr hf hm
      rw [casScoped_ok hroom hw ha hb hd hr hf hg rfl hh hm]
      change Host.Outcome.next (retire (atomicResult (acq u) d p n x (f x)) 2) = _
      cases f x <;> rfl
  · intro n hh hu hf core send
    have sent := runUpd_ok hroom ha hb hh hu hf
    exact ⟨sent 0, sent 1, sent 2, sent 3, sent 4, sent 5, sent 6, sent 7⟩
  · intro behind
    refine ⟨updateExecute_behind hu, fun h hw he hm => ?_⟩
    intro v
    have applied : exec (.remoteUpdateExecute k) s = .next (v.updateDone u) := updateExecute_applies hu h hw he hm
    rw [applied, State.updateDone]
    refine ⟨fun hf => ?_, fun hf => by rw [hf]⟩
    obtain ⟨f, hf⟩ := Option.isSome_iff_exists.mp hf
    rw [hf]

end Sys2Proof.Machine

/-! # Remote barriers (O13)

An arrival for another core of the launch leaves behind what its release asks for. Where it arrives it is one arrival at the barrier that
it names, or one record of the dead-letter log, which writes memory alone. -/

namespace Sys2Proof.Machine

/-! ## Leaving -/

section
variable {s : State} {a b : GReg} {r : BitVec 1} {sc : BitVec 3} {l : Launch}

/-- The stores that a remote arrival leaves behind are performed (R362). -/
def State.beforeRemote (s : State) (r : BitVec 1) (sc : BitVec 3) : State := if r = 1 then (s.afterRelease sc).settle.drain else s

/-- The arrival that `bar.rmt` sends (R362). -/
def State.remoteMsg (t : State) (dst count : Word) (r : BitVec 1) (sc : BitVec 3) (place : Nat) : Msg where
  dstLid := t.fib.id.lid
  dstSkn := bits dst 0 20
  dest := BitVec.ofNat 64 (bits dst 0 20 + 2 ^ 20 * t.fib.id.lid)
  srcFib := t.fib.id
  rreg := 0
  shadow := false
  rpl := false
  tag := 0
  npl := 0
  pay := [count, BitVec.ofNat 64 (bits dst 20 5), BitVec.ofNat 64 (sc.toNat + 8 * r.toNat), 0]
  kind := 1
  aux := sc.toNat + 8 * r.toNat
  srcCore := t.core.num
  hop := t.hop place

variable (hroom : Room s 1) (hg : s.fib.guest = false) (ha : FullG s a) (hb : FullG s b) (hl : s.myLaunch = some l)
include hroom hg ha hb hl

theorem barRmt_sends (hz : bits (s.g a) 25 39 = 0) (hlt : bits (s.g a) 0 20 < l.nsk)
    (hp : s.reach (s.skeinPlace s.fib.id.lid (bits (s.g a) 0 20)) = .ok ())
    (hr : r = 1 → sc ≠ 0 → s.fib.updout = 0 ∧ s.behindMessage (sc.toNat != 1) = false)
    (hm : r = 1 → (s.afterRelease sc).behindMessage true = false) :
    exec (.barRmt a b r sc) s = .next (retire ((s.beforeRemote r sc).setDev fun v => { v with arrivals := v.arrivals ++
      [(s.beforeRemote r sc).remoteMsg (s.g a) (s.g b) r sc (s.skeinPlace s.fib.id.lid (bits (s.g a) 0 20))] }) 1) :=
  run_ok hroom (by
    rw [notGuest_ok hg, ok_bind, readG_full ha, ok_bind, readG_full hb, ok_bind, hl]
    dsimp only
    rw [ensure_ok (by simp [hz, hlt]), ok_bind, hp, ok_bind]
    by_cases h1 : r = 1
    · have hrel : s.release sc.toNat = .ok (s.afterRelease sc) := release_free (by
        by_cases h0 : sc = 0
        · exact .inl h0
        · exact .inr (hr h1 h0))
      rw [if_pos h1, hrel, ok_bind, if_pos h1, allFirst_ok (hm h1), ok_bind, State.beforeRemote, if_pos h1]
      rfl
    · rw [if_neg h1, ok_bind, if_neg h1, ok_bind, State.beforeRemote, if_neg h1]
      rfl)

theorem barRmt_outside (h : bits (s.g a) 25 39 ≠ 0 ∨ l.nsk ≤ bits (s.g a) 0 20) :
    exec (.barRmt a b r sc) s = .next (raise s 0x10 1 (s.g a) false) := by
  have hc : (bits (s.g a) 25 39 == 0 && decide (bits (s.g a) 0 20 < l.nsk)) = false := by
    rcases h with h | h <;> simp [h]
  exact run_trap hroom (by
    rw [notGuest_ok hg, ok_bind, readG_full ha, ok_bind, readG_full hb, ok_bind, hl]
    dsimp only
    rw [hc]
    rfl)

end

/-! ## Arriving -/

section
variable {s : State} {k : Nat} {m : Msg} (hm : s.dev.arrivals[k]? = some m)
include hm

theorem remoteArrival_waits (h : earlierMsg s.dev.arrivals k m = true ∨ s.ctlBefore m.hop = true) :
    exec (.remoteArrival k) s = .next s := by
  change execRemoteArrival k s = _
  rw [execRemoteArrival, hm]
  exact if_pos (by simpa using h)

theorem remoteArrival_lands {t : State} (he : earlierMsg s.dev.arrivals k m = false) (hc : s.ctlBefore m.hop = false)
    (ht : s.land m = some t) : exec (.remoteArrival k) s = .next (t.setDev fun d => { d with arrivals := dropAt d.arrivals k }) := by
  change execRemoteArrival k s = _
  rw [execRemoteArrival, hm]
  dsimp only
  rw [he, hc, if_neg (by decide), ht]

end

/-- What comes to a live skein behind nothing enters there (R389). -/
theorem land_enters {s : State} {m : Msg} {l : Launch} {x : Skein} (hl : s.liveLaunch? m.dstLid = some l) (he : m.dstSkn ∉ l.exited)
    (hx : s.receiver? m.dstLid m.dstSkn = some x) (hb : s.backlog l m.dstSkn = false) (hp : s.pullOverflow m.dstLid m.dstSkn = s) :
    s.land m = s.enter l x m := by
  unfold State.land
  rw [hl]
  dsimp only
  rw [if_neg (by simpa using he), hx]
  dsimp only
  rw [hp, hb]
  exact if_neg (by decide)

/-! ## Counting -/

/-- The record of a refused arrival, with its code and subcause in word 3 (R393). -/
def Msg.refused (m : Msg) (sub : Nat) : Msg := { m with pay := m.pay.take 3 ++ [BitVec.ofNat 64 (0x14 + 2 ^ 16 * sub)] }

/-- Why a remote arrival of a count at barrier `b` is refused (R362): a count out of range, a barrier that its skein does not have, or
a count that differs from that of the open phase. -/
def Refused (k : Skein) (b count : Nat) (old : Barrier) (sub : Nat) : Prop :=
  let bad := count = 0 ∨ 256 < count
  (bad ∧ sub = 1) ∨ (¬bad ∧ k.bn ≤ b ∧ sub = 3) ∨ (¬bad ∧ b < k.bn ∧ old.npart ≠ 0 ∧ old.npart ≠ count ∧ sub = 0)

section
variable {s : State} {l : Launch} {k : Skein} {m : Msg}

theorem countRemote_arrives {v : Barrier} (h1 : 1 ≤ (m.pay.getD 0 0).toNat) (h256 : (m.pay.getD 0 0).toNat ≤ 256)
    (hb : bits (m.pay.getD 1 0) 0 5 < k.bn)
    (hv : ((s.coreAt k.core).bars.getD (k.bb + bits (m.pay.getD 1 0) 0 5) Barrier.zero).arrive (m.pay.getD 0 0).toNat
      (if bit (BitVec.ofNat 4 m.aux) 3 then m.aux % 8 else 0) = .ok v) :
    s.countRemote l k m = s.setBar k.core (k.bb + bits (m.pay.getD 1 0) 0 5) v := by
  unfold State.countRemote
  dsimp only
  rw [if_neg (by omega), if_neg (by omega), hv]

theorem countRemote_refuses {sub : Nat} (h : Refused k (bits (m.pay.getD 1 0) 0 5) (m.pay.getD 0 0).toNat
    ((s.coreAt k.core).bars.getD (k.bb + bits (m.pay.getD 1 0) 0 5) Barrier.zero) sub) :
    s.countRemote l k m = s.deadLetter l (m.refused sub) := by
  unfold State.countRemote
  dsimp only
  rcases h with ⟨hbad, rfl⟩ | ⟨hok, hb, rfl⟩ | ⟨hok, hb, h0, hn, rfl⟩
  · rw [if_pos hbad]
    rfl
  · rw [if_neg hok, if_pos hb]
    rfl
  · rw [if_neg hok, if_neg (by omega), arrive_mismatch (by omega) (by omega) h0 hn]
    rfl

end

theorem agentPut_onlyDev (s : State) (asid va : Nat) (v : Word) : OnlyDev s (s.agentPut asid va v) := agentWrite_onlyDev ..

/-- The dead-letter log stands in memory. -/
theorem deadLetter_onlyDev (s : State) (l : Launch) (m : Msg) : OnlyDev s (s.deadLetter l m) := by
  unfold State.deadLetter
  dsimp only
  split
  · exact (agentPut_onlyDev ..).trans (logAt_onlyDev ..)
  · exact (agentWrite_onlyDev ..).trans (agentPut_onlyDev ..)

theorem deadLetter_room {s : State} {l : Launch} {m : Msg} (h : s.ringWord l 2 - s.ringWord l 4 < 2 ^ l.rnl) :
    s.deadLetter l m = (s.agentWrite l.asid (l.deadAt (s.ringWord l 2)) m.record).putRing l 2 (s.ringWord l 2 + 1) :=
  if_neg (by omega)

theorem OnlyDev.cores_fibres {s t : State} (h : OnlyDev s t) : t.core = s.core ∧ t.cores = s.cores ∧ t.fib = s.fib ∧ t.fibres = s.fibres := by
  unfold OnlyDev at h
  rw [h]
  exact ⟨rfl, rfl, rfl, rfl⟩

/-- Settles O13: an arrival leaves after its release, enters where its skein is, and counts or is logged there. -/
theorem remoteBarriers : Obligations.RemoteBarriers := by
  refine ⟨fun s a b r sc l hroom hg ha hb hl => ?_, fun s k m l x hm => ⟨remoteArrival_waits hm, fun he hc hk hl hx hr hb hp => ?_⟩,
    fun s l k m v => countRemote_arrives, fun s l k m sub => ?_⟩
  · intro dst rel t
    exact ⟨fun hz hlt hp hr hm => ⟨t.remoteMsg (s.g a) (s.g b) r sc (s.skeinPlace s.fib.id.lid (bits (s.g a) 0 20)), rfl, rfl, rfl, rfl,
      rfl, rfl, rfl, barRmt_sends hroom hg ha hb hl hz hlt hp hr hm⟩, barRmt_outside hroom hg ha hb hl⟩
  · refine remoteArrival_lands hm he hc ?_
    rw [land_enters hl hx hr hb hp]
    exact if_pos hk
  · intro count b old bad h r tail t
    have ht : t = s.deadLetter l (m.refused sub) := countRemote_refuses h
    rw [ht]
    obtain ⟨hc, hcs, hf, hfs⟩ := (deadLetter_onlyDev s l (m.refused sub)).cores_fibres
    exact ⟨hc, hcs, hf, hfs, deadLetter_room⟩

end Sys2Proof.Machine

/-! # Domain barriers (O15)

The level that `domOf` gives is one of 1 to 5, so that an arrival at it is a release from chip scope on. A contribution puts one record
in place of the phase's, and completes the phase where it was the last. -/

namespace Sys2Proof.Machine

/-! ## Levels and names -/

theorem domOf_level (memb : Word) (n : Nat) : 1 ≤ (domOf memb n).1 ∧ (domOf memb n).1 ≤ 5 := by
  have within {e d : Nat} (he : 1 ≤ e ∧ e ≤ 5) : 1 ≤ (e, d).1 ∧ (e, d).1 ≤ 5 := he
  unfold domOf
  split
  · exact within (by decide)
  · split
    · exact within (by decide)
    · split
      · exact within (by decide)
      · split <;> exact within (by decide)

theorem levelScope_chip {e : Nat} (h : 1 ≤ e) : 2 ≤ levelScope e := by
  unfold levelScope
  split <;> omega

/-- A release at a level's scope is one at chip scope or wider (R367, R375). -/
theorem release_level {s : State} {e : Nat} (h : 1 ≤ e) (hu : s.fib.updout = 0) (hm : s.behindMessage true = false) :
    s.release (levelScope e) = .ok s.settle.drain := by
  have hs := levelScope_chip h
  have hne : (levelScope e != 1) = true := by simp only [bne_iff_ne]; omega
  have hstop : ¬(s.fib.updout ≠ 0 ∨ s.behindMessage true = true) := by rw [hu, hm]; decide
  rw [State.release, if_neg (by omega), hne, if_neg hstop, if_neg (by omega)]

section
variable {s : State} {lv : BitVec 3} {l : Launch} {e dom : Nat} (hg : s.fib.guest = false) (hl : s.myLaunch = some l)
  (hc : l.coop = true) (hd : domOf s.core.memb lv.toNat = (e, dom))
include hg hl hc hd

theorem domainOf_ok (g : Word) : domainOf s lv g = .ok (l, e, dom) := by
  rw [domainOf, notGuest_ok hg, ok_bind, hl]
  dsimp only
  rw [if_pos hc, hd]

omit hg hl hc in
theorem level_pos : 1 ≤ e := by
  have h := (domOf_level s.core.memb lv.toNat).1
  rwa [hd] at h

/-! ## Waiting -/

theorem awaitDomain_leaves {ph : Nat} (g : Word) (h : s.phaseSeen l s.fib.id.skn e dom ≠ ph) : awaitDomain s lv g ph =
    .ok ((s.acquire (levelScope e)).setFib fun f => { f with bwait := none }) := by
  rw [awaitDomain, domainOf_ok hg hl hc hd, ok_bind]
  exact if_neg h

theorem awaitDomain_holds {ph : Nat} (g : Word) (h : s.phaseSeen l s.fib.id.skn e dom = ph) : awaitDomain s lv g ph = hold s .wait := by
  rw [awaitDomain, domainOf_ok hg hl hc hd, ok_bind]
  exact if_pos h

variable {a d : GReg} (hroom : Room s 1)
include hroom

theorem dphase_ok (hf : FreeG s d) :
    exec (.dphase d lv) s = wrote s d (BitVec.ofNat 64 (s.phaseSeen l s.fib.id.skn e dom)) 1 ∧
      exec (.dphaseT d lv) s = wrote s d (BitVec.ofNat 64 (s.tpSeen l s.fib.id.skn e dom)) 1 :=
  ⟨run_ok hroom (by rw [domainOf_ok hg hl hc hd, ok_bind]; exact writeG_free hf _),
    run_ok hroom (by rw [domainOf_ok hg hl hc hd, ok_bind]; exact writeG_free hf _)⟩

theorem dbarWait_leaves (ha : FullG s a) (h : s.phaseSeen l s.fib.id.skn e dom ≠ bits (s.g a) 0 32) : exec (.dbarWait a lv) s =
    .next (retire ((s.acquire (levelScope e)).setFib fun f => { f with bwait := none }) 1) :=
  run_ok hroom (by rw [notGuest_ok hg, ok_bind, readG_full ha, ok_bind, awaitDomain_leaves hg hl hc hd _ h])

theorem dbarWait_parks (ha : FullG s a) (h : s.phaseSeen l s.fib.id.skn e dom = bits (s.g a) 0 32) :
    exec (.dbarWait a lv) s = .next (parkAs s .wait) :=
  run_hold hroom (by rw [notGuest_ok hg, ok_bind, readG_full ha, ok_bind, awaitDomain_holds hg hl hc hd _ h]; rfl)

variable {w : BarWait} (hw : s.waiting true = some w)
include hw

theorem dbarSync_leaves (h : s.phaseSeen l s.fib.id.skn e dom ≠ w.phase) : exec (.dbarSync a lv) s =
    .next (retire ((s.acquire (levelScope e)).setFib fun f => { f with bwait := none }) 1) :=
  run_ok hroom (by
    rw [notGuest_ok hg, ok_bind, hw]
    dsimp only
    rw [awaitDomain_leaves hg hl hc hd _ h])

theorem dbarSync_waits (h : s.phaseSeen l s.fib.id.skn e dom = w.phase) : exec (.dbarSync a lv) s = .next (parkAs s .wait) :=
  run_hold hroom (by
    rw [notGuest_ok hg, ok_bind, hw]
    dsimp only
    rw [awaitDomain_holds hg hl hc hd _ h]
    rfl)

end

theorem waiting_some {s : State} {w : BarWait} {domain : Bool} (hb : s.fib.bwait = some w) (ha : w.at_ = s.fib.pc)
    (hd : w.domain = domain) : s.waiting domain = some w := by
  rw [State.waiting, hb, Option.filter_some, if_pos (by simp [ha, hd])]

/-! ## Arriving -/

/-- The state after an arrival at a level: it is counted in the skein, and the last one sends the skein's contribution (R367). -/
def State.domArrived (t : State) (l : Launch) (e dom n ph : Nat) (k : DbarArr) : State :=
  let u := t.setSkein fun x => x.putDbar { level := e, need := n, arrived := k.arrived + 1, sent := k.arrived + 1 == n }
  if k.arrived + 1 == n then u.setDev fun v => { v with contribs := v.contribs ++
    [{ lid := l.lid, skn := t.fib.id.skn, level := e, dom := dom, phase := ph, tp := 0, scope := levelScope e
       hop := u.hop (rootOf (u.participants l.lid e dom)) }] } else u

section
variable {t : State} {l : Launch} {e dom n ph : Nat} {k : DbarArr}

theorem domArrived_fib : (t.domArrived l e dom n ph k).fib = t.fib := by
  unfold State.domArrived
  dsimp only
  split <;> rfl

theorem domArrived_floods : (t.domArrived l e dom n ph k).dev.floods = t.dev.floods := by
  unfold State.domArrived
  dsimp only
  split <;> rfl

end

/-- Which phase a skein sees is read from the floods on their way. -/
theorem phaseSeen_congr {s t : State} (h : t.dev.floods = s.dev.floods) (l : Launch) (skn e dom : Nat) :
    t.phaseSeen l skn e dom = s.phaseSeen l skn e dom := by
  unfold State.phaseSeen State.floodDue
  rw [h]

section
variable {s : State} {lv : BitVec 3} {l : Launch} {e dom ph : Nat} {a d : GReg} (hroom : Room s 1) (hg : s.fib.guest = false)
  (hl : s.myLaunch = some l) (hc : l.coop = true) (hd : domOf s.core.memb lv.toNat = (e, dom)) (ha : FullG s a)
  (h1 : 1 ≤ (s.g a).toNat) (h256 : (s.g a).toNat ≤ 256) (hn : (s.skein.dbar e).need = 0 ∨ (s.skein.dbar e).need = (s.g a).toNat)
  (hs : (s.skein.dbar e).sent = false) (hu : s.fib.updout = 0) (hm : s.behindMessage true = false)
  (hp : s.settle.drain.phaseSeen l s.settle.drain.fib.id.skn e dom = ph)
include hg hl hc hd h1 h256 hn hs hu hm hp

theorem arriveDomain_ok : arriveDomain s lv (s.g a) =
    .ok (s.settle.drain.domArrived l e dom (s.g a).toNat ph (s.skein.dbar e), ph) := by
  have hcount : decide (s.g a ≠ 0 ∧ (s.g a).toNat ≤ 256) = true := by
    refine decide_eq_true ⟨fun h => ?_, h256⟩
    rw [h] at h1
    exact absurd h1 (by decide)
  rw [arriveDomain, domainOf_ok hg hl hc hd, ok_bind]
  dsimp only
  rw [ensure_ok hcount, ok_bind, ensure_ok (decide_eq_true hn), ok_bind, hs, if_neg (by decide), release_level (level_pos hd) hu hm, ok_bind, hp]
  rfl

include hroom ha

theorem dbarArr_ok (hf : FreeG s d) : exec (.dbarArr d a lv) s =
    .next (retire (setG (s.settle.drain.domArrived l e dom (s.g a).toNat ph (s.skein.dbar e)) d (BitVec.ofNat 64 ph)) 1) :=
  run_ok hroom (by
    rw [notGuest_ok hg, ok_bind, readG_full ha, ok_bind, destG_free hf, ok_bind, arriveDomain_ok hg hl hc hd h1 h256 hn hs hu hm hp, ok_bind])

/-- The wait of a `dbar.sync` that arrived in phase `ph` (R368). -/
def domainWait (pc : Word) (level ph : Nat) : BarWait :=
  { at_ := pc, domain := true, bar := 0, level := level, parity := false, phase := ph }

/-- `dbar.sync` arrives, and then waits for the phase that it joined (R368). -/
theorem dbarSync_arrives (hw : s.waiting true = none) {u : State}
    (hr : s.settle.drain.domArrived l e dom (s.g a).toNat ph (s.skein.dbar e) = u) (hl' : u.myLaunch = some l)
    (hd' : domOf u.core.memb lv.toNat = (e, dom)) (hg' : u.fib.guest = false) : exec (.dbarSync a lv) s =
      .next (parkAs (u.setFib fun f => { f with bwait := some (domainWait u.fib.pc lv.toNat ph) }) .wait) :=
  run_hold hroom (by
    have hseen : u.phaseSeen l u.fib.id.skn e dom = ph := by
      rw [← hr, domArrived_fib, phaseSeen_congr domArrived_floods, hp]
    rw [notGuest_ok hg, ok_bind, hw]
    dsimp only
    rw [readG_full ha, ok_bind, arriveDomain_ok hg hl hc hd h1 h256 hn hs hu hm hp, ok_bind, hr]
    dsimp only
    exact awaitDomain_holds (s := u.setFib fun f => { f with bwait := some (domainWait u.fib.pc lv.toNat ph) }) hg' hl' hc hd' (s.g a) hseen)

end

/-! ## Contributions and floods -/

theorem phaseOf_putPhase (l : Launch) (q : DomPhase) : (l.putPhase q).phaseOf q.level q.dom = q := by
  unfold Launch.putPhase Launch.phaseOf
  dsimp only
  rw [List.find?_cons_of_pos (by simp)]

theorem phaseOf_key (l : Launch) (level dom : Nat) : (l.phaseOf level dom).level = level ∧ (l.phaseOf level dom).dom = dom := by
  unfold Launch.phaseOf
  split
  · rename_i p h
    have := List.find?_some (p := fun p : DomPhase => p.level == level && p.dom == dom) h
    simpa using this
  · exact ⟨rfl, rfl⟩

/-- The one launch of an identifier is found after its update. -/
theorem launch?_onLaunch {s : State} {lid : Nat} {l : Launch} {f : Launch → Launch} (hf : ∀ x, (f x).lid = x.lid)
    (h : s.launch? lid = some l) : (s.onLaunch lid f).launch? lid = some (f l) := by
  have key : ∀ {ls : List Launch}, ls.find? (fun x => x.lid == lid) = some l →
      (updAll (fun x => x.lid == lid) f ls).find? (fun x => x.lid == lid) = some (f l) := by
    intro ls
    induction ls with
    | nil => exact fun h => nomatch h
    | cons x xs ih =>
      intro h
      rw [updAll, List.map_cons]
      by_cases hx : (x.lid == lid) = true
      · rw [List.find?_cons_of_pos (p := fun x : Launch => x.lid == lid) hx, Option.some.injEq] at h
        rw [if_pos hx, List.find?_cons_of_pos (p := fun x : Launch => x.lid == lid) (by rwa [hf]), h]
      · rw [List.find?_cons_of_neg (p := fun x : Launch => x.lid == lid) hx] at h
        rw [if_neg hx, List.find?_cons_of_neg (p := fun x : Launch => x.lid == lid) hx]
        exact ih h
  exact key h

theorem launch?_of_filter {s : State} {lid : Nat} {l : Launch} (h : (s.dev.launches.filter fun l => l.lid == lid) = [l]) :
    s.launch? lid = some l := by
  rw [State.launch?, ← List.head?_filter, h]
  rfl

/-- The phase record with one more contribution (R367). -/
def Launch.joined (l : Launch) (m : DbarMsg) : DomPhase :=
  { l.phaseOf m.level m.dom with contrib := setIns m.skn (l.phaseOf m.level m.dom).contrib }

/-- The phase record that follows a complete one (R367). -/
def DomPhase.advanced (p : DomPhase) (tp : Nat) : DomPhase :=
  { p with phase := (p.phase + 1) % 2 ^ 32, tp := tp, tpWas := p.tp, contrib := []
           tpOdd := if (p.phase + 1) % 2 ^ 32 % 2 = 1 then tp else p.tpOdd }

/-- The flood of a complete phase to a participant, from the root of the domain (R367). -/
def State.floodTo (s : State) (m : DbarMsg) (phase root : Nat) (x : Skein) : DbarMsg where
  lid := m.lid
  skn := x.skn
  level := m.level
  dom := m.dom
  phase := phase
  tp := s.wtick root
  scope := levelScope m.level
  hop := s.hopFrom root (chipNum x.core)

theorem chipAt_congr {s t : State} (hc : t.chip = s.chip) (hcs : t.chips = s.chips) (n : Nat) : t.chipAt n = s.chipAt n := by
  unfold State.chipAt
  rw [hc, hcs]

/-- The time base of a chiplet is read from the chiplet and the ticks. -/
theorem wtick_congr {s t : State} (hc : t.chip = s.chip) (hcs : t.chips = s.chips) (ht : t.dev.ticks = s.dev.ticks) (n : Nat) :
    t.wtick n = s.wtick n := by
  unfold State.wtick
  rw [chipAt_congr hc hcs, ht]

/-- The way that a packet takes is read from the chiplets and the step. -/
theorem hopFrom_congr {s t : State} (hc : t.chip = s.chip) (hcs : t.chips = s.chips) (hn : t.ctr = s.ctr) (a b : Nat) :
    t.hopFrom a b = s.hopFrom a b := by
  unfold State.hopFrom State.netselFrom
  rw [chipAt_congr hc hcs, hn]

/-- The state in which a contribution has joined the open phase. -/
def State.contributed (s : State) (k : Nat) (m : DbarMsg) : State :=
  (s.setDev fun d => { d with contribs := dropAt d.contribs k }).onLaunch m.lid fun l => l.putPhase (l.joined m)

@[simp] theorem onLaunch_chip (s : State) (n : Nat) (f : Launch → Launch) : (s.onLaunch n f).chip = s.chip := rfl
@[simp] theorem onLaunch_chips (s : State) (n : Nat) (f : Launch → Launch) : (s.onLaunch n f).chips = s.chips := rfl
@[simp] theorem onLaunch_ctr (s : State) (n : Nat) (f : Launch → Launch) : (s.onLaunch n f).ctr = s.ctr := rfl
@[simp] theorem contributed_chip (s : State) (k : Nat) (m : DbarMsg) : (s.contributed k m).chip = s.chip := by simp [State.contributed]
@[simp] theorem contributed_chips (s : State) (k : Nat) (m : DbarMsg) : (s.contributed k m).chips = s.chips := by simp [State.contributed]
@[simp] theorem contributed_ctr (s : State) (k : Nat) (m : DbarMsg) : (s.contributed k m).ctr = s.ctr := by simp [State.contributed]

theorem tryPhase_contribs (s : State) (lid level dom : Nat) : (s.tryPhase lid level dom).dev.contribs = s.dev.contribs := by
  unfold State.tryPhase
  split
  · rfl
  · dsimp only
    split <;> rfl

section
variable {s : State} {k : Nat} {m : DbarMsg}

theorem contribution_waits (hm : s.dev.contribs[k]? = some m) (h : s.ctlBefore m.hop = true) :
    exec (.dbarContribution k) s = .next s := by
  change execDbarContribution k s = _
  rw [execDbarContribution, hm]
  exact if_pos h

theorem contribution_joins (hm : s.dev.contribs[k]? = some m) (h : s.ctlBefore m.hop = false) :
    exec (.dbarContribution k) s = .next ((s.contributed k m).tryPhase m.lid m.level m.dom) := by
  change execDbarContribution k s = _
  rw [execDbarContribution, hm]
  exact if_neg (by simp [h])

theorem flood_waits (hm : s.dev.floods[k]? = some m) (h : s.ctlBefore m.hop = true) : exec (.dbarPhaseFlood k) s = .next s := by
  change execDbarPhaseFlood k s = _
  rw [execDbarPhaseFlood, hm]
  exact if_pos h

theorem flood_reaches (hm : s.dev.floods[k]? = some m) (h : s.ctlBefore m.hop = false) : exec (.dbarPhaseFlood k) s =
    .next ((s.setDev fun d => { d with floods := dropAt d.floods k }).onSkein m.lid m.skn fun x =>
      x.putDbar { level := m.level, need := 0, arrived := 0, sent := false }) := by
  change execDbarPhaseFlood k s = _
  rw [execDbarPhaseFlood, hm]
  exact if_neg (by simp [h])

variable {l : Launch} (hl : s.launch? m.lid = some l)
include hl

theorem contributed_launch : (s.contributed k m).launch? m.lid = some (l.putPhase (l.joined m)) :=
  launch?_onLaunch (s := s.setDev fun d => { d with contribs := dropAt d.contribs k }) (fun _ => rfl) hl

omit hl in
theorem joined_phaseOf (l : Launch) (m : DbarMsg) : (l.putPhase (l.joined m)).phaseOf m.level m.dom = l.joined m := by
  obtain ⟨hlev, hdom⟩ := phaseOf_key l m.level m.dom
  have h := phaseOf_putPhase l (l.joined m)
  rwa [show (l.joined m).level = m.level from hlev, show (l.joined m).dom = m.dom from hdom] at h

omit hl in
theorem advanced_phaseOf (l : Launch) (m : DbarMsg) (tp : Nat) :
    ((l.putPhase (l.joined m)).putPhase ((l.joined m).advanced tp)).phaseOf m.level m.dom = (l.joined m).advanced tp := by
  obtain ⟨hlev, hdom⟩ := phaseOf_key l m.level m.dom
  have h := phaseOf_putPhase (l.putPhase (l.joined m)) ((l.joined m).advanced tp)
  rwa [show ((l.joined m).advanced tp).level = m.level from hlev, show ((l.joined m).advanced tp).dom = m.dom from hdom] at h

/-- A contribution that leaves the phase open is kept (R367). -/
theorem tryPhase_open {part : List Skein} (hp : s.participants m.lid m.level m.dom = part)
    (h : part = [] ∨ (part.all fun x => (l.joined m).contrib.contains x.skn) = false) :
    (s.contributed k m).tryPhase m.lid m.level m.dom = s.contributed k m := by
  have hpart : (s.contributed k m).participants m.lid m.level m.dom = part := hp
  rw [State.tryPhase, contributed_launch hl]
  dsimp only
  rw [joined_phaseOf, hpart]
  refine if_neg ?_
  rcases h with rfl | h
  · simp
  · rw [h]
    simp

/-- The last contribution completes the phase, on the root's counter, and floods it to every participant (R367). -/
theorem tryPhase_completes {part : List Skein} (hp : s.participants m.lid m.level m.dom = part) (hne : part ≠ [])
    (h : (part.all fun x => (l.joined m).contrib.contains x.skn) = true) :
    (s.contributed k m).tryPhase m.lid m.level m.dom = ((s.contributed k m).onLaunch m.lid fun x =>
      x.putPhase ((l.joined m).advanced (s.wtick (rootOf part)))).setDev fun d => { d with
        floods := d.floods ++ part.map (s.floodTo m (((l.joined m).phase + 1) % 2 ^ 32) (rootOf part)) } := by
  have hpart : (s.contributed k m).participants m.lid m.level m.dom = part := hp
  have hc : (l.joined m).contrib.isEmpty = false := by simpa [Launch.joined] using setIns_ne_nil m.skn (l.phaseOf m.level m.dom).contrib
  have hq : part.isEmpty = false := by simpa using hne
  have hw (n : Nat) : (s.contributed k m).wtick n = s.wtick n := wtick_congr (by simp) (by simp) rfl n
  have hh (f : Launch → Launch) (a b : Nat) : ((s.contributed k m).onLaunch m.lid f).hopFrom a b = s.hopFrom a b :=
    hopFrom_congr (by simp) (by simp) (by simp) a b
  rw [State.tryPhase, contributed_launch hl]
  dsimp only
  rw [joined_phaseOf, hpart, hc, hq, h, if_pos (by decide)]
  simp only [hw, hh]
  rfl

end

/-- Settles O15: an arrival, a wait and a query by the phase that the skein sees, a contribution by whether it is the last. -/
theorem launchBarriers : Obligations.LaunchBarriers := by
  refine ⟨fun s d a lv l e dom hroom hg ha hl hc hd => ?_, fun s k m => ⟨contribution_waits, fun hm hb => ?_, flood_waits, flood_reaches⟩⟩
  · intro n k ph
    refine ⟨dphase_ok hg hl hc hd hroom, dbarWait_leaves hg hl hc hd hroom ha, dbarWait_parks hg hl hc hd hroom ha,
      fun h1 h256 hn hs hu hm => ?_, fun w hw hat hdom => dbarSync_leaves hg hl hc hd hroom (waiting_some hw hat hdom),
      fun w hw hat hdom => dbarSync_waits hg hl hc hd hroom (waiting_some hw hat hdom)⟩
    intro t _ hp last u v
    exact ⟨dbarArr_ok hroom hg hl hc hd ha h1 h256 hn hs hu hm hp, fun hw hl' hd' hg' =>
      ⟨domainWait v.fib.pc lv.toNat ph, rfl, rfl, rfl, dbarSync_arrives hroom hg hl hc hd ha h1 h256 hn hs hu hm hp hw rfl hl' hd' hg'⟩⟩
  · refine ⟨_, contribution_joins hm hb, tryPhase_contribs .., fun l hl => ?_⟩
    intro p part all
    have hl := launch?_of_filter hl
    by_cases hfull : all = true ∧ part ≠ []
    · obtain ⟨hall, hne⟩ := hfull
      rw [tryPhase_completes hl rfl hne hall]
      refine ⟨_, launch?_onLaunch (fun _ => rfl) (contributed_launch hl), fun _ _ => ?_, fun h => absurd (hall.symm.trans h) (by decide)⟩
      rw [advanced_phaseOf]
      refine ⟨rfl, rfl, rfl, ?_⟩
      simp only [State.setDev_dev, List.length_append, List.length_map]
      rfl
    · have hopen : part = [] ∨ all = false := by
        rcases Classical.em (part = []) with h | h
        · exact .inl h
        · exact .inr (Bool.eq_false_iff.mpr fun ha => hfull ⟨ha, h⟩)
      rw [tryPhase_open hl rfl hopen]
      refine ⟨_, contributed_launch hl, fun ha hp => absurd ⟨ha, hp⟩ hfull, fun _ => ?_⟩
      rw [joined_phaseOf]
      exact ⟨rfl, rfl, rfl⟩

end Sys2Proof.Machine

/-! # Messages that are sent (O34)

A send is a W hold, its reads, a release at the widest scope and one attempt at acceptance; a waiting send repeats the attempt alone. -/

namespace Sys2Proof.Machine

/-! ## What a send reads and releases -/

theorem reg_add_succ (b : GReg) (i : Nat) : b + 1 + BitVec.ofNat 3 i = b + BitVec.ofNat 3 (i + 1) := by
  rw [BitVec.add_assoc, Nat.add_comm i 1, BitVec.ofNat_add]
  rfl

/-- The payload of a message is read from consecutive registers (R169, R387). -/
theorem payload_full {s : State} : ∀ {n : Nat} {b : GReg}, (∀ i, i < n → FullG s (b + BitVec.ofNat 3 i)) →
    payload s b n = .ok ((List.range n).map fun i => s.g (b + BitVec.ofNat 3 i))
  | 0, _, _ => rfl
  | n + 1, b, h => by
    have h0 : FullG s b := by simpa using h 0 (by omega)
    have hn (i : Nat) (hi : i < n) : FullG s ((b + 1) + BitVec.ofNat 3 i) := by
      rw [reg_add_succ]
      exact h (i + 1) (by omega)
    rw [payload, readG_full h0, ok_bind, payload_full hn, ok_bind, List.range_succ_eq_map, List.map_cons, List.map_map]
    simp only [reg_add_succ, Function.comp_def, Nat.succ_eq_add_one]
    rw [show b + BitVec.ofNat 3 0 = b from BitVec.add_zero b]

/-- A destination that the instruction has passes its check (R127). -/
theorem destIf_bind {α : Type} {s : State} {r : BitVec 1} {g : GReg} (h : r = 1 → FreeG s g) (f : Unit → Ex α) :
    (if r = 1 then destG s g >>= f else (.ok () : Ex Unit) >>= f) = f () := by
  by_cases hr : r = 1
  · rw [if_pos hr, destG_free (h hr), ok_bind]
  · rw [if_neg hr, ok_bind]

/-- A release at the widest scope is one at chip scope (R375, R387). -/
theorem release_wide {s : State} (hu : s.fib.updout = 0) (hm : s.behindMessage true = false) : s.release 6 = .ok s.settle.drain :=
  release_level (e := 5) (by decide) hu hm

theorem waited_updout (s : State) (w : BitVec 1) : (s.waited w).fib.updout = s.fib.updout := by rw [waited_fib]

/-! ## Acceptance -/

section
variable {t : State} {m : Msg} {l : Launch} (hl : t.liveLaunch? m.dstLid = some l) (he : m.dstSkn ∉ l.exited)
include hl he

theorem acceptMsg_receiver {x : Skein} (hx : t.receiver? m.dstLid m.dstSkn = some x) : t.acceptMsg m =
    if reqRoom ≤ t.reqQueued m.srcCore then none
    else some (t.setDev fun d => { d with flight := d.flight ++ [{ m with hop := t.hop (t.skeinPlace m.dstLid m.dstSkn) }] }) := by
  unfold State.acceptMsg
  rw [hl]
  dsimp only
  rw [if_neg (by simpa using he), hx, if_pos (by rfl)]

theorem acceptMsg_overflow (hx : t.receiver? m.dstLid m.dstSkn = none)
    (hf : ∀ y ∈ t.dev.flight, ¬(y.dstLid = m.dstLid ∧ y.dstSkn = m.dstSkn)) : t.acceptMsg m = t.overflow l m := by
  have hany : (t.dev.flight.any fun x => x.dstLid == m.dstLid && x.dstSkn == m.dstSkn) = false :=
    List.any_eq_false.mpr fun y hy => by simpa using hf y hy
  unfold State.acceptMsg
  rw [hl]
  dsimp only
  rw [if_neg (by simpa using he), hx, if_neg (by simp), hany, if_neg (by decide)]

end

/-! ## `msg.send` and `msg.reply` -/

/-- The message that `msg.send` makes (R387). -/
def State.sendMsg (t : State) (dst : Word) (lid skn : Nat) (d : GReg) (rpl : BitVec 1) (npl : BitVec 3) (tag : BitVec 8)
    (pay : List Word) : Msg where
  dstLid := lid
  dstSkn := skn
  dest := dst
  srcFib := t.fib.id
  rreg := if rpl = 1 then d else 0
  shadow := t.fib.inev
  rpl := rpl == 1
  tag := tag.toNat
  npl := npl.toNat
  pay := pay
  kind := 0
  aux := 0
  srcCore := t.core.num
  hop := t.hop (t.skeinPlace lid skn)

/-- One attempt of a send: its message is accepted, or its fibre parks with it (R387). -/
def State.attempt (t : State) (m : Msg) (gc : Option GReg) : Ex State :=
  match t.acceptMsg m with
  | some u => .ok (u.sent m gc)
  | none => hold t (.send m gc t.clk 0)

theorem attempt_accepted {t u : State} {m : Msg} (h : t.acceptMsg m = some u) (gc : Option GReg) : t.attempt m gc = .ok (u.sent m gc) := by
  rw [State.attempt, h]

theorem attempt_parks {t : State} {m : Msg} (h : t.acceptMsg m = none) (gc : Option GReg) :
    t.attempt m gc = hold t (.send m gc t.clk 0) := by
  rw [State.attempt, h]

section
variable {s : State} {a b c d : GReg} {w tr rpl : BitVec 1} {npl : BitVec 3} {tag : BitVec 8} (hroom : Room s 2) (hw : WaitOver s w)
  (ha : FullG s a) (hu : s.fib.updout = 0) (hm : (s.waited w).behindMessage true = false)
include hroom hw ha hu hm

section
variable {lid skn : Nat} (hp : ∀ i, i < npl.toNat → FullG s (b + BitVec.ofNat 3 i)) (hd : rpl = 1 → FreeG s d) (hc : tr = 1 → FreeG s c)
  (hr : resolve (s.waited w) (s.g a) = .ok (lid, skn))
include hp hd hc hr

omit hroom in
theorem msgSend_body : exec (.msgSend d a b c w tr rpl npl tag) s =
    run s 2 ((s.waited w).settle.drain.attempt ((s.waited w).settle.drain.sendMsg (s.g a) lid skn d rpl npl tag
      ((List.range npl.toNat).map fun i => s.g (b + BitVec.ofNat 3 i))) (if tr = 1 then some c else none)) := by
  have hpay : payload (s.waited w) b npl.toNat = .ok ((List.range npl.toNat).map fun i => s.g (b + BitVec.ofNat 3 i)) := by
    rw [payload_full fun i hi => by rw [waited_full]; exact hp i hi]
    simp only [waited_g]
  have hfree {r : BitVec 1} {g : GReg} (h : r = 1 → FreeG s g) : r = 1 → FreeG (s.waited w) g := fun h1 => (waited_free w).mpr (h h1)
  change execMsgSend d a b c w tr rpl npl tag s = _
  refine congrArg (run s 2) ?_
  rw [waitW_over hw, ok_bind, readG_waited w ha, ok_bind, hpay, ok_bind]
  refine (destIf_bind (hfree hd) _).trans ((destIf_bind (hfree hc) _).trans ?_)
  rw [hr, ok_bind]
  exact bind_ok (release_wide ((waited_updout s w).trans hu) hm) rfl

end

variable (hb : FullG s b)
include hb

/-- The fibre that a reply is for, as the header of its message names it (R388). -/
def replyTo (h : Word) : FibreId := { lid := bits h 21 12, skn := bits h 44 20, fix := bits h 36 8 }

theorem msgReply_sends {place : Nat} (hp : place = match (s.waited w).fibre? (replyTo (s.g a)) with
      | some f => chipNum f.at_
      | none => (s.waited w).chip.num) (hr : (s.waited w).reach place = .ok ()) :
    exec (.msgReply a b w) s = .next (retire ((s.waited w).settle.drain.setDev fun x => { x with replies := x.replies ++
      [{ fib := replyTo (s.g a), shadow := bit (s.g a) 14, r := BitVec.ofNat 3 (bits (s.g a) 33 3), v := s.g b, nack := false,
         hop := (s.waited w).settle.drain.hop place }] }) 2) := by
  subst hp
  refine run_ok hroom ?_
  rw [waitW_over hw, ok_bind, readG_waited w ha, ok_bind, readG_waited w hb, ok_bind]
  exact bind_ok hr (bind_ok (release_wide ((waited_updout s w).trans hu) hm) rfl)

omit hu hm in
theorem msgReply_unreachable {place : Nat} (hp : place = match (s.waited w).fibre? (replyTo (s.g a)) with
      | some f => chipNum f.at_
      | none => (s.waited w).chip.num) (hn : netChip place ≠ netChip (s.waited w).chip.num)
    (hs : (s.waited w).netselOf (netChip place) = 3) :
    exec (.msgReply a b w) s = .next (raise (s.waited w) 0x10 0 (BitVec.ofNat 64 (netChip place)) false) := by
  have hr : (s.waited w).reach place = trap (s.waited w) 0x10 0 (BitVec.ofNat 64 (netChip place)) := by
    rw [State.reach, if_neg hn, if_pos hs]
  subst hp
  refine run_trap hroom ?_
  rw [waitW_over hw, ok_bind, readG_waited w ha, ok_bind, readG_waited w hb, ok_bind]
  exact congrArg (fun x => x >>= _) hr

end

/-! ## Waiting sends -/

section
variable {s t : State} {m : Msg} {since told : Nat} (hlive : s.fib.live = true)
include hlive

section
variable {gc : Option GReg} (hp : s.fib.park = some (.send m gc since told)) (hf : s.focus s.fib.id = s)
include hp hf

theorem messageAccept_eq : exec (.messageAccept s.fib.id) s = match s.sendReach m with
    | .error h => stopped h
    | .ok _ => match s.acceptMsg m with
      | none => .next s
      | some t => .next ((t.sent m gc).finish s.fib.id 2) := by
  change execMessageAccept s.fib.id s = _
  rw [execMessageAccept, fibre?_focus hlive]
  dsimp only
  rw [hp]
  dsimp only
  rw [hf] <;> rfl

theorem messageAccept_unreachable {x : Skein} (hx : s.receiver? m.dstLid m.dstSkn = some x)
    (hn : netChip (chipNum x.core) ≠ netChip s.chip.num) (hs : s.netselOf (netChip (chipNum x.core)) = 3) :
    exec (.messageAccept s.fib.id) s = .next (raise s 0x10 0 (BitVec.ofNat 64 (netChip (chipNum x.core))) false) := by
  have hr : s.sendReach m = trap s 0x10 0 (BitVec.ofNat 64 (netChip (chipNum x.core))) := by
    rw [State.sendReach, hx]
    dsimp only
    rw [State.reach, if_neg hn, if_pos hs]
  rw [messageAccept_eq hlive hp hf, hr]
  rfl

end

theorem sendTryTimeout_eq {g : GReg} (hp : s.fib.park = some (.send m (some g) since told)) : exec (.sendTryTimeout s.fib.id) s =
    if !s.clocksSince (chipNum s.fib.at_) since 4096 then .next s
    else .next (((s.putReg s.fib.id m.shadow g 0 Fill.full).pendEvent s.fib.id.lid s.fib.id.skn 2).finish s.fib.id 2) := by
  change execSendTryTimeout s.fib.id s = _
  rw [execSendTryTimeout, fibre?_focus hlive]
  dsimp only
  rw [hp]

theorem sendQueueFull_eq (hp : s.fib.park = some (.send m none since told)) : exec (.sendQueueFull s.fib.id) s =
    if !s.clocksSince (chipNum s.fib.at_) since (4096 * (told + 1)) then .next s
    else .next ((s.pendEvent s.fib.id.lid s.fib.id.skn 2).onFibre s.fib.id fun y => { y with park := some (.send m none since (told + 1)) }) := by
  change execSendQueueFull s.fib.id s = _
  rw [execSendQueueFull, fibre?_focus hlive]
  dsimp only
  rw [hp]

end

/-- Settles O34: a send by whether its message is accepted, a waiting one by that and by its clocks. -/
theorem messageSends : Obligations.MessageSends := by
  refine ⟨fun s d a b c w tr rpl npl tag lid skn place hroom hw ha hu hm => ?_, fun s t m g gc since told hlive =>
    ⟨fun hp hf => ⟨fun x => messageAccept_unreachable hlive hp hf, fun hr => ⟨fun h => ?_, fun h => ?_⟩⟩, fun hp => ?_, fun hp => ?_⟩⟩
  · intro v t m gc
    refine ⟨fun hp hd hc hr => ⟨fun u h => ?_, fun h => ?_, fun l hl he => ⟨fun x hx => ⟨fun h => ?_, fun h => ?_⟩, fun hx hf => ?_⟩⟩,
      fun hb => ?_⟩
    · rw [msgSend_body hw ha hu hm hp hd hc hr]
      exact run_ok hroom (attempt_accepted h gc)
    · rw [msgSend_body hw ha hu hm hp hd hc hr]
      exact run_hold hroom (attempt_parks h gc)
    · rw [acceptMsg_receiver hl he hx]
      exact if_neg (Nat.not_le.mpr h)
    · rw [acceptMsg_receiver hl he hx]
      exact if_pos h
    · exact acceptMsg_overflow hl he hx hf
    · intro id hp
      exact ⟨msgReply_sends hroom hw ha hu hm hb hp, msgReply_unreachable hroom hw ha hb hp⟩
  · rw [messageAccept_eq hlive hp hf, hr, h]
  · rw [messageAccept_eq hlive hp hf, hr, h]
  · rw [sendTryTimeout_eq hlive hp]
    exact ⟨fun h => if_neg (by simp [h]), fun h => if_pos (by simp [h])⟩
  · rw [sendQueueFull_eq hlive hp]
    exact ⟨fun h => if_neg (by simp [h]), fun h => if_pos (by simp [h])⟩

end Sys2Proof.Machine

/-! # Messages that arrive, events that enter and replies that fill (O35) -/

namespace Sys2Proof.Machine

/-! ## MESSAGE_ARRIVAL -/

section
variable {s : State} {k : Nat} {m : Msg} (hk : s.dev.flight[k]? = some m)
include hk

theorem messageArrival_waits (h : earlierMsg s.dev.flight k m = true ∨ ∃ p ∈ s.dev.posted, p.hop.before m.hop = true) :
    exec (.messageArrival k) s = .next s := by
  change execMessageArrival k s = _
  rw [execMessageArrival, hk]
  refine if_pos ?_
  rw [Bool.or_eq_true, List.any_eq_true]
  exact h

variable (he : earlierMsg s.dev.flight k m = false) (hp : ∀ p ∈ s.dev.posted, p.hop.before m.hop = false)
include he hp

theorem messageArrival_first : exec (.messageArrival k) s = match s.land m with
    | none => .next s
    | some t => .next (t.setDev fun d => { d with flight := dropAt d.flight k }) := by
  have hb : (s.dev.posted.any fun p => p.hop.before m.hop) = false := List.any_eq_false.mpr fun p h => by simp [hp p h]
  change execMessageArrival k s = _
  rw [execMessageArrival, hk]
  dsimp only
  rw [he, hb]
  exact if_neg (by decide)

theorem messageArrival_lands {t : State} (h : s.land m = some t) :
    exec (.messageArrival k) s = .next (t.setDev fun d => { d with flight := dropAt d.flight k }) := by
  rw [messageArrival_first hk he hp, h]

theorem messageArrival_stays (h : s.land m = none) : exec (.messageArrival k) s = .next s := by
  rw [messageArrival_first hk he hp, h]

end

/-! ## Where a message lands -/

section
variable {s : State} {m : Msg}

theorem land_ended (h : s.liveLaunch? m.dstLid = none) : s.land m = some (s.nack m) := by rw [State.land, h]

section
variable {l : Launch} (hl : s.liveLaunch? m.dstLid = some l)
include hl

theorem land_exited (h : m.dstSkn ∈ l.exited) : s.land m = some ((s.deadLetter l m).nack m) := by
  rw [State.land, hl]
  exact if_pos (by simpa using h)

section
variable (he : m.dstSkn ∉ l.exited)
include he

theorem land_checkpointed (h : s.receiver? m.dstLid m.dstSkn = none) : s.land m = s.overflow l m := by
  rw [State.land, hl]
  dsimp only
  rw [if_neg (by simpa using he), h]

theorem land_received {x : Skein} (hx : s.receiver? m.dstLid m.dstSkn = some x) (hb : s.backlog l m.dstSkn = false)
    (hp : s.pullOverflow m.dstLid m.dstSkn = s) : s.land m = s.enter l x m := by
  rw [State.land, hl]
  dsimp only
  rw [if_neg (by simpa using he), hx]
  dsimp only
  rw [hp, hb]
  rfl

end
end

variable {l : Launch} {x : Skein} (hk : m.kind ≠ 1)
include hk

theorem enter_room (h : (s.coreAt x.core).inbound.length < 32) : s.enter l x m =
    some ((s.onCore x.core fun c => { c with inbound := c.inbound ++ [m] }).onSkein x.lid x.skn fun y => y.pend 0) := by
  rw [State.enter, if_neg hk]
  exact if_neg (Nat.not_le.mpr h)

theorem enter_full (h : 32 ≤ (s.coreAt x.core).inbound.length) : s.enter l x m = none := by
  rw [State.enter, if_neg hk]
  exact if_pos h

end

/-! ## EVENT_ENTRY -/

/-- Where an entry finds the fibre: after the `ev.wait` or `sleep` that it completes (R339). -/
def State.interrupted (s : State) : State := if s.endsByEvent s.fib then retire s 1 else s

/-- The fibre withdrawn from what it waits for, with the event of a kind no longer pending (R339). -/
def State.withdrawn (s : State) (kind : Nat) : State :=
  ((s.interrupted.forgetWaits fun id => id == s.fib.id).setFib fun y => { y with park := none }).setSkein fun k =>
    { k with evPend := k.evPend &&& ~~~(1#4 <<< kind) }

/-- The fibre at its handler (R339, R377). -/
def State.inHandler (s : State) (pc evec : Word) : State :=
  ((s.setSkein fun k => k.setReg 7 pc Fill.full).setFib fun y =>
    ({ y with inev := true, pc := evec, mark := s.dev.writes } : Fibre).touch Dirty.shadow).acquire 6

section
variable {s : State}

@[simp] theorem interrupted_skein : s.interrupted.skein = s.skein := by unfold State.interrupted; split <;> rfl
@[simp] theorem interrupted_dev : s.interrupted.dev = s.dev := by unfold State.interrupted; split <;> rfl
@[simp] theorem interrupted_inbound : s.interrupted.core.inbound = s.core.inbound := by unfold State.interrupted; split <;> rfl
@[simp] theorem interrupted_num : s.interrupted.core.num = s.core.num := by unfold State.interrupted; split <;> rfl

theorem interrupted_bank : s.interrupted.fib.bank = s.fib.bank := by
  unfold State.interrupted
  split
  · exact retireTo_ownBank ..
  · rfl

theorem interrupted_id : s.interrupted.fib.id = s.fib.id := by
  unfold State.interrupted
  split
  · exact (retireTo_sameFibre ..).1
  · rfl

theorem interrupted_pc (h : s.fib.rpt.inBody = false) :
    s.interrupted.fib.pc = if s.endsByEvent s.fib then s.fib.pc + 4 else s.fib.pc := by
  unfold State.interrupted
  split
  · exact retireTo_pc h _
  · rfl

variable (hlive : s.fib.live = true) (hr : s.resident? s.fib.id.lid s.fib.id.skn = some s.skein) (hc : s.coreLive s.fib.at_ = true)
  (hf : s.focus s.fib.id = s) (hcan : s.fib.canEnter s.skein = true)
include hlive hr hc hf hcan

theorem eventEntry_eq : exec (.eventEntry s.fib.id) s =
    .next (State.inHandler
      (if s.skein.firstEvent = 0 then (s.withdrawn 0).takeMessage
        else (s.withdrawn s.skein.firstEvent).setSkein fun k => k.setReg 6 (BitVec.ofNat 64 s.skein.firstEvent) Fill.full)
      s.interrupted.fib.pc s.skein.evec) := by
  change execEventEntry s.fib.id s = _
  rw [execEventEntry, fibre?_focus hlive, hr]
  dsimp only
  rw [hcan, hc, hf, if_neg (by decide)]
  by_cases h0 : s.skein.firstEvent = 0
  · rw [if_pos h0, if_pos h0, h0]
    rfl
  · rw [if_neg h0, if_neg h0]
    rfl

end

/-! ### An event of a kind (R339) -/

section
variable (s : State) (kind : Nat)

@[simp] theorem withdrawn_bank : (s.withdrawn kind).fib.bank = s.fib.bank := interrupted_bank
@[simp] theorem withdrawn_id : (s.withdrawn kind).fib.id = s.fib.id := interrupted_id
@[simp] theorem withdrawn_park : (s.withdrawn kind).fib.park = none := rfl
@[simp] theorem withdrawn_mem : (s.withdrawn kind).dev.mem = s.dev.mem :=
  (congrArg Device.mem (interrupted_dev (s := s)) : s.interrupted.dev.mem = _)
@[simp] theorem withdrawn_writes : (s.withdrawn kind).dev.writes = s.dev.writes :=
  (congrArg Device.writes (interrupted_dev (s := s)) : s.interrupted.dev.writes = _)
@[simp] theorem withdrawn_inbound : (s.withdrawn kind).core.inbound = s.core.inbound := interrupted_inbound
@[simp] theorem withdrawn_num : (s.withdrawn kind).core.num = s.core.num := interrupted_num

@[simp] theorem withdrawn_skein :
    (s.withdrawn kind).skein = { s.skein with evPend := s.skein.evPend &&& ~~~(1#4 <<< kind) } := by
  unfold State.withdrawn
  exact congrArg (fun k : Skein => { k with evPend := k.evPend &&& ~~~(1#4 <<< kind) }) (interrupted_skein (s := s))

end

/-- What a handler finds in the shadow bank (R339). -/
theorem setReg_setReg_shadow (k : Skein) (v pc : Word) : (((k.setReg 6 v Fill.full).setReg 7 pc Fill.full).shadow.val.getD 7 0 = pc ∧
    ((k.setReg 6 v Fill.full).setReg 7 pc Fill.full).shadow.val.getD 6 0 = v ∧
    ((k.setReg 6 v Fill.full).setReg 7 pc Fill.full).shadow.fill.getD 7 0 = Fill.full) ∧
    ∀ i, i < 6 → ((k.setReg 6 v Fill.full).setReg 7 pc Fill.full).shadow.val.getD i 0 = k.shadow.val.getD i 0 := by
  simp only [Skein.setReg_shadow, Bank.put]
  refine ⟨⟨vgetD_set!_same _ (by decide) _ _, (vgetD_set!_ne _ (by decide) _ _).trans (vgetD_set!_same _ (by decide) _ _),
    vgetD_set!_same _ (by decide) _ _⟩, fun i hi => (vgetD_set!_ne _ ?_ _ _).trans (vgetD_set!_ne _ ?_ _ _)⟩
  · change 7 ≠ i
    omega
  · change 6 ≠ i
    omega

/-! ### A message (R389, R390) -/

/-- A skein with a message in its shadow bank (R390). -/
def Skein.loaded (k : Skein) (m : Msg) (n : Nat) : Skein :=
  (List.range n).foldl (fun k i => k.setReg (BitVec.ofNat 3 i) (m.pay.getD i 0) Fill.full) k

theorem loaded_succ (k : Skein) (m : Msg) (n : Nat) :
    k.loaded m (n + 1) = (k.loaded m n).setReg (BitVec.ofNat 3 n) (m.pay.getD n 0) Fill.full := by
  rw [Skein.loaded, List.range_succ, List.foldl_append]
  rfl

theorem loaded_evPend (k : Skein) (m : Msg) : ∀ n, (k.loaded m n).evPend = k.evPend
  | 0 => rfl
  | n + 1 => by rw [loaded_succ, Skein.setReg_evPend, loaded_evPend]

theorem loaded_payload (k : Skein) (m : Msg) : ∀ n ≤ 6, ∀ i < n,
    (k.loaded m n).shadow.val.getD i 0 = m.pay.getD i 0 ∧ (k.loaded m n).shadow.fill.getD i 0 = Fill.full
  | 0, _, _, hi => absurd hi (Nat.not_lt_zero _)
  | n + 1, hn, i, hi => by
    have hmod : (BitVec.ofNat 3 n).toNat = n := Nat.mod_eq_of_lt (by omega)
    rw [loaded_succ, Skein.setReg_shadow, Bank.put]
    dsimp only
    rw [hmod]
    by_cases h : i = n
    · subst h
      exact ⟨vgetD_set!_same _ (by omega) _ _, vgetD_set!_same _ (by omega) _ _⟩
    · rw [vgetD_set!_ne _ (Ne.symm h), vgetD_set!_ne _ (Ne.symm h)]
      exact loaded_payload k m n (by omega) i (by omega)

/-- The state in which the oldest message of the inbound queue stands in the shadow bank (R389, R390). -/
def State.loadedFrom (s : State) (m : Msg) (rest : List Msg) : State :=
  (s.setCore fun c => { c with inbound := rest }).setSkein fun k => (k.loaded m m.npl).setReg 6 m.header Fill.full

/-- Whether a message of the fibre's skein waits to enter (R389). -/
def State.moreMessages (s : State) (id : FibreId) : Bool :=
  (s.core.inbound.any fun x => x.dstLid == id.lid && x.dstSkn == id.skn) || !s.skein.held.isEmpty

theorem takeMessage_head {s : State} {m : Msg} {rest : List Msg} (hi : s.core.inbound = m :: rest) (hl : m.dstLid = s.fib.id.lid)
    (hk : m.dstSkn = s.fib.id.skn) : s.takeMessage =
      if ((s.loadedFrom m rest).pullCore s.core.num).moreMessages s.fib.id then
        ((s.loadedFrom m rest).pullCore s.core.num).setSkein fun k => k.pend 0
      else (s.loadedFrom m rest).pullCore s.core.num := by
  have hfind : s.core.inbound.find? (fun m => m.dstLid == s.fib.id.lid && m.dstSkn == s.fib.id.skn) = some m := by
    rw [hi]
    exact List.find?_cons_of_pos (by simp [hl, hk])
  have herase : s.core.inbound.erase m = rest := by rw [hi, List.erase_cons_head]
  rw [← herase]
  unfold State.takeMessage
  dsimp only
  rw [hfind]
  rfl

theorem inHandler_ite (c : Bool) (v : State) (pc evec : Word) :
    (if c then v.setSkein (fun k => k.pend 0) else v).inHandler pc evec =
      ((((if c then v.setSkein fun k => k.pend 0 else v).setSkein fun k => k.setReg 7 pc Fill.full).setFib fun y =>
        ({ y with inev := true, pc := evec, mark := v.dev.writes } : Fibre).touch Dirty.shadow).acquire 6) := by
  cases c <;> rfl

/-! ## Fills -/

section
variable {s : State} (hlive : s.fib.live = true) {r : GReg}
include hlive

theorem fill_focus (hp : s.fib.bank.fill.getD r.toNat 0 = Fill.pending) (v : Word) (nack : Bool) :
    s.fill s.fib.id false r v nack = s.setFib fun f => { f.setReg r v (if nack then Fill.token else Fill.full) with
      bank := (f.bank.put r v (if nack then Fill.token else Fill.full)).mark r (!nack) } := by
  have hput (st : Fill) : s.putReg s.fib.id false r v st = s.setFib fun f => f.setReg r v st := onFibre_focus hlive _
  unfold State.fill
  rw [fibre?_focus hlive]
  simp only [Bool.false_eq_true, if_false, hp, if_true, hput]
  rw [State.markReg, if_neg Bool.false_ne_true]
  exact onFibre_focus (s := s.setFib fun f => f.setReg r v _) hlive _

theorem fill_stray (hp : s.fib.bank.fill.getD r.toNat 0 ≠ Fill.pending) (v : Word) (nack : Bool) :
    s.fill s.fib.id false r v nack = s.stray s.fib.id false r := by
  unfold State.fill
  rw [fibre?_focus hlive]
  exact if_neg hp

end

theorem stray_focus (s : State) (id : FibreId) (r : GReg) : (s.stray id false r).fib = s.fib ∧ (s.stray id false r).skein = s.skein := by
  have h := stray_onlyDev s id false r
  unfold OnlyDev at h
  rw [h]
  exact ⟨rfl, rfl⟩

section
variable {s : State} {k : Nat} {p : Reply} (hk : s.dev.replies[k]? = some p)
include hk

theorem replyArrival_first (h : ∀ x ∈ s.dev.replies.take k, x.hop.along p.hop = false) : exec (.replyArrival k) s =
    .next ((s.fill p.fib p.shadow p.r p.v p.nack).setDev fun d => { d with replies := dropAt d.replies k }) := by
  change execReplyArrival k s = _
  rw [execReplyArrival, hk]
  exact if_neg (by simpa using h)

theorem replyArrival_waits (h : ∃ x ∈ s.dev.replies.take k, x.hop.along p.hop = true) : exec (.replyArrival k) s = .next s := by
  change execReplyArrival k s = _
  rw [execReplyArrival, hk]
  exact if_pos (List.any_eq_true.mpr h)

end

/-! ## Sleep -/

/-- Whether an event that is enabled has become pending since a sleep began (R338). -/
def State.wakes (s : State) (f : Fibre) (seen : BitVec 4) : Bool :=
  match s.resident? f.id.lid f.id.skn with
  | some k => f.evf && k.due &&& ~~~seen != 0
  | none => false

theorem sleepExpiry_eq {s : State} {u : Nat} {seen : BitVec 4} (hlive : s.fib.live = true) (hp : s.fib.park = some (.sleep u seen)) :
    exec (.sleepExpiry s.fib.id) s =
      if u ≤ s.wtick (chipNum s.fib.at_) || s.wakes s.fib seen then .next (s.finish s.fib.id 1) else .next s := by
  change execSleepExpiry s.fib.id s = _
  rw [execSleepExpiry, fibre?_focus hlive]
  dsimp only
  rw [hp]
  rfl

theorem wakes_due {s : State} {seen : BitVec 4} {x : Skein} (hx : s.resident? s.fib.id.lid s.fib.id.skn = some x)
    (he : s.fib.evf = true) (h : (x.evPend &&& x.evEn) &&& ~~~seen ≠ 0) : s.wakes s.fib seen = true := by
  rw [State.wakes, hx, he]
  exact bne_iff_ne.mpr h

theorem wakes_plain {s : State} {seen : BitVec 4} (he : s.fib.evf = false) : s.wakes s.fib seen = false := by
  rw [State.wakes, he]
  split <;> rfl

/-! ## The obligation -/

section
variable {s : State} (hlive : s.fib.live = true) (hr : s.resident? s.fib.id.lid s.fib.id.skn = some s.skein) (hc : s.coreLive s.fib.at_ = true)
  (hf : s.focus s.fib.id = s) (hcan : s.fib.canEnter s.skein = true)

theorem canEnter_outside {f : Fibre} {k : Skein} (h : f.canEnter k = true) : f.rpt.inBody = false := by
  simp only [Fibre.canEnter, Bool.and_eq_true, Bool.not_eq_true'] at h
  obtain ⟨⟨⟨⟨⟨⟨-, ha⟩, -⟩, -⟩, -⟩, -⟩, -⟩ := h
  rw [Frame.inBody, ha, Bool.false_and]

include hlive hr hc hf hcan

theorem eventEntry_kind (h0 : s.skein.firstEvent ≠ 0) : exec (.eventEntry s.fib.id) s =
    .next (((s.withdrawn s.skein.firstEvent).setSkein fun k => k.setReg 6 (BitVec.ofNat 64 s.skein.firstEvent) Fill.full).inHandler
      (if s.endsByEvent s.fib then s.fib.pc + 4 else s.fib.pc) s.skein.evec) := by
  rw [eventEntry_eq hlive hr hc hf hcan, if_neg h0, interrupted_pc (canEnter_outside hcan)]

theorem eventEntry_message (h0 : s.skein.firstEvent = 0) {m : Msg} {rest : List Msg} (hi : s.core.inbound = m :: rest)
    (hl : m.dstLid = s.fib.id.lid) (hk : m.dstSkn = s.fib.id.skn) : exec (.eventEntry s.fib.id) s =
    .next (State.inHandler
      (if (((s.withdrawn 0).loadedFrom m rest).pullCore s.core.num).moreMessages s.fib.id then
        (((s.withdrawn 0).loadedFrom m rest).pullCore s.core.num).setSkein fun k => k.pend 0
        else ((s.withdrawn 0).loadedFrom m rest).pullCore s.core.num)
      (if s.endsByEvent s.fib then s.fib.pc + 4 else s.fib.pc) s.skein.evec) := by
  rw [eventEntry_eq hlive hr hc hf hcan, if_pos h0, interrupted_pc (canEnter_outside hcan),
    takeMessage_head (by rw [withdrawn_inbound, hi]) (by rw [withdrawn_id, hl]) (by rw [withdrawn_id, hk]), withdrawn_num, withdrawn_id]

end

/-- Settles O35: a message by where it lands, an entry by the kind of its event, a fill by whether its register is pending. -/
theorem messageArrivals : Obligations.MessageArrivals := by
  refine ⟨fun s k m hk => ?_, fun s hlive hr hc hf hcan => ?_, fun s k u seen r v nack p hlive => ?_⟩
  · intro gone
    refine ⟨messageArrival_waits hk, fun he hp => ⟨fun h => messageArrival_lands hk he hp (land_ended h),
      fun l hl h => messageArrival_lands hk he hp (land_exited hl h), fun l hl h hx => ⟨fun t ht => ?_, fun ht => ?_⟩,
      fun l x hl h hx hb hpull hkind => ⟨fun hroom => ?_, fun hfull => ?_⟩⟩⟩
    · exact messageArrival_lands hk he hp ((land_checkpointed hl h hx).trans ht)
    · exact messageArrival_stays hk he hp ((land_checkpointed hl h hx).trans ht)
    · exact messageArrival_lands hk he hp ((land_received hl h hx hb hpull).trans (enter_room hkind hroom))
    · exact messageArrival_stays hk he hp ((land_received hl h hx hb hpull).trans (enter_full hkind hfull))
  · intro kind pc
    refine ⟨fun h0 => ⟨_, eventEntry_kind hlive hr hc hf hcan h0, rfl, rfl, rfl, withdrawn_bank s kind, ?_⟩,
      fun h0 m rest hi hl hk hn => ⟨(s.withdrawn 0).loadedFrom m rest, withdrawn_bank s 0, rfl, rfl, ?_⟩⟩
    · obtain ⟨⟨h7, h6, hf7⟩, hlow⟩ := setReg_setReg_shadow (s.withdrawn kind).skein (BitVec.ofNat 64 kind) pc
      exact ⟨congrArg Skein.evPend (withdrawn_skein s kind), h7, h6, hf7, withdrawn_mem s kind, withdrawn_writes s kind, rfl,
        fun i hi => (hlow i hi).trans (congrArg (fun k => k.shadow.val.getD i 0) (withdrawn_skein s kind))⟩
    · refine ⟨?_, withdrawn_mem s 0, vgetD_set!_same _ (by decide) _ _, fun i hi => ?_, ?_⟩
      · exact (loaded_evPend _ m _).trans (congrArg Skein.evPend (withdrawn_skein s 0))
      · obtain ⟨hv, hfull⟩ := loaded_payload (s.withdrawn 0).skein m m.npl hn i hi
        have h6 : (6#3).toNat ≠ i := by
          change 6 ≠ i
          omega
        exact ⟨(vgetD_set!_ne _ h6 _ _).trans hv, (vgetD_set!_ne _ h6 _ _).trans hfull⟩
      · intro w more
        rw [eventEntry_message hlive hr hc hf hcan h0 hi hl hk, inHandler_ite]
        rfl
  · intro filled
    refine ⟨fun hp => ⟨congrArg Host.Outcome.next (fill_focus hlive hp v nack), fun hk hid hs hpr hfirst => ?_⟩,
      fun hk h => replyArrival_waits hk h, fun hp => ?_, fun hp => ?_⟩
    · rw [replyArrival_first hk hfirst, hid, hs, hpr, fill_focus hlive hp]
    · exact ⟨_, congrArg Host.Outcome.next (fill_stray hlive hp v nack), stray_focus s s.fib.id r⟩
    · rw [sleepExpiry_eq hlive hp]
      refine ⟨fun h => if_pos (by simp [h]), fun x hx he h => if_pos ?_, fun h he => if_neg ?_⟩
      · rw [wakes_due hx he h, Bool.or_true]
      · rw [wakes_plain he, Bool.or_false, decide_eq_true_eq]
        exact Nat.not_le.mpr h

end Sys2Proof.Machine

/-! # Stream sends (O36) -/

namespace Sys2Proof.Machine

/-! ## The start of a slot (R401, R402) -/

section
variable {tp now f sl : Nat} {o : Int}

/-- The first start of a frame slot. -/
def firstStart (tp f sl : Nat) (o : Int) : Int := (tp : Int) + 1024 + f * sl + o

theorem slotStart_first (h : (now : Int) ≤ firstStart tp f sl o) : slotStart tp now f sl o = (firstStart tp f sl o).toNat :=
  if_pos (by
    change (now : Int) - firstStart tp f sl o ≤ 0
    omega)

theorem slotStart_later (h : firstStart tp f sl o < now) : slotStart tp now f sl o =
    (firstStart tp f sl o + ((now : Int) - firstStart tp f sl o + 4096 * sl - 1) / (4096 * sl) * (4096 * sl)).toNat :=
  if_neg (by
    change ¬((now : Int) - firstStart tp f sl o ≤ 0)
    omega)

/-- The least number of frames after which a start is not before now. -/
theorem frames_to {F : Nat} {t : Int} (hF : 0 < F) (h : t < now) : ∃ n : Nat, t + n * F = t + ((now : Int) - t + F - 1) / F * F ∧
    (now : Int) ≤ t + n * F ∧ t + n * F < now + F := by
  have hF' : (0 : Int) < F := by omega
  obtain ⟨n, hn⟩ := Int.eq_ofNat_of_zero_le (Int.ediv_nonneg (by omega : 0 ≤ (now : Int) - t + F - 1) hF'.le)
  have hlow := Int.lt_ediv_add_one_mul_self ((now : Int) - t + F - 1) hF'
  have hhigh := Int.ediv_mul_le ((now : Int) - t + F - 1) hF'.ne'
  rw [hn] at hlow hhigh
  rw [add_mul, one_mul] at hlow
  exact ⟨n, by rw [hn], by omega, by omega⟩

/-- A slot comes again with each frame of 4096 slots: its start is the first of them at or after now. -/
theorem slotStart_spec (hs : 0 < sl) (h0 : 0 ≤ firstStart tp f sl o) : now ≤ slotStart tp now f sl o ∧
    ∃ n : Nat, (slotStart tp now f sl o : Int) = firstStart tp f sl o + n * (4096 * sl) ∧
      (n ≠ 0 → slotStart tp now f sl o < now + 4096 * sl) := by
  by_cases h : (now : Int) ≤ firstStart tp f sl o
  · rw [slotStart_first h]
    exact ⟨by omega, 0, by simp [Int.toNat_of_nonneg h0], fun hn => absurd rfl hn⟩
  · rw [slotStart_later (by omega)]
    obtain ⟨n, hn, hge, hlt⟩ := frames_to (F := 4096 * sl) (t := firstStart tp f sl o) (now := now) (by omega) (by omega)
    push_cast at hn hge hlt
    rw [← hn]
    exact ⟨by omega, n, Int.toNat_of_nonneg (by omega), fun _ => by omega⟩

end

/-! ## `str.send` -/

/-- A check that an instruction makes in one of its forms only. -/
theorem check_bind {α : Type} {c : Prop} [Decidable c] {e : Ex Unit} (h : c → e = .ok ()) (f : Unit → Ex α) :
    (if c then e >>= f else (.ok () : Ex Unit) >>= f) = f () := by
  by_cases hc : c
  · rw [if_pos hc, h hc, ok_bind]
  · rw [if_neg hc, ok_bind]

/-- The packet that a send makes of its data (R400). -/
def State.sendPacket (t : State) (mrk mesh : BitVec 1) (vs : BitVec 6) (fs : BitVec 12) (data : List Byte) : Packet where
  src := t.chip.num
  vs := vs.toNat
  fslot := fs.toNat
  phase := 0
  mrk := mrk == 1
  cnt := 1
  pbm := 0
  mesh := mesh == 1
  chip := t.chip.num
  port := 4 + t.coreIndex
  ready := 0
  reached := 0
  slotLen := t.slotTicks
  sent := 0
  data := data
  bad := []

/-- A send parks with its packet, whose slot is known once the phase of its level is odd (R401). -/
def State.parkPacket (t : State) (lvl : Nat) (p : Packet) (off : Int) : Ex State :=
  match t.slotOpen lvl p off with
  | some (ph, start) => hold t (.slot { p with phase := ph } lvl off (some start))
  | none => hold t (.slot p lvl off none)

theorem waited_myLaunch (s : State) (w : BitVec 1) : (s.waited w).myLaunch = s.myLaunch := by
  obtain ⟨hd, -⟩ := waited_frame s w
  rw [State.myLaunch, State.myLaunch, waited_fib, State.launch?, State.launch?, hd]

section
variable {s t : State} {a : GReg} {w : BitVec 1} {lvl : BitVec 3} {mrk mesh : BitVec 1} {vs : BitVec 6} {fs : BitVec 12} {src : BitVec 1}
  {v : BitVec 4} {l : Launch} {data : List Byte} {off : Int} (hroom : Room s 2) (hw : WaitOver s w) (hg : s.fib.guest = false)
  (hv : src = 0 → v.toNat < s.fib.nv) (hl : s.myLaunch = some l) (hc : l.coop = true)
  (hdata : sendData (s.waited w) a src v = .ok (t, data)) (hoff : slotOffset t fs.toNat = .ok off)
include hroom hw hg hv hl hc hdata hoff

theorem strSend_parks : exec (.strSend a w lvl mrk mesh vs fs src v) s =
    conclude (t.parkPacket lvl.toNat (t.sendPacket mrk mesh vs fs data) off) := by
  have hguest : (s.waited w).fib.guest = false := by rw [waited_fib, hg]
  change execStrSend a w lvl mrk mesh vs fs src v s = _
  rw [execStrSend, ending_room hroom, notGuest_ok hg, ok_bind]
  refine congrArg conclude ((check_bind (fun h => needV_ok (hv h)) _).trans ?_)
  rw [waitW_over hw, ok_bind, domainOf_ok hguest ((waited_myLaunch s w).trans hl) hc rfl 0, ok_bind, hdata, ok_bind]
  dsimp only
  rw [hoff, ok_bind]
  rfl

end

/-! ## STREAM_SLOT_SEND -/

section
variable {s : State} {q : Packet} {n : Nat} {f : Int} (hlive : s.fib.live = true)
include hlive

theorem streamSlotSend_due {start : Nat} (hp : s.fib.park = some (.slot q n f (some start))) : exec (.streamSlotSend s.fib.id) s =
    if s.wtick (chipNum s.fib.at_) < start then .next s
    else .next ((s.setDev fun d => { d with packets := d.packets ++
      [{ q with ready := start, reached := s.wtick (chipNum s.fib.at_), sent := s.ctr }] }).finish s.fib.id 2) := by
  change execStreamSlotSend s.fib.id s = _
  rw [execStreamSlotSend, fibre?_focus hlive]
  dsimp only
  rw [hp]

theorem streamSlotSend_phase (hf : s.focus s.fib.id = s) (hp : s.fib.park = some (.slot q n f none)) :
    exec (.streamSlotSend s.fib.id) s = match s.slotOpen n q f with
      | none => .next s
      | some (ph, start) => .next (s.setFib fun y => { y with park := some (.slot { q with phase := ph } n f (some start)) }) := by
  change execStreamSlotSend s.fib.id s = _
  rw [execStreamSlotSend, fibre?_focus hlive]
  dsimp only
  rw [hp, hf] <;> rfl

end

/-- Settles O36: a send by whether the phase of its level is open, a parked one by its slot. -/
theorem streamSends : Obligations.StreamSends := by
  intro s t a w lvl mrk mesh vs fs src v l data off hroom hw hg hv hl hc hdata hoff p
  have hsend : exec (.strSend a w lvl mrk mesh vs fs src v) s = conclude (t.parkPacket lvl.toNat p off) :=
    strSend_parks hroom hw hg hv hl hc hdata hoff
  refine ⟨fun ph start h => ?_, fun h => ?_, fun q n f start hlive hp => ?_, fun q n f hlive hf hp => ⟨fun h => ?_, fun ph start h => ?_⟩,
    fun tp now f sl o hs h0 => slotStart_spec hs h0⟩
  · rw [hsend, State.parkPacket, h]
    rfl
  · rw [hsend, State.parkPacket, h]
    rfl
  · intro now
    rw [streamSlotSend_due hlive hp]
    exact ⟨fun h => if_neg (Nat.not_lt.mpr h), fun h => if_pos h⟩
  · rw [streamSlotSend_phase hlive hf hp, h]
  · rw [streamSlotSend_phase hlive hf hp, h]

end Sys2Proof.Machine

/-! # Stream receives and the packets that arrive (O37) -/

namespace Sys2Proof.Machine

/-! ## `str.recv` -/

/-- The state without the packet in front of a receive. -/
def State.withoutPacket (s : State) (i : Nat) : State := s.setSkein fun k => { k with port := dropAt k.port i }

/-- The words of a place in the scratchpad become empty (R404). -/
def State.emptied (s : State) (ps : List Piece) : State :=
  ps.foldl (fun x p => (List.range (p.len / 8)).foldl (fun x i => x.setFull (p.pa / 8 + i) false) x) s

section
variable {s t : State} {a : GReg} {w : BitVec 1} {vs : BitVec 6} {fs : BitVec 12} {v : BitVec 4} {ps : List Piece} (hroom : Room s 2)
  (hw : WaitOver s w) (hg : s.fib.guest = false)
include hroom hw hg

theorem strRecv_bound {h : Nat} (hb : (s.waited w).boundTo (s.waited w).skein vs.toNat = some h) (hv : v.toNat < s.fib.nv) :
    exec (.strRecv a w vs fs 0 v) s = .next (raise (s.waited w) 0x12 0 (BitVec.ofNat 64 (h - (s.waited w).skein.spb)) false) := by
  refine run_trap hroom ?_
  rw [notGuest_ok hg, ok_bind, if_pos rfl, needV_ok hv, ok_bind, waitW_over hw, ok_bind]
  dsimp only
  rw [hb]
  rfl

variable (hb : (s.waited w).boundTo (s.waited w).skein vs.toNat = none)
include hb

section
variable (hv : v.toNat < s.fib.nv)
include hv

theorem strRecv_takes {i : Nat} {q : Packet}
    (hi : (s.waited w).skein.port.findIdx? (fun q => q.vs == vs.toNat && q.fslot == fs.toNat) = some i)
    (hq : (s.waited w).skein.port[i]? = some q) :
    exec (.strRecv a w vs fs 0 v) s = .next (retire (((s.waited w).setFib fun f => f.takePacket v.toNat q).withoutPacket i) 2) := by
  refine run_ok hroom ?_
  rw [notGuest_ok hg, ok_bind, if_pos rfl, needV_ok hv, ok_bind, waitW_over hw, ok_bind]
  dsimp only
  rw [hb, ok_bind, hi, Option.bind_some, hq]
  rfl

theorem strRecv_parks (hi : (s.waited w).skein.port.findIdx? (fun q => q.vs == vs.toNat && q.fslot == fs.toNat) = none) :
    exec (.strRecv a w vs fs 0 v) s = .next (parkAs (s.waited w) (.recv vs.toNat fs.toNat v.toNat (s.waited w).ctr)) := by
  refine run_hold hroom ?_
  rw [notGuest_ok hg, ok_bind, if_pos rfl, needV_ok hv, ok_bind, waitW_over hw, ok_bind]
  dsimp only
  rw [hb, ok_bind, hi]
  rfl

end

variable (ha : FullG s a) (hp : streamPlace (s.waited w) (s.waited w).accStore (s.g a) = .ok (t, ps))
include ha hp

theorem strRecv_lands {i : Nat} {q : Packet}
    (hi : (s.waited w).skein.port.findIdx? (fun q => q.vs == vs.toNat && q.fslot == fs.toNat) = some i)
    (hq : (s.waited w).skein.port[i]? = some q) : exec (.strRecv a w vs fs 1 v) s =
      .next (retire ((t.landPacket q (ps.map fun p => (p.pa, p.len)) 0).withoutPacket i) 2) := by
  refine run_ok hroom ?_
  rw [notGuest_ok hg, ok_bind, if_neg (by decide), ok_bind, waitW_over hw, ok_bind]
  dsimp only
  rw [hb, ok_bind, if_neg (by decide), readG_waited w ha, ok_bind, hp, ok_bind, hi, Option.bind_some, hq]
  rfl

section
variable (hi : (s.waited w).skein.port.findIdx? (fun q => q.vs == vs.toNat && q.fslot == fs.toNat) = none)
include hi

theorem strRecv_held (h : 256 ≤ (s.waited w).skein.armed.length) : exec (.strRecv a w vs fs 1 v) s = .next (parkAs t .retry) := by
  refine run_hold hroom ?_
  rw [notGuest_ok hg, ok_bind, if_neg (by decide), ok_bind, waitW_over hw, ok_bind]
  dsimp only
  rw [hb, ok_bind, if_neg (by decide), readG_waited w ha, ok_bind, hp, ok_bind, hi]
  exact if_pos h

theorem strRecv_arms (h : (s.waited w).skein.armed.length < 256) : exec (.strRecv a w vs fs 1 v) s =
    .next (retire ((t.emptied ps).setSkein fun x => { x with armed := x.armed ++ [{ vs := vs.toNat, fslot := fs.toNat, va := s.g a
                                                                                    pa := (ps.map Piece.pa).headD 0
                                                                                    next := (ps.map Piece.pa).getLastD 0 }] }) 2) := by
  refine run_ok hroom ?_
  rw [notGuest_ok hg, ok_bind, if_neg (by decide), ok_bind, waitW_over hw, ok_bind]
  dsimp only
  rw [hb, ok_bind, if_neg (by decide), readG_waited w ha, ok_bind, hp, ok_bind, hi]
  exact if_neg (Nat.not_le.mpr h)

end
end

/-! ## STREAM_PORT_ARRIVAL -/

section
variable {d : State} {x : Skein} {p : Packet}

theorem reachPort_plain (h : bits (assoc p.vs 0 x.expw) 11 2 = 0) : d.reachPort x p = d.arriveAt x p := if_pos h

theorem arriveAt_bound {h : Nat} {t : State} (hb : d.boundTo x p.vs = some h) (ho : (x.port.any fun q => q.vs == p.vs) = false)
    (hf : d.fillBound x h p = some t) : d.arriveAt x p = some t := by
  rw [State.arriveAt, hb]
  dsimp only
  rw [ho, if_neg (by decide), hf]

section
variable (hb : d.boundTo x p.vs = none)
include hb

theorem arriveAt_armed {i : Nat} {a : Armed} (hi : x.armed.findIdx? (fun a => a.vs == p.vs && a.fslot == p.fslot) = some i)
    (ha : x.armed[i]? = some a) : d.arriveAt x p =
      some ((d.landPacket p a.places 0).onSkein x.lid x.skn fun y => { y with armed := dropAt y.armed i }) := by
  rw [State.arriveAt, hb]
  dsimp only
  rw [hi]
  dsimp only
  rw [ha]

section
variable (hi : x.armed.findIdx? (fun a => a.vs == p.vs && a.fslot == p.fslot) = none)
include hi

theorem arriveAt_awaited {id : FibreId} {v : Nat} (hr : oldestReceiver (d.receivers x p.vs p.fslot) = some (id, v)) :
    d.arriveAt x p = some ((d.onFibre id fun f => f.takePacket v p).finish id 2) := by
  rw [State.arriveAt, hb]
  dsimp only
  rw [hi]
  dsimp only
  rw [hr]

theorem arriveAt_kept (hr : d.receivers x p.vs p.fslot = []) : d.arriveAt x p =
    if 8 ≤ d.buffered x.core then none else some (d.onSkein x.lid x.skn fun y => { y with port := y.port ++ [p] }) := by
  rw [State.arriveAt, hb]
  dsimp only
  rw [hi]
  dsimp only
  rw [hr]
  rfl

end
end

variable {s : State} {k : Nat} (hk : s.dev.packets[k]? = some p) (hlow : 8 ≤ p.port) (hhigh : p.port < 12)
  (hx : s.portSkein (4 * p.chip + (p.port - 8)) p.vs = some x) (hr : bits (assoc p.vs 0 x.expw) 11 2 = 0)
include hk hlow hhigh hx hr

theorem streamPortArrival_eq : exec (.streamPortArrival k) s =
    match (s.setDev fun d => { d with packets := dropAt d.packets k }).arriveAt x p with
    | some t => .next t
    | none => .next s := by
  change execStreamPortArrival k s = _
  rw [execStreamPortArrival, hk]
  dsimp only
  rw [if_neg (by omega), hx]
  dsimp only
  rw [reachPort_plain hr] <;> rfl

theorem streamPortArrival_enters {t : State} (h : (s.setDev fun d => { d with packets := dropAt d.packets k }).arriveAt x p = some t) :
    exec (.streamPortArrival k) s = .next t := by
  rw [streamPortArrival_eq hk hlow hhigh hx hr, h]

theorem streamPortArrival_stays (h : (s.setDev fun d => { d with packets := dropAt d.packets k }).arriveAt x p = none) :
    exec (.streamPortArrival k) s = .next s := by
  rw [streamPortArrival_eq hk hlow hhigh hx hr, h]

end

/-- The oldest buffered packets of bound streams, skein by skein (R399). -/
def State.boundReady (s : State) : List (Skein × Nat) :=
  (s.allSkeins.filter fun y => y.resident).flatMap fun y => (s.boundFirst y).map fun n => (y, n)

theorem streamPortArrival_ready {s : State} {j i h : Nat} {p : Packet} {x : Skein} (hj : s.boundReady[j]? = some (x, i))
    (hp : x.port[i]? = some p) (hb : s.boundTo x p.vs = some h) : exec (.streamPortArrival (s.dev.packets.length + j)) s =
      match s.fillBound x h p with
      | none => .next s
      | some t => .next (t.onSkein x.lid x.skn fun y => { y with port := dropAt y.port i }) := by
  have hnone : s.dev.packets[s.dev.packets.length + j]? = none := List.getElem?_eq_none (by omega)
  rw [State.boundReady] at hj
  change execStreamPortArrival (s.dev.packets.length + j) s = _
  rw [execStreamPortArrival, hnone]
  dsimp only
  rw [Nat.add_sub_cancel_left, hj]
  dsimp only
  rw [hp]
  dsimp only
  rw [hb, Option.bind_some] <;> rfl

/-- Settles O37: a receive by what its port holds, an arrival by what waits for it. -/
theorem streamReceives : Obligations.StreamReceives := by
  refine ⟨fun s t a w vs fs v ps hroom hw hg => ?_, fun s k p x hk hlow hhigh hx hr => ?_, fun s t j i h p x hj hp hb =>
    ⟨fun hf => ?_, fun hf => ?_⟩⟩
  · intro u here gone
    exact ⟨fun hb => ⟨fun hv => ⟨fun i q => strRecv_takes hroom hw hg hb hv, strRecv_parks hroom hw hg hb hv⟩, fun ha hp =>
      ⟨fun i q => strRecv_lands hroom hw hg hb ha hp, fun hi h => strRecv_held hroom hw hg hb ha hp hi h,
        fun hi h => strRecv_arms hroom hw hg hb ha hp hi h⟩⟩, fun h hb hv => strRecv_bound hroom hw hg hb hv⟩
  · intro d armed
    have enters {t : State} (h : d.arriveAt x p = some t) := streamPortArrival_enters hk hlow hhigh hx hr h
    exact ⟨fun hb => ⟨fun i a hi ha => enters (arriveAt_armed hb hi ha), fun id v hi h => enters (arriveAt_awaited hb hi h),
      fun hi h hroom => enters ((arriveAt_kept hb hi h).trans (if_neg (Nat.not_le.mpr hroom))), fun hi h hfull =>
        streamPortArrival_stays hk hlow hhigh hx hr ((arriveAt_kept hb hi h).trans (if_pos hfull))⟩,
      fun h t hb ho hf => enters (arriveAt_bound hb ho hf)⟩
  · rw [streamPortArrival_ready hj hp hb, hf]
  · rw [streamPortArrival_ready hj hp hb, hf]

end Sys2Proof.Machine

/-! # Stream routers and the instructions that set them (O38) -/

namespace Sys2Proof.Machine

/-! ## ROUTER_STREAM_PACKET -/

/-- The entry of a packet's stream that its router stands at (R396). -/
def State.entryAt (s : State) (p : Packet) : Word :=
  ((s.chipAt p.chip).route p.mesh p.vs).alt.getD ((s.chipAt p.chip).route p.mesh p.vs).cur 0

section
variable {s : State} {k : Nat} {p : Packet} (hk : s.dev.packets[k]? = some p) (hport : p.port < 8)
include hk hport

omit hport in
theorem routerStreamPacket_waits
    (h : s.wtick p.chip < p.ready ∨ s.wtick p.chip ≤ p.reached ∨ earlierPacket s.dev.packets p = true) :
    exec (.routerStreamPacket k) s = .next s := by
  change execRouterStreamPacket k s = _
  rw [execRouterStreamPacket, hk]
  exact if_pos (Or.inr h)

variable (hready : p.ready ≤ s.wtick p.chip) (hreached : p.reached < s.wtick p.chip) (hfirst : earlierPacket s.dev.packets p = false)
include hready hreached hfirst

theorem routerStreamPacket_eq : exec (.routerStreamPacket k) s =
    if !bit (s.entryAt p) 63 || !bit (s.entryAt p) (16 + p.port) then
      .next ((s.setDev fun d => { d with packets := dropAt d.packets k }).logRouter p)
    else if bits (s.entryAt p) 60 3 = 0 then
      .next ((s.setDev fun d => { d with packets := dropAt d.packets k }).forward p (s.entryAt p))
    else .next ((s.setDev fun d => { d with packets := dropAt d.packets k }).reduceAt p
      ((s.chipAt p.chip).route p.mesh p.vs).cur (s.entryAt p)) := by
  have hgo : ¬(8 ≤ p.port ∨ s.wtick p.chip < p.ready ∨ s.wtick p.chip ≤ p.reached ∨ earlierPacket s.dev.packets p = true) := by
    rw [hfirst]
    simp only [Bool.false_eq_true, or_false]
    omega
  change execRouterStreamPacket k s = _
  rw [execRouterStreamPacket, hk]
  exact if_neg hgo

theorem routerStreamPacket_discards (h : bit (s.entryAt p) 63 = false ∨ bit (s.entryAt p) (16 + p.port) = false) :
    exec (.routerStreamPacket k) s = .next ((s.setDev fun d => { d with packets := dropAt d.packets k }).logRouter p) := by
  rw [routerStreamPacket_eq hk hport hready hreached hfirst]
  exact if_pos (by simpa using h)

variable (hv : bit (s.entryAt p) 63 = true) (hin : bit (s.entryAt p) (16 + p.port) = true)
include hv hin

theorem routerStreamPacket_forwards (h : bits (s.entryAt p) 60 3 = 0) : exec (.routerStreamPacket k) s =
    .next ((s.setDev fun d => { d with packets := dropAt d.packets k }).forward p (s.entryAt p)) := by
  rw [routerStreamPacket_eq hk hport hready hreached hfirst, hv, hin, if_neg (by decide), if_pos h]

theorem routerStreamPacket_reduces (h : bits (s.entryAt p) 60 3 ≠ 0) : exec (.routerStreamPacket k) s =
    .next ((s.setDev fun d => { d with packets := dropAt d.packets k }).reduceAt p ((s.chipAt p.chip).route p.mesh p.vs).cur
      (s.entryAt p)) := by
  rw [routerStreamPacket_eq hk hport hready hreached hfirst, hv, hin, if_neg (by decide), if_neg h]

end

/-! ## Reductions -/

/-- What the first packet of a key leaves at a reducing entry (R397). -/
def State.openRed (s : State) (p : Packet) (alt red : Nat) : Reduction where
  mesh := p.mesh
  vs := p.vs
  alt := alt
  fslot := p.fslot
  phase := p.phase
  since := s.wtick p.chip
  sent := false
  pkt := { p with data := enterData red p.data, pbm := 2 ^ p.port }

theorem openRed_is (s : State) (p : Packet) (alt red : Nat) : (s.openRed p alt red).is alt p = true := by
  simp [Reduction.is, State.openRed]

theorem putRed_mem (c : Chip) (r : Reduction) : r ∈ (c.putRed r).reds := by simp [Chip.putRed]

theorem onChip_putRed_mem (d : State) (n : Nat) (r : Reduction) : r ∈ ((d.onChip n fun c => c.putRed r).chipAt n).reds := by
  rw [chipAt_onChip_same (f := fun c => c.putRed r) (fun _ h => h)]
  exact putRed_mem ..

theorem reduceAt_opens {d : State} {p : Packet} {alt : Nat} {e : Word}
    (hn : (d.chipAt p.chip).reds.find? (fun x => x.is alt p) = none) (ha : portsIn (bits e 16 8) (2 ^ p.port) = false) :
    d.reduceAt p alt e = d.onChip p.chip fun c => c.putRed (d.openRed p alt (bits e 60 3)) := by
  unfold State.reduceAt
  dsimp only
  rw [hn]
  dsimp only
  rw [ha]
  rfl

/-- A packet that joins the reduction of its key (R397). -/
def Reduction.join (r : Reduction) (p : Packet) (red : Nat) : Packet :=
  { r.pkt with data := combineData red r.pkt.data p.data, bad := combineBad red r.pkt.bad p.bad, cnt := r.pkt.cnt + p.cnt,
               pbm := r.pkt.pbm ||| 2 ^ p.port, mrk := r.pkt.mrk || p.mrk, ready := max r.pkt.ready p.ready }

section
variable {d : State} {p : Packet} {alt : Nat} {e : Word} {q : Reduction}
  (hq : (d.chipAt p.chip).reds.find? (fun x => x.is alt p) = some q)
include hq

theorem reduceAt_alone (h : q.sent = true ∨ q.pkt.pbm.testBit p.port = true) : d.reduceAt p alt e = d.forward p e := by
  rw [State.reduceAt, hq]
  exact if_pos (by simpa using h)

variable (hs : q.sent = false) (hb : q.pkt.pbm.testBit p.port = false)
include hs hb

theorem reduceAt_joins : d.reduceAt p alt e =
    if portsIn (bits e 16 8) (q.join p (bits e 60 3)).pbm then
      (d.onChip p.chip fun c => c.putRed { q with pkt := q.join p (bits e 60 3)
                                                  sent := portsIn (bits e 16 8) (q.join p (bits e 60 3)).pbm }).forward
        (q.join p (bits e 60 3)) e
    else d.onChip p.chip fun c => c.putRed { q with pkt := q.join p (bits e 60 3)
                                                    sent := portsIn (bits e 16 8) (q.join p (bits e 60 3)).pbm } := by
  rw [State.reduceAt, hq]
  exact if_neg (by simp [hs, hb])

theorem reduceAt_completes (h : portsIn (bits e 16 8) (q.join p (bits e 60 3)).pbm = true) : d.reduceAt p alt e =
    (d.onChip p.chip fun c => c.putRed { q with pkt := q.join p (bits e 60 3), sent := true }).forward (q.join p (bits e 60 3)) e := by
  rw [reduceAt_joins hq hs hb, if_pos h, h]

theorem reduceAt_keeps (h : portsIn (bits e 16 8) (q.join p (bits e 60 3)).pbm = false) : d.reduceAt p alt e =
    d.onChip p.chip fun c => c.putRed { q with pkt := q.join p (bits e 60 3), sent := false } := by
  rw [reduceAt_joins hq hs hb, h, if_neg (by decide)]

end

section
variable {s : State} {n ch : Nat} {q : Reduction} (hq : s.openReds[n]? = some (ch, q))
include hq

theorem reductionLimitExpiry_eq {h : Word} (hh : h = ((s.chipAt ch).route q.mesh q.vs).alt.getD q.alt 0) :
    exec (.reductionLimitExpiry n) s = if bits h 32 16 = 0 ∨ s.wtick ch < q.since + bits h 32 16 then .next s
      else .next ((s.onChip ch fun c => c.putRed { q with sent := true }).forward q.pkt h) := by
  subst hh
  change execReductionLimitExpiry n s = _
  rw [execReductionLimitExpiry, hq]

end

/-! ## Packets that leave and deferred ones -/

theorem streamDeferredSend_leaves {s : State} {k : Nat} {p : Packet} (hk : s.dev.packets[k]? = some p) (hport : 16 ≤ p.port)
    (hready : p.ready ≤ s.wtick p.chip) : exec (.streamDeferredSend k) s =
      .next (((s.setDev fun d => { d with packets := dropAt d.packets k }).leaveOn p (p.port % 4)).stepCur p) := by
  change execStreamDeferredSend k s = _
  rw [execStreamDeferredSend, hk]
  exact if_neg (by omega)

theorem leaveOn_core (d : State) (p : Packet) {o : Nat} (h : 4 ≤ o) :
    (d.leaveOn p o).dev.packets = d.dev.packets ++ [{ p with port := 4 + o }] := by
  rw [State.leaveOn]
  dsimp only
  rw [if_pos h, show 8 + (o - 4) = 4 + o by omega]
  rfl

theorem leaveOn_deferred {d : State} {p q : Packet} {o : Nat} (h : o < 4) (hq : q ∈ d.dev.packets) (hport : 16 ≤ q.port)
    (ho : q.port % 4 = o) (hf : q.first p = true) (hs : sameSlot q.ready p.ready p.slotLen = true) :
    d.leaveOn p o = (d.setDev fun x => { x with packets := x.packets ++
      [{ p with port := 16 + 4 * p.inPort + o, ready := p.ready + 4096 * p.slotLen }] }).logRouter p := by
  have htaken : (d.dev.packets.any fun q => decide (16 ≤ q.port) && q.port % 4 == o && q.first p && sameSlot q.ready p.ready p.slotLen) =
      true := List.any_eq_true.mpr ⟨q, hq, by simp [hport, ho, hf, hs]⟩
  rw [State.leaveOn]
  dsimp only
  rw [if_neg (by omega), htaken, Bool.or_true, if_pos rfl]

/-! ## Binding, expectation and router entries -/

section
variable {s : State} {d a b : GReg} {n : BitVec 6} (hroom : Room s 1)
include hroom

section
variable (hg : s.fib.guest = false)
include hg

theorem strUnbind_unbound (h : s.boundTo s.skein n.toNat = none) : exec (.strUnbind n) s = .next (retire s 1) := by
  refine run_ok hroom ?_
  rw [notGuest_ok hg, ok_bind, h]

theorem strUnbind_bound {j : Nat} (h : s.boundTo s.skein n.toNat = some j) : exec (.strUnbind n) s =
    .next (retire (s.onSpool j fun p => { p with cfg := p.cfg &&& ~~~0x4000000000000000#64 }) 1) := by
  refine run_ok hroom ?_
  rw [notGuest_ok hg, ok_bind, h]

variable (hb : FullG s b)
include hb

theorem strExp_refused (h : expwOk (s.g b) = false) :
    exec (.strExp b n) s = .next (raise s 0x01 4 (BitVec.ofNat 64 s.core.fetched) false) := by
  refine run_trap hroom ?_
  rw [notGuest_ok hg, ok_bind, readG_full hb, ok_bind, h]
  rfl

variable (h : expwOk (s.g b) = true)
include h

theorem strExp_sets : exec (.strExp b n) s =
    .next (retire (s.setSkein fun k => { k with expw := assocPut n.toNat (s.g b) k.expw }) 1) := by
  refine run_ok hroom ?_
  rw [notGuest_ok hg, ok_bind, readG_full hb, ok_bind, ensure_ok h, ok_bind]

variable (ha : FullG s a)
include ha

theorem strBind_binds {p : Nat} (hp : p = s.skein.spb + bits (s.g a) 0 4) (hn : bits (s.g a) 0 4 < s.skein.spn)
    (hen : (s.spool p).en = true) (hsize : 256 ≤ (s.spool p).slotBytes) (hbnd : (s.spool p).bnd = false)
    (hother : ∀ j, j < 16 → j ≠ p → ¬((s.spool j).en = true ∧ (s.spool j).bnd = true ∧ bits (s.spool j).cfg 56 6 = n.toNat)) :
    exec (.strBind a b n) s = .next (retire ((s.onSpool p fun p =>
      { p with cfg := (p.cfg &&& ~~~0x3F00000000000000#64) ||| wordOf [(62, 1, 1), (56, 6, n.toNat)] }).setSkein fun k =>
        { k with expw := assocPut n.toNat (s.g b) k.expw }) 1) := by
  have hfree : ((List.range 16).any fun i => i != p && (s.spool i).en && (s.spool i).bnd && bits (s.spool i).cfg 56 6 == n.toNat) = false :=
    List.any_eq_false.mpr fun j hj => by
      have := hother j (List.mem_range.mp hj)
      simp only [Bool.and_eq_true, bne_iff_ne, beq_iff_eq]
      exact fun ⟨⟨⟨hne, he⟩, hb⟩, hc⟩ => this hne ⟨he, hb, hc⟩
  have hno : spoolNo s (bits (s.g a) 0 4) = .ok p := by
    subst hp
    exact spoolNo_ok hn
  refine run_ok hroom ?_
  rw [notGuest_ok hg, ok_bind, readG_full ha, ok_bind, readG_full hb, ok_bind, ensure_ok h, ok_bind]
  dsimp only
  rw [hno, ok_bind, hfree, ensure_ok (by simp [hen, hsize, hbnd]), ok_bind]

end

section
variable {p : Nat} (hp : (match s.fib.park with
    | some (.drain n) => n
    | _ => s.ctr) = p)
include hp

theorem netDrain_done (h : s.undelivered (netChip s.chip.num) p = false) : exec .netDrain s = .next (retire s 1) := by
  subst hp
  refine run_ok hroom ?_
  exact if_neg (Bool.not_eq_true _ ▸ h)

theorem netDrain_parks (h : s.undelivered (netChip s.chip.num) p = true) : exec .netDrain s = .next (parkAs s (.drain p)) := by
  subst hp
  refine run_hold hroom ?_
  exact if_pos h

end

theorem strRoute_user (h : s.fib.sup = false) : exec (.strRoute a b) s = .next (raise s 0x02 0 s.baseWord false) := by
  refine run_trap hroom ?_
  rw [supervisor, h]
  rfl

theorem strRdroute_user (h : s.fib.sup = false) : exec (.strRdroute d a) s = .next (raise s 0x02 0 s.baseWord false) := by
  refine run_trap hroom ?_
  rw [supervisor, h]
  rfl

section
variable (hsup : s.fib.sup = true) (ha : FullG s a) (hi : bits (s.g a) 9 55 = 0)
include hsup ha hi

theorem strRdroute_reads (hd : FreeG s d) : exec (.strRdroute d a) s =
    wrote s d ((s.chip.route (bit (s.g a) 8) (bits (s.g a) 0 6)).alt.getD (bits (s.g a) 6 2) 0) 1 := by
  refine run_ok hroom ?_
  rw [supervisor_ok hsup, ok_bind, readG_full ha, ok_bind, routeIndex, ensure_ok (by simp [hi]), ok_bind, writeG_free hd]

theorem strRoute_sets (hb : FullG s b) (h3 : bits (s.g b) 60 3 ≤ 2) (h48 : bits (s.g b) 48 12 = 0) (h24 : bits (s.g b) 24 8 = 0)
    (h0 : bits (s.g b) 0 8 = 0) : exec (.strRoute a b) s = .next (retire (s.setChip fun c =>
      c.putRoute { c.route (bit (s.g a) 8) (bits (s.g a) 0 6) with
        alt := (c.route (bit (s.g a) 8) (bits (s.g a) 0 6)).alt.set! (bits (s.g a) 6 2) (s.g b)
        cur := if bits (s.g a) 6 2 = 0 then 0 else (c.route (bit (s.g a) 8) (bits (s.g a) 0 6)).cur }) 1) := by
  refine run_ok hroom ?_
  rw [supervisor_ok hsup, ok_bind, readG_full ha, ok_bind, readG_full hb, ok_bind, routeIndex, ensure_ok (by simp [hi]), ok_bind,
    ensure_ok (by simp [h3, h48, h24, h0]), ok_bind]

end
end

/-- Settles O38: a packet by the current entry of its stream and the reduction of its key, the instructions by their checks. -/
theorem streamRouters : Obligations.StreamRouters := by
  refine ⟨fun s k p hk => ?_, fun s d a b n hroom ha hb => ?_⟩
  · intro d r e now
    refine ⟨fun _ h => routerStreamPacket_waits hk h, fun hport h1 h2 h3 => ⟨routerStreamPacket_discards hk hport h1 h2 h3,
      routerStreamPacket_forwards hk hport h1 h2 h3, fun hv hin hr hp hn => ?_, fun q hv hin hr hq => ?_⟩,
      fun hport h => streamDeferredSend_leaves hk hport h, fun o h => leaveOn_core d p h,
      fun o q h hq hport ho hf hs => leaveOn_deferred h hq hport ho hf hs, fun n ch q hq => ?_⟩
    · have hnone : (d.chipAt p.chip).reds.find? (fun x => x.is r.cur p) = none :=
        List.find?_eq_none.mpr fun q hq => by simp [hn q hq]
      refine ⟨_, d.openRed p r.cur (bits e 60 3), (routerStreamPacket_reduces hk hport h1 h2 h3 hv hin hr).trans
        (congrArg Host.Outcome.next (reduceAt_opens hnone hp)), congrArg Device.packets (onChip_dev ..),
        onChip_putRed_mem .., openRed_is .., rfl, rfl, rfl, rfl, rfl⟩
    · intro c
      have hstep := routerStreamPacket_reduces hk hport h1 h2 h3 hv hin hr
      exact ⟨fun h => hstep.trans (congrArg Host.Outcome.next (reduceAt_alone hq h)), fun hs hb =>
        ⟨fun h => hstep.trans (congrArg Host.Outcome.next (reduceAt_completes hq hs hb h)),
          fun h => hstep.trans (congrArg Host.Outcome.next (reduceAt_keeps hq hs hb h))⟩⟩
    · intro g h
      rw [reductionLimitExpiry_eq hq rfl]
      exact ⟨fun h0 h1 => if_neg (not_or.mpr ⟨h0, Nat.not_lt.mpr h1⟩), fun h => if_pos h⟩
  · intro i e h r
    refine ⟨fun hg he => ⟨strExp_sets hroom hg hb he, fun hn hen hsize hbnd hother => strBind_binds hroom hg hb he ha rfl hn hen hsize hbnd
      hother⟩, fun hg => strUnbind_unbound hroom hg, fun j hg => strUnbind_bound hroom hg, fun hg => strExp_refused hroom hg hb, ?_,
      fun hs hi => ⟨strRdroute_reads hroom hs ha hi, strRoute_sets hroom hs ha hi hb⟩,
      fun hs => ⟨strRoute_user hroom hs, strRdroute_user hroom hs⟩⟩
    intro since
    exact ⟨netDrain_done hroom rfl, netDrain_parks hroom rfl⟩

end Sys2Proof.Machine

/-! # Access to system registers (O39) -/

namespace Sys2Proof.Machine

/-! ## The checks of an access -/

section
variable {α : Type} {c : Prop} [Decidable c] {e : Ex Unit}

/-- A check made in one case only, which passes there. -/
theorem checkIf_passes (h : c → e = .ok ()) (x : Ex α) : (if c then e >>= fun _ => x else x) = x := by
  by_cases hc : c
  · rw [if_pos hc, h hc, ok_bind]
  · rw [if_neg hc]

/-- A check made in one case only, which fails there. -/
theorem checkIf_fails {h : Halt} (hc : c) (he : e = .error h) (x : Ex α) : (if c then e >>= fun _ => x else x) = .error h := by
  rw [if_pos hc, he]
  rfl

end

/-- What follows the allocation check of an access (R436). -/
def SysReg.marks (s : State) (r : SysReg) (writes : Bool) : Ex SysReg := do
  if r.readMark = .super || (writes && decide (r.writeMark = .super)) then supervisor s 1
  if writes then ensure (r.writeMark ≠ .none) (illegal s 4)
  if r = .prec ∨ r = .fwin then settled s
  .ok r

section
variable {s : State} {n : BitVec 12}

theorem sysAccess_unlisted (h : sysReg n.toNat = none) (w : Bool) : sysAccess s n w = illegal s 4 := by rw [sysAccess, h]

variable {r : SysReg} (hr : sysReg n.toNat = some r)
include hr

theorem sysAccess_own (h : s.fib.guest = false ∨ r.ofSkein = false) (w : Bool) :
    sysAccess s n w = r.allocated s >>= fun _ => r.marks s w := by
  have hg : (!(s.fib.guest && r.ofSkein)) = true := by
    rcases h with h | h <;> simp [h]
  rw [sysAccess, hr]
  dsimp only
  rw [hg, ensure_true, ok_bind]
  rfl

theorem sysAccess_marks (h : r.ofSkein = false) (w : Bool) : sysAccess s n w = r.marks s w := by
  have ha : r.allocated s = .ok () := by
    cases r with
    | spcfg _ | spst _ | bst _ => exact Bool.noConfusion h
    | _ => rfl
  rw [sysAccess_own hr (Or.inr h), ha, ok_bind]

theorem sysAccess_unallocated (hg : s.fib.guest = false) (h : r.allocated s = illegal s 3) (w : Bool) : sysAccess s n w = illegal s 3 := by
  rw [sysAccess_own hr (Or.inl hg), h]
  rfl

end

section
variable {s : State} {r : SysReg} {w : Bool}

theorem marks_user (hs : s.fib.sup = false) (h : r.readMark = .super ∨ (w = true ∧ r.writeMark = .super)) :
    r.marks s w = trap s 0x02 1 s.baseWord :=
  checkIf_fails (by simpa using h) (by rw [supervisor, hs]; rfl) _

theorem marks_readOnly (hs : s.fib.sup = true) (h : r.writeMark = .none) : r.marks s true = illegal s 4 :=
  (checkIf_passes (fun _ => supervisor_ok hs 1) _).trans (checkIf_fails rfl (by rw [h]; rfl) _)

theorem marks_pass (hr : r.readMark = .user ∨ s.fib.sup = true)
    (hw : w = true → r.writeMark = .user ∨ (r.writeMark = .super ∧ s.fib.sup = true)) (hp : r ≠ .prec) (hf : r ≠ .fwin) :
    r.marks s w = .ok r := by
  have hsup (h : (r.readMark = .super || (w && decide (r.writeMark = .super))) = true) : s.fib.sup = true := by
    simp only [Bool.or_eq_true, Bool.and_eq_true, decide_eq_true_eq] at h
    rcases h with h | ⟨h1, h2⟩
    · exact hr.resolve_left (by simp [h])
    · exact ((hw h1).resolve_left (by simp [h2])).2
  have hmark (h : w = true) : r.writeMark ≠ .none := by
    rcases hw h with h | ⟨h, -⟩ <;> simp [h]
  exact (checkIf_passes (fun h => supervisor_ok (hsup h) 1) _).trans ((checkIf_passes (fun h => ensure_ok (by simp [hmark h]) _) _).trans
    (checkIf_passes (fun h => h.elim (fun h => absurd h hp) fun h => absurd h hf) _))

end

/-! ## The five instructions -/

section
variable {s t : State} {d : BitVec 3} {n : BitVec 12} {r : SysReg} (hroom : Room s 1)
include hroom

theorem srd_reads (h : sysAccess s n false = .ok r) (hd : FreeG s d) : exec (.srd d n) s = wrote s d (r.read s) 1 :=
  run_ok hroom (by rw [h, ok_bind, writeG_free hd])

theorem srd_stops {code sub : Nat} {v : Word} (h : sysAccess s n false = trap s code sub v) :
    exec (.srd d n) s = .next (raise s code sub v false) :=
  run_trap hroom (by rw [h]; rfl)

theorem swr_stops {code sub : Nat} {v : Word} (h : sysAccess s n true = trap s code sub v) :
    exec (.swr d n) s = .next (raise s code sub v false) :=
  run_trap hroom (by rw [h]; rfl)

variable (h : sysAccess s n true = .ok r) (hd : FullG s d)
include h hd

theorem swr_writes (hw : r.write s (s.g d) (s.g d) = .ok t) : exec (.swr d n) s = .next (retire t 1) :=
  run_ok hroom (by rw [h, ok_bind, readG_full hd, ok_bind, hw])

theorem sswp_swaps (hw : r.write s (s.g d) (s.g d) = .ok t) : exec (.sswp d n) s = .next (retire (setG t d (r.read s)) 1) :=
  run_ok hroom (by rw [h, ok_bind, readG_full hd, ok_bind, hw, ok_bind])

theorem sset_sets (hw : r.write s (r.read s ||| s.g d) (s.g d) = .ok t) : exec (.sset d n) s = .next (retire t 1) :=
  run_ok hroom (by rw [h, ok_bind, readG_full hd, ok_bind, hw])

theorem sclr_clears (hw : r.write s (r.read s &&& ~~~(s.g d)) (s.g d) = .ok t) : exec (.sclr d n) s = .next (retire t 1) :=
  run_ok hroom (by rw [h, ok_bind, readG_full hd, ok_bind, hw])

end

/-- Settles O39: each access by the first of its checks that fails, and each instruction by its access. -/
theorem systemRegisterAccess : Obligations.SystemRegisterAccess := by
  refine ⟨fun s t d n r hroom => ⟨srd_reads hroom, fun h hd => ?_⟩, fun s d n hroom => ⟨fun h => ?_, fun r hr =>
    ⟨fun hg h => ?_, fun h => ⟨fun hs hm => ?_, fun hs hm => ?_, fun hs hm => ?_, fun hm hp hf => ⟨?_, fun hw => ?_⟩⟩,
      fun hg => ⟨fun i hi hn => ?_, fun b hb hn => ?_⟩⟩⟩⟩
  · intro v
    exact ⟨fun hw => ⟨swr_writes hroom h hd hw, sswp_swaps hroom h hd hw⟩, sset_sets hroom h hd, sclr_clears hroom h hd⟩
  · exact ⟨srd_stops hroom (sysAccess_unlisted h false), swr_stops hroom (sysAccess_unlisted h true)⟩
  · have hall := guest_registers hg hr h d
    exact ⟨hall _ (by simp), hall _ (by simp)⟩
  · exact srd_stops hroom ((sysAccess_marks hr h false).trans (marks_user hs (Or.inl hm)))
  · exact swr_stops hroom ((sysAccess_marks hr h true).trans (marks_user hs (Or.inr ⟨rfl, hm⟩)))
  · exact swr_stops hroom ((sysAccess_marks hr h true).trans (marks_readOnly hs hm))
  · exact (sysAccess_marks hr h false).trans (marks_pass hm (fun h => absurd h Bool.false_ne_true) hp hf)
  · exact (sysAccess_marks hr h true).trans (marks_pass hm (fun _ => hw) hp hf)
  · refine srd_stops hroom (sysAccess_unallocated hr hg ?_ false)
    have hc : decide (i < s.skein.spn) = false := decide_eq_false (Nat.not_lt.mpr hn)
    rcases hi with rfl | rfl <;> rw [SysReg.allocated, hc, ensure_false]
  · have hc : decide (b < s.skein.bn) = false := decide_eq_false (Nat.not_lt.mpr hn)
    subst hb
    exact srd_stops hroom (sysAccess_unallocated hr hg (by rw [SysReg.allocated, hc, ensure_false]) false)

end Sys2Proof.Machine

/-! # Trap entry (O41) -/

namespace Sys2Proof.Machine

/-! ## The word TCAUSE (R429) -/

/-- TCAUSE by its fields. -/
theorem tcause_fields {a b c d e sub code : Nat} (hb : b ≤ 1) (hc : c ≤ 1) (hd : d ≤ 1) (he : e ≤ 1) (hs : sub < 256)
    (hk : code < 256) {w : Word}
    (hw : w = BitVec.ofNat 64 (2 ^ 63 * a + 2 ^ 62 * b + 2 ^ 61 * c + 2 ^ 60 * d + 2 ^ 59 * e + sub * 256 + code)) (ha : a = 1) :
    (bit w 63 = true ∧ bit w 62 = decide (b = 1) ∧ bit w 61 = decide (c = 1) ∧ bit w 60 = decide (d = 1) ∧ bit w 59 = decide (e = 1)) ∧
      bits w 8 8 = sub ∧ bits w 0 8 = code := by
  have hn : w.toNat = 2 ^ 63 * a + 2 ^ 62 * b + 2 ^ 61 * c + 2 ^ 60 * d + 2 ^ 59 * e + sub * 256 + code := by
    rw [hw, BitVec.toNat_ofNat]
    exact Nat.mod_eq_of_lt (by omega)
  simp only [bit, bits, hn, Nat.testBit_eq_decide_div_mod_eq, Nat.shiftRight_eq_div_pow]
  refine ⟨⟨decide_eq_true (by omega), ?_, ?_, ?_, ?_⟩, by omega, by omega⟩ <;> exact decide_eq_decide.mpr (by omega)

section
variable {s : State} {code sub : Nat} {pa gst : Bool} (hk : code < 256) (hs : sub < 256)
include hk hs

theorem tcauseOf_fields : (bit (tcauseOf s code sub pa gst) 63 = true ∧ bit (tcauseOf s code sub pa gst) 62 = s.fib.sup ∧
    bit (tcauseOf s code sub pa gst) 61 = s.fib.rpt.act ∧ bit (tcauseOf s code sub pa gst) 60 = gst ∧
    bit (tcauseOf s code sub pa gst) 59 = pa) ∧ bits (tcauseOf s code sub pa gst) 8 8 = sub ∧
      bits (tcauseOf s code sub pa gst) 0 8 = code := by
  have hflag (b : Bool) (n : Nat) : (if b then 2 ^ n else 0) = 2 ^ n * b.toNat := by cases b <;> simp
  have hone (b : Bool) : decide (b.toNat = 1) = b := by cases b <;> rfl
  have h := tcause_fields (a := 1) (Bool.toNat_le s.fib.sup) (Bool.toNat_le s.fib.rpt.act) (Bool.toNat_le gst) (Bool.toNat_le pa) hs hk
    (w := tcauseOf s code sub pa gst)
    (by rw [tcauseOf, hflag, hflag, hflag, hflag, Nat.mod_eq_of_lt hs, Nat.mod_eq_of_lt hk, Nat.mul_one]) rfl
  simpa only [hone] using h

end

/-! ## A first trap (R432) -/

/-- The fibre at the handler of a trap (R432). -/
def State.trapped (s : State) (code sub : Nat) (val : Word) (pa gst : Bool) : Fibre :=
  ({ s.fib with
    trap := { s.fib.trap with trappc := s.fib.pc, tval := val, tcause := tcauseOf s code sub pa gst }
    sup := true
    pc := s.core.tvec &&& 0x01FFFFFFFFFFFFFC#64
    park := none
    rpt := { s.fib.rpt with aside := s.fib.rpt.act }
    tokens := if code = 0x13 then { s.fib.tokens with err := s.fib.tokens.err.set! (bits val 45 3) false } else s.fib.tokens
    : Fibre }).touch Dirty.trap

/-- The trap's own trigger of the hallmark (R432, R443). -/
def State.marked (s : State) (code : Nat) : State :=
  if bit s.dev.hmmask (code % 64) && code < 64 then s.trigger 1 else s

theorem trigger_frame (s : State) (n : Nat) : (s.trigger n).fib = s.fib ∧ (s.trigger n).core = s.core ∧
    (s.trigger n).dev.mem = s.dev.mem ∧ (s.trigger n).dev.launches = s.dev.launches := by
  unfold State.trigger
  split <;> exact ⟨rfl, rfl, rfl, rfl⟩

theorem marked_frame (s : State) (code : Nat) : (s.marked code).fib = s.fib ∧ (s.marked code).core = s.core ∧
    (s.marked code).dev.mem = s.dev.mem ∧ (s.marked code).dev.launches = s.dev.launches := by
  unfold State.marked
  split
  · exact trigger_frame s 1
  · exact ⟨rfl, rfl, rfl, rfl⟩

/-- What trap entry does to the fibre in focus (R432). -/
theorem setFib_trapped {s u : State} (hf : u.fib = s.fib) (hc : u.core = s.core) (code sub : Nat) (val : Word) (pa gst : Bool) :
    (u.setFib fun f =>
      ({ f with
        trap := { f.trap with trappc := f.pc, tval := val, tcause := tcauseOf s code sub pa gst }
        sup := true
        pc := u.core.tvec &&& 0x01FFFFFFFFFFFFFC#64
        park := none
        rpt := { f.rpt with aside := f.rpt.act }
        tokens := if code = 0x13 then { f.tokens with err := f.tokens.err.set! (bits val 45 3) false } else f.tokens
        : Fibre }).touch Dirty.trap) = u.setFib fun _ => s.trapped code sub val pa gst := by
  rw [State.setFib, State.setFib, hf, hc]
  rfl

theorem takeTrap_first {s : State} (h : bit s.fib.trap.tcause 63 = false) (code sub : Nat) (val : Word) (pa gst : Bool) :
    ∃ t : State, (t.dev.mem = s.dev.mem ∧ t.dev.launches = s.dev.launches) ∧
      takeTrap s code sub val pa gst = t.setFib fun _ => s.trapped code sub val pa gst := by
  obtain ⟨hf, hc, hm, hl⟩ := marked_frame (s.forgetWaits fun id => id == s.fib.id) code
  refine ⟨(s.forgetWaits fun id => id == s.fib.id).marked code, ⟨hm, hl⟩, ?_⟩
  rw [takeTrap, h, if_neg (by decide)]
  exact setFib_trapped hf hc code sub val pa gst

theorem raise_own {s : State} (h : s.fib.guest = false) (code sub : Nat) (val : Word) (pa : Bool) :
    raise s code sub val pa = takeTrap s code sub val pa false := by
  rw [raise, h]
  exact if_neg (by decide)

/-! ## A trap within a trap (R432) -/

/-- States with the same fibres and launches. -/
def SameFibres (s t : State) : Prop := t.fib = s.fib ∧ t.fibres = s.fibres ∧ t.dev.launches = s.dev.launches

theorem SameFibres.refl (s : State) : SameFibres s s := ⟨rfl, rfl, rfl⟩

theorem SameFibres.trans {s t u : State} (h : SameFibres s t) (g : SameFibres t u) : SameFibres s u :=
  ⟨g.1.trans h.1, g.2.1.trans h.2.1, g.2.2.trans h.2.2⟩

theorem foldl_sameFibres {α : Type} (f : State → α → State) (hf : ∀ s a, SameFibres s (f s a)) (l : List α) (s : State) :
    SameFibres s (l.foldl f s) :=
  List.foldlRecOn (motive := fun t => SameFibres s t) l f (.refl s) fun t h a _ => h.trans (hf t a)

theorem putWord_sameFibres (s : State) (pa : Nat) (bs : List Byte) : SameFibres s (s.putWord pa bs) := ⟨rfl, rfl, rfl⟩

theorem wrote_sameFibres (s : State) : SameFibres s s.wrote := ⟨rfl, rfl, rfl⟩

theorem logAt_sameFibres (s : State) (a b c d e f g i : Nat) : SameFibres s (s.logAt a b c d e f g i) := by
  unfold State.logAt
  extract_lets x ll drop pa head t
  have ht : SameFibres s t := by
    unfold t
    split
    · exact .refl s
    · exact foldl_sameFibres _ (fun t (p : Nat × List Byte) => putWord_sameFibres t p.1 p.2) _ s
  split
  · split <;> exact ⟨rfl, rfl, rfl⟩
  · exact (ht.trans (wrote_sameFibres t)).trans ⟨rfl, rfl, rfl⟩

theorem onChip_sameFibres (s : State) (n : Nat) (f : Chip → Chip) : SameFibres s (s.onChip n f) := by
  unfold State.onChip
  split <;> exact ⟨rfl, rfl, rfl⟩

theorem onCore_sameFibres (s : State) (n : Nat) (f : Core → Core) : SameFibres s (s.onCore n f) := by
  unfold State.onCore
  split <;> exact ⟨rfl, rfl, rfl⟩

theorem releaseSkein_sameFibres (s : State) (k : Skein) : SameFibres s (s.releaseSkein k) := by
  unfold State.releaseSkein
  dsimp only
  split
  · exact onChip_sameFibres ..
  · exact (onChip_sameFibres ..).trans (onCore_sameFibres ..)

theorem nack_sameFibres (s : State) (m : Msg) : SameFibres s (s.nack m) := by
  unfold State.nack
  split <;> exact ⟨rfl, rfl, rfl⟩

theorem purgeInbound_sameFibres (s : State) (n : Nat) : SameFibres s (s.purgeInbound n) := by
  unfold State.purgeInbound
  exact SameFibres.trans ⟨rfl, rfl, rfl⟩ (foldl_sameFibres _ nack_sameFibres _ _)

/-- A launch that ends leaves no fibre, and its record has its status and reason (R416, R432). -/
theorem endLaunch_own (s : State) (st r : Nat) : (s.endLaunch s.fib.id.lid st r).fib.live = false ∧
    (∀ f, f ∈ (s.endLaunch s.fib.id.lid st r).fibres → f.id.lid ≠ s.fib.id.lid) ∧
    ∀ l ∈ s.dev.launches, l.lid = s.fib.id.lid →
      { l with state := .ended st r } ∈ (s.endLaunch s.fib.id.lid st r).dev.launches := by
  have hsame := (purgeInbound_sameFibres s s.fib.id.lid).trans (foldl_sameFibres State.releaseSkein releaseSkein_sameFibres
    ((s.purgeInbound s.fib.id.lid).allSkeins.filter fun k => k.lid == s.fib.id.lid && k.resident) _)
  unfold State.endLaunch
  dsimp only
  generalize List.foldl State.releaseSkein _ _ = u at hsame
  obtain ⟨hf, hfs, hl⟩ := hsame
  refine ⟨?_, fun f hmem => ?_, fun l hmem hid => ?_⟩
  · change (if u.fib.id.lid = s.fib.id.lid then ({ u.fib with live := false } : Fibre) else u.fib).live = false
    rw [hf, if_pos rfl]
  · exact bne_iff_ne.mp (List.mem_filter.mp hmem).2
  · refine mem_updAll_updated (f := fun l : Launch => { l with state := .ended st r }) ?_ (by simpa using hid)
    change l ∈ u.dev.launches
    rwa [hl]

theorem takeTrap_second {s : State} (h : bit s.fib.trap.tcause 63 = true) (code sub : Nat) (val : Word) (pa gst : Bool) :
    ∃ t : State, SameFibres s t ∧ takeTrap s code sub val pa gst = t.endLaunch s.fib.id.lid 3 code := by
  rw [takeTrap, h, if_pos rfl]
  exact ⟨_, logAt_sameFibres .., rfl⟩

/-- Settles O41: a first trap by the registers it saves, a second one by the end of its launch. -/
theorem trapEntry : Obligations.TrapEntry := by
  refine ⟨fun s code sub val pa hg h hk hs => ?_, fun s code sub val pa l hg h hl hid => ?_⟩
  · intro t
    obtain ⟨u, ⟨hmem, hlaunches⟩, hu⟩ := takeTrap_first h code sub val pa false
    obtain ⟨⟨h63, h62, h61, h60, h59⟩, hsub, hcode⟩ := tcauseOf_fields (s := s) (pa := pa) (gst := false) hk hs
    have ht : t = u.setFib fun _ => s.trapped code sub val pa false := (raise_own hg code sub val pa).trans hu
    rw [ht]
    exact ⟨rfl, rfl, rfl, h63, h62, h61, h60, h59, hsub, hcode, rfl, rfl, rfl, rfl, ⟨rfl, rfl, rfl, rfl, rfl, rfl, rfl, rfl⟩, rfl, rfl, rfl,
      hmem, hlaunches⟩
  · intro t
    obtain ⟨u, ⟨hfib, -, hlaunches⟩, hu⟩ := takeTrap_second h code sub val pa false
    rw [← hfib] at hu
    obtain ⟨hlive, hfibres, hend⟩ := endLaunch_own u 3 code
    have ht : t = _ := (raise_own hg code sub val pa).trans hu
    rw [ht]
    rw [hfib] at *
    exact ⟨hlive, hfibres, _, hend l (by rwa [hlaunches]) hid, rfl, rfl⟩

end Sys2Proof.Machine

/-! # Trap instructions, and words that are no instruction (O42) -/

namespace Sys2Proof.Machine

section
variable {s : State} (hbody : s.fib.rpt.inBody = false)
include hbody

/-! ## `trap` -/

theorem trap_enters {a : BitVec 3} {n : BitVec 8} (hroom : Room s 1) (ha : FullG s a) (hg : s.fib.guest = false)
    (h : bit s.fib.trap.tcause 63 = false) : ∃ t, exec (.trap a n) s = .next t ∧ t.fib.trap.trappc = s.fib.pc + 4 ∧
      t.fib.trap.tval = s.g a ∧ bits t.fib.trap.tcause 0 8 = 0x20 ∧ bits t.fib.trap.tcause 8 8 = n.toNat ∧ t.fib.sup = true ∧
      t.fib.pc = s.core.tvec &&& 0x01FFFFFFFFFFFFFC#64 := by
  have hexec : exec (.trap a n) s = .next (raise (retireTo s (s.fib.pc + 4)) 0x20 n.toNat (s.g a) false) := by
    change execTrap a n s = _
    rw [execTrap, ending_room hroom, readG_full ha]
    rfl
  have hsame := retireTo_sameFibre s (s.fib.pc + 4)
  obtain ⟨-, -, -, -, hguest⟩ := hsame.place
  obtain ⟨u, -, hu⟩ := takeTrap_first (by rw [hsame.trap, h]) 0x20 n.toNat (s.g a) false false
  obtain ⟨-, hsub, hcode⟩ := tcauseOf_fields (s := retireTo s (s.fib.pc + 4)) (pa := false) (gst := false) (by decide : 0x20 < 256) n.isLt
  rw [raise_own (hguest.trans hg), hu] at hexec
  exact ⟨_, hexec, retireTo_pc hbody _, rfl, hcode, hsub, rfl, rfl⟩

/-! ## `tret` -/

/-- The fibre after a trap return (R435). -/
def Fibre.returned (f : Fibre) : Fibre :=
  (({ f with
    sup := bit f.trap.tcause 62
    trap := { f.trap with tcause := f.trap.tcause &&& 0x7FFFFFFFFFFFFFFF#64 }
    pc := f.trap.trappc &&& 0xFFFFFFFFFFFFFFFC#64
    park := none
    rpt := f.rpt.resume (f.trap.trappc &&& 0xFFFFFFFFFFFFFFFC#64)
    bwait := f.bwait.filter fun b => b.at_ == f.trap.trappc &&& 0xFFFFFFFFFFFFFFFC#64
    : Fibre }).touch Dirty.trap).touch Dirty.rpt

omit hbody in
theorem endStall_frame : s.endStall.fib = s.fib ∧ s.endStall.dev.mem = s.dev.mem := by
  unfold State.endStall
  split <;> exact ⟨rfl, rfl⟩

theorem trapReturn_fib : (trapReturn s).fib = s.fib.counted.returned := by
  have h : (retireTo s.endStall (s.fib.trap.trappc &&& 0xFFFFFFFFFFFFFFFC#64)).fib =
      { s.fib.counted with pc := s.fib.trap.trappc &&& 0xFFFFFFFFFFFFFFFC#64 } := by
    rw [retireTo_fib_eq, endStall_frame.1, hbody]
    rfl
  rw [trapReturn, returnTo, State.setFib_fib, h]
  rfl

omit hbody in
theorem bit_cleared (w : Word) : bit (w &&& 0x7FFFFFFFFFFFFFFF#64) 63 = false := by
  rw [bit, BitVec.toNat_and, Nat.testBit_and, show (0x7FFFFFFFFFFFFFFF#64).toNat.testBit 63 = false by decide, Bool.and_false]

/-- What a trap return gives (R435). -/
theorem trapReturn_back : (trapReturn s).fib.pc = s.fib.trap.trappc &&& 0xFFFFFFFFFFFFFFFC#64 ∧
    (trapReturn s).fib.sup = bit s.fib.trap.tcause 62 ∧ bit (trapReturn s).fib.trap.tcause 63 = false ∧
    (trapReturn s).fib.trap.tval = s.fib.trap.tval ∧ (trapReturn s).fib.bank = s.fib.bank ∧ (trapReturn s).fib.rgn = s.fib.rgn ∧
    SameFloat s.fib (trapReturn s).fib ∧ (trapReturn s).dev.mem = s.dev.mem := by
  rw [trapReturn_fib hbody]
  exact ⟨rfl, rfl, bit_cleared _, rfl, rfl, rfl, ⟨rfl, rfl, rfl, rfl, rfl, rfl, rfl, rfl⟩, endStall_frame.2⟩

variable (hsup : s.fib.sup = true) (htb : bit s.fib.trap.tcause 63 = true)
include hsup htb

omit hbody in
theorem tret_returns : exec .tret s = .next (trapReturn s) := by
  change execTret s = _
  rw [execTret, supervisor_ok hsup, ok_bind, ensure_ok htb, ok_bind]
  rfl

/-! ## `tret.rgn` -/

variable (hact : s.fib.rgn.act = true)
include hact

omit hbody in
theorem tretRgn_returns (hc : 2 ≤ s.fib.rgn.count) : exec .tretRgn s = .next (trapReturn s) := by
  change execTretRgn s = _
  rw [execTretRgn, supervisor_ok hsup, ok_bind, ensure_ok htb, ok_bind, ensure_ok hact, ok_bind, if_pos hc]
  rfl

omit hbody in
theorem tretRgn_restarts {t : State} (hc : s.fib.rgn.count < 2) (h : restart (trapReturn s) = .ok t) : exec .tretRgn s = .next t := by
  change execTretRgn s = _
  rw [execTretRgn, supervisor_ok hsup, ok_bind, ensure_ok htb, ok_bind, ensure_ok hact, ok_bind, if_neg (Nat.not_le.mpr hc), h]
  rfl

end

/-- The fibre at the start of its region again (R342). -/
def Fibre.restarted (f : Fibre) : Fibre :=
  { ((List.range 8).foldl (fun (g : Fibre) i => g.touch (Dirty.g i)) { f with prec := f.rgn.prec }).touch Dirty.rpt with
    bank := f.rgn.snap
    rgn := { f.rgn with count := f.rgn.count + 1 }
    pc := f.rgn.pc
    rpt := f.rpt.close
    park := none
    bwait := none }

theorem touches_eq (f : Fibre) (l : List Nat) :
    ∃ d, l.foldl (fun (g : Fibre) i => g.touch (Dirty.g i)) f = { f with dirty := d } := by
  induction l generalizing f with
  | nil => exact ⟨_, rfl⟩
  | cons i l ih => exact ih (f.touch (Dirty.g i))

theorem restart_fib {u : State} (hp : u.fib.anyPending = false) (hs : precP u.fib.rgn.prec = precP u.fib.prec)
    (hok : precOk u.fib.rgn.prec = true) (hw : u.fib.flive ≤ winRegs u.fib.winSize (precP u.fib.prec)) :
    ∃ t, restart u = .ok t ∧ t.fib = u.fib.restarted := by
  obtain ⟨d, hd⟩ := touches_eq { u.fib with prec := u.fib.rgn.prec } (List.range 8)
  rw [restart, hp, if_neg (by decide), precFits_ok hok (by rw [hs]; exact hw), ok_bind, putPrec_same hs]
  refine ⟨_, rfl, (logAt_sameFibres ..).1.trans ?_⟩
  rw [Fibre.restarted, hd, State.setFib_fib, State.setFib_fib, hd]
  rfl

/-! ## No instruction -/

theorem stopped_poison {s : State} (h : s.fib.rgn.act = false ∨ s.fib.inev = true) (sub : Nat) (va : Word) :
    stopped ⟨s, .poison sub va false⟩ = .next (raise s 0x06 sub va false) := by
  have hc : consume s sub va false = .error ⟨s, .trap 0x06 sub va false⟩ := if_pos (by rcases h with h | h <;> simp [h])
  rw [stopped]
  dsimp only
  rw [hc]

/-- Settles O42: each instruction by the registers it writes, and a fetch that gives none by its trap. -/
theorem trapInstructions : Obligations.TrapInstructions := by
  refine ⟨fun s a n => ⟨fun hroom ha hb hg h => trap_enters hb hroom ha hg h, fun hsup htb hb => ?_,
    fun hsup htb hb hact hc hp hs hok hw => ?_, fun hroom => run_ok hroom rfl⟩,
    fun s x y code sub va => ⟨rfl, fun hc => ?_, fun h => stopped_poison h sub va⟩⟩
  · intro back
    have hback := trapReturn_back hb
    exact ⟨⟨_, tret_returns hsup htb, hback⟩, fun hact hc => ⟨_, tretRgn_returns hsup htb hact hc, hback⟩⟩
  · have hfib := trapReturn_fib hb
    obtain ⟨t, ht, hr⟩ := restart_fib (u := trapReturn s) (by rw [hfib]; exact hp) (by rw [hfib]; exact hs) (by rw [hfib]; exact hok)
      (by rw [hfib]; exact hw)
    refine ⟨t, tretRgn_restarts hsup htb hact hc ht, ?_⟩
    obtain ⟨d, hd⟩ := touches_eq { s.fib.counted.returned with prec := s.fib.counted.returned.rgn.prec } (List.range 8)
    rw [hr, hfib, Fibre.restarted, hd]
    exact ⟨rfl, rfl, rfl, rfl, rfl, rfl, bit_cleared _⟩
  · change stopped ⟨s, if code = 0x06 then .poison sub va false else .trap code sub va false⟩ = _
    rw [if_neg hc]
    rfl

end Sys2Proof.Machine

/-! # Diagnostic instructions, the hallmark's capture and the checks of results (O43) -/

namespace Sys2Proof.Machine

/-! ## Words of fields -/

/-- A field above the others of a word adds to them. -/
theorem wordOf_cons {lo w v : Nat} {r : List (Nat × Nat × Nat)} (hr : (wordOf r).toNat < 2 ^ lo) (hw : lo + w ≤ 64) :
    (wordOf ((lo, w, v) :: r)).toNat = v % 2 ^ w * 2 ^ lo + (wordOf r).toNat := by
  have hv : v % 2 ^ w * 2 ^ lo < 2 ^ 64 := by
    calc v % 2 ^ w * 2 ^ lo < 2 ^ w * 2 ^ lo := Nat.mul_lt_mul_of_pos_right (Nat.mod_lt _ (Nat.two_pow_pos w)) (Nat.two_pow_pos lo)
      _ = 2 ^ (lo + w) := by rw [Nat.pow_add, Nat.mul_comm]
      _ ≤ 2 ^ 64 := Nat.pow_le_pow_right (by decide) hw
  rw [wordOf, BitVec.toNat_or, BitVec.toNat_ofNat, Nat.mod_eq_of_lt hv, Nat.mul_comm, Nat.two_pow_add_eq_or_of_lt hr]

theorem wordOf_nil : (wordOf []).toNat = 0 := rfl

theorem ofBool_le (b : Bool) : ofBool b ≤ 1 := by cases b <;> decide

theorem ofBool_one (b : Bool) : decide (ofBool b = 1) = b := by cases b <;> rfl

/-- The word of `diag.ldc` (R445). -/
theorem checkWord_fields (x y : Bool) (syn check : BitVec 8) {v : Word}
    (hv : v = wordOf [(17, 1, ofBool x), (16, 1, ofBool y), (8, 8, syn.toNat), (0, 8, check.toNat)]) :
    bit v 17 = x ∧ bit v 16 = y ∧ bits v 8 8 = syn.toNat ∧ bits v 0 8 = check.toNat := by
  have hx := ofBool_le x
  have hy := ofBool_le y
  have hs := syn.isLt
  have hc := check.isLt
  have h0 : (wordOf [(0, 8, check.toNat)]).toNat = check.toNat := by
    rw [wordOf_cons (by decide) (by decide), wordOf_nil]
    omega
  have h8 : (wordOf [(8, 8, syn.toNat), (0, 8, check.toNat)]).toNat = syn.toNat * 2 ^ 8 + check.toNat := by
    rw [wordOf_cons (by omega) (by decide), h0]
    omega
  have h16 : (wordOf [(16, 1, ofBool y), (8, 8, syn.toNat), (0, 8, check.toNat)]).toNat =
      ofBool y * 2 ^ 16 + (syn.toNat * 2 ^ 8 + check.toNat) := by
    rw [wordOf_cons (by omega) (by decide), h8]
    omega
  have h17 : v.toNat = ofBool x * 2 ^ 17 + (ofBool y * 2 ^ 16 + (syn.toNat * 2 ^ 8 + check.toNat)) := by
    rw [hv, wordOf_cons (by omega) (by decide), h16]
    omega
  simp only [bit, bits, h17, Nat.testBit_eq_decide_div_mod_eq, Nat.shiftRight_eq_div_pow]
  refine ⟨?_, ?_, by omega, by omega⟩
  · exact (decide_eq_decide.mpr (by omega)).trans (ofBool_one x)
  · exact (decide_eq_decide.mpr (by omega)).trans (ofBool_one y)

/-! ## The diagnostic instructions (R445, R446) -/

section
variable {s t : State} {d a b : BitVec 3} {p : Piece} (hroom : Room s 1) (hsup : s.fib.sup = true) (ha : FullG s a)
include hroom hsup ha

section
variable (hp : diagPlace s s.accStore (s.g a) = .ok (t, p))
include hp

theorem diagPoison_marks : exec (.diagPoison a) s = .next (retire (t.markPoison (p.pa / 8)) 1) :=
  run_ok hroom (by rw [supervisor_ok hsup, ok_bind, readG_full ha, ok_bind, hp, ok_bind])

theorem diagStc_stores (c r : BitVec 1) (hb : FullG s b) (hd : FullG s d) : exec (.diagStc d a b c r) s = .next (retire
    (if t.absentPa p.pa then t.logWord 0x03 (p.pa / 8) 8 else t.storeCheck p (s.g b) (s.g d) (c == 1) (r == 1)) 1) := by
  refine run_ok hroom ?_
  rw [supervisor_ok hsup, ok_bind, readG_full ha, ok_bind, readG_full hb, ok_bind, readG_full hd, ok_bind, hp, ok_bind]
  dsimp only
  split <;> rfl

end

section
variable (hp : diagPlace s s.accLoad (s.g a) = .ok (t, p)) (hd : FreeG s d)
include hp hd

theorem diagLdr_reads : exec (.diagLdr d a) s =
    landed (setG (t.rawWord (p.pa / 8)) d ((t.rawWord (p.pa / 8)).storedWord (p.pa / 8))) ((t.rawWord (p.pa / 8)).parksFor [p]) 1 :=
  runLoad_ok hroom (by rw [supervisor_ok hsup, ok_bind, readG_full ha, ok_bind, destG_free hd, ok_bind, hp, ok_bind])

theorem diagLdc_reads : exec (.diagLdc d a) s =
    landed (setG (t.rawWord (p.pa / 8)) d (wordOf [(17, 1, ofBool ((t.rawWord (p.pa / 8)).poisonedWord (p.pa / 8))),
      (16, 1, ofBool (!(t.rawWord (p.pa / 8)).emptyWord (p.pa / 8))), (8, 8, ((t.rawWord (p.pa / 8)).syndrome (p.pa / 8)).toNat),
      (0, 8, (checkByte ((t.rawWord (p.pa / 8)).codeWord (p.pa / 8)) 65 ^^^ (t.rawWord (p.pa / 8)).syndrome (p.pa / 8)).toNat)]))
      ((t.rawWord (p.pa / 8)).parksFor [p]) 1 :=
  runLoad_ok hroom (by rw [supervisor_ok hsup, ok_bind, readG_full ha, ok_bind, destG_free hd, ok_bind, hp, ok_bind])

end

theorem diagFence_far (h : 1024 ≤ (s.g a).toNat) :
    exec (.diagFence a) s = .next (raise s 0x01 4 (BitVec.ofNat 64 s.core.fetched) false) := by
  have hc : decide ((s.g a).toNat < 1024) = false := decide_eq_false (Nat.not_lt.mpr h)
  change execDiagFence a s = _
  rw [execDiagFence, supervisor_ok hsup, readG_full ha]
  dsimp only
  rw [hc, ensure_false, runThen, ending_room hroom]
  rfl

theorem diagFence_near (h : (s.g a).toNat < 1024) : exec (.diagFence a) s = .next (match s.boundCore (s.g a).toNat with
    | some core => (retire s 1).startRecovery core 0x17 2
    | none => retire s 1) := by
  change execDiagFence a s = _
  rw [execDiagFence, supervisor_ok hsup, readG_full ha]
  dsimp only
  rw [runThen_ok hroom (t := s) (by rw [ensure_ok (by simpa using h), ok_bind])]
  rfl

theorem diagHmrd_reads (hd : FreeG s d) (hv : bits (s.g a) 18 46 = 0) : exec (.diagHmrd d a) s = wrote s d
    (if s.blockExists (bits (s.g a) 0 10) (bits (s.g a) 10 5) then
      (assoc (32 * bits (s.g a) 0 10 + bits (s.g a) 10 5) [] s.dev.hmwords).getD (bits (s.g a) 15 3) 0 else BitVec.allOnes 64) 1 :=
  run_ok hroom (by
    rw [supervisor_ok hsup, ok_bind, readG_full ha, ok_bind, ensure_ok (by simp [hv]), ok_bind]
    exact writeG_free hd _)

end

theorem rawWord_sound {t : State} (h : t.dev.soft = []) (w : Nat) : t.rawWord w = t := by
  rw [State.rawWord, h]
  rfl

/-! ## HALLMARK_LATCH (R443, R444, R457) -/

/-- HMCTL as a capture that is held leaves it (R442, R443). -/
theorem held_hmctl (h : Word) {src : Nat} (hs : src < 4) {w : Word}
    (hw : w = (h &&& 0x1000000000000000#64) ||| wordOf [(63, 1, 1), (61, 2, src)]) :
    bit w 63 = true ∧ bits w 61 2 = src ∧ bit w 60 = bit h 60 := by
  have h61 : (wordOf [(61, 2, src)]).toNat = src * 2 ^ 61 := by
    rw [wordOf_cons (by decide) (by decide), wordOf_nil]
    omega
  have h63 : (wordOf [(63, 1, 1), (61, 2, src)]).toNat = 2 ^ 61 * (4 + src) := by
    rw [wordOf_cons (by omega) (by decide), h61]
    omega
  have hand : (h &&& 0x1000000000000000#64).toNat = (bit h 60).toNat * 2 ^ 60 := by
    rw [BitVec.toNat_and, show (0x1000000000000000#64).toNat = 2 ^ 60 from rfl, Nat.and_two_pow]
    rfl
  have hle := Bool.toNat_le (bit h 60)
  have hn : w.toNat = 2 ^ 61 * (4 + src) + (bit h 60).toNat * 2 ^ 60 := by
    rw [hw, BitVec.toNat_or, hand, h63, Nat.or_comm, Nat.two_pow_add_eq_or_of_lt (by omega)]
  have hone : decide ((bit h 60).toNat = 1) = bit h 60 := by cases bit h 60 <;> rfl
  have hbit {i : Nat} : bit w i = decide (w.toNat / 2 ^ i % 2 = 1) := Nat.testBit_eq_decide_div_mod_eq
  rw [hbit, hbit, bits, Nat.shiftRight_eq_div_pow, hn]
  refine ⟨decide_eq_true (by omega), by omega, ?_⟩
  exact (decide_eq_decide.mpr (by omega)).trans hone

/-- The value under a key that a list in front has. -/
theorem assoc_append {β : Type} {P : β → Prop} {k : Nat} {d : β} {l r : List (Nat × β)} (hP : ∀ e ∈ l, P e.2)
    (hk : ∃ e ∈ l, e.1 = k) : P (assoc k d (l ++ r)) := by
  induction l with
  | nil =>
    obtain ⟨e, he, -⟩ := hk
    exact absurd he List.not_mem_nil
  | cons x xs ih =>
    obtain ⟨i, v⟩ := x
    rw [List.cons_append, assoc]
    split
    · exact hP (i, v) (by simp)
    · obtain ⟨e, he, hek⟩ := hk
      refine ih (fun y hy => hP y (List.mem_cons_of_mem _ hy)) ⟨e, ?_, hek⟩
      rcases List.mem_cons.mp he with rfl | h
      · exact absurd hek (by assumption)
      · exact h

theorem latchWords_none (s : State) (n : Nat) : s.latchWords n [] = [] := by
  simp [State.latchWords]

theorem latchWords_head {s : State} {n : Nat} {locs : List Nat} : ∀ e ∈ s.latchWords n locs, e.2.head? = some (BitVec.ofNat 64 n) := by
  intro e he
  obtain ⟨x, -, rfl⟩ := List.mem_map.mp he
  rfl

theorem chipWords_keys (s : State) (c : Chip) (free : Nat → Word) {k : Nat} (h : k ≤ 10 ∨ k = 12) :
    ∃ e ∈ s.chipWords c free, e.1 = 32 * c.num + k := by
  refine (List.mem_map (f := Prod.fst)).mp ?_
  have hk : k < 4 ∨ k ∈ [4, 5, 6, 7, 8, 9, 10, 12] := by
    simp only [List.mem_cons, List.not_mem_nil]
    omega
  rw [State.chipWords, List.map_append, List.mem_append, List.map_map]
  refine hk.imp (fun h => List.mem_map.mpr ⟨k, List.mem_range.mpr h, rfl⟩) fun h => ?_
  exact List.mem_map_of_mem (f := fun k => 32 * c.num + k) h

theorem latchWords_own {s : State} {n : Nat} {locs : List Nat} (hl : s.chip.num ∈ locs) {k : Nat} (h : k ≤ 10 ∨ k = 12) :
    ∃ e ∈ s.latchWords n locs, e.1 = 32 * s.chip.num + k := by
  obtain ⟨e, he, hk⟩ := chipWords_keys s s.chip (fun i => Config.hallmarkCount s.ctr (16 * s.chip.num + i)) h
  refine ⟨(e.1, BitVec.ofNat 64 n :: e.2), List.mem_map_of_mem (List.mem_append_left _ (List.mem_flatMap.mpr ⟨s.chip, ?_, he⟩)), hk⟩
  exact List.mem_filter.mpr ⟨List.mem_cons_self, by simpa using hl⟩

theorem chip_live {s : State} (hn : s.chip.num < 256) (hs : s.chip.state = 5) : s.chip.num ∈ s.liveLocs :=
  List.mem_append_left _ (List.mem_map_of_mem (List.mem_filter.mpr ⟨List.mem_cons_self, by simp [hn, hs]⟩))

/-- The chiplets that latch now (R443). -/
def State.latching (s : State) (l : Latch) : List Nat := s.liveLocs.filter fun c => !l.taken.contains c && decide (l.tick ≤ s.tickAt c)

/-- The hallmark words after the chiplets that latch now have (R443). -/
def State.latchedWords (s : State) (l : Latch) : List (Nat × List Word) :=
  s.latchWords l.tick (s.latching l) ++ s.dev.hmwords.filter fun e => !((s.latchWords l.tick (s.latching l)).any fun x => x.1 == e.1)

section
variable {s : State} {l : Latch}

theorem latchedWords_none (h : s.latching l = []) : s.latchedWords l = s.dev.hmwords := by
  rw [State.latchedWords, h, latchWords_none]
  simp

theorem latchedWords_own (hn : s.chip.num < 256) (hs : s.chip.state = 5) (ht : l.taken.contains s.chip.num = false)
    (htick : l.tick ≤ s.tickAt s.chip.num) {k : Nat} (h : k ≤ 10 ∨ k = 12) :
    (assoc (32 * s.chip.num + k) [] (s.latchedWords l)).head? = some (BitVec.ofNat 64 l.tick) :=
  assoc_append (P := fun ws => ws.head? = some (BitVec.ofNat 64 l.tick)) latchWords_head
    (latchWords_own (List.mem_filter.mpr ⟨chip_live hn hs, by rw [ht]; simpa using htick⟩) h)

variable (hl : s.dev.latch = some l)
include hl

theorem hallmarkLatch_eq : exec .hallmarkLatch s = .next (if l.tick ≤ s.dev.ticks then
    (s.setDev fun d => { d with latch := some { l with taken := l.taken ++ s.latching l }, hmwords := s.latchedWords l }).setDev
      fun d => { d with latch := none, hmtick := BitVec.ofNat 64 l.tick,
                        hmctl := (d.hmctl &&& 0x1000000000000000#64) ||| wordOf [(63, 1, 1), (61, 2, l.src)] }
    else s.setDev fun d => { d with latch := some { l with taken := l.taken ++ s.latching l }, hmwords := s.latchedWords l }) := by
  change execHallmarkLatch s = _
  rw [execHallmarkLatch, hl]
  rfl

end

/-! ## Checks of results (R288, R304, R326, R439) -/

section
variable {s t : State} {x : BitVec 32} {go : State → Host.Outcome State Fault Refusal}

theorem checked_clean (h : s.upset = 0) : checked x s go = go s := by rw [checked, h]

variable (hgo : go s = .next t)
include hgo

theorem checked_stays (h : t.core.retired ≤ s.core.retired) : checked x s go = .next t := by
  rw [checked]
  split
  · exact hgo
  · rw [hgo]
    exact if_pos h

variable (h : s.core.retired < t.core.retired)
include h

theorem checked_upset {n : Nat} (hu : s.upset = n + 1) : checked x s go = match checkOf x with
    | .none => .next t
    | .stage => if n = 0 then go (s.logAssay 0x09) else .next s.assayFence
    | .unit sub =>
      if n = 0 then .next t
      else .next (raise (s.passTurn (if sub = 0 then .vector else if sub = 1 then .array else .engine)) 0x16 sub s.fib.pc false) := by
  rw [checked, hu]
  dsimp only
  rw [hgo]
  exact if_neg (Nat.not_le.mpr h)

theorem checked_none (hc : checkOf x = .none) : checked x s go = .next t := by
  rcases hu : s.upset with _ | n
  · rw [checked_clean hu, hgo]
  · rw [checked_upset hgo h hu, hc]

theorem checked_stage_once (hc : checkOf x = .stage) (hu : s.upset = 1) : checked x s go = go (s.logAssay 0x09) := by
  rw [checked_upset hgo h hu, hc]
  rfl

theorem checked_stage_twice (hc : checkOf x = .stage) (hu : 2 ≤ s.upset) : checked x s go = .next s.assayFence := by
  rw [checked_upset hgo h (n := s.upset - 1) (by omega), hc]
  exact if_neg (by omega)

theorem checked_unit_once {sub : Nat} (hc : checkOf x = .unit sub) (hu : s.upset = 1) : checked x s go = .next t := by
  rw [checked_upset hgo h hu, hc]
  rfl

theorem checked_unit_twice {sub : Nat} (hc : checkOf x = .unit sub) (hu : 2 ≤ s.upset) : checked x s go =
    .next (raise (s.passTurn (if sub = 0 then .vector else if sub = 1 then .array else .engine)) 0x16 sub s.fib.pc false) := by
  rw [checked_upset hgo h (n := s.upset - 1) (by omega), hc]
  exact if_neg (by omega)

end

theorem passTurn_gone (s : State) (k : UnitKind) : (s.passTurn k).fib = s.fib ∧ ((s.passTurn k).chip.unit k).last = s.coreIndex ∧
    ((s.passTurn k).chip.unit k).queue.any (fun e => e.fib == s.fib.id) = false := by
  have hq (l : List Queued) : (l.filter fun e => e.fib != s.fib.id).any (fun e => e.fib == s.fib.id) = false :=
    List.any_eq_false.mpr fun e he => by simpa using (List.mem_filter.mp he).2
  cases k <;> exact ⟨rfl, rfl, hq _⟩

/-! ### The check that covers an instruction -/

section
variable {x : BitVec 32} {m : Nat} (hx : x.extractLsb' 25 7 = BitVec.ofNat 7 m)
include hx

theorem major_toNat (h : m < 128) : (x.extractLsb' 25 7).toNat = m := by
  rw [hx, BitVec.toNat_ofNat]
  exact Nat.mod_eq_of_lt h

theorem checkOf_stage (h : (1 ≤ m ∧ m ≤ 0x12) ∨ (0x40 ≤ m ∧ m ≤ 0x45) ∨ (0x60 ≤ m ∧ m ≤ 0x64)) : checkOf x = .stage := by
  rw [checkOf, major_toNat hx (by omega)]
  refine if_pos ?_
  rcases h with ⟨h, g⟩ | ⟨h, g⟩ | ⟨h, g⟩ <;> simp [h, g]

theorem checkOf_vector (h : 0x50 ≤ m ∧ m ≤ 0x56) : checkOf x = .unit 0 := by
  have hf (fn : Nat) : formsAddress m fn = false := by
    obtain ⟨h, g⟩ := h
    interval_cases m <;> rfl
  rw [checkOf, major_toNat hx (by omega)]
  dsimp only
  rw [hf, if_neg, if_pos]
  · simpa using h
  · simp only [Bool.or_false, Bool.or_eq_true, Bool.and_eq_true, decide_eq_true_eq]
    omega

theorem checkOf_array (h : m = 0x68) : checkOf x = .unit 1 := by
  rw [checkOf, major_toNat hx (by omega), h]
  rfl

theorem checkOf_engine (h : m = 0x6D) : checkOf x = .unit 3 := by
  rw [checkOf, major_toNat hx (by omega), h]
  rfl

end

/-! ### Steps of the posting-list engine -/

theorem servedEngine_fib (s : State) : (servedEngine s).fib = s.fib := rfl

theorem agentChecked_engine {s : State} {j : EngineJob} (hlive : s.fib.live = true) (hp : s.fib.park = some (.engine j))
    (hf : s.focus s.fib.id = s) (hturn : (s.chip.engine.next.any fun e => e.fib == s.fib.id) = true) (hu : 2 ≤ s.upset) :
    ∃ u, agentChecked (.plEngineStep s.fib.id) s = .next (raise u 0x16 3 s.fib.pc false) ∧ u.fib = s.fib := by
  have hjob : (s.fibre? s.fib.id).bind Fibre.engineJob = some j := by
    rw [fibre?_focus hlive, Option.bind_some, Fibre.engineJob, hp]
  rw [agentChecked, if_neg (by omega)]
  rw [engineAssay, hjob]
  dsimp only
  rw [hf, hturn, if_pos rfl]
  exact ⟨_, rfl, rfl⟩

/-- Settles O43: each instruction by its place, the capture by the tick it waits for, a check by how often it fails. -/
theorem diagnostics : Obligations.Diagnostics := by
  refine ⟨fun s t d a b c r p hroom hsup ha => ⟨fun hp => ⟨fun hb hd h => ?_, fun hb hd h => ?_, diagPoison_marks hroom hsup ha hp⟩,
    fun hp hd => ?_, fun h => ?_, diagFence_far hroom hsup ha, fun hd hv => ?_⟩, fun s l hl hsrc => ?_,
    fun s t x go f => ⟨checked_clean, checked_stays, fun hgo h => ⟨checked_none hgo h, fun hc => ⟨checked_stage_once hgo h hc,
      checked_stage_twice hgo h hc⟩, fun sub hc => ⟨checked_unit_once hgo h hc, checked_unit_twice hgo h hc⟩⟩, passTurn_gone s,
      fun m hx => ⟨checkOf_stage hx, checkOf_vector hx, checkOf_array hx, checkOf_engine hx⟩, fun j hlive hid hp hf hturn hu => ?_⟩⟩
  · rw [diagStc_stores hroom hsup ha hp c r hb hd, h]
    rfl
  · rw [diagStc_stores hroom hsup ha hp c r hb hd, h]
    rfl
  · intro w u
    exact ⟨⟨_, diagLdc_reads hroom hsup ha hp hd, checkWord_fields _ _ _ _ rfl⟩, diagLdr_reads hroom hsup ha hp hd,
      fun h => rawWord_sound h w⟩
  · rw [diagFence_near hroom hsup ha h]
    exact ⟨fun hc => by rw [hc], fun core hc => by rw [hc]⟩
  · rw [diagHmrd_reads hroom hsup ha hd hv]
    exact ⟨fun h => by rw [h]; rfl, fun h => by rw [h]; rfl⟩
  · intro due
    refine ⟨_, hallmarkLatch_eq hl, ?_⟩
    by_cases h : l.tick ≤ s.dev.ticks
    · obtain ⟨h63, h61, h60⟩ := held_hmctl s.dev.hmctl hsrc rfl
      rw [if_pos h]
      exact ⟨rfl, rfl, rfl, fun hn => absurd hn (Nat.not_lt.mpr h), fun _ => ⟨rfl, rfl, h63, h61, h60⟩, latchedWords_none,
        fun hn hs ht htick k hk => latchedWords_own hn hs ht htick hk⟩
    · rw [if_neg h]
      exact ⟨rfl, rfl, rfl, fun _ => ⟨rfl, rfl, rfl⟩, fun hn => absurd hn h, latchedWords_none,
        fun hn hs ht htick k hk => latchedWords_own hn hs ht htick hk⟩
  · subst hid
    exact agentChecked_engine hlive hp hf hturn hu

end Sys2Proof.Machine

/-! # What memory, the error log and the launch records leave of the queues (O47, O49)

Writes at homes, detection and records of the error log change neither the queues nor the launches of the dispatcher. -/

namespace Sys2Proof.Machine

/-- What the dispatcher keeps of its queues and launches. -/
def State.books (s : State) : Vector Queue 16 × List Launch × Nat := (s.dev.queues, s.dev.launches, s.dev.lastLid)

theorem books_queues {s t : State} (h : t.books = s.books) : t.dev.queues = s.dev.queues := congrArg Prod.fst h
theorem books_launches {s t : State} (h : t.books = s.books) : t.dev.launches = s.dev.launches := congrArg (fun b => b.2.1) h
theorem books_lastLid {s t : State} (h : t.books = s.books) : t.dev.lastLid = s.dev.lastLid := congrArg (fun b => b.2.2) h

theorem setDev_books (s : State) (f : Device → Device) (hq : (f s.dev).queues = s.dev.queues) (hl : (f s.dev).launches = s.dev.launches)
    (hn : (f s.dev).lastLid = s.dev.lastLid) : (s.setDev f).books = s.books := by
  simp only [State.books, State.setDev_dev, hq, hl, hn]

theorem foldl_books {α : Type} (f : State → α → State) (hf : ∀ s a, (f s a).books = s.books) (l : List α) (s : State) :
    (l.foldl f s).books = s.books :=
  List.foldlRecOn (motive := fun t => t.books = s.books) l f rfl fun t h a _ => (hf t a).trans h

@[simp] theorem wrote_books (s : State) : s.wrote.books = s.books := rfl
@[simp] theorem setFull_books (s : State) (w : Nat) (b : Bool) : (s.setFull w b).books = s.books := rfl
@[simp] theorem putWord_books (s : State) (pa : Nat) (bs : List Byte) : (s.putWord pa bs).books = s.books := rfl

@[simp] theorem logAt_books (s : State) (a b c d e f g i : Nat) : (s.logAt a b c d e f g i).books = s.books := by
  unfold State.logAt
  dsimp only
  split
  · split <;> rfl
  · rw [setDev_books _ _ rfl rfl rfl, wrote_books]
    split
    · rfl
    · exact foldl_books _ (fun t (p : Nat × List Byte) => putWord_books t p.1 p.2) _ s

@[simp] theorem logWord_books (s : State) (a w n : Nat) : (s.logWord a w n).books = s.books := by
  unfold State.logWord
  split <;> exact logAt_books ..

@[simp] theorem putStoredWord_books (s : State) (w : Nat) (v : Word) : (s.putStoredWord w v).books = s.books := by
  unfold State.putStoredWord
  split <;> rfl

@[simp] theorem detectWord_books (s : State) (w : Nat) : (s.detectWord w).books = s.books := by
  unfold State.detectWord
  split
  · dsimp only
    split
    · exact logWord_books ..
    · split
      · exact logWord_books ..
      · exact (logWord_books ..).trans (putStoredWord_books ..)
      · exact logWord_books ..
  · split
    · rfl
    · dsimp only
      split <;> exact logWord_books ..

@[simp] theorem detect_books (s : State) (pa n : Nat) : (s.detect pa n).books = s.books := by
  unfold State.detect
  split
  · rfl
  · exact foldl_books _ (fun t i => detectWord_books t _) _ s

@[simp] theorem writeWord_books (s : State) (pa : Nat) (bs : List Byte) : (s.writeWord pa bs).books = s.books := by
  unfold State.writeWord
  extract_lets w t
  have ht : t.books = s.books := by
    unfold t
    split
    · exact detect_books s ..
    · rfl
  split
  · exact logWord_books s ..
  · split
    · exact (logWord_books t ..).trans ht
    · exact ht

@[simp] theorem writeBlock_books (s : State) (pa : Nat) (bs : List Byte) : (s.writeBlock pa bs).books = s.books :=
  foldl_books (fun t (p : Nat × List Byte) => t.writeWord p.1 p.2) (fun t p => writeWord_books t p.1 p.2) _ s

@[simp] theorem writeHome_books (s : State) (pa : Nat) (bs : List Byte) : (s.writeHome pa bs).books = s.books :=
  foldl_books (fun t (p : Nat × List Byte) => t.writeBlock p.1 p.2) (fun t p => writeBlock_books t p.1 p.2) _ s

@[simp] theorem holdSlice_books (s : State) (k : BitVec 512) (line home : Nat) : (s.holdSlice k line home).books = s.books := by
  unfold State.holdSlice
  split <;> rfl

@[simp] theorem dirtyLine_books (s : State) (k line : Nat) : (s.dirtyLine k line).books = s.books := by
  unfold State.dirtyLine
  split
  · rfl
  · split
    · rfl
    · rw [setDev_books _ _ rfl rfl rfl, holdSlice_books]

@[simp] theorem takeLine_books (s : State) (k line : Nat) : (s.takeLine k line).books = s.books := by
  unfold State.takeLine
  split
  · exact dirtyLine_books ..
  · exact (setDev_books _ _ rfl rfl rfl).trans (dirtyLine_books ..)

@[simp] theorem perform_books (s : State) (k pa : Nat) (bs : List Byte) : (s.perform k pa bs).books = s.books := by
  unfold State.perform
  split <;> simp

@[simp] theorem agentWrite_books (s : State) (asid va : Nat) (bs : List Byte) : (s.agentWrite asid va bs).books = s.books :=
  foldl_books _ (fun t p => by
    split
    · rfl
    · exact perform_books ..) _ s

@[simp] theorem agentDetect_books (s : State) (asid va n : Nat) : (s.agentDetect asid va n).books = s.books :=
  foldl_books _ (fun t p => by
    split
    · rfl
    · exact detect_books ..) _ s

@[simp] theorem logQueue_books (s : State) (q n : Nat) : (s.logQueue q n).books = s.books := logAt_books ..

@[simp] theorem putDesc_books (s : State) (q off v : Nat) : (s.putDesc q off v).books = s.books := writeHome_books ..

end Sys2Proof.Machine

/-! # Launch queues (O47) -/

namespace Sys2Proof.Machine

/-! ## The status word of a launch -/

/-- What `lch.stat` says of a launch (R426). -/
def LaunchState.word (l : LaunchState) : Word :=
  match l with
  | .ended st _ => wordOf [(8, 8, st), (0, 3, 6)]
  | x => wordOf [(0, 3, x.code)]

theorem word_ended {st : Nat} (h : st < 256) (r : Nat) : LaunchState.word (.ended st r) = BitVec.ofNat 64 (6 + 256 * st) := by
  refine BitVec.eq_of_toNat_eq ?_
  have h0 : (wordOf [(0, 3, 6)]).toNat = 6 := by decide
  rw [LaunchState.word, wordOf_cons (by rw [h0]; decide) (by decide), h0, BitVec.toNat_ofNat]
  omega

theorem word_going {l : LaunchState} (h : ∀ st r, l ≠ .ended st r) : l.word = BitVec.ofNat 64 l.code := by
  cases l with
  | ended st r => exact absurd rfl (h st r)
  | _ => decide

/-! ## `launch` -/

section
variable {s t u w : State} {d a b : GReg} {ps : List Piece} (hroom : Room s 1) (ha : FullG s a) (hb : FullG s b) (hd : FreeG s d)
include hroom ha

section
include hb hd
variable (h4 : bits (s.g b) 4 60 = 0) (h64 : (s.g a).toNat % 64 = 0) (hen : (s.queue (bits (s.g b) 0 4)).en = true)
  (huser : s.fib.sup = true ∨ (s.queue (bits (s.g b) 0 4)).uen = true) (hasid : (s.queue (bits (s.g b) 0 4)).asid = s.fib.asid)
  (hrel : s.release 6 = .ok t)
include h4 h64 hen huser hasid hrel

theorem launch_full (h : 2 ^ (s.queue (bits (s.g b) 0 4)).rl ≤ t.descWord (bits (s.g b) 0 4) 24 - (s.queue (bits (s.g b) 0 4)).head) :
    exec (.launch d a b) s = wrote t d (BitVec.allOnes 64) 1 := by
  refine (runLoad_ok hroom (parks := false) ?_).trans rfl
  rw [readG_full ha, ok_bind, readG_full hb, ok_bind, destG_free hd, ok_bind, ensure_ok (by simp [h4]), ok_bind, ensure_ok (by simp [h64]),
    ok_bind]
  dsimp only
  rw [ensure_ok (by rcases huser with hu | hu <;> simp [hen, hu, hasid]), ok_bind, hrel, ok_bind]
  exact if_pos h

theorem launch_rings {v : State} {rec_ : List Byte}
    (h : t.descWord (bits (s.g b) 0 4) 24 - (s.queue (bits (s.g b) 0 4)).head < 2 ^ (s.queue (bits (s.g b) 0 4)).rl)
    (hacc : t.access t.accLoad (s.g a) 64 false = .ok (u, ps)) (hown : u.ownFirst false ps = .ok w)
    (hload : w.loadPieces false ps = .ok (v, rec_)) {x : State}
    (hx : x = (((v.agentWrite (s.queue (bits (s.g b) 0 4)).asid ((s.queue (bits (s.g b) 0 4)).ring + 64 *
      (t.descWord (bits (s.g b) 0 4) 24 % 2 ^ (s.queue (bits (s.g b) 0 4)).rl)) rec_).putDesc (bits (s.g b) 0 4) 24
        (t.descWord (bits (s.g b) 0 4) 24 + 1)).makeFull (((s.queue (bits (s.g b) 0 4)).pa + 24) / 8))) :
    exec (.launch d a b) s = landed (setG x d (BitVec.ofNat 64 (t.descWord (bits (s.g b) 0 4) 24))) (x.parksFor ps) 1 := by
  subst hx
  refine runLoad_ok hroom ?_
  rw [readG_full ha, ok_bind, readG_full hb, ok_bind, destG_free hd, ok_bind, ensure_ok (by simp [h4]), ok_bind, ensure_ok (by simp [h64]),
    ok_bind]
  dsimp only
  rw [ensure_ok (by rcases huser with hu | hu <;> simp [hen, hu, hasid]), ok_bind, hrel, ok_bind]
  rw [if_neg (Nat.not_le.mpr h), hacc, ok_bind, hown, ok_bind, hload, ok_bind]

end

/-! ## `lch.stat` -/

section
include hd
variable (h12 : bits (s.g a) 12 52 = 0)
include h12

theorem lchStat_reads : exec (.lchStat d a) s = wrote s d
    (match (s.launch? (s.g a).toNat).filter fun l => l.asid == s.fib.asid with
      | none => 0
      | some l => l.state.word) 1 := by
  refine run_ok hroom ?_
  rw [readG_full ha, ok_bind, ensure_ok (by simp [h12]), ok_bind]
  dsimp only
  rw [writeG_free hd]
  refine congrArg (fun v => Except.ok (setG s d v)) ?_
  generalize Option.filter _ (s.launch? _) = l
  cases l <;> rfl

theorem lchStat_own {l : Launch} (hl : s.launch? (s.g a).toNat = some l) (hasid : l.asid = s.fib.asid) :
    exec (.lchStat d a) s = wrote s d l.state.word 1 := by
  rw [lchStat_reads hroom ha hd h12, hl, Option.filter_some_pos (by simpa using hasid)]

theorem lchStat_other (h : ∀ l, s.launch? (s.g a).toNat = some l → l.asid ≠ s.fib.asid) :
    exec (.lchStat d a) s = wrote s d 0 1 := by
  have hn : (s.launch? (s.g a).toNat).filter (fun l => l.asid == s.fib.asid) = none :=
    Option.filter_eq_none_iff.mpr fun l hl => by simpa using h l hl
  rw [lchStat_reads hroom ha hd h12, hn]

end

/-! ## `lq.set`, `lch.abort` and `lch.resume` -/

variable (hsup : s.fib.sup = true)
include hsup

theorem lqSet_off (hb : FullG s b) (h0 : s.g b = 0) :
    exec (.lqSet a b) s = .next (retire (s.onQueue (bits (s.g a) 0 4) fun x => { x with en := false }) 1) := by
  refine run_ok hroom ?_
  rw [supervisor_ok hsup, ok_bind, readG_full ha, ok_bind, readG_full hb, ok_bind, if_pos h0]

/-- The queue that a descriptor names (R409). -/
def queueOf (pa : Nat) (m : List Byte) (served : Nat) : Queue :=
  { en := field m 10 1 % 2 == 1, pa := pa, ring := field m 0 8, rl := field m 8 1, pmax := field m 9 1
    uen := field m 10 1 / 2 % 2 == 1, sup := field m 10 1 / 4 % 2 == 1, cl := field m 11 1, asid := field m 12 2
    head := field m 16 8, tail := field m 16 8, cring := field m 32 8, ctail := field m 40 8, badHead := none
    stopped := false, served := served }

theorem lqSet_on {leaf : Word} {pa : Nat} {x : Nat} {v : State} {m : List Byte} (hb : FullG s b) (h0 : s.g b ≠ 0) (h64 : (s.g b).toNat % 64 = 0)
    (h57 : (s.g b).toNat < 2 ^ 57) (hc : s.check { s.accLoad with store := true } (s.g b).toNat = .ok (t, leaf, pa)) (hdram : isDram pa = true)
    (hleaf : bit leaf 5 = true) {p : Piece} (hp : p = { pa := pa, va := (s.g b).toNat, len := 64, leaf := leaf }) (hhome : t.pieceHome p = .ok x)
    (hown : t.ownFirst true [p] = .ok u) (hload : u.loadPieces true [p] = .ok (v, m)) (hgood : descriptorGood m = true) :
    exec (.lqSet a b) s =
      .next (retire (v.onQueue (bits (s.g a) 0 4) fun _ => queueOf pa m (v.queue (bits (s.g a) 0 4)).served) 1) := by
  subst hp
  have hspace : s.inSpace (s.g b) 64 = .ok () := by
    rw [State.inSpace, if_neg (by omega), if_neg (by omega)]
  refine run_ok hroom ?_
  rw [supervisor_ok hsup, ok_bind, readG_full ha, ok_bind, readG_full hb, ok_bind, if_neg h0, ensure_ok (by simp [h64]), ok_bind, hspace,
    ok_bind, hc, ok_bind]
  dsimp only
  rw [ensure_ok (by simp [hdram, hleaf]), ok_bind, hhome, ok_bind, hown, ok_bind, hload, ok_bind]
  dsimp only
  rw [ensure_ok hgood, ok_bind]
  rfl

theorem lchAbort_eq : exec (.lchAbort a) s = .next (match s.liveLaunch? (s.g a).toNat with
    | none => retire s 1
    | some l => (retire s 1).endLaunch (s.g a).toNat (if l.stall then 2 else 3) (if l.stall then 0x15 else 0)) := by
  have hbody : (do
      supervisor s 0
      let _ ← readG s a
      .ok s : Ex State) = .ok s := by rw [supervisor_ok hsup, ok_bind, readG_full ha, ok_bind]
  change execLchAbort a s = _
  rw [execLchAbort, runThen_ok hroom hbody]
  rfl

/-- A relocated skein is resumed where it has room (R425, R426). -/
def State.resume (s : State) (l : Launch) (skn : Nat) : State :=
  match s.skein? l.lid skn with
  | none => s
  | some k => if s.fitsBack l k then s.restoreSkein l skn k.core else s

theorem lchResume_none (h : s.liveLaunch? (s.g a).toNat = none) : exec (.lchResume a) s = .next (retire s 1) := by
  refine run_ok hroom ?_
  rw [supervisor_ok hsup, ok_bind, readG_full ha, ok_bind, h]

theorem lchResume_each {l : Launch} (h : s.liveLaunch? (s.g a).toNat = some l) :
    exec (.lchResume a) s = .next (retire ((l.moved.foldl (fun s skn => s.resume l skn) s).settleLaunch l.lid) 1) := by
  refine run_ok hroom ?_
  rw [supervisor_ok hsup, ok_bind, readG_full ha, ok_bind, h]
  rfl

end

/-- `ckpt` (R426). -/
theorem ckpt_saves {s t : State} {l : Launch} (hroom : Room s 1) (hg : s.fib.guest = false) (hs : settled s = .ok ())
    (hp : s.fib.anyPending = false) (he : s.fib.evf = true → s.skein.anyPending = false) (hl : s.myLaunch = some l)
    (hrel : s.release 6 = .ok t) : exec .ckpt s = .next (retire ((t.saveFibre l { t.fib with pc := t.fib.pc + 4 } t.skein).setFib
      fun f => { f with dirty := Vector.replicate 48 false }) 1) := by
  have hnone : (s.fib.anyPending || (s.fib.evf && s.skein.anyPending)) = false := by
    rw [hp, Bool.false_or, Bool.and_eq_false_imp]
    exact he
  refine run_ok hroom ?_
  rw [notGuest_ok hg, ok_bind, hs, ok_bind, hnone, if_neg (by decide), hl]
  dsimp only
  rw [hrel, ok_bind]

/-! ## LAUNCH_DOORBELL -/

theorem onQueue_queue {s : State} {q : Nat} (hq : q < 16) (f : Queue → Queue) : (s.onQueue q f).queue q = f (s.queue q) :=
  vgetD_set!_same _ hq _ _

theorem readWait_queues (s : State) (l : Launch) : (s.readWait l).dev.queues = s.dev.queues ∧ (s.readWait l).fib = s.fib ∧
    (s.readWait l).dev.lastLid = s.dev.lastLid := by
  have hlog := (logAt_onlyDev s 0x10 0 0 12 (2 * 256) 0xFFFF (s.queue l.q).pa l.recno).frame.1
  unfold State.readWait
  split
  · exact ⟨rfl, rfl, rfl⟩
  · split
    · exact ⟨rfl, rfl, rfl⟩
    · split
      · exact ⟨books_queues (logQueue_books s ..), hlog, books_lastLid (logQueue_books s ..)⟩
      · split <;> exact ⟨rfl, rfl, rfl⟩

theorem readWaits_queues (s : State) : s.readWaits.dev.queues = s.dev.queues ∧ s.readWaits.fib = s.fib := by
  refine List.foldlRecOn (motive := fun t => t.dev.queues = s.dev.queues ∧ t.fib = s.fib) s.dev.launches State.readWait ⟨rfl, rfl⟩
    fun t h l _ => ?_
  obtain ⟨hq, hf⟩ := h
  obtain ⟨gq, gf, -⟩ := readWait_queues t l
  exact ⟨gq.trans hq, gf.trans hf⟩

/-- A queue stops: its TAIL is out of range (R410). -/
def State.stopQueue (s : State) (q v : Nat) : State := (s.logQueue q v).onQueue q fun x => { x with stopped := true }

theorem stopQueue_queue {s : State} {q : Nat} (hq : q < 16) (v : Nat) :
    (s.stopQueue q v).queue q = { s.queue q with stopped := true } ∧ (s.stopQueue q v).fib = s.fib := by
  refine ⟨?_, (logAt_onlyDev ..).frame.1⟩
  rw [State.stopQueue, onQueue_queue hq, State.queue, books_queues (logQueue_books s q v), ← State.queue]

section
variable {s : State} {q : Nat} (hen : (s.queue q).en = true)
include hen

theorem launchDoorbell_idle (h : s.emptyWord (((s.queue q).pa + 24) / 8) = true ∨ s.poisonedWord (((s.queue q).pa + 24) / 8) = true) :
    exec (.launchDoorbell q) s = .next s := by
  change execLaunchDoorbell q s = _
  rw [execLaunchDoorbell, hen]
  exact if_pos (by rcases h with h | h <;> simp [h])

variable (he : s.emptyWord (((s.queue q).pa + 24) / 8) = false) (hp : s.poisonedWord (((s.queue q).pa + 24) / 8) = false)
include he hp

theorem launchDoorbell_takes : exec (.launchDoorbell q) s = .next (State.readWaits
    (if (s.queue q).stopped then s.setFull (((s.queue q).pa + 24) / 8) false
      else if s.descWord q 24 < (s.queue q).head ∨ (s.queue q).head + 2 ^ (s.queue q).rl < s.descWord q 24 then
        (s.setFull (((s.queue q).pa + 24) / 8) false).stopQueue q (s.descWord q 24)
      else (s.setFull (((s.queue q).pa + 24) / 8) false).onQueue q fun x => { x with tail := s.descWord q 24 })) := by
  change execLaunchDoorbell q s = _
  rw [execLaunchDoorbell, hen]
  dsimp only
  rw [he, hp]
  rfl

end

/-! ## RECORD_ACCEPT -/

/-- The launch that a record makes (R411, R412). -/
def Queue.launchOf (d : Queue) (q lid : Nat) (r : List Byte) : Launch where
  lid := lid
  q := q
  recno := d.head
  asid := d.asid
  sup := d.sup
  prio := 0
  record := r
  state := .waiting
  order := 0
  next := 0
  evicted := []
  exited := []
  moved := []
  phases := []
  suspended := []
  asides := []
  since := 0
  lastLeft := 0
  done := none
  late := []
  ready := false
  stall := false
  held := false
  signalled := false

/-- A launch with its priority, refused where a case of R412 meets its record. -/
def State.judged (s : State) (d : Queue) (l : Launch) : Launch :=
  match s.refusal { l with prio := min l.pri d.pmax } with
  | some r => { l with prio := min l.pri d.pmax, state := .ended 1 r }
  | none => { l with prio := min l.pri d.pmax }

/-- A launch joins those of the dispatcher (R412). -/
def State.joined (s : State) (lid : Nat) (l : Launch) : State :=
  (s.setDev fun x => { x with lastLid := lid, launches := x.launches ++ [l] }).readWait l

theorem judged_fields (s : State) (d : Queue) (l : Launch) : ((s.judged d l).lid = l.lid ∧ (s.judged d l).q = l.q ∧
    (s.judged d l).recno = l.recno ∧ (s.judged d l).asid = l.asid ∧ (s.judged d l).record = l.record) ∧ (s.judged d l).prio ≤ d.pmax ∧
    ((s.judged d l).state = l.state ∨ ∃ r, (s.judged d l).state = .ended 1 r) := by
  unfold State.judged
  split
  · exact ⟨⟨rfl, rfl, rfl, rfl, rfl⟩, Nat.min_le_right _ _, Or.inr ⟨_, rfl⟩⟩
  · exact ⟨⟨rfl, rfl, rfl, rfl, rfl⟩, Nat.min_le_right _ _, Or.inl rfl⟩

/-- A launch is as it was when its wait counter has been read, but for its readiness (R413). -/
theorem readWait_member {s : State} {l : Launch} (h : l ∈ s.dev.launches) :
    ∃ m ∈ (s.readWait l).dev.launches, m = l ∨ m = { l with ready := true } := by
  have hready : ({ l with ready := true } : Launch) ∈ (s.onLaunch l.lid fun x => { x with ready := true }).dev.launches :=
    mem_updAll_updated (f := fun x : Launch => { x with ready := true }) h (beq_self_eq_true _)
  unfold State.readWait
  split
  · exact ⟨l, h, Or.inl rfl⟩
  · split
    · exact ⟨_, hready, Or.inr rfl⟩
    · split
      · exact ⟨l, by rwa [books_launches (logQueue_books s ..)], Or.inl rfl⟩
      · split
        · exact ⟨_, hready, Or.inr rfl⟩
        · exact ⟨l, h, Or.inl rfl⟩

section
variable {s : State} {q : Nat}

theorem recordAccept_waits (h : (s.queue q).stopped = true ∨ (s.queue q).tail ≤ (s.queue q).head ∨ s.broughtUp = false ∨ s.freeLid = none) :
    exec (.recordAccept q) s = .next s := by
  change execRecordAccept q s = _
  rw [execRecordAccept]
  dsimp only
  split
  · rfl
  · rename_i hgo
    simp only [Bool.or_eq_true, not_or, Bool.not_eq_true', decide_eq_true_eq] at hgo
    obtain ⟨⟨⟨-, hstop⟩, htail⟩, hup⟩ := hgo
    have hn : s.freeLid = none := by simpa [hstop, htail, hup] using h
    rw [hn]

/-- Where the next record of a queue stands in its ring (R409). -/
def Queue.nextAt (d : Queue) : Nat := d.ring + 64 * (d.head % 2 ^ d.rl)

/-- A record in the ring takes its launch identifier, and HEAD of the descriptor rises (R410, R412). -/
def State.stamped (s : State) (d : Queue) (q lid : Nat) : State :=
  let w := field (s.agentRead d.asid d.nextAt 64) 60 4
  (s.agentWrite d.asid (d.nextAt + 60) (bytesOf 4 (w % 2 ^ 16 + lid * 2 ^ 16 + w / 2 ^ 28 * 2 ^ 28))).putDesc q 16 (d.head + 1)

/-- The state in which a record has been copied and its HEAD has risen (R410, R412). -/
def State.copied (s : State) (q lid : Nat) : State :=
  ((s.agentDetect (s.queue q).asid (s.queue q).nextAt 64).stamped (s.queue q) q lid).onQueue q fun x => { x with head := x.head + 1 }

/-- The bytes of the next record of a queue. -/
def State.nextRecord (s : State) (q : Nat) : List Byte :=
  (s.agentDetect (s.queue q).asid (s.queue q).nextAt 64).agentRead (s.queue q).asid (s.queue q).nextAt 64

theorem agentDetect_onlyDev (s : State) (asid va n : Nat) : OnlyDev s (s.agentDetect asid va n) :=
  foldl_onlyDev _ (fun t p => by
    split
    · rfl
    · exact detect_onlyDev ..) _ s

theorem stamped_frame (t : State) (d : Queue) (q lid : Nat) : (t.stamped d q lid).books = t.books ∧ OnlyDev t (t.stamped d q lid) := by
  unfold State.stamped
  dsimp only
  generalize bytesOf 4 _ = bs
  exact ⟨(putDesc_books ..).trans (agentWrite_books ..), (agentWrite_onlyDev ..).trans (writeHome_onlyDev ..)⟩

/-- HEAD rises in a state whose queues are those of `s` (R412). -/
theorem onQueue_head {u : State} (hq : q < 16) (hb : u.dev.queues = s.dev.queues) (hf : u.fib = s.fib) :
    (u.onQueue q fun x => { x with head := x.head + 1 }).queue q = { s.queue q with head := (s.queue q).head + 1 } ∧
      (u.onQueue q fun x => { x with head := x.head + 1 }).fib = s.fib := by
  refine ⟨?_, hf⟩
  rw [onQueue_queue hq, State.queue, hb, ← State.queue]

theorem copied_frame (hq : q < 16) (lid : Nat) : (s.copied q lid).queue q = { s.queue q with head := (s.queue q).head + 1 } ∧
    (s.copied q lid).fib = s.fib := by
  obtain ⟨hb, hd⟩ := stamped_frame (s.agentDetect (s.queue q).asid (s.queue q).nextAt 64) (s.queue q) q lid
  exact onQueue_head hq (books_queues (hb.trans (agentDetect_books s (s.queue q).asid (s.queue q).nextAt 64)))
    ((agentDetect_onlyDev s (s.queue q).asid (s.queue q).nextAt 64).trans hd).frame.1

variable (hen : (s.queue q).en = true) (hstop : (s.queue q).stopped = false) (htail : (s.queue q).head < (s.queue q).tail)
  (hup : s.broughtUp = true) {lid : Nat} (hlid : s.freeLid = some lid)
include hen hstop htail hup hlid

theorem recordAccept_joins : exec (.recordAccept q) s =
    .next ((s.copied q lid).joined lid ((s.copied q lid).judged (s.queue q) ((s.queue q).launchOf q lid (s.nextRecord q)))) := by
  have hgo : (!(s.queue q).en || (s.queue q).stopped || decide ((s.queue q).tail ≤ (s.queue q).head) || !s.broughtUp) = false := by
    simp [hen, hstop, hup, htail]
  change execRecordAccept q s = _
  rw [execRecordAccept]
  dsimp only
  rw [hgo, if_neg (by decide), hlid]
  rfl

end

theorem joined_frame (t : State) (lid : Nat) (l : Launch) : (t.joined lid l).dev.queues = t.dev.queues ∧ (t.joined lid l).fib = t.fib ∧
    (t.joined lid l).dev.lastLid = lid := readWait_queues ..

theorem joined_member (t : State) (lid : Nat) (l : Launch) :
    ∃ m ∈ (t.joined lid l).dev.launches, m = l ∨ m = { l with ready := true } :=
  readWait_member (List.mem_append_right _ (List.mem_singleton_self l))

/-- What becomes of the next record of a queue (R412). -/
theorem joined_judged {t : State} {d : Queue} {q lid : Nat} {r : List Byte} :
    ∃ l ∈ (t.joined lid (t.judged d (d.launchOf q lid r))).dev.launches, l.lid = lid ∧ l.q = q ∧ l.recno = d.head ∧ l.asid = d.asid ∧
      l.record = r ∧ l.prio ≤ d.pmax ∧ (l.state = .waiting ∨ ∃ r, l.state = .ended 1 r) := by
  obtain ⟨m, hm, hl⟩ := joined_member t lid (t.judged d (d.launchOf q lid r))
  obtain ⟨⟨hlid, hq, hrec, hasid, hr⟩, hprio, hstate⟩ := judged_fields t d (d.launchOf q lid r)
  exact ⟨m, hm, by rcases hl with rfl | rfl <;> exact ⟨hlid, hq, hrec, hasid, hr, hprio, hstate⟩⟩

/-- Settles O47: each instruction by its checks, the doorbell by its word, a record by the launch it makes. -/
theorem launchQueues : Obligations.LaunchQueues := by
  refine ⟨fun s t u w d a b ps rec_ l hroom ha hb hd => ?_, fun s q hq hen => ?_⟩
  · intro qn q
    refine ⟨fun h4 h64 hqen huser hasid hrel => ?_, fun h12 => ⟨fun hn => ?_, fun hl => ⟨fun hother => ?_, fun hasid hgoing => ?_,
      fun st r hasid hended hst => ?_⟩⟩, fun hg hs hp he hl hrel => ckpt_saves hroom hg hs hp he hl hrel, fun hsup =>
      ⟨lqSet_off hroom ha hsup hb, fun leaf pa x v m h0 h64 h57 hc hdram hleaf => ?_, fun h => ⟨?_, lchResume_none hroom ha hsup h⟩,
        fun m h => ?_, fun m h hm => ?_, fun m skn k h hm hk => ?_⟩⟩
    · intro i
      exact ⟨launch_full hroom ha hb hd h4 h64 hqen huser hasid hrel, fun h hacc hown v hload =>
        launch_rings hroom ha hb hd h4 h64 hqen huser hasid hrel h hacc hown hload rfl⟩
    · exact lchStat_other hroom ha hd h12 fun l hl => absurd (hn.symm.trans hl) nofun
    · exact lchStat_other hroom ha hd h12 fun m hm => by
        obtain rfl := Option.some.inj (hl.symm.trans hm)
        exact hother
    · rw [lchStat_own hroom ha hd h12 hl hasid, word_going hgoing]
    · rw [lchStat_own hroom ha hd h12 hl hasid, hended, word_ended hst]
    · intro p
      exact fun hhome hown hload hgood => lqSet_on hroom ha hsup hb h0 h64 h57 hc hdram hleaf rfl hhome hown hload hgood
    · rw [lchAbort_eq hroom ha hsup, h]
    · rw [lchAbort_eq hroom ha hsup, h]
    · rw [lchResume_each hroom ha hsup h, hm]
      rfl
    · rw [lchResume_each hroom ha hsup h, hm]
      dsimp only [List.foldl_cons, List.foldl_nil]
      rw [State.resume, hk]
      dsimp only
      exact ⟨fun hf => by rw [hf]; rfl, fun hf => by rw [hf]; rfl⟩
  · intro d w v
    refine ⟨fun he hp hstop => ⟨fun h1 h2 => ?_, fun h => ?_⟩, fun he hp hstop => ?_, launchDoorbell_idle hen, recordAccept_waits,
      fun lid hstop htail hup hlid => ⟨_, recordAccept_joins hen hstop htail hup hlid, ?_⟩⟩
    · rw [launchDoorbell_takes hen he hp, hstop, if_neg (by decide), if_neg (by rw [not_or]; exact ⟨Nat.not_lt.mpr h1, Nat.not_lt.mpr h2⟩)]
    · have hstep := launchDoorbell_takes hen he hp
      rw [hstop, if_neg (by decide), if_pos h] at hstep
      obtain ⟨hqueues, hfib⟩ := readWaits_queues ((s.setFull w false).stopQueue q v)
      obtain ⟨hqueue, hfib'⟩ := stopQueue_queue (s := s.setFull w false) hq v
      have hall : ((s.setFull w false).stopQueue q v).readWaits.queue q = { d with stopped := true } := by
        rw [State.queue, hqueues, ← State.queue, hqueue]
        rfl
      exact ⟨_, hstep, by rw [hall], by rw [hall], by rw [hall], hfib.trans hfib'⟩
    · rw [launchDoorbell_takes hen he hp, hstop, if_pos rfl]
    · obtain ⟨hqueue, hfib⟩ := copied_frame (s := s) hq lid
      obtain ⟨hqueues, hfib', hlast⟩ := joined_frame (s.copied q lid) lid
        ((s.copied q lid).judged (s.queue q) ((s.queue q).launchOf q lid (s.nextRecord q)))
      have hall : ((s.copied q lid).joined lid ((s.copied q lid).judged (s.queue q)
          ((s.queue q).launchOf q lid (s.nextRecord q)))).queue q = { d with head := d.head + 1 } := by
        rw [State.queue, hqueues, ← State.queue, hqueue]
      exact ⟨by rw [hall], by rw [hall], hlast, hfib'.trans hfib, joined_judged⟩

end Sys2Proof.Machine

/-! # A first placement and a fibre that waits at a barrier (O48)

The statement says of every state that a first placement adds one fibre and leaves the others. A placement also delivers what the overflow
queue holds for the skein (R392), a remote arrival at a barrier among it (R362), and the arrival that completes a phase lets every fibre
of the core that waits for it go on (R361). The barriers of a new skein are those of its core that no resident skein has (R140, R415). A
fibre may wait at such a one: its supervisor may have written SKMAP while it waited (R436), so that its skein has that barrier no more. -/

namespace Sys2Proof.Machine

/-- Launch 1, whose skeins have one barrier each and whose rings lie at address 0. -/
def barrierLaunch : Launch where
  lid := 1
  q := 0
  recno := 0
  asid := 0
  sup := false
  prio := 0
  record := bytesOf 64 (2 ^ 23 * 2 ^ 416)
  state := .placing
  order := 0
  next := 0
  evicted := []
  exited := []
  moved := []
  phases := []
  suspended := []
  asides := []
  since := 0
  lastLeft := 0
  done := none
  late := []
  ready := true
  stall := false
  held := false
  signalled := false

/-- A remote arrival, the only one of its phase, at barrier 0 of skein 0 of launch 1. -/
def loneArrival : Msg where
  dstLid := 1
  dstSkn := 0
  dest := 0
  srcFib := { lid := 1, skn := 0, fix := 0 }
  rreg := 0
  shadow := false
  rpl := false
  tag := 0
  npl := 6
  pay := [1, 0, 0, 0, 0, 0]
  kind := 1
  aux := 0
  srcCore := 0
  hop := Hop.none_

/-- A fibre of launch 2 that waits at barrier 0 of core 1. -/
def barrierWaiter : Fibre := { Fibre.zero with
  id := { lid := 2, skn := 0, fix := 0 }
  live := true
  home := 1
  at_ := 1
  park := some (.barrier 0 false) }

/-- That fibre and launch 1, none of whose skeins is placed, in a space whose low addresses translate. -/
def waitingAtBarrier : State :=
  { (State.reset.withFetchWord 32 0).setDev (fun d => { d with launches := [barrierLaunch] }) with fibres := [barrierWaiter] }

/-- The arrival has joined the overflow queue of its launch (R392). -/
def arrivalHeld : State := (waitingAtBarrier.overflow barrierLaunch loneArrival).getD waitingAtBarrier

theorem arrivalHeld_queued : (waitingAtBarrier.overflow barrierLaunch loneArrival).isSome = true ∧
    arrivalHeld.hasOverflow barrierLaunch 0 = true := by decide +kernel

theorem arrivalHeld_parks : arrivalHeld.fibres.map Fibre.park = [some (.barrier 0 false)] := by decide +kernel

/-- The placement of skein 0 on core 1 delivers the arrival, and the waiting fibre goes on. -/
theorem placed_parks : (arrivalHeld.placeFirst barrierLaunch 0 1).fibres.map Fibre.park = [none, none] := by decide +kernel

/-- Refutes O48: the first placement of a skein delivers a remote arrival from the overflow queue, which completes the phase of a barrier
that another fibre of the core waits at, so that the fibres afterwards are not those before and one more. -/
theorem not_placement : ¬ Obligations.Placement := by
  intro h
  obtain ⟨-, hplace⟩ := h
  obtain ⟨f, hfibres, -⟩ := hplace arrivalHeld barrierLaunch 0 1
  have hparks : [none, none] = [some (.barrier 0 false)] ++ [f.park] := by
    rw [← placed_parks, hfibres, List.map_append, arrivalHeld_parks]
    rfl
  exact absurd (List.cons.inj hparks).1 (by decide)

end Sys2Proof.Machine

/-! # Launches that end, stalled grids and hung cores (O49) -/

namespace Sys2Proof.Machine

/-! ## LAUNCH_COMPLETION and COMPLETION_RING_RECHECK -/

section
variable {s : State} {l : Launch} (hl : s.launch? l.lid = some l)
include hl

theorem launchCompletion_going (h : l.result = none) : exec (.launchCompletion l.lid) s = .next s := by
  change execLaunchCompletion l.lid s = _
  rw [execLaunchCompletion, hl]
  dsimp only
  rw [h]

theorem launchCompletion_result {st r : Nat} (h : l.result = some (st, r)) : exec (.launchCompletion l.lid) s =
    if l.held || s.busyLaunch l.lid || s.behindAny then .next s else .next (s.complete l st r) := by
  change execLaunchCompletion l.lid s = _
  rw [execLaunchCompletion, hl]
  dsimp only
  rw [h]

theorem launchCompletion_busy (h : l.held = true ∨ s.busyLaunch l.lid = true ∨ s.behindAny = true) :
    exec (.launchCompletion l.lid) s = .next s := by
  rcases hr : l.result with _ | ⟨st, r⟩
  · exact launchCompletion_going hl hr
  · rw [launchCompletion_result hl hr]
    exact if_pos (by rcases h with h | h | h <;> simp [h])

/-! ## GRID_STALL -/

theorem gridStall_idle (h : s.stalled l = false) : exec (.gridStall l.lid) s = .next s := by
  change execGridStall l.lid s = _
  rw [execGridStall, hl]
  dsimp only
  rw [h]
  exact if_pos rfl

variable (hs : s.stalled l = true)
include hs

section
variable (he : l.evic = true)
include he

theorem gridStall_fits (hf : s.nextFits l = true) : exec (.gridStall l.lid) s = .next s := by
  change execGridStall l.lid s = _
  rw [execGridStall, hl]
  dsimp only
  rw [hs, if_neg (by decide), if_pos he, if_pos hf]

theorem gridStall_evicts (hf : s.nextFits l = false) : exec (.gridStall l.lid) s =
    if (s.residents l.lid).all fun k => s.canStop l k then .next ((s.evictFor l.lid (skeinsDown (s.residents l.lid))).settleLaunch l.lid)
    else .next ((s.residents l.lid).foldl State.askStop s) := by
  change execGridStall l.lid s = _
  rw [execGridStall, hl]
  dsimp only
  rw [hs, if_neg (by decide), if_pos he, hf, if_neg (by decide)]

end

theorem gridStall_faults {k : Skein} {f : Fibre} (he : l.evic = false) (hk : s.residents l.lid = [k])
    (hf : (s.fibresOf l.lid k.skn).find? Fibre.evf = some f) : exec (.gridStall l.lid) s =
      .next (raise (((((s.forgetWaits fun id => id == f.id).onFibre f.id fun x => { x with park := none }).focus f.id).onLaunch l.lid
        fun x => { x with stall := true })) 0x15 0 (BitVec.ofNat 64 l.lid) false) := by
  change execGridStall l.lid s = _
  rw [execGridStall, hl]
  dsimp only
  rw [hs, if_neg (by decide), he, if_neg (by decide), hk]
  dsimp only [List.foldl_cons, List.foldl_nil]
  rw [hf]

end

/-- One skein that can stop is checkpointed for the next one of its launch (R423). -/
theorem evictFor_one {s : State} {l : Launch} (hl : s.launch? l.lid = some l) (hf : s.nextFits l = false) (k : Skein) :
    s.evictFor l.lid (skeinsDown [k]) =
      (s.checkpointSkein l k ckptState).onLaunch l.lid fun x => { x with late := setIns k.skn x.late } := by
  rw [skeinsDown, List.mergeSort_singleton, State.evictFor, hl]
  dsimp only
  rw [hf, if_neg (by decide), State.evictFor]

/-! ## The completion record (R413, R416) -/

section
variable {s : State} {l : Launch} {st r : Nat}

theorem complete_signals (h : l.signalled = false) : s.complete l st r =
    ((s.quiet.signal l).1.onLaunch l.lid fun x => { x with
        signalled := true, state := .ended st (if (s.quiet.signal l).2 || st == 1 then r else 6), done := some (s.dev.ticks, s.ctr) }).complete
      { l with signalled := true, state := .ended st (if (s.quiet.signal l).2 || st == 1 then r else 6), done := some (s.dev.ticks, s.ctr) }
      st r := by
  rw [State.complete, h]
  rfl

/-- A launch that completed earlier in the same queue has its record held (R416). -/
def State.heldEarlier (s : State) (l : Launch) : Bool :=
  s.dev.launches.any fun x => x.q == l.q && x.held && x.lid != l.lid && x.doneBefore l

theorem heldEarlier_iff : s.heldEarlier l = true ↔ ∃ x ∈ s.dev.launches, x.q = l.q ∧ x.held = true ∧ x.lid ≠ l.lid ∧ x.doneBefore l = true := by
  simp [State.heldEarlier, List.any_eq_true, and_assoc]

/-- A launch whose record cannot be written is held (R416). -/
def State.holdRecord (s : State) (l : Launch) : State :=
  if l.held then s else (s.logQueue l.q l.recno).onLaunch l.lid fun x => { x with held := true }

/-- What follows the attempt to write a record (R416). -/
def State.recorded (w : State × Bool) (l : Launch) : State :=
  if w.2 then w.1.setDev fun d => { d with launches := d.launches.filter fun x => x.lid != l.lid } else w.1.holdRecord l

section
variable (hs : l.signalled = true) (he : l.state = .ended st r)
include hs he

theorem complete_records : s.complete l st r =
    State.recorded (if s.heldEarlier l then (s, false) else s.writeCompletion l st r) l := by
  rw [State.complete, if_pos hs]
  dsimp only
  rw [he]
  rfl

theorem complete_behind (h : s.heldEarlier l = true) : s.complete l st r = s.holdRecord l := by
  rw [complete_records hs he, if_pos h]
  rfl

theorem complete_first (h : s.heldEarlier l = false) : s.complete l st r = State.recorded (s.writeCompletion l st r) l := by
  rw [complete_records hs he, h, if_neg (by decide)]

end

theorem writeCompletion_badHead (h : (s.queue l.q).ctail < s.descWord l.q 48) : s.writeCompletion l st r =
    (if (s.queue l.q).badHead = some (s.descWord l.q 48) then s
      else (s.logQueue l.q l.recno).onQueue l.q fun x => { x with badHead := some (s.descWord l.q 48) }, false) := by
  rw [State.writeCompletion]
  dsimp only
  rw [if_pos h]

section
variable (h : s.descWord l.q 48 ≤ (s.queue l.q).ctail)
include h

theorem writeCompletion_full (hf : 2 ^ (s.queue l.q).cl ≤ (s.queue l.q).ctail - s.descWord l.q 48) :
    s.writeCompletion l st r = (s, false) := by
  rw [State.writeCompletion]
  dsimp only
  rw [if_neg (Nat.not_lt.mpr h), if_pos hf]

/-- The bytes of a completion record (R416). -/
def completionBytes (s : State) (l : Launch) (st r : Nat) : List Byte :=
  bytesOf 2 l.lid ++ bytesOf 1 st ++ bytesOf 1 r ++ bytesOf 4 l.recno ++ bytesOf 8 ((l.done.map Prod.fst).getD s.dev.ticks)

theorem writeCompletion_writes (hr : (s.queue l.q).ctail - s.descWord l.q 48 < 2 ^ (s.queue l.q).cl) : s.writeCompletion l st r =
    (((s.agentWrite (s.queue l.q).asid ((s.queue l.q).cring + 16 * ((s.queue l.q).ctail % 2 ^ (s.queue l.q).cl))
      (completionBytes s l st r)).putDesc l.q 40 ((s.queue l.q).ctail + 1)).onQueue l.q fun x =>
        { x with ctail := x.ctail + 1, badHead := none }, true) := by
  rw [State.writeCompletion]
  dsimp only
  rw [if_neg (Nat.not_lt.mpr h), if_neg (Nat.not_le.mpr hr), completionBytes]

end

theorem removed_launch (u : State) (n : Nat) :
    ∀ x ∈ (u.setDev fun d => { d with launches := d.launches.filter fun x => x.lid != n }).dev.launches, x.lid ≠ n :=
  fun _ hx => bne_iff_ne.mp (List.mem_filter.mp hx).2

section
variable (hs : l.signalled = true) (he : l.state = .ended st r) (hb : s.heldEarlier l = false)
include hs he hb

theorem complete_badHead (h : (s.queue l.q).ctail < s.descWord l.q 48) : s.complete l st r =
    (if (s.queue l.q).badHead = some (s.descWord l.q 48) then s
      else (s.logQueue l.q l.recno).onQueue l.q fun x => { x with badHead := some (s.descWord l.q 48) }).holdRecord l := by
  rw [complete_first hs he hb, writeCompletion_badHead h, State.recorded, if_neg Bool.false_ne_true]

variable (h : s.descWord l.q 48 ≤ (s.queue l.q).ctail)
include h

theorem complete_full (hf : 2 ^ (s.queue l.q).cl ≤ (s.queue l.q).ctail - s.descWord l.q 48) : s.complete l st r = s.holdRecord l := by
  rw [complete_first hs he hb, writeCompletion_full h hf, State.recorded, if_neg Bool.false_ne_true]

theorem complete_writes (hr : (s.queue l.q).ctail - s.descWord l.q 48 < 2 ^ (s.queue l.q).cl) : s.complete l st r =
    ((((s.agentWrite (s.queue l.q).asid ((s.queue l.q).cring + 16 * ((s.queue l.q).ctail % 2 ^ (s.queue l.q).cl))
      (completionBytes s l st r)).putDesc l.q 40 ((s.queue l.q).ctail + 1)).onQueue l.q fun x =>
        { x with ctail := x.ctail + 1, badHead := none }).setDev fun d =>
          { d with launches := d.launches.filter fun x => x.lid != l.lid }) := by
  rw [complete_first hs he hb, writeCompletion_writes h hr, State.recorded, if_pos rfl]

theorem complete_removes (hr : (s.queue l.q).ctail - s.descWord l.q 48 < 2 ^ (s.queue l.q).cl) :
    ∀ x ∈ (s.complete l st r).dev.launches, x.lid ≠ l.lid := by
  rw [complete_writes hs he hb h hr]
  exact removed_launch _ _

end

/-! ### SIGC (R413) -/

theorem signal_none (h : l.sigc = 0) : s.signal l = (s, true) := if_pos h

theorem signal_fails (h0 : l.sigc ≠ 0) (h : s.agentOk l.asid l.sigc true = false ∨ l.sigc % 8 ≠ 0 ∨ s.agentBad l.asid l.sigc 8 = true) :
    s.signal l = (s.logQueue l.q l.recno, false) :=
  (if_neg h0).trans (if_pos (by rcases h with h | h | h <;> simp [h]))

theorem signal_adds (h0 : l.sigc ≠ 0) (hok : s.agentOk l.asid l.sigc true = true) (h8 : l.sigc % 8 = 0)
    (hb : s.agentBad l.asid l.sigc 8 = false) :
    s.signal l = ((s.agentPut l.asid l.sigc (s.agentWord l.asid l.sigc - 1)).readWaits, true) :=
  (if_neg h0).trans (if_neg (by simp [hok, h8, hb]))

end

/-! ## Recovery of a core (R424) -/

/-- A core is fenced, and nothing is left of its write-through buffer. -/
def State.CoreFenced (s : State) (n : Nat) : Prop := (s.coreAt n).status = .fenced ∧ (s.coreAt n).wtb = []

section
variable {s : State} {n : Nat}

theorem State.CoreFenced.onFibre (h : s.CoreFenced n) (id : FibreId) (f : Fibre → Fibre) : (s.onFibre id f).CoreFenced n := by
  rwa [State.CoreFenced, onFibre_coreAt]

theorem State.CoreFenced.onSkein (h : s.CoreFenced n) (l k : Nat) (f : Skein → Skein) : (s.onSkein l k f).CoreFenced n := by
  unfold State.onSkein
  split <;> exact h

theorem State.CoreFenced.onChip (h : s.CoreFenced n) (c : Nat) (f : Chip → Chip) : (s.onChip c f).CoreFenced n := by
  unfold State.onChip
  split <;> exact h

theorem State.CoreFenced.onCore (h : s.CoreFenced n) (m : Nat) {f : Core → Core}
    (hf : ∀ c, (f c).num = c.num ∧ (f c).status = c.status ∧ (f c).wtb = c.wtb) : (s.onCore m f).CoreFenced n := by
  have hnum (c : Core) : (f c).num = c.num := (hf c).1
  rcases eq_or_ne n m with rfl | hm
  · obtain ⟨-, hs, hw⟩ := hf (s.coreAt n)
    rw [State.CoreFenced, coreAt_onCore_same hnum, hs, hw]
    exact h
  · rw [State.CoreFenced, coreAt_onCore_other hnum s hm]
    exact h

theorem State.CoreFenced.foldl {α : Type} {g : State → α → State} (hg : ∀ t a, t.CoreFenced n → (g t a).CoreFenced n) (l : List α)
    (h : s.CoreFenced n) : (l.foldl g s).CoreFenced n :=
  List.foldlRecOn (motive := fun t => State.CoreFenced t n) l g h fun t ht a _ => hg t a ht

theorem State.CoreFenced.ite {t : State} {c : Prop} [Decidable c] (h : s.CoreFenced n) (g : t.CoreFenced n) :
    (if c then s else t).CoreFenced n := by
  split
  · exact h
  · exact g

theorem State.CoreFenced.sendHome (h : s.CoreFenced n) (id : FibreId) : (s.sendHome id).CoreFenced n :=
  State.CoreFenced.onFibre (s := s.forgetWaits fun x => x == id) h id _

theorem State.CoreFenced.clearGuests (h : s.CoreFenced n) (gone : Nat → Bool) : (s.clearGuests gone).CoreFenced n :=
  State.CoreFenced.foldl (fun _ f ht => State.CoreFenced.sendHome ht f.id) _ h

theorem State.CoreFenced.putReg (h : s.CoreFenced n) (id : FibreId) (sh : Bool) (r : GReg) (v : Word) (st : Fill) :
    (s.putReg id sh r v st).CoreFenced n := by
  unfold State.putReg
  split
  · exact (h.onSkein ..).onFibre ..
  · exact h.onFibre ..

theorem State.CoreFenced.finish (h : s.CoreFenced n) (id : FibreId) (k : Nat) : (s.finish id k).CoreFenced n := by
  unfold State.finish
  split
  · exact h
  · refine State.CoreFenced.onFibre (h.onCore _ ?_) _ _
    exact fun _ => ⟨rfl, rfl, rfl⟩

theorem State.CoreFenced.delivered (h : s.CoreFenced n) (id : FibreId) : (s.delivered id).CoreFenced n := by
  unfold State.delivered
  split
  · exact h
  · split
    · exact h.onFibre ..
    · refine State.CoreFenced.onFibre (h.onCore _ ?_) _ _
      exact fun _ => ⟨rfl, rfl, rfl⟩
    · exact h

theorem State.CoreFenced.abortPass (h : s.CoreFenced n) (ch : Nat) : (s.abortPass ch).CoreFenced n := by
  unfold State.abortPass
  dsimp only
  split
  · exact (h.onChip ..).onFibre ..
  · exact h

theorem State.CoreFenced.engineStop (h : s.CoreFenced n) (id : FibreId) : (s.engineStop id).CoreFenced n := by
  unfold State.engineStop
  split
  · exact h
  · exact (h.putReg ..).finish ..

theorem State.CoreFenced.stopFibre (h : s.CoreFenced n) (f : Fibre) : (s.stopFibre f).CoreFenced n := by
  have withdrawn {t : State} (ht : t.CoreFenced n) :
      ((t.forgetWaits fun id => id == f.id).onFibre f.id fun x => { x with park := none }).CoreFenced n :=
    State.CoreFenced.onFibre (s := t.forgetWaits fun id => id == f.id) ht f.id _
  unfold State.stopFibre
  refine withdrawn ?_
  split
  · exact h.delivered ..
  · exact State.CoreFenced.ite (h.abortPass _) h
  · exact h.engineStop ..
  · exact h

theorem State.CoreFenced.callHome (h : s.CoreFenced n) (f : Fibre) : (s.callHome f).CoreFenced n := by
  unfold State.callHome
  split
  · split
    · exact h.sendHome ..
    · exact h.stopFibre ..
  · exact h.sendHome ..
  · exact h.sendHome ..
  · exact h

/-- A live core that is not in recovery already is fenced, and the record of its recovery joins the others. -/
theorem startRecovery_fences (hlive : s.coreLive n = true) (hr : s.recovering n = false) (why sub : Nat) :
    (s.startRecovery n why sub).CoreFenced n ∧
      ∃ e ∈ (s.startRecovery n why sub).dev.recover, e.core = n ∧ e.reason = why ∧ e.sub = sub := by
  have hfence : (s.onCore n fun c => { c with status := .fenced, l1 := [], wtb := [] }).CoreFenced n := by
    rw [State.CoreFenced, coreAt_onCore_same (f := fun c => { c with status := .fenced, l1 := [], wtb := [] }) fun _ => rfl]
    exact ⟨rfl, rfl⟩
  rw [State.startRecovery, hlive, hr, if_neg (by decide)]
  dsimp only
  exact ⟨State.CoreFenced.foldl (fun _ f ht => State.CoreFenced.callHome ht f) _ (hfence.clearGuests _), _,
    List.mem_append_right _ (List.mem_singleton_self _), rfl, rfl, rfl⟩

/-! ## HUNG_CORE -/

section
variable {p : Nat}

theorem hungCore_recovering {e : Recovering} (he : s.dev.recover.find? (fun e => e.core == coreOfPos p) = some e) :
    exec (.hungCore p) s = .next (if s.coreDrained e then s.endRecovery e else s) := by
  change execHungCore p s = _
  rw [execHungCore, he]

theorem hungCore_watched (hn : ∀ e ∈ s.dev.recover, e.core ≠ coreOfPos p) : exec (.hungCore p) s = .next
    (if (s.allFibres.any fun f => f.at_ == coreOfPos p && f.park.isNone && f.travel.isNone) &&
      s.clocksSince (chipNum (coreOfPos p)) (s.coreAt (coreOfPos p)).lastRetire (2 ^ 20) then s.startRecovery (coreOfPos p) 0x17 0 else s) := by
  have hnone : s.dev.recover.find? (fun e => e.core == coreOfPos p) = none := List.find?_eq_none.mpr fun e he => by simpa using hn e he
  change execHungCore p s = _
  rw [execHungCore, hnone]

end
end

/-- Settles O49: a launch by its result and its record, a grid by what it may give up, a core by what it has retired. -/
theorem launchEnds : Obligations.LaunchEnds := by
  intro s l q p
  refine ⟨fun hl => ⟨launchCompletion_going hl, launchCompletion_busy hl, fun st r hr hh hb hany => ?_, gridStall_idle hl,
    fun k f hs he hk hf => gridStall_faults hl hs he hk hf, gridStall_fits hl, fun k hs he hf hk hc => ?_, fun k hs he hf hk hc => ?_⟩,
    fun h => ?_, fun st r h hr => ?_, fun st r h => complete_signals h, fun st r hs he => ?_, signal_none, signal_fails, signal_adds, ?_⟩
  · rw [launchCompletion_result hl hr]
    exact if_neg (by simp [hh, hb, hany])
  · rw [gridStall_evicts hl hs he hf, hk]
    simp [hc]
  · rw [gridStall_evicts hl hs he hf, hk, evictFor_one hl hf]
    simp [hc]
  · change execCompletionRingRecheck q s = _
    rw [execCompletionRingRecheck, h]
  · change execCompletionRingRecheck q s = _
    rw [execCompletionRingRecheck, h]
    dsimp only
    rw [hr]
  · intro d chead before keep
    have hfirst (hb : ¬before) : s.heldEarlier l = false := by
      rw [← Bool.not_eq_true, heldEarlier_iff]
      exact hb
    refine ⟨fun hb => complete_behind hs he (heldEarlier_iff.mpr hb), fun hb h1 h2 => ?_, fun hb h1 h2 => ?_, fun hb h => ?_⟩
    · intro b t
      exact ⟨complete_writes hs he (hfirst hb) h1 h2, complete_removes hs he (hfirst hb) h1 h2⟩
    · exact complete_full hs he (hfirst hb) h1 h2
    · exact complete_badHead hs he (hfirst hb) h
  · intro core late
    refine ⟨fun hn => ⟨fun f hf hat hpark htravel hlate => ?_, fun h => ?_⟩, fun e he => ⟨fun h => ?_, fun h => ?_⟩, fun hlive hr why sub => ?_⟩
    · rw [hungCore_watched hn, if_pos]
      rw [Bool.and_eq_true, List.any_eq_true]
      exact ⟨⟨f, hf, by rw [hat, hpark, htravel]; simp [core]⟩, hlate⟩
    · rw [hungCore_watched hn, if_neg]
      rw [Bool.and_eq_true, List.any_eq_true]
      rintro ⟨⟨f, hf, hready⟩, hlate⟩
      simp only [Bool.and_eq_true, beq_iff_eq, Option.isNone_iff_eq_none] at hready
      obtain ⟨⟨hat, hpark⟩, htravel⟩ := hready
      rcases h with h | h
      · exact absurd hlate (by rw [Bool.not_eq_true]; exact h)
      · rcases h f hf hat with h | h
        · exact h hpark
        · exact h htravel
    · rw [hungCore_recovering he, h]
      rfl
    · rw [hungCore_recovering he, h]
      rfl
    · obtain ⟨⟨hst, hw⟩, he⟩ := startRecovery_fences hlive hr why sub
      exact ⟨hst, hw, he⟩

end Sys2Proof.Machine

/-! # RDMA, attestation and keys (O51) -/

namespace Sys2Proof.Machine

/-! ## Accesses that arrive -/

section
variable {s : State} {qp rkey va n e : Nat} {store : Bool} {go : State}

theorem rdmaArrive_nowhere (h : s.edgeFor [] = none ∨ s.queuePair qp = false) : s.rdmaArrive qp rkey va n store go = s := by
  unfold State.rdmaArrive
  obtain he | hq := h
  · rw [he, ite_self]
  · rw [hq, if_neg Bool.false_ne_true]

theorem rdmaArrive_refused (he : s.edgeFor [] = some e) (hq : s.queuePair qp = true) {r : Nat}
    (hr : s.rdmaRefusal rkey va n store = some r) : s.rdmaArrive qp rkey va n store go = s.rdmaRefuse e qp rkey r := by
  unfold State.rdmaArrive
  rw [hq, if_pos rfl, he]
  dsimp only
  rw [hr]

/-- An access that is not refused is performed where an edge I/O chiplet reaches every place that it asks for. -/
theorem rdmaArrive_admitted (he : s.edgeFor [] = some e) (hq : s.queuePair qp = true)
    (hr : s.rdmaRefusal rkey va n store = none) : s.rdmaArrive qp rkey va n store go =
      if (s.edgeFor (if store && (field (s.registration rkey) 18 1).testBit 3 then []
        else s.rdmaHomes (field (s.registration rkey) 16 2) va n)).isSome then go else s := by
  unfold State.rdmaArrive
  rw [hq, if_pos rfl, he]
  dsimp only
  rw [hr]

theorem rdmaArrive_hallmark (he : s.edgeFor [] = some e) (hq : s.queuePair qp = true)
    (hr : s.rdmaRefusal rkey va n true = none) (hb : (field (s.registration rkey) 18 1).testBit 3 = true) :
    s.rdmaArrive qp rkey va n true go = go := by
  rw [rdmaArrive_admitted he hq hr, hb, Bool.and_true, if_pos rfl, he]
  rfl

theorem rdmaArrive_at_homes (he : s.edgeFor [] = some e) (hq : s.queuePair qp = true)
    (hr : s.rdmaRefusal rkey va n store = none) (hb : (store && (field (s.registration rkey) 18 1).testBit 3) = false) :
    s.rdmaArrive qp rkey va n store go =
      if (s.edgeFor (s.rdmaHomes (field (s.registration rkey) 16 2) va n)).isSome then go else s := by
  rw [rdmaArrive_admitted he hq hr, hb]
  rfl

end

/-- A range within one aligned block of 64 bytes is one part. -/
theorem blockSpans_one {va n : Nat} (hn : n ≠ 0) (h : va % 64 + n ≤ 64) : blockSpans (n + 1) va n = [(va, n)] := by
  have hm : min n (64 - va % 64) = n := by omega
  rw [blockSpans, if_neg hn, hm]
  dsimp only
  rw [Nat.sub_self]
  cases n with
  | zero => exact absurd rfl hn
  | succ k => rfl

theorem queuePair_iff (s : State) (qp : Nat) : s.queuePair qp = true ↔ ∃ q ∈ s.dev.qps, q.num = qp := by
  simp only [State.queuePair, List.any_eq_true, beq_iff_eq]

/-! ## The operations -/

section
variable {s : State} {qp e : Nat} {rkey : BitVec 32} {va : Word} {data : List Byte}

/-- The bytes of a write, stored block by block. -/
def State.rdmaStored (s : State) (rkey va : Nat) (data : List Byte) : State :=
  (blockSpans (data.length + 1) va data.length).foldl (fun s' p =>
    s'.rdmaBlock (field (s.registration rkey) 16 2) p.1 (slice data (p.1 - va) p.2) (data.length == 8)) s

theorem rdmaStored_block {r a : Nat} (hd : data ≠ []) (h : a % 64 + data.length ≤ 64) :
    s.rdmaStored r a data = s.rdmaBlock (field (s.registration r) 16 2) a data (data.length == 8) := by
  have hn : data.length ≠ 0 := fun h0 => hd (List.length_eq_zero_iff.mp h0)
  have hs : slice data (a - a) data.length = data := by
    rw [Nat.sub_self, slice, List.drop_zero, List.take_length]
  rw [State.rdmaStored, blockSpans_one hn h, List.foldl_cons, List.foldl_nil, hs]

theorem rdmaWrite_eq (s : State) (qp : Nat) (rkey : BitVec 32) (va : Word) (data : List Byte) :
    exec (.rdmaWrite qp rkey va data) s = .next (s.rdmaArrive qp rkey.toNat va.toNat data.length true
      (if (field (s.registration rkey.toNat) 18 1).testBit 3 then (s.trigger 2).answer (.ack qp)
        else (s.rdmaStored rkey.toNat va.toNat data).answer (.ack qp))) := rfl

theorem rdmaRead_eq (s : State) (qp : Nat) (rkey : BitVec 32) (va : Word) (len : Nat) :
    exec (.rdmaRead qp rkey va len) s = .next (s.rdmaArrive qp rkey.toNat va.toNat len false
      (let t := s.agentDetect (field (s.registration rkey.toNat) 16 2) va.toNat len
       t.answer (.data qp ((List.range len).map fun i => t.rdmaByte (field (s.registration rkey.toNat) 16 2) (va.toNat + i))))) := rfl

theorem rdmaInvalidOpcode_eq (s : State) (qp op : Nat) : exec (.rdmaInvalidOpcode qp op) s =
    .next (if s.queuePair qp && (s.edgeFor []).isSome then s.answer (.nakInvalid qp) else s) := rfl

theorem rdmaInvalidOpcode_nowhere (op : Nat) (h : s.edgeFor [] = none ∨ s.queuePair qp = false) :
    exec (.rdmaInvalidOpcode qp op) s = .next s := by
  rw [rdmaInvalidOpcode_eq, if_neg]
  rw [Bool.and_eq_true]
  rintro ⟨hq, he⟩
  obtain h | h := h
  · rw [h] at he
    exact Bool.false_ne_true he
  · exact Bool.false_ne_true (h.symm.trans hq)

theorem rdmaInvalidOpcode_answered (op : Nat) (he : s.edgeFor [] = some e) (hq : s.queuePair qp = true) :
    exec (.rdmaInvalidOpcode qp op) s = .next (s.answer (.nakInvalid qp)) := by
  rw [rdmaInvalidOpcode_eq, hq, he]
  rfl

variable (he : s.edgeFor [] = some e) (hq : s.queuePair qp = true)
include he hq

/-- A write outside the hallmark regions goes where its bytes have their homes, and is acknowledged. -/
theorem rdmaWrite_stores (hr : s.rdmaRefusal rkey.toNat va.toNat data.length true = none)
    (hb : (field (s.registration rkey.toNat) 18 1).testBit 3 = false) :
    exec (.rdmaWrite qp rkey va data) s =
      .next (if (s.edgeFor (s.rdmaHomes (field (s.registration rkey.toNat) 16 2) va.toNat data.length)).isSome
        then (s.rdmaStored rkey.toNat va.toNat data).answer (.ack qp) else s) := by
  rw [rdmaWrite_eq, rdmaArrive_at_homes he hq hr (by rw [hb]; rfl), hb, if_neg Bool.false_ne_true]

end

/-! ## Keys -/

theorem assoc_assocPut_same {β : Type} (k : Nat) (d v : β) (l : List (Nat × β)) : assoc k d (assocPut k v l) = v := by
  induction l with
  | nil => exact if_pos rfl
  | cons e r ih =>
    rw [assocPut]
    by_cases h : e.1 = k
    · rw [if_pos h, assoc, if_pos rfl]
    · rw [if_neg h, assoc, if_neg h, ih]

theorem assoc_assocPut_other {β : Type} {i k : Nat} (h : i ≠ k) (d v : β) (l : List (Nat × β)) :
    assoc i d (assocPut k v l) = assoc i d l := by
  induction l with
  | nil => exact if_neg h.symm
  | cons e r ih =>
    rw [assocPut]
    by_cases he : e.1 = k
    · rw [if_pos he, assoc, if_neg h.symm, assoc, if_neg (he ▸ h.symm)]
    · rw [if_neg he, assoc, assoc, ih]

/-- The state once a slot holds a key, the steps of R69 for it taken anew. -/
def State.keyed (s : State) (slot : Nat) (key : BitVec 512) : State :=
  s.setDev fun d => { d with
    keys := assocPut slot key d.keys
    purge := { slices := [], keys := [], complete := d.purge.complete.filter fun k => k != slot } }

theorem keyed_key_same (s : State) (slot : Nat) (key : BitVec 512) : (s.keyed slot key).key slot = key := assoc_assocPut_same ..

theorem keyed_key_other (s : State) {i slot : Nat} (h : i ≠ slot) (key : BitVec 512) : (s.keyed slot key).key i = s.key i :=
  assoc_assocPut_other h ..

theorem keyed_complete (s : State) (i slot : Nat) (key : BitVec 512) :
    i ∈ (s.keyed slot key).dev.purge.complete ↔ i ∈ s.dev.purge.complete ∧ i ≠ slot := by
  change i ∈ s.dev.purge.complete.filter (fun k => k != slot) ↔ _
  rw [List.mem_filter, bne_iff_ne]

theorem keySlotLoad_eq (s : State) (slot : Nat) (key : BitVec 512) : exec (.keySlotLoad slot key) s =
    .next (if slot < 4096 && s.dev.purge.complete.contains slot then s.keyed slot key else s) := rfl

/-- Settles O51: an access is refused, goes where an edge I/O chiplet reaches, or meets nothing; the report and the key slots are what
their definitions put into the device. -/
theorem rdmaAndFirmware : Obligations.RdmaAndFirmware := by
  unfold Obligations.RdmaAndFirmware
  intro s qp op len slot rkey va data nonce key
  dsimp only
  refine ⟨fun h => ⟨?_, ?_, rdmaInvalidOpcode_nowhere op h⟩, queuePair_iff s qp, fun e he hq => ⟨fun r hr => ?_, fun r hr => ?_,
    fun hr hb => ?_, fun hr hb => ⟨fun hx => ?_, fun x hx => ⟨⟨s.rdmaStored rkey.toNat va.toNat data, ?_⟩, fun hd hspan => ?_⟩⟩,
    fun hr => ⟨fun hx => ?_, fun x hx => ?_⟩, rdmaInvalidOpcode_answered op he hq⟩, fun hn => ?_, fun hn => ?_, fun hs hmem => ?_,
    fun hs => ?_⟩
  · rw [rdmaWrite_eq, rdmaArrive_nowhere h]
  · rw [rdmaRead_eq, rdmaArrive_nowhere h]
  · rw [rdmaWrite_eq, rdmaArrive_refused he hq hr]
  · rw [rdmaRead_eq, rdmaArrive_refused he hq hr]
  · rw [rdmaWrite_eq, rdmaArrive_hallmark he hq hr hb, if_pos hb]
  · rw [rdmaWrite_stores he hq hr hb, hx]
    rfl
  · rw [rdmaWrite_stores he hq hr hb, hx]
    rfl
  · rw [rdmaWrite_stores he hq hr hb, hx, rdmaStored_block hd hspan]
    rfl
  · rw [rdmaRead_eq, rdmaArrive_at_homes he hq hr (Bool.false_and _), hx]
    rfl
  · rw [rdmaRead_eq, rdmaArrive_at_homes he hq hr (Bool.false_and _), hx]
    rfl
  · exact congrArg Host.Outcome.next (if_pos hn)
  · refine ⟨s.report nonce, congrArg Host.Outcome.next (if_neg (by omega)), rfl, rfl, rfl, rfl, rfl, rfl, rfl, rfl⟩
  · refine ⟨s.keyed slot key, ?_, keyed_key_same .., fun i hi => ⟨keyed_key_other s hi key, ?_⟩, ?_, rfl⟩
    · rw [keySlotLoad_eq, if_pos]
      rw [Bool.and_eq_true, List.contains_iff_mem]
      exact ⟨decide_eq_true hs, hmem⟩
    · rw [keyed_complete]
      exact and_iff_left hi
    · rw [keyed_complete]
      exact fun h => h.2 rfl
  · rw [keySlotLoad_eq, if_neg]
    rw [Bool.and_eq_true, List.contains_iff_mem, decide_eq_true_eq]
    rintro ⟨hlt, hmem⟩
    exact hs.elim (fun h => absurd hlt (by omega)) fun h => h hmem

end Sys2Proof.Machine

/-! # Frequency, stretches, sync pulses, power-on and bring-up (O50) -/

namespace Sys2Proof.Machine

/-! ## The frequency step -/

theorem freq_steady {s : State} (h : s.dev.stepAt = none) : s.freq = wordOf [(0, 4, s.dev.step)] := by
  rw [State.freq, h]

theorem freq_pending {s : State} {n : Nat} (h : s.dev.stepAt = some n) (hn : s.now < n) :
    s.freq = wordOf [(4, 1, 1), (0, 4, s.dev.step)] := by
  rw [State.freq, h]
  exact if_neg (by omega)

theorem freq_done {s : State} {n : Nat} (h : s.dev.stepAt = some n) (hn : n ≤ s.now) : s.freq = wordOf [(0, 4, s.dev.stepTarget)] := by
  rw [State.freq, h]
  exact if_pos hn

theorem freqStepChange_steady {s : State} (h : s.dev.stepAt = none) : exec .freqStepChange s = .next s := by
  change execFreqStepChange s = _
  rw [execFreqStepChange, h]

theorem freqStepChange_pending {s : State} {n : Nat} (h : s.dev.stepAt = some n) : exec .freqStepChange s =
    .next (if n ≤ s.dev.ticks then
      (s.allChips fun c => { c with lead := c.lead + s.leadNow c.num }).setDev fun d => { d with step := d.stepTarget, stepAt := none }
    else s) := by
  change execFreqStepChange s = _
  rw [execFreqStepChange, h]

/-! ## Stretches -/

/-- A packet late by one frame of its slots. -/
def Packet.late (p : Packet) : Packet := { p with ready := p.ready + 4096 * p.slotLen }

/-- What a stretch on a chiplet leaves: the packets but for those at a crossing, which may be late, the fibre and the chiplets. -/
structure Stretched (ch : Nat) (s t : State) : Prop where
  fib_eq : t.fib = s.fib
  places_eq : t.places = s.places
  count : t.dev.packets.length = s.dev.packets.length
  late : ∀ (i : Nat) (p : Packet), s.dev.packets[i]? = some p →
    t.dev.packets[i]? = some p ∨ (p.crossing ch = true ∧ t.dev.packets[i]? = some p.late)

theorem putWord_packets (s : State) (pa : Nat) (bs : List Byte) : (s.putWord pa bs).dev.packets = s.dev.packets := rfl

theorem wrote_packets (s : State) : s.wrote.dev.packets = s.dev.packets := rfl

theorem setDev_packets (s : State) (f : Device → Device) (h : (f s.dev).packets = s.dev.packets) :
    (s.setDev f).dev.packets = s.dev.packets := h

theorem logAt_packets (s : State) (a b c d e f g i : Nat) : (s.logAt a b c d e f g i).dev.packets = s.dev.packets := by
  unfold State.logAt
  dsimp only
  split
  · split <;> rfl
  · rw [setDev_packets _ _ rfl, wrote_packets]
    split
    · rfl
    · exact List.foldlRecOn (motive := fun t : State => t.dev.packets = s.dev.packets) _ _ rfl fun t h p _ =>
        (putWord_packets t p.1 p.2).trans h

theorem makeLate_stretched {ch : Nat} {s t : State} {e : Packet × Nat} (h : Stretched ch s t) (he : s.dev.packets[e.2]? = some e.1) :
    Stretched ch s (t.makeLate ch e) := by
  unfold State.makeLate
  split
  case isFalse => exact h
  case isTrue hc =>
    have hcross : e.1.crossing ch = true := (Bool.and_eq_true_iff.mp hc).1
    have hlt : e.2 < t.dev.packets.length := h.count ▸ (List.getElem?_eq_some_iff.mp he).1
    have hset : ((t.setDev fun d => { d with packets := d.packets.set e.2 e.1.late }).logRouter e.1).dev.packets =
        t.dev.packets.set e.2 e.1.late := logAt_packets ..
    refine ⟨?_, ?_, ?_, fun i p hp => ?_⟩
    · exact (logAt_onlyDev ..).frame.1.trans h.fib_eq
    · exact (State.logAt_places ..).trans h.places_eq
    · exact (congrArg List.length hset).trans (List.length_set.trans h.count)
    · change ((t.setDev fun d => { d with packets := d.packets.set e.2 e.1.late }).logRouter e.1).dev.packets[i]? = _ ∨ _ ∧
        ((t.setDev fun d => { d with packets := d.packets.set e.2 e.1.late }).logRouter e.1).dev.packets[i]? = _
      rw [hset]
      by_cases hi : e.2 = i
      · subst hi
        have hpe : p = e.1 := Option.some.inj (hp.symm.trans he)
        subst hpe
        exact Or.inr ⟨hcross, List.getElem?_set_self hlt⟩
      · rw [List.getElem?_set_ne hi]
        exact h.late i p hp

theorem chipAt_places {s t : State} (h : t.places = s.places) (n : Nat) : t.chipAt n = s.chipAt n :=
  chipAt_congr (congrArg Prod.fst h) (congrArg (fun x => x.2.1) h) n

theorem clockStretch_early {s : State} {ch : Nat}
    (h : ¬((s.chipAt ch).stretched = 0 ∨ s.clocksSince ch ((s.chipAt ch).stretched - 1) 16 = true)) :
    exec (.clockStretch ch) s = .next s := by
  rw [not_or] at h
  change execClockStretch ch s = _
  unfold execClockStretch
  dsimp only
  rw [if_pos ⟨h.1, by rw [Bool.not_eq_true']; exact Bool.not_eq_true _ ▸ h.2⟩]

/-- A stretch that is due counts its clock and leaves the rest as `Stretched` says. -/
theorem clockStretch_due {s : State} {ch : Nat}
    (h : (s.chipAt ch).stretched = 0 ∨ s.clocksSince ch ((s.chipAt ch).stretched - 1) 16 = true) :
    ∃ t, exec (.clockStretch ch) s = .next t ∧ Stretched ch (s.onChip ch fun c => { c with stretched := s.clkAt ch + 1 }) t := by
  refine ⟨s.dev.packets.zipIdx.foldl (fun s e => s.makeLate ch e) (s.onChip ch fun c => { c with stretched := s.clkAt ch + 1 }), ?_, ?_⟩
  · change execClockStretch ch s = _
    unfold execClockStretch
    dsimp only
    rw [if_neg]
    rintro ⟨h0, hs⟩
    obtain h | h := h
    · exact h0 h
    · rw [h] at hs
      exact Bool.false_ne_true hs
  · refine List.foldlRecOn _ _ ⟨rfl, rfl, rfl, fun i p hp => Or.inl hp⟩ fun t ht e he => makeLate_stretched ht ?_
    rw [onChip_dev]
    exact List.mem_zipIdx_iff_getElem?.mp he

/-! ## Sync pulses -/

theorem findOr_map_fixed {α : Type} {p : α → Bool} {f : α → α} {d : α} (hp : ∀ x, p (f x) = p x) (hd : f d = d) :
    ∀ l : List α, findOr p d (l.map f) = f (findOr p d l)
  | [] => hd.symm
  | x :: xs => by
    rw [List.map_cons, findOr, findOr, hp, findOr_map_fixed hp hd xs]
    split <;> rfl

/-- A change of every chiplet that keeps the numbers and changes no chiplet at power-on is the change of each. -/
theorem chipAt_allChips {f : Chip → Chip} (hn : ∀ c, (f c).num = c.num) (hz : ∀ n, f (Chip.zero n) = Chip.zero n) (s : State) (n : Nat) :
    (s.allChips f).chipAt n = f (s.chipAt n) := by
  unfold State.chipAt State.allChips
  dsimp only
  rw [hn]
  split
  · rfl
  · exact findOr_map_fixed (fun c => by rw [hn]) (hz n) _

/-- A chiplet after a pulse. -/
def Chip.pulsed (s : State) (c : Chip) : Chip :=
  if c.state = 0 then c else { c with floor := max c.floor (s.dev.ticks + c.skew), skew := Config.skew s.ctr c.num % 3 }

theorem pulsed_off {s : State} {c : Chip} (h : c.state = 0) : c.pulsed s = c := if_pos h
theorem pulsed_on {s : State} {c : Chip} (h : c.state ≠ 0) :
    c.pulsed s = { c with floor := max c.floor (s.dev.ticks + c.skew), skew := Config.skew s.ctr c.num % 3 } := if_neg h

theorem pulsed_num (s : State) (c : Chip) : (c.pulsed s).num = c.num := by
  unfold Chip.pulsed
  split <;> rfl

/-- No time base falls back at a pulse. -/
theorem pulsed_time (s : State) (c : Chip) : max c.floor (s.dev.ticks + c.skew) ≤ max (c.pulsed s).floor (s.dev.ticks + (c.pulsed s).skew) := by
  by_cases h : c.state = 0
  · rw [pulsed_off h]
  · rw [pulsed_on h]
    exact le_max_left ..

theorem pulsed_skew {s : State} {c : Chip} (h : c.state ≠ 0) : (c.pulsed s).skew < 3 := by
  rw [pulsed_on h]
  exact Nat.mod_lt _ (by decide)

/-- The state after a pulse that was due at tick `n`. -/
def State.pulsed (s : State) (n : Nat) : State := (s.allChips fun c => c.pulsed s).setDev fun d => { d with pulse := some (n + 2 ^ 20) }

theorem pulsed_chipAt (s : State) (n c : Nat) : (s.pulsed n).chipAt c = (s.chipAt c).pulsed s :=
  chipAt_allChips (fun c => pulsed_num s c) (fun _ => pulsed_off rfl) s c

theorem pulsed_wtick (s : State) (n c : Nat) : s.wtick c ≤ (s.pulsed n).wtick c := by
  change max (s.chipAt c).floor (s.dev.ticks + (s.chipAt c).skew) ≤
    max ((s.pulsed n).chipAt c).floor (s.dev.ticks + ((s.pulsed n).chipAt c).skew)
  rw [pulsed_chipAt]
  exact pulsed_time ..

theorem syncPulse_first {s : State} (h : s.dev.pulse = none) :
    exec .syncPulse s = .next (s.setDev fun d => { d with pulse := some (d.ticks + 2 ^ 20) }) := by
  change execSyncPulse s = _
  rw [execSyncPulse, h]

theorem syncPulse_early {s : State} {n : Nat} (h : s.dev.pulse = some n) (hn : s.dev.ticks < n) : exec .syncPulse s = .next s := by
  change execSyncPulse s = _
  rw [execSyncPulse, h]
  exact if_pos hn

theorem syncPulse_due {s : State} {n : Nat} (h : s.dev.pulse = some n) (hn : n ≤ s.dev.ticks) : exec .syncPulse s = .next (s.pulsed n) := by
  change execSyncPulse s = _
  rw [execSyncPulse, h]
  exact if_neg (by omega)

/-! ## Power-on -/

theorem findOr_all {α : Type} {P : α → Prop} {p : α → Bool} {d : α} :
    ∀ l : List α, (∀ x ∈ l, P x) → (∃ x ∈ l, p x = true) → P (findOr p d l)
  | [], _, h => absurd h (by simp)
  | x :: xs, hall, hex => by
    rw [findOr]
    split
    case isTrue => exact hall x List.mem_cons_self
    case isFalse hx =>
      refine findOr_all xs (fun y hy => hall y (List.mem_cons_of_mem _ hy)) ?_
      obtain ⟨y, hy, hpy⟩ := hex
      obtain rfl | hy := List.mem_cons.mp hy
      · exact absurd hpy hx
      · exact ⟨y, hy, hpy⟩

theorem deadCores_dead (s : State) : ∀ c ∈ s.deadCores, c.status = .dead := by
  intro c hc
  obtain ⟨m, _, hc⟩ := List.mem_flatMap.mp hc
  obtain ⟨i, _, rfl⟩ := List.mem_map.mp hc
  rfl

theorem deadCores_lists {s : State} {m i : Nat} (hm : m ∈ s.dev.memLost) (hi : i < 8) :
    ∃ c ∈ s.deadCores, (c.num == 1024 + 8 * m + i) = true :=
  ⟨_, List.mem_flatMap.mpr ⟨m, hm, List.mem_map.mpr ⟨i, List.mem_range.mpr hi, rfl⟩⟩, beq_self_eq_true _⟩

/-- The channel cores of a lost memory chiplet are dead where the cores are as at power-on. -/
theorem coreLive_lost {s t : State} (hfocus : t.core = Core.zero 0) (hcores : t.cores = s.deadCores) {m i : Nat} (hm : m ∈ s.dev.memLost)
    (hi : i < 8) : t.coreLive (1024 + 8 * m + i) = false := by
  have hne : ¬(Core.zero 0).num = 1024 + 8 * m + i := fun h => absurd (show 0 = 1024 + 8 * m + i from h) (by omega)
  have hdead : (t.coreAt (1024 + 8 * m + i)).status = .dead := by
    rw [State.coreAt, hfocus, if_neg hne, hcores]
    exact findOr_all (P := fun c : Core => c.status = .dead) _ (deadCores_dead s) (deadCores_lists hm hi)
  rw [State.coreLive, hdead]

theorem chipAt_reset_state {t : State} (hfocus : t.chip = Chip.zero 0) (hchips : t.chips = []) (n : Nat) : (t.chipAt n).state = 0 := by
  rw [State.chipAt, hfocus, hchips]
  split <;> rfl

/-! ## Bring-up -/

theorem foldl_fib {α : Type} {f : State → α → State} (hf : ∀ s a, (f s a).fib = s.fib) (l : List α) (s : State) :
    (l.foldl f s).fib = s.fib :=
  List.foldlRecOn (motive := fun t => t.fib = s.fib) l f rfl fun t h a _ => (hf t a).trans h

theorem onCore_fib (s : State) (n : Nat) (f : Core → Core) : (s.onCore n f).fib = s.fib := (onCore_sameFibres s n f).1

theorem putMap_fib (s : State) (n : Nat) (v : Word) : (s.putMap n v).fib = s.fib := (writeHome_onlyDev ..).frame.1

theorem useCand_fib (s : State) (pos : Nat) (taker : Option Nat) : (s.useCand pos taker).fib = s.fib :=
  foldl_fib (fun t n => by
    dsimp only
    split
    · exact putMap_fib ..
    · rfl) _ s

theorem rebind_fib (s : State) (n : Nat) : (s.rebind n).1.fib = s.fib := by
  unfold State.rebind
  dsimp only
  split
  · rw [State.setDev_fib, putMap_fib, onCore_fib, useCand_fib]
  · rw [onCore_fib, State.setDev_fib, useCand_fib, putMap_fib, onCore_fib, useCand_fib]

/-- Firmware's set-up of DRAM, the ports and its registers. -/
def State.firmwareSetUp (s : State) : State :=
  s.setUpDram.setUpPorts.setDev fun d => { d with
    cmapbase := BitVec.ofNat 64 Config.cmapBase, astabbase := BitVec.ofNat 64 Config.astabBase
    hgbase := BitVec.ofNat 64 Config.hgBase, elbase := BitVec.ofNat 64 Config.elBase }

/-- The core map as shipped. -/
def State.shippedMap (s : State) : State := (List.range 1024).foldl (fun s n => s.putMap n (shippedEntry s.exposed n)) s

/-- The cores of chiplets that are fenced are no candidates, and the numbers bound to them are bound anew. -/
def State.replaceFenced (s : State) : State :=
  let fenced := ((s.chip :: s.chips).filter fun c => decide (c.num < 256) && c.state == 6).map Chip.num
  let cores := fenced.flatMap fun ch => (List.range 4).map fun i => 4 * ch + i
  let s := cores.foldl (fun s c => s.useCand (posOfCore c) none) s
  (List.range s.exposed).foldl (fun s n => if (s.boundCore n).any fun c => cores.contains c then (s.rebind n).1 else s) s

theorem firmwareTables_eq (s : State) :
    s.firmwareTables = if s.dev.cmapbase ≠ 0 then s else s.firmwareSetUp.shippedMap.replaceFenced := rfl

theorem firmwareSetUp_fib (s : State) : s.firmwareSetUp.fib = s.fib := rfl

theorem shippedMap_fib (s : State) : s.shippedMap.fib = s.fib := foldl_fib (fun _ _ => putMap_fib ..) _ s

theorem replaceFenced_fib (s : State) : s.replaceFenced.fib = s.fib := by
  refine (foldl_fib (fun t n => ?_) _ _).trans (foldl_fib (fun _ _ => useCand_fib ..) _ s)
  split
  · exact rebind_fib ..
  · rfl

theorem firmwareTables_fib (s : State) : s.firmwareTables.fib = s.fib := by
  rw [firmwareTables_eq]
  split
  · rfl
  · rw [replaceFenced_fib, shippedMap_fib, firmwareSetUp_fib]

theorem numberCores_fib (s : State) (ch : Nat) : (s.numberCores ch).fib = s.fib :=
  foldl_fib (fun _ _ => by
    split <;> exact onCore_fib ..) _ s

theorem linkUp_fib (s : State) (ch : Nat) : (s.linkUp ch).fib = s.fib :=
  (foldl_fib (fun _ _ => onCore_fib ..) _ _).trans (onChip_fib ..)

/-- Nothing that bring-up completes touches the fibre in focus. -/
theorem entering_fib (s : State) (ch next : Nat) : (s.entering ch next).fib = s.fib := by
  unfold State.entering
  split
  · exact onChip_fib ..
  · exact (numberCores_fib ..).trans (firmwareTables_fib s)
  · exact onChip_fib ..
  · exact linkUp_fib ..
  · exact onChip_fib ..

/-- The condition of execBringupAdvance, as the statement of O50 has it. -/
theorem bringup_ready_iff {s : State} {ch : Nat} (hch : ch < 256) :
    (!s.dev.powered || decide (256 ≤ ch) || decide (5 ≤ (s.chipAt ch).state) || !s.rimReady ch ((s.chipAt ch).state + 1) ||
      !s.setUpFor ch ((s.chipAt ch).state + 1)) = false ↔
    (s.dev.powered = true ∧ (s.chipAt ch).state + 1 ≤ 5 ∧ s.rimReady ch ((s.chipAt ch).state + 1) = true ∧
      s.setUpFor ch ((s.chipAt ch).state + 1) = true) := by
  have hlow : ¬256 ≤ ch := by omega
  simp only [Bool.or_eq_false_iff, Bool.not_eq_false', decide_eq_false_iff_not, hlow, not_false_eq_true, and_true, and_assoc,
    Nat.not_le, Nat.lt_iff_add_one_le]

theorem bringupAdvance_eq (s : State) (ch : Nat) : exec (.bringupAdvance ch) s =
    if !s.dev.powered || decide (256 ≤ ch) || decide (5 ≤ (s.chipAt ch).state) || !s.rimReady ch ((s.chipAt ch).state + 1) ||
      !s.setUpFor ch ((s.chipAt ch).state + 1) then .next s
    else .next ((s.entering ch ((s.chipAt ch).state + 1)).onChip ch fun c => { c with state := (s.chipAt ch).state + 1 }) := rfl

theorem setUpFor_clocked (s : State) (ch : Nat) : s.setUpFor ch 1 = true ↔ s.dev.pulse ≠ none ∧ Config.depth ch ≤ s.dev.ticks := by
  change (s.dev.pulse.isSome && decide (Config.depth ch ≤ s.dev.ticks)) = true ↔ _
  rw [Bool.and_eq_true, decide_eq_true_eq, Option.isSome_iff_ne_none]

theorem setUpFor_linked (s : State) (ch : Nat) : s.setUpFor ch 4 = true ↔ ch / 4 ∈ s.dev.dramSet ∨ ch / 4 ∈ s.dev.memLost := by
  change (s.dev.dramSet.contains (ch / 4) || s.dev.memLost.contains (ch / 4)) = true ↔ _
  rw [Bool.or_eq_true, List.contains_iff_mem, List.contains_iff_mem]

/-- Settles O50: each step of the device by when it is due and what it leaves, bring-up by the fibre and the state of the chiplet. -/
theorem deviceSteps : Obligations.DeviceSteps := by
  unfold Obligations.DeviceSteps
  intro s ch hch
  refine ⟨fun h => ⟨freq_steady h, freqStepChange_steady h⟩, fun n h => ⟨freq_pending h, freq_done h, fun hn => ?_, fun hn => ?_⟩,
    ⟨clockStretch_early, fun hdue => ?_⟩, syncPulse_first, fun n h => ⟨syncPulse_early h, fun hn => ?_⟩, ?_, ?_⟩
  · rw [freqStepChange_pending h, if_neg (by omega)]
  · rw [freqStepChange_pending h, if_pos hn]
  · obtain ⟨t, ht, hfib, hplaces, hcount, hlate⟩ := clockStretch_due hdue
    refine ⟨t, ht, hfib.trans (onChip_fib ..), ?_, by rw [hcount, onChip_dev], fun i p hp => hlate i p (by rw [onChip_dev]; exact hp)⟩
    rw [chipAt_places hplaces, chipAt_onChip_same (f := fun c => { c with stretched := s.clkAt ch + 1 }) fun _ h => h]
  · refine ⟨s.pulsed n, syncPulse_due h hn, rfl, rfl, fun c => ⟨pulsed_wtick s n c, fun h0 => ?_, fun h0 => ?_⟩⟩
    · rw [pulsed_chipAt, pulsed_off h0]
    · rw [pulsed_chipAt]
      exact pulsed_skew h0
  · exact ⟨_, rfl, rfl, rfl, rfl, rfl, rfl, rfl, chipAt_reset_state rfl rfl, rfl, rfl, rfl, rfl, rfl, rfl,
      fun m hm i hi => coreLive_lost rfl rfl hm hi⟩
  · intro next ready
    refine ⟨fun h => ?_, fun h => ⟨(s.entering ch next).onChip ch fun c => { c with state := next }, ?_, ?_, ?_⟩,
      setUpFor_clocked s ch, setUpFor_linked s ch⟩
    · rw [bringupAdvance_eq, if_pos]
      rw [← Bool.not_eq_false]
      exact fun hf => h ((bringup_ready_iff hch).mp hf)
    · rw [bringupAdvance_eq, if_neg]
      rw [Bool.not_eq_true]
      exact (bringup_ready_iff hch).mpr h
    · rw [chipAt_onChip_same (f := fun c => { c with state := next }) fun _ h => h]
    · exact (onChip_fib ..).trans (entering_fib ..)

end Sys2Proof.Machine

/-! # Integer lanes (O22)

An instruction on two registers and a mask runs on the values that stood there before its W hold. The integer forms then differ in the
function of a lane alone. -/

namespace Sys2Proof.Machine

/-- A register operand names no slots. -/
theorem secondReady_register {s : State} {b : VReg} {n n' : BitVec 4} {y : Nat} (h : SecondReady s 0 b n y) : SecondReady s 0 b n' y :=
  ⟨h.1, fun h1 => absurd h1 (by decide)⟩

/-- What stops an instruction in the idle unit stops it after its W hold and its turn. -/
theorem vecRun_stops {s : State} {w : BitVec 1} {before : Ex State} {body : State → Ex State} {h : Halt} (hroom : Room s 1)
    (hf : UnitFree s .vector) (hb : before = .ok (s.waited w)) (hu : body (s.atVector w) = .error h) :
    vecRun s before body = stopped h := by
  rw [vecRun, runThen, ending_room hroom, entered_free hf, if_neg Bool.false_ne_true, hb, ok_bind]
  dsimp only
  rw [takeTurn_free (waited_unit w hf), ok_bind]
  dsimp only
  rw [hu]
  rfl

section
variable {s : State} {w sp : BitVec 1} {m e : MReg} {d a b : VReg} {n : BitVec 4} {mask x y : Nat}
  (hv : VecReady s w [d.toNat, a.toNat] m mask) (hx : readVec s a.toNat = .ok x) (hy : SecondReady s sp b n y) (z : BitVec 2)
include hv hx hy

/-- An integer form writes its function of each active lane, and keeps the bytes of the others. -/
theorem vecInt_idle (f : IntOp) :
    vecInt s d a b sp w m n z f = unitRuns (putLanes (s.atVector w) d.toNat (newLanes (2 ^ z.toNat) (256 / 2 ^ z.toNat) (s.oldVec d.toNat)
      fun i => if active mask (256 / 2 ^ z.toNat) i then
        some (f (8 * 2 ^ z.toNat) (lane (s.oldVec d.toNat) (2 ^ z.toNat) i) (lane x (2 ^ z.toNat) i) (lane y (2 ^ z.toNat) i), 0) else none)
      ((activeLanes mask (256 / 2 ^ z.toNat)).length == 256 / 2 ^ z.toNat)) 1 .vector .vector := by
  obtain ⟨hroom, hw, hr, hf, hm⟩ := hv
  refine vecRun_idle hroom hf (vecOpen_ready hw hr hy) ?_
  rw [served_readM hm, ok_bind, served_readVec hx, ok_bind, readB_ready hy, ok_bind]
  dsimp only
  rw [served_oldVec]

theorem vecCmpInt_idle (f : Nat → Nat → Nat → Bool) :
    vecCmpInt s e a b sp w m n z f = unitRuns (setM (s.atVector w) e.toNat
      ((activeLanes mask (256 / 2 ^ z.toNat)).foldr (fun i acc => acc + if f (8 * 2 ^ z.toNat) (lane x (2 ^ z.toNat) i)
        (lane y (2 ^ z.toNat) i) then 2 ^ i else 0) 0)) 1 .vector .vector := by
  obtain ⟨hroom, hw, hr, hf, hm⟩ := hv
  refine vecRun_idle hroom hf (vecOpen_ready hw (fun i hi => hr i (List.mem_cons_of_mem _ hi)) hy) ?_
  rw [served_readM hm, ok_bind, served_readVec hx, ok_bind, readB_ready hy, ok_bind]

theorem vmac_idle (ho : readVec s d.toNat = .ok (s.oldVec d.toNat)) :
    exec (.vmac d a b sp w m n z) s = unitRuns (putLanes (s.atVector w) d.toNat (newLanes (2 ^ z.toNat) (256 / 2 ^ z.toNat) (s.oldVec d.toNat)
      fun i => if active mask (256 / 2 ^ z.toNat) i then some ((lane (s.oldVec d.toNat) (2 ^ z.toNat) i +
        lane x (2 ^ z.toNat) i * lane y (2 ^ z.toNat) i) % 2 ^ (8 * 2 ^ z.toNat), 0) else none)
      ((activeLanes mask (256 / 2 ^ z.toNat)).length == 256 / 2 ^ z.toNat)) 1 .vector .vector := by
  obtain ⟨hroom, hw, hr, hf, hm⟩ := hv
  change execVmac d a b sp w m n z s = _
  refine vecRun_idle hroom hf (vecOpen_ready hw hr hy) ?_
  rw [served_readM hm, ok_bind, served_readVec hx, ok_bind, readB_ready hy, ok_bind]
  dsimp only
  rw [served_readVec ho, ok_bind]

/-- An addend with the poison mark is consumed (R438). -/
theorem vmac_poisoned (hbad : s.fib.vbad.getD d.toNat false = true) : exec (.vmac d a b sp w m n z) s =
    stopped ⟨s.atVector w, .poison 1 (BitVec.ofNat 64 d.toNat) false⟩ := by
  obtain ⟨hroom, hw, hr, hf, hm⟩ := hv
  have hread : readVec (s.atVector w) d.toNat = .error ⟨s.atVector w, .poison 1 (BitVec.ofNat 64 d.toNat) false⟩ := by
    rw [readVec, if_pos]
    rw [served_fib]
    exact hbad
  change execVmac d a b sp w m n z s = _
  refine vecRun_stops hroom hf (vecOpen_ready hw hr hy) ?_
  rw [served_readM hm, ok_bind, served_readVec hx, ok_bind, readB_ready hy, ok_bind]
  dsimp only
  rw [hread]
  rfl

end

/-- Settles O22: each form by its function of a lane. -/
theorem vectorInteger : Obligations.VectorInteger := by
  unfold Obligations.VectorInteger
  intro s d a b w sp m e n z mask x y hv hx hy
  have put (f : IntOp) := vecInt_idle hv hx hy z f
  have cmp (f : Nat → Nat → Nat → Bool) := vecCmpInt_idle (e := e) hv hx hy z f
  refine ⟨put (intOp 0), put (intOp 1), put (intOp 2), vmac_idle hv hx hy z, vmac_poisoned hv hx hy z, put (intOp 3),
    cmp fun _ u v => u == v, cmp fun W u v => decide (toSigned W u < toSigned W v), cmp fun _ u v => decide (u < v), ?_⟩
  rintro rfl
  have reg (f : IntOp) := vecInt_idle hv hx (n := 0) (secondReady_register hy) z f
  exact ⟨reg (intOp 4), reg (intOp 5), reg (intOp 6), reg (intOp 7), reg (intOp 8), reg (intOp 9), reg (intOp 10), reg (intOp 11),
    reg (intOp 12), reg (intOp 13), reg (intOp 14), reg (intOp 15), reg (intOp 16), reg (intOp 17), reg (intOp 18)⟩

end Sys2Proof.Machine

/-! # VF lanes (O21)

A VF form differs in the scalar operation that each active lane makes, and in how many of its operands' lanes are checked. -/

namespace Sys2Proof.Machine

theorem readVec_oldVec {s : State} {i x : Nat} (h : readVec s i = .ok x) : x = s.oldVec i := by
  rw [readVec] at h
  split at h
  · cases h
  · exact (Except.ok.inj h).symm

/-- What a VF form leaves in the destination: the operation of each active lane, and the old bytes of the others. -/
def State.putVf (s : State) (w : BitVec 1) (d mask : Nat) (f : Nat → Nat × FFlags) : State :=
  putLanes (s.atVector w) d (newLanes s.n (vfLanes s.n) (s.oldVec d) fun i => if active mask (vfLanes s.n) i then some (f i) else none)
    ((activeLanes mask (vfLanes s.n)).length == vfLanes s.n)

section
variable {s : State} {w sp : BitVec 1} {m e : MReg} {d a b : VReg} {n : BitVec 4} {mask x y z : Nat}
  (hv : VecReady s w [d.toNat, a.toNat] m mask) (hx : readVec s a.toNat = .ok x)
include hv hx

/-- A form on one register, given on encodings. -/
theorem vecVf1_idle (hok : lanesOk (s.atVector w) s.n (activeLanes mask (vfLanes s.n)) [x] = .ok ())
    (f : Nat → Nat → RMode → Nat × FFlags) :
    vecVf1 s d a w m f = unitRuns (s.putVf w d.toNat mask fun i => f (lane x s.n i) s.p s.rm) 1 .vector .vector := by
  refine vecRun_lanes hv hx ?_
  rw [served_n, served_p, served_rm]
  dsimp only
  rw [hok, ok_bind, served_oldVec]
  rfl

variable (hy : SecondReady s sp b n y)
include hy

theorem vecVf2_idle (hok : lanesOk (s.atVector w) s.n (activeLanes mask (vfLanes s.n)) [x, y] = .ok ()) (f : FOp2) :
    vecVf2 s d a b sp w m n f =
      unitRuns (s.putVf w d.toNat mask fun i => encAt s.p (f (vfLane x s.n i) (vfLane y s.n i) s.p s.rm)) 1 .vector .vector := by
  obtain ⟨hroom, hw, hr, hf, hm⟩ := hv
  refine vecRun_idle hroom hf (vecOpen_ready hw hr hy) ?_
  rw [served_readM hm, ok_bind, served_readVec hx, ok_bind, readB_ready hy, ok_bind]
  dsimp only
  rw [served_n, served_p, served_rm, hok, ok_bind, served_oldVec]
  rfl

/-- The fused forms read the destination as their addend. -/
theorem vecVf3_idle (hz : readVec s d.toNat = .ok z)
    (hok : lanesOk (s.atVector w) s.n (activeLanes mask (vfLanes s.n)) [x, y, z] = .ok ()) (negProd negAdd : Bool) :
    vecVf3 s d a b sp w m n negProd negAdd = unitRuns (s.putVf w d.toNat mask fun i =>
      encAt s.p (FV.fused negProd negAdd (vfLane x s.n i) (vfLane y s.n i) (vfLane z s.n i) s.p s.rm)) 1 .vector .vector := by
  have hold : z = s.oldVec d.toNat := readVec_oldVec hz
  obtain ⟨hroom, hw, hr, hf, hm⟩ := hv
  refine vecRun_idle hroom hf (vecOpen_ready hw hr hy) ?_
  rw [served_readM hm, ok_bind, served_readVec hx, ok_bind, readB_ready hy, ok_bind]
  dsimp only
  rw [served_readVec hz, ok_bind, served_n, served_p, served_rm, hok, ok_bind, State.putVf, ← hold]

/-- A compare writes the lanes that are active and for which it holds, and raises the flags of all active ones. -/
theorem vecCmpVf_idle (hok : lanesOk (s.atVector w) s.n (activeLanes mask (vfLanes s.n)) [x, y] = .ok ())
    (f : FV → FV → Bool × FFlags) :
    let r := (activeLanes mask (vfLanes s.n)).foldr (fun i acc =>
      (acc.1 + (if (f (vfLane x s.n i) (vfLane y s.n i)).1 then 2 ^ i else 0), (f (vfLane x s.n i) (vfLane y s.n i)).2 ||| acc.2))
      ((0 : Nat), (0 : FFlags))
    vecCmpVf s e a b sp w m n f = unitRuns (raiseFlags (setM (s.atVector w) e.toNat r.1) r.2) 1 .vector .vector := by
  intro r
  obtain ⟨hroom, hw, hr, hf, hm⟩ := hv
  refine vecRun_idle hroom hf (vecOpen_ready hw (fun i hi => hr i (List.mem_cons_of_mem _ hi)) hy) ?_
  rw [served_readM hm, ok_bind, served_readVec hx, ok_bind, readB_ready hy, ok_bind]
  dsimp only
  rw [served_n, hok, ok_bind]

end

/-- Settles O21: each form by its scalar operation on a lane. -/
theorem vectorFloat : Obligations.VectorFloat := by
  unfold Obligations.VectorFloat
  intro s d a b w sp m e n mask x y z hv hx
  refine ⟨fun hok => ?_, fun hy hok => ?_, fun hy hz hok => ?_⟩
  · have one (f : Nat → Nat → RMode → Nat × FFlags) := vecVf1_idle hv hx hok f
    exact ⟨one fun x p mode => encAt p ((vfDecode x).sqrt p mode), one fun x p mode => encAt p (FV.rint true (vfDecode x) p mode),
      one fun x _ _ => (putSign x !(x.testBit 4), 0), one fun x _ _ => (putSign x false, 0)⟩
  · have two (f : FOp2) := vecVf2_idle hv hx hy hok f
    have cmp (f : FV → FV → Bool × FFlags) := vecCmpVf_idle (e := e) hv hx hy hok f
    exact ⟨two FV.add, two FV.sub, two FV.mul, two FV.div, two (FV.pick true), two (FV.pick false),
      cmp fun u v => (u.cmp v == some .eq, cmpFlags u v false), cmp fun u v => (u.cmp v == some .lt, cmpFlags u v true),
      cmp fun u v => (u.cmp v == some .lt || u.cmp v == some .eq, cmpFlags u v true),
      cmp fun u v => (u.isNan || v.isNan, cmpFlags u v false)⟩
  · have three (negProd negAdd : Bool) := vecVf3_idle hv hx hy hz hok negProd negAdd
    exact ⟨three false false, three false true, three true true, three true false⟩

end Sys2Proof.Machine

/-! # Lane moves and lane conversions (O25)

A move writes one value to each active lane, taken from the lane that it names or zero; the forms differ in which lane that is. -/

namespace Sys2Proof.Machine

/-! ## Lanes -/

theorem newLanes_congr {n l old : Nat} {f g : Nat → Option (Nat × FFlags)} (h : ∀ i, i < l → f i = g i) :
    newLanes n l old f = newLanes n l old g := by
  unfold newLanes
  refine List.foldr_ext _ _ _ fun i hi acc => ?_
  rw [h i (List.mem_range.mp hi)]

theorem served_readV0 {s : State} {w : BitVec 1} {i x : Nat} (h : readV0 s i = .ok x) : readV0 (s.atVector w) i = .ok x := by
  unfold readV0 at h ⊢
  rw [served_p, served_n, served_fib]
  by_cases hlive : i ≥ s.fib.flive
  · rw [if_pos hlive] at h ⊢
    exact h
  · rw [if_neg hlive] at h ⊢
    by_cases hbad : s.fib.fPoison s.n i = true
    · rw [if_pos hbad] at h
      cases h
    · rw [if_neg hbad] at h
      exact (if_neg hbad).trans h

/-- The kind of integer lanes of 2^z bytes is no VF kind. -/
theorem intKind_ne : ∀ z : BitVec 2, z.setWidth 3 ≠ (4 : BitVec 3) := by decide

theorem intKind_bytes (t : State) (z : BitVec 2) : kindBytes t (z.setWidth 3) = 2 ^ z.toNat := by
  rw [kindBytes, if_neg (intKind_ne z), BitVec.toNat_setWidth_of_le (by decide)]

theorem intKind_zero (t : State) (z : BitVec 2) : kindZero t (z.setWidth 3) = 0 := if_neg (intKind_ne z)

theorem vfKind_bytes (s : State) (w : BitVec 1) : kindBytes (s.atVector w) 4 = s.n := (if_pos rfl).trans (served_n s w)

theorem vfKind_zero (s : State) (w : BitVec 1) : kindZero (s.atVector w) 4 = vfEncode s.p FV.zero := by
  rw [kindZero, if_pos rfl, served_p]

/-- A destination with one value for each active lane of `e` bytes, and its old bytes elsewhere. -/
def State.putEach (s : State) (w : BitVec 1) (d mask e : Nat) (val : Nat → Nat) : State :=
  putLanes (s.atVector w) d (newLanes e (256 / e) (s.oldVec d) fun i => if active mask (256 / e) i then some (val i, 0) else none)
    ((activeLanes mask (256 / e)).length == 256 / e)

theorem putEach_congr {s : State} {w : BitVec 1} {d mask e : Nat} {f g : Nat → Nat} (h : ∀ i, i < 256 / e → f i = g i) :
    s.putEach w d mask e f = s.putEach w d mask e g := by
  unfold State.putEach
  rw [newLanes_congr fun i hi => by rw [h i hi]]

/-- The value of a lane that a move takes, or the zero of its kind. -/
def takeLane (x e z : Nat) (src : Option Nat) : Nat :=
  match src with
  | some j => lane x e j
  | none => z

theorem takeLane_ite (x e z j : Nat) (c : Prop) [Decidable c] :
    takeLane x e z (if c then some j else none) = if c then lane x e j else z := by
  split <;> rfl

theorem VecReady.mask_read {s : State} {w : BitVec 1} {regs : List Nat} {m : MReg} {mask : Nat} (hv : VecReady s w regs m mask) :
    readM s m.toNat = .ok mask := by
  obtain ⟨_, _, _, _, hm⟩ := hv
  exact hm

/-! ## Moves -/

section
variable {s : State} {w sp : BitVec 1} {m : MReg} {d a b : VReg} {g : GReg} {n : BitVec 4} {k : BitVec 3} {mask x y : Nat}
  {src : Nat → Nat → Option Nat}

/-- What a move writes, where the lanes that it takes pass their check (R284). -/
theorem moveLanes_ok (hm : readM s m.toNat = .ok mask) (hx : readVec s a.toNat = .ok x)
    (hok : k = 4 → lanesOk (s.atVector w) s.n ((List.range (256 / s.n)).filter fun j =>
      (activeLanes mask (256 / s.n)).any fun i => src (256 / s.n) i == some j) [x] = .ok ()) :
    moveLanes (s.atVector w) d a m k src = .ok (s.putEach w d.toNat mask (kindBytes (s.atVector w) k) fun i =>
      takeLane x (kindBytes (s.atVector w) k) (kindZero (s.atVector w) k) (src (256 / kindBytes (s.atVector w) k) i)) := by
  rw [moveLanes, served_readM hm, ok_bind, served_readVec hx, ok_bind]
  dsimp only
  rw [check_bind fun hk => by rw [hk, vfKind_bytes]; exact hok hk, served_oldVec]
  rfl

/-- On integer lanes nothing is checked. -/
theorem moveLanes_int (z : BitVec 2) (hm : readM s m.toNat = .ok mask) (hx : readVec s a.toNat = .ok x) :
    moveLanes (s.atVector w) d a m (z.setWidth 3) src = .ok (s.putEach w d.toNat mask (2 ^ z.toNat) fun i =>
      takeLane x (2 ^ z.toNat) 0 (src (256 / 2 ^ z.toNat) i)) := by
  rw [moveLanes_ok hm hx fun hk => absurd hk (intKind_ne z), intKind_bytes, intKind_zero]

theorem moveLanes_vf (hm : readM s m.toNat = .ok mask) (hx : readVec s a.toNat = .ok x)
    (hok : lanesOk (s.atVector w) s.n ((List.range (256 / s.n)).filter fun j =>
      (activeLanes mask (256 / s.n)).any fun i => src (256 / s.n) i == some j) [x] = .ok ()) :
    moveLanes (s.atVector w) d a m 4 src = .ok (s.putEach w d.toNat mask s.n fun i =>
      takeLane x s.n (vfEncode s.p FV.zero) (src (256 / s.n) i)) := by
  rw [moveLanes_ok hm hx fun _ => hok, vfKind_bytes, vfKind_zero]

variable (hv : VecReady s w [d.toNat, a.toNat] m mask)
include hv

/-- The indices of `vperm` are the lanes of its second operand, of one byte for VF lanes. -/
theorem vperm_idle {u : State} (hy : SecondReady s sp b n y)
    (hu : moveLanes (s.atVector w) d a m k (fun l i => if lane y (if k = 4 then 1 else 2 ^ k.toNat) i < l
      then some (lane y (if k = 4 then 1 else 2 ^ k.toNat) i) else none) = .ok u) :
    exec (.vperm d a b sp w m n k) s = unitRuns u 1 .vector .vector := by
  obtain ⟨hroom, hw, hr, hf, hm⟩ := hv
  change execVperm d a b sp w m n k s = _
  refine vecRun_idle hroom hf (vecOpen_ready hw hr hy) ?_
  rw [readB_ready hy, ok_bind]
  exact hu

variable (hg : FullG s g)
include hg

theorem vslideup_idle {u : State} (hu : moveLanes (s.atVector w) d a m k
      (fun _ i => if (s.g g).toNat ≤ i then some (i - (s.g g).toNat) else none) = .ok u) :
    exec (.vslideup d a g w m k) s = unitRuns u 1 .vector .vector := by
  obtain ⟨hroom, hw, hr, hf, hm⟩ := hv
  change execVslideup d a g w m k s = _
  refine vecRun_idle (w := w) hroom hf ?_ ?_
  · rw [vecOpenG_ok hw (by simp [hg]) hr, ok_bind]
  · rw [readG_of_bank hg (served_bank s w), ok_bind]
    exact hu

theorem vslidedn_idle {u : State} (hu : moveLanes (s.atVector w) d a m k
      (fun l i => if i + (s.g g).toNat < l then some (i + (s.g g).toNat) else none) = .ok u) :
    exec (.vslidedn d a g w m k) s = unitRuns u 1 .vector .vector := by
  obtain ⟨hroom, hw, hr, hf, hm⟩ := hv
  change execVslidedn d a g w m k s = _
  refine vecRun_idle (w := w) hroom hf ?_ ?_
  · rw [vecOpenG_ok hw (by simp [hg]) hr, ok_bind]
  · rw [readG_of_bank hg (served_bank s w), ok_bind]
    exact hu

end

/-! ## Splats, extracts and inserts -/

section
variable {s : State} {w : BitVec 1} {m : MReg} {d a f : VReg} {g h : GReg} {mask x v e : Nat}

theorem splat_ok (hm : readM s m.toNat = .ok mask) : splat (s.atVector w) d m e v = .ok (s.putEach w d.toNat mask e fun _ => v) := by
  rw [splat, served_readM hm, ok_bind, served_oldVec]
  rfl

/-- An insert into an active lane (R284). -/
theorem insertLane_active {j : Nat} (hm : readM s m.toNat = .ok mask) (hj : j < 256 / e) (ha : active mask (256 / e) j = true) :
    insertLane (s.atVector w) d m e j v = .ok (putLanes (s.atVector w) d.toNat
      (newLanes e (256 / e) (s.oldVec d.toNat) fun i => if i = j then some (v, 0) else none) false) := by
  rw [insertLane, served_readM hm, ok_bind]
  dsimp only
  rw [if_pos ⟨hj, ha⟩, served_oldVec]

theorem insertLane_beyond {j : Nat} (hm : readM s m.toNat = .ok mask) (hj : 256 / e ≤ j) :
    insertLane (s.atVector w) d m e j v = .ok (s.atVector w) := by
  rw [insertLane, served_readM hm, ok_bind]
  exact if_neg fun h => absurd h.1 (by omega)

variable (hv : VecReady s w [d.toNat, a.toNat] m mask)
include hv

theorem vsplatInt_idle (z : BitVec 2) (hg : FullG s g) :
    exec (.vsplatInt d g w m z) s = unitRuns (s.putEach w d.toNat mask (2 ^ z.toNat) fun _ => (s.g g).toNat) 1 .vector .vector := by
  obtain ⟨hroom, hw, hr, hf, hm⟩ := hv
  change execVsplatInt d g w m z s = _
  refine vecRun_idle (w := w) hroom hf ?_ ?_
  · rw [vecOpenG_ok hw (by simp [hg]) (by simp [hr]), ok_bind]
  · rw [readG_of_bank hg (served_bank s w), ok_bind, splat_ok hm]

theorem vsplatVf_idle (hk : f.toNat < s.k) (hread : readV0 s f.toNat = .ok v) :
    exec (.vsplatVf d f w m) s = unitRuns (s.putEach w d.toNat mask s.n fun _ => v) 1 .vector .vector := by
  obtain ⟨hroom, hw, hr, hf, hm⟩ := hv
  change execVsplatVf d f w m s = _
  refine vecRun_idle (w := w) hroom hf ?_ ?_
  · rw [vecOpenV, vecOpenG_ok hw (by simp) (by simp [hr]), ok_bind, needF_ok (by rwa [waited_k]), ok_bind]
  · rw [served_readV0 hread, ok_bind, served_n, splat_ok hm]

theorem vinsInt_idle {u : State} (z : BitVec 2) (hg : FullG s g) (hh : FullG s h)
    (hu : insertLane (s.atVector w) d m (2 ^ z.toNat) (s.g h).toNat (s.g g).toNat = .ok u) :
    exec (.vinsInt d g h w m z) s = unitRuns u 1 .vector .vector := by
  obtain ⟨hroom, hw, hr, hf, hm⟩ := hv
  change execVinsInt d g h w m z s = _
  refine vecRun_idle (w := w) hroom hf ?_ ?_
  · rw [vecOpenG_ok hw (by simp [hg, hh]) (by simp [hr]), ok_bind]
  · rw [readG_of_bank hg (served_bank s w), ok_bind, readG_of_bank hh (served_bank s w), ok_bind, hu]

theorem vinsVf_idle {u : State} (hg : FullG s g) (hk : f.toNat < s.k) (hread : readV0 s f.toNat = .ok v)
    (hu : insertLane (s.atVector w) d m s.n (s.g g).toNat v = .ok u) :
    exec (.vinsVf d f g w m) s = unitRuns u 1 .vector .vector := by
  obtain ⟨hroom, hw, hr, hf, hm⟩ := hv
  change execVinsVf d f g w m s = _
  refine vecRun_idle (w := w) hroom hf ?_ ?_
  · rw [vecOpenG_ok hw (by simp [hg]) (by simp [hr]), ok_bind, needF_ok (by rwa [waited_k]), ok_bind]
  · rw [readG_of_bank hg (served_bank s w), ok_bind, served_readV0 hread, ok_bind, served_n, hu]

variable (hx : readVec s a.toNat = .ok x)
include hx

theorem vmov_idle : exec (.vmov d a w) s = unitRuns (setVec (s.atVector w) d.toNat x) 1 .vector .vector := by
  obtain ⟨hroom, hw, hr, hf, hm⟩ := hv
  change execVmov d a w s = _
  refine vecRun_idle (w := w) hroom hf (vecOpenG_ok hw (by simp) hr) ?_
  rw [served_readVec hx, ok_bind]

/-- Compress packs the active lanes, and zeros above them (R284). -/
theorem vcompress_idle (k : BitVec 3) (hok : k = 4 → lanesOk (s.atVector w) s.n (activeLanes mask (256 / s.n)) [x] = .ok ()) :
    let e := kindBytes (s.atVector w) k
    exec (.vcompress d a w m k) s = unitRuns (setVec (s.atVector w) d.toNat (packLanes e
      (((activeLanes mask (256 / e)).map fun i => lane x e i) ++
        List.replicate (256 / e - (activeLanes mask (256 / e)).length) (kindZero (s.atVector w) k)))) 1 .vector .vector := by
  intro e
  change execVcompress d a w m k s = _
  refine vecRun_lanes hv hx ?_
  dsimp only
  rw [check_bind fun hk => by rw [hk, vfKind_bytes]; exact hok hk, List.length_map]

variable (hg : FullG s g)
include hg

theorem vextInt_idle (z : BitVec 2) (hh : FreeG s h) : exec (.vextInt h a g w z) s = unitRuns (setG (s.atVector w) h
    (if (s.g g).toNat < 256 / 2 ^ z.toNat then BitVec.ofNat 64 (lane x (2 ^ z.toNat) (s.g g).toNat) else 0)) 1 .vector .vector := by
  obtain ⟨hroom, hw, hr, hf, hm⟩ := hv
  change execVextInt h a g w z s = _
  refine vecRun_idle (w := w) hroom hf ?_ ?_
  · rw [vecOpenG_ok hw (by simp [hg]) (by simp [hr]), ok_bind, destG_free (hh.of_bank (waited_bank s w)), ok_bind]
  · rw [readG_of_bank hg (served_bank s w), ok_bind, served_readVec hx, ok_bind]

variable (hk : f.toNat < s.k)
include hk

theorem vextVf_lane (hg' : (s.g g).toNat < vfLanes s.n) (hok : lanesOk (s.atVector w) s.n [(s.g g).toNat] [x] = .ok ()) :
    exec (.vextVf f a g w) s = unitRuns (setV0 (s.atVector w) f.toNat (lane x s.n (s.g g).toNat)) 1 .vector .vector := by
  obtain ⟨hroom, hw, hr, hf, hm⟩ := hv
  change execVextVf f a g w s = _
  refine vecRun_idle (w := w) hroom hf ?_ ?_
  · rw [vecOpenG_ok hw (by simp [hg]) (by simp [hr]), ok_bind, needF_ok (by rwa [waited_k]), ok_bind]
  · rw [readG_of_bank hg (served_bank s w), ok_bind, served_readVec hx, ok_bind, served_n, if_pos hg', hok, ok_bind]

theorem vextVf_zero (hg' : vfLanes s.n ≤ (s.g g).toNat) :
    exec (.vextVf f a g w) s = unitRuns (setV0 (s.atVector w) f.toNat (vfEncode s.p FV.zero)) 1 .vector .vector := by
  obtain ⟨hroom, hw, hr, hf, hm⟩ := hv
  change execVextVf f a g w s = _
  refine vecRun_idle (w := w) hroom hf ?_ ?_
  · rw [vecOpenG_ok hw (by simp [hg]) (by simp [hr]), ok_bind, needF_ok (by rwa [waited_k]), ok_bind]
  · rw [readG_of_bank hg (served_bank s w), ok_bind, served_readVec hx, ok_bind, served_n, if_neg (by omega), served_p]

end

/-! ## Conversions -/

section
variable {s : State} {w : BitVec 1} {m : MReg} {d a h : VReg} {mask x : Nat} (hv : VecReady s w [d.toNat, a.toNat] m mask)
  (hx : readVec s a.toNat = .ok x) {vf : Bool} {es ed zero : State → Nat} {conv : State → Nat → Nat × FFlags}
include hv hx

/-- A conversion runs on the lanes of its part, where those that it takes of a VF source pass their check (R285). -/
theorem vecConv_idle {e r z : Nat} {f : Nat → Nat × FFlags} (he : es (s.atVector w) = e) (hr : ed (s.atVector w) = r)
    (hz : zero (s.atVector w) = z) (hf : conv (s.atVector w) = f)
    (hok : vf = true → lanesOk (s.atVector w) e ((List.range (256 / e)).filter fun j => (activeLanes mask (256 / r)).any fun i =>
      (if active mask (256 / r) i then partLane (256 / e) (256 / r) h.toNat i else none) == some (some j)) [x] = .ok ()) :
    let src := fun i => if active mask (256 / r) i then partLane (256 / e) (256 / r) h.toNat i else none
    vecConv s d a h w m vf es ed zero conv = unitRuns (putLanes (s.atVector w) d.toNat
      (newLanes r (256 / r) (s.oldVec d.toNat) fun i => (src i).map fun j => match j with
        | some j => f (lane x e j)
        | none => (z, 0)) ((List.range (256 / r)).all fun i => (src i).isSome)) 1 .vector .vector := by
  intro src
  subst he hr hz hf
  refine vecRun_lanes hv hx ?_
  dsimp only
  rw [check_bind hok, served_oldVec] <;> rfl

/-- A conversion of VF lanes to integers of a kind. -/
theorem vecConv_toInt {k : Nat} (hok : lanesOk (s.atVector w) s.n ((List.range (256 / s.n)).filter fun j =>
      (activeLanes mask (256 / outKindBytes k)).any fun i => (if active mask (256 / outKindBytes k) i then
        partLane (256 / s.n) (256 / outKindBytes k) h.toNat i else none) == some (some j)) [x] = .ok ())
    (val : State → Nat → Int × FFlags) {v : Nat → Int × FFlags} (hval : val (s.atVector w) = v) :
    let src := fun i => if active mask (256 / outKindBytes k) i then partLane (256 / s.n) (256 / outKindBytes k) h.toNat i else none
    vecConv s d a h w m true State.n (fun _ => outKindBytes k) (fun _ => 0) (fun t x => (wrap 64 (val t x).1, (val t x).2)) =
      unitRuns (putLanes (s.atVector w) d.toNat (newLanes (outKindBytes k) (256 / outKindBytes k) (s.oldVec d.toNat) fun i =>
        (src i).map fun j => match j with
          | some j => (wrap 64 (v (lane x s.n j)).1, (v (lane x s.n j)).2)
          | none => (0, 0)) ((List.range (256 / outKindBytes k)).all fun i => (src i).isSome)) 1 .vector .vector :=
  vecConv_idle hv hx (ed := fun _ => outKindBytes k) (zero := fun _ => 0) (conv := fun t x => (wrap 64 (val t x).1, (val t x).2))
    (f := fun y => (wrap 64 (v y).1, (v y).2)) (served_n s w) rfl rfl (by rw [hval]) fun _ => hok

end

/-! ## The obligation -/

section
variable {s : State} {w sp : BitVec 1} {m : MReg} {d a b : VReg} {n : BitVec 4} {mask x y : Nat}
  (hv : VecReady s w [d.toNat, a.toNat] m mask) (hx : readVec s a.toNat = .ok x)
include hv hx

theorem vperm_int (z : BitVec 2) (hy : SecondReady s sp b n y) :
    exec (.vperm d a b sp w m n (z.setWidth 3)) s = unitRuns (s.putEach w d.toNat mask (2 ^ z.toNat) fun i =>
      if lane y (2 ^ z.toNat) i < 256 / 2 ^ z.toNat then lane x (2 ^ z.toNat) (lane y (2 ^ z.toNat) i) else 0) 1 .vector .vector := by
  have hm := hv.mask_read
  have hbytes : (if z.setWidth 3 = (4 : BitVec 3) then 1 else 2 ^ (z.setWidth 3).toNat) = 2 ^ z.toNat := by
    rw [if_neg (intKind_ne z), BitVec.toNat_setWidth_of_le (by decide)]
  refine vperm_idle hv hy ((moveLanes_int z hm hx).trans ?_)
  simp only [hbytes, takeLane_ite]

theorem vslideup_int (z : BitVec 2) {g : GReg} (hg : FullG s g) :
    exec (.vslideup d a g w m (z.setWidth 3)) s = unitRuns (s.putEach w d.toNat mask (2 ^ z.toNat) fun i =>
      if (s.g g).toNat ≤ i then lane x (2 ^ z.toNat) (i - (s.g g).toNat) else 0) 1 .vector .vector := by
  have hm := hv.mask_read
  refine vslideup_idle hv hg ((moveLanes_int z hm hx).trans ?_)
  simp only [takeLane_ite]

theorem vslidedn_int (z : BitVec 2) {g : GReg} (hg : FullG s g) :
    exec (.vslidedn d a g w m (z.setWidth 3)) s = unitRuns (s.putEach w d.toNat mask (2 ^ z.toNat) fun i =>
      if i + (s.g g).toNat < 256 / 2 ^ z.toNat then lane x (2 ^ z.toNat) (i + (s.g g).toNat) else 0) 1 .vector .vector := by
  have hm := hv.mask_read
  refine vslidedn_idle hv hg ((moveLanes_int z hm hx).trans ?_)
  simp only [takeLane_ite]

theorem vcompress_int (z : BitVec 2) :
    exec (.vcompress d a w m (z.setWidth 3)) s = unitRuns (setVec (s.atVector w) d.toNat (packLanes (2 ^ z.toNat)
      (((activeLanes mask (256 / 2 ^ z.toNat)).map fun i => lane x (2 ^ z.toNat) i) ++
        List.replicate (256 / 2 ^ z.toNat - (activeLanes mask (256 / 2 ^ z.toNat)).length) 0))) 1 .vector .vector := by
  have h := vcompress_idle hv hx (z.setWidth 3) fun hk => absurd hk (intKind_ne z)
  rwa [intKind_bytes, intKind_zero] at h

theorem vcompress_vf (hok : lanesOk (s.atVector w) s.n (activeLanes mask (256 / s.n)) [x] = .ok ()) :
    exec (.vcompress d a w m 4) s = unitRuns (setVec (s.atVector w) d.toNat (packLanes s.n
      (((activeLanes mask (256 / s.n)).map fun i => lane x s.n i) ++
        List.replicate (256 / s.n - (activeLanes mask (256 / s.n)).length) (vfEncode s.p FV.zero)))) 1 .vector .vector := by
  have h := vcompress_idle hv hx 4 fun _ => hok
  rwa [vfKind_bytes, vfKind_zero] at h

end

/-- Lanes below `l` that are taken, where a lane number of `l` or more takes none. -/
theorem taken_eq {l x k : Nat} {t : State} {act : List Nat} {src : Nat → Nat} {opt : Nat → Option Nat}
    (h : ∀ i ∈ act, ∀ j < l, opt i = some j ↔ src i = j)
    (hok : lanesOk t k ((List.range l).filter fun j => act.any fun i => decide (src i = j)) [x] = .ok ()) :
    lanesOk t k ((List.range l).filter fun j => act.any fun i => opt i == some j) [x] = .ok () := by
  rw [← hok]
  congr 1
  refine List.filter_congr fun j hj => ?_
  rw [Bool.eq_iff_iff, List.any_eq_true, List.any_eq_true]
  simp only [beq_iff_eq, decide_eq_true_eq]
  exact ⟨fun ⟨i, hi, he⟩ => ⟨i, hi, (h i hi j (List.mem_range.mp hj)).mp he⟩,
    fun ⟨i, hi, he⟩ => ⟨i, hi, (h i hi j (List.mem_range.mp hj)).mpr he⟩⟩

theorem mem_activeLanes_lt {mask l i : Nat} (h : i ∈ activeLanes mask l) : i < l := List.mem_range.mp (List.mem_filter.mp h).1

/-- What a move of VF lanes writes, for source lanes given as numbers, those of 256/n or more naming none. -/
theorem moveLanes_vf_taken {s : State} {w : BitVec 1} {m : MReg} {d a : VReg} {mask x : Nat} {src : Nat → Nat}
    {opt : Nat → Nat → Option Nat} (hm : readM s m.toNat = .ok mask) (hx : readVec s a.toNat = .ok x)
    (h : ∀ i < 256 / s.n, opt (256 / s.n) i = if src i < 256 / s.n then some (src i) else none)
    (hok : lanesOk (s.atVector w) s.n ((List.range (256 / s.n)).filter fun j => (activeLanes mask (256 / s.n)).any fun i =>
      decide (src i = j)) [x] = .ok ()) :
    moveLanes (s.atVector w) d a m 4 opt = .ok (s.putEach w d.toNat mask s.n fun i =>
      if src i < 256 / s.n then lane x s.n (src i) else vfEncode s.p FV.zero) := by
  rw [moveLanes_vf hm hx (taken_eq (src := src) (fun i hi j hj => ?_) hok)]
  · congr 1
    exact putEach_congr fun i hi => by rw [h i hi, takeLane_ite]
  · rw [h i (mem_activeLanes_lt hi)]
    split
    · exact Option.some_inj
    · exact iff_of_false nofun (by omega)

/-- Settles O25: a move by the lane that it takes for each lane, a conversion by its part. -/
theorem laneMovesAndConversions : Obligations.LaneMovesAndConversions := by
  refine ⟨?_, ?_, ?_⟩
  · intro s d a b g h f w sp m n z mask x y hv hx
    have hm := hv.mask_read
    refine ⟨vmov_idle hv hx, vperm_int hv hx z, fun hg => ⟨vslideup_int hv hx z hg, vslidedn_int hv hx z hg, vsplatInt_idle hv z hg,
      vextInt_idle hv hx hg z, fun hh => ⟨fun hl => ?_, fun hl hact => ?_⟩⟩, vcompress_int hv hx z, fun hg hk => ⟨vextVf_lane hv hx hg hk,
      vextVf_zero hv hx hg hk, fun v hread => ⟨vsplatVf_idle hv hk hread, fun hl hact => ?_⟩⟩⟩
    · exact vinsInt_idle hv z hg hh (insertLane_beyond hm hl)
    · exact vinsInt_idle hv z hg hh (insertLane_active hm hl hact)
    · exact vinsVf_idle hv hg hk hread (insertLane_active hm hl hact)
  · intro s d a b g w sp m n mask x y hv hx
    have hm := hv.mask_read
    refine ⟨fun hy hok => ?_, fun hg => ⟨fun hok => ?_, fun hok => ?_⟩, vcompress_vf hv hx⟩
    · exact vperm_idle hv hy (moveLanes_vf_taken hm hx (fun i _ => rfl) hok)
    · refine vslideup_idle hv hg (moveLanes_vf_taken hm hx (fun i hi => ?_) hok)
      by_cases hle : (s.g g).toNat ≤ i
      · rw [if_pos hle, if_pos hle, if_pos (by omega)]
      · rw [if_neg hle, if_neg hle, if_neg (Nat.lt_irrefl _)]
    · exact vslidedn_idle hv hg (moveLanes_vf_taken hm hx (fun i _ => rfl) hok)
  · intro s d a h w m k3 k mask x hv hx
    have hz : (fun t : State => vfEncode t.p FV.zero) (s.atVector w) = vfEncode s.p FV.zero := congrArg (vfEncode · FV.zero) (served_p s w)
    refine ⟨?_, ?_, fun hok => ⟨?_, ?_⟩, fun hok => ?_⟩
    · change execVcvtVfInt d a h w m k3 s = _
      rw [execVcvtVfInt]
      refine vecConv_idle hv hx rfl (served_n s w) hz ?_ nofun
      rw [served_p, served_rm]
    · change execVcvtVfIeee d a h w m k s = _
      rw [execVcvtVfIeee]
      refine vecConv_idle hv hx rfl (served_n s w) hz ?_ nofun
      rw [served_p, served_rm]
    · exact vecConv_toInt hv hx hok (fun t => vfToInt k.toNat t.rm) (by rw [served_rm])
    · exact vecConv_toInt hv hx hok (fun _ => vfToInt k.toNat .rtz) rfl
    · exact vecConv_idle hv hx (es := State.n) (ed := fun _ => ieeeBytes k.toNat) (zero := fun _ => 0)
        (conv := fun t x => (ieeeKind k.toNat).of (vfDecode x) t.rm) (f := fun v => (ieeeKind k.toNat).of (vfDecode v) s.rm)
        (served_n s w) rfl rfl (by rw [served_rm]) fun _ => hok

end Sys2Proof.Machine

/-! # The vector unit, spool operands and spool advance (O23) -/

namespace Sys2Proof.Machine

/-! ## The sub-queues of a busy unit -/

section
variable {t : State} {k : UnitKind}

/-- A fibre that has not entered a service queue has no entry there. -/
theorem find?_notEntered (h : t.entered k = false) : ((t.chip.unit k).queue.find? fun e => e.fib == t.fib.id) = none := by
  rw [List.find?_eq_none]
  exact fun e he hid => Bool.false_ne_true (h.symm.trans (List.any_eq_true.mpr ⟨e, he, hid⟩))

variable (h : t.entered k = false)
include h

/-- A busy unit takes an instruction into the sub-queue of its core (R273). -/
theorem takeTurn_queues (hb : (t.chip.unit k).busy.isSome = true)
    (hl : ((t.chip.unit k).queue.filter fun e => e.core == t.coreIndex).length < 8) :
    takeTurn t k =
      hold (t.setChip fun c => c.putUnit k { t.chip.unit k with queue := (t.chip.unit k).queue ++ [t.capture] }) (.queued k) := by
  have hbusy : (t.chip.unit k).busy.isNone = false := by rw [Option.isNone_eq_false_iff]; exact hb
  unfold takeTurn
  dsimp only
  rw [find?_notEntered h, decide_eq_false (by omega), hbusy, Bool.and_false, if_neg Bool.false_ne_true, Bool.false_and,
    if_neg Bool.false_ne_true]
  rfl

/-- A full sub-queue holds an instruction at issue (R273). -/
theorem takeTurn_full (hl : 8 ≤ ((t.chip.unit k).queue.filter fun e => e.core == t.coreIndex).length) :
    takeTurn t k = hold t .retry := by
  unfold takeTurn
  dsimp only
  rw [find?_notEntered h, decide_eq_true hl]
  rfl

end

/-! ## The run of a vector instruction -/

section
variable {s t u : State} {before : Ex State} {body : State → Ex State} (hroom : Room s 1)
include hroom

/-- What holds an instruction before it has its turn. -/
theorem vecRun_before {h : Halt} (he : s.entered .vector = false) (hb : before = .error h) : vecRun s before body = stopped h := by
  rw [vecRun, runThen, ending_room hroom, if_neg (Bool.eq_false_iff.mp he), hb]
  rfl

theorem vecRun_waits {v : State} {p : Park} (he : s.entered .vector = false) (hb : before = .ok t) (ht : takeTurn t .vector = hold v p) :
    vecRun s before body = .next (parkAs v p) := by
  rw [vecRun, runThen, ending_room hroom, if_neg (Bool.eq_false_iff.mp he), hb, ok_bind]
  dsimp only
  rw [ht]
  rfl

/-- An instruction that has entered the queue makes its checks no more. -/
theorem vecRun_turn {q : Queued} (he : s.entered .vector = true) (ht : takeTurn s .vector = .ok (t, q)) (hu : body t = .ok u) :
    vecRun s before body = unitRuns u 1 .vector .vector := by
  refine runThen_ok hroom ?_
  rw [if_pos he, ok_bind]
  dsimp only
  rw [ht, ok_bind]
  exact hu

end

theorem coreIndex_retire (u : State) (n : Nat) : (retire u n).coreIndex = u.coreIndex := rfl

theorem retire_id (u : State) (n : Nat) : (retire u n).fib.id = u.fib.id := by
  obtain ⟨r, p, d, g, hf⟩ := retireTo_fib u (u.fib.pc + BitVec.ofNat 64 (4 * n))
  rw [retire, hf]

theorem parkAs_park (s : State) (p : Park) : (parkAs s p).fib.park = some p := by
  change (if s.fib.park = some p then s.fib else { s.fib with park := some p, parkedAt := s.clk, parkedTick := s.now }).park = some p
  split
  · assumption
  · rfl

theorem occupy_busy (u : State) (p : Park) : (occupy u .vector p).chip.vunit.busy = some (u.coreIndex, u.fib.id) := rfl

theorem setFib_congr {s : State} {f g : Fibre → Fibre} (h : f s.fib = g s.fib) : s.setFib f = s.setFib g := by
  unfold State.setFib
  rw [h]

/-- A unit that completes the instruction of the fibre in focus is free, and the fibre ready (R272, R299). -/
theorem vacate_focus {s : State} {k : UnitKind} {was : Option Park → Bool} (hlive : s.fib.live = true) (hpark : was s.fib.park = true)
    (hbusy : (s.chip.unit k).busy = some (s.coreIndex, s.fib.id)) :
    s.vacate s.chip.num k s.coreIndex was = (s.setChip fun c => c.putUnit k { s.chip.unit k with
      busy := none, completed := (s.chip.unit k).completed + 1, undo := [], back := none, release := none }).setFib fun f =>
        { f with park := none } := by
  have hput (f : Chip → Chip) : s.onChip s.chip.num f = s.setChip f := if_pos rfl
  rw [State.vacate, chipAt_focus]
  dsimp only
  rw [hbusy]
  dsimp only
  rw [if_pos rfl, hput]
  refine (onFibre_focus (s := s.setChip _) hlive _).trans (setFib_congr ?_)
  exact if_pos hpark

/-! ## Spool operands -/

section
variable {s : State} {d a b : VReg} {m : MReg} {n : BitVec 4} {h mask x : Nat} (hg : s.fib.guest = false)
  (hv : VecReady s 0 [d.toNat, a.toNat] m mask) (hno : spoolNo s b.toNat = .ok h) (hu : spoolUse s b.toNat (n.toNat + 1) = .ok h)
  (hl : 256 ≤ (n.toNat + 1) * (s.spool h).slotBytes)
include hg hv hno hu hl

/-- An instruction whose slots are not filled waits (R276). -/
theorem vaddInt_unfilled (z : BitVec 2) (hf : (s.spool h).fill < n.toNat + 1) :
    exec (.vaddInt d a b 1 0 m n z) s = .next (parkAs s .wait) := by
  obtain ⟨hroom, hw, hr, hfree, hm⟩ := hv
  have hfill : ensure (n.toNat + 1 ≤ (s.spool h).fill) (hold s .wait) = (hold s .wait : Ex Unit) := by
    rw [decide_eq_false (by omega)]
    rfl
  have hopen : vecOpen s 0 [d.toNat, a.toNat] 1 b n = hold s .wait := by
    rw [vecOpen, if_pos rfl, notGuest_ok hg, ok_bind, waitW_over hw, ok_bind, waited_zero, needVs_ok hr, ok_bind, if_pos rfl, hno, ok_bind,
      ok_bind, spoolWaitB, if_pos rfl, hu, ok_bind, ensure_ok (by simpa using hl), ok_bind, hfill]
    rfl
  change vecInt s d a b 1 0 m n z (intOp 0) = stopped ⟨s, .park .wait⟩
  exact vecRun_before hroom (entered_free hfree) hopen

end

/-! ## Spool advance -/

section
variable {s : State} {d : GReg} {n h : BitVec 4} {p : Nat}

theorem needFilled_ok (hk : n.toNat + 1 ≤ (s.spool p).fill) : needFilled s p n = .ok () := ensure_ok (by simpa using hk) _

theorem needFilled_waits (hk : (s.spool p).fill < n.toNat + 1) : needFilled s p n = hold s .wait := by
  rw [needFilled, decide_eq_false (by omega)]
  rfl

theorem needFree_ok (hb : (s.spool p).bnd = false) (hk : n.toNat + 1 + (s.spool p).fill ≤ (s.spool p).nslot) :
    needFree s h p n = .ok () := by
  rw [needFree, hb, Bool.not_false, ensure_ok rfl, ok_bind, ensure_ok (by simpa using hk)]

theorem needFree_waits (hb : (s.spool p).bnd = false) (hk : (s.spool p).nslot < n.toNat + 1 + (s.spool p).fill) :
    needFree s h p n = hold s .wait := by
  rw [needFree, hb, Bool.not_false, ensure_ok rfl, ok_bind, decide_eq_false (by omega)]
  rfl

/-- A producer on a handle that a stream feeds has the spool fault (R286). -/
theorem needFree_fed (hb : (s.spool p).bnd = true) : needFree s h p n = trap s 0x12 0 (BitVec.ofNat 64 h.toNat) := by
  rw [needFree, hb]
  rfl

variable (hroom : Room s 1) (hg : s.fib.guest = false) (hu : spoolUse s h.toNat (n.toNat + 1) = .ok p)
include hg hu

theorem splUse_ok : splUse s h n = .ok p := by
  rw [splUse, notGuest_ok hg, ok_bind, hu]

include hroom

theorem splWait_goes (hk : n.toNat + 1 ≤ (s.spool p).fill) : exec (.splWait n h) s = .next (retire s 1) :=
  run_ok hroom (by rw [splUse_ok hg hu, ok_bind, needFilled_ok hk, ok_bind])

theorem splRel_gives (hk : n.toNat + 1 ≤ (s.spool p).fill) : exec (.splRel n h) s = .next (retire (s.onSpool p fun x =>
    { x with fill := x.fill - (n.toNat + 1), rix := (x.rix + (n.toNat + 1)) % x.nslot }) 1) :=
  run_ok hroom (by rw [splUse_ok hg hu, ok_bind, needFilled_ok hk, ok_bind]; rfl)

theorem spl_unfilled (hk : (s.spool p).fill < n.toNat + 1) :
    exec (.splWait n h) s = .next (parkAs s .wait) ∧ exec (.splRel n h) s = .next (parkAs s .wait) :=
  ⟨run_hold hroom (by rw [splUse_ok hg hu, ok_bind, needFilled_waits hk]; rfl),
    run_hold hroom (by rw [splUse_ok hg hu, ok_bind, needFilled_waits hk]; rfl)⟩

theorem splCommit_fills (hn : needFree s h p n = .ok ()) :
    exec (.splCommit n h) s = .next (retire (s.countSlots s.core.num p (n.toNat + 1)) 1) :=
  run_ok hroom (by rw [splUse_ok hg hu, ok_bind, hn, ok_bind])

theorem splWr_offset (hd : FreeG s d) (hn : needFree s h p n = .ok ()) : exec (.splWr d n h) s =
    wrote s d (BitVec.ofNat 64 ((s.spool p).base + (s.spool p).wix * (s.spool p).slotBytes)) 1 :=
  run_ok hroom (by rw [splUse_ok hg hu, ok_bind, destG_free hd, ok_bind, hn, ok_bind]; rfl)

/-- A producer that finds no room waits, as long as no stream feeds the handle (R286). -/
theorem spl_noRoom (hn : needFree s h p n = hold s .wait) : exec (.splCommit n h) s = .next (parkAs s .wait) ∧
    (FreeG s d → exec (.splWr d n h) s = .next (parkAs s .wait)) :=
  ⟨run_hold hroom (by rw [splUse_ok hg hu, ok_bind, hn]; rfl),
    fun hd => run_hold hroom (by rw [splUse_ok hg hu, ok_bind, destG_free hd, ok_bind, hn]; rfl)⟩

theorem spl_fed (hn : needFree s h p n = trap s 0x12 0 (BitVec.ofNat 64 h.toNat)) :
    exec (.splCommit n h) s = .next (raise s 0x12 0 (BitVec.ofNat 64 h.toNat) false) ∧
      (FreeG s d → exec (.splWr d n h) s = .next (raise s 0x12 0 (BitVec.ofNat 64 h.toNat) false)) :=
  ⟨run_trap hroom (by rw [splUse_ok hg hu, ok_bind, hn]; rfl),
    fun hd => run_trap hroom (by rw [splUse_ok hg hu, ok_bind, destG_free hd, ok_bind, hn]; rfl)⟩

end

section
variable {s : State} {d : GReg} {h : BitVec 4} {p : Nat} (hroom : Room s 1) (hg : s.fib.guest = false)
  (hu : spoolUse s h.toNat ((0 : BitVec 4).toNat + 1) = .ok p) (hd : FreeG s d)
include hroom hg hu hd

theorem splRd_offset : exec (.splRd d h) s =
    wrote s d (BitVec.ofNat 64 ((s.spool p).base + (s.spool p).rix % (s.spool p).nslot * (s.spool p).slotBytes)) 1 :=
  run_ok hroom (by rw [splUse_ok hg hu, ok_bind, writeG_free hd]; rfl)

theorem splFill_count : exec (.splFill d h) s = wrote s d (BitVec.ofNat 64 (s.spool p).fill) 1 :=
  run_ok hroom (by rw [splUse_ok hg hu, ok_bind, writeG_free hd])

end

/-- Settles O23: the unit by whether it is idle, busy or full, a spool operand by its slots, and spool advance by what it waits for. -/
theorem vectorUnitAndSpools : Obligations.VectorUnitAndSpools := by
  refine ⟨⟨fun s t u v before body q hroom => ⟨fun he hb hf hu => vecRun_ok hroom he hb hf hu,
    fun he hb hnt hbusy => ⟨fun hl => ?_, fun hl => ?_⟩,
    fun he ht hu => vecRun_turn hroom he ht hu, fun h => ?_⟩, ?_⟩, ?_, ?_⟩
  · exact vecRun_waits hroom he hb (takeTurn_queues hnt hbusy hl)
  · exact vecRun_waits hroom he hb (takeTurn_full hnt hl)
  · rw [← Host.Outcome.next.inj h]
    refine ⟨parkAs_park .., ?_⟩
    rw [occupy_busy, coreIndex_retire, retire_id]
  · rintro s f rfl hlive hpark - hbusy
    have hwas : (s.fib.park == some Park.vector) = true := beq_iff_eq.mpr hpark
    exact ⟨_, congrArg Host.Outcome.next (vacate_focus (k := .vector) hlive hwas hbusy), rfl, rfl, rfl, rfl⟩
  · intro s d a b m n z h mask x bs hg hv hx hu hno hl k
    refine ⟨vaddInt_unfilled hg hv hno hu hl z, fun hf hecc hsoft hbs => ?_⟩
    have hy : SecondReady s 1 b n (ofBytes bs) :=
      ⟨fun h0 => absurd h0 (by decide), fun _ => ⟨hg, hecc, hsoft, h, bs, hu, hl, hf, hbs, rfl⟩⟩
    have hput := vecInt_idle hv hx hy z (intOp 0)
    rwa [State.atVector, waited_zero] at hput
  · intro s d n h p hroom hg hu k q
    refine ⟨fun hk => ⟨splWait_goes hroom hg hu hk, splRel_gives hroom hg hu hk⟩, spl_unfilled hroom hg hu, fun hb hk => ?_,
      fun hb hk => spl_noRoom hroom hg hu (needFree_waits hb hk), fun hb => spl_fed hroom hg hu (needFree_fed hb), ?_⟩
    · exact ⟨splCommit_fills hroom hg hu (needFree_ok hb hk), fun hd => splWr_offset hroom hg hu hd (needFree_ok hb hk)⟩
    · rintro rfl hd
      exact ⟨splRd_offset hroom hg hu hd, splFill_count hroom hg hu hd⟩

end Sys2Proof.Machine

/-! # Array passes (O29)

A pass reads its operands at issue and where the array serves it. There it is all or nothing: a poisoned row or an entry that differs
within a group stops it before any set changes. -/

namespace Sys2Proof.Machine

/-! ## The turn of an array instruction -/

section
variable {s t u v : State} {n : Nat} {before : Ex State} {body : State → Ex State} (hroom : Room s n)
include hroom

/-- A message on the way of an earlier store of the fibre holds an array instruction (R31, R301). -/
theorem arrayRun_behind (hn : s.entered .array = false) (hb : before = .ok t) (hg : t.fib.guest = false) (hm : t.behindMessage true = true) :
    arrayRun s n before body = .next (parkAs t .retry) := by
  have hfirst : t.allFirst = hold t .retry := if_pos hm
  rw [arrayRun, runThen, ending_room hroom, if_neg (Bool.eq_false_iff.mp hn), hb, ok_bind]
  dsimp only
  rw [notGuest_ok hg, ok_bind, if_neg (Bool.eq_false_iff.mp hn), hfirst]
  rfl

/-- An array instruction that has entered the queue takes its effect at its turn, with what it captured (R299, R301). -/
theorem arrayRun_turn {q : Queued} (hn : s.entered .array = true) (hg : s.fib.guest = false) (ht : takeTurn s .array = .ok (v, q))
    (hu : captured v q body = .ok u) : arrayRun s n before body = unitRuns u n .array .array := by
  refine runThen_ok hroom ?_
  rw [if_pos hn, ok_bind]
  dsimp only
  rw [notGuest_ok hg, ok_bind, if_pos hn, ok_bind, ht, ok_bind]
  exact hu

end

/-! ## Completion -/

/-- The state once the slots of a spool-fed pass are given back (R295). -/
def State.slotsBack (s : State) : Option (Nat × Nat) → State
  | none => s
  | some (h, n) => s.setCore fun c => { c with spools := c.spools.set! h ((c.spools.getD h Spool.zero).release n) }

theorem arrayDone_eq {s : State} (hlive : s.fib.live = true) (hat : s.fib.at_ = s.core.num)
    (hbusy : s.chip.array.busy = some (s.coreIndex, s.fib.id)) :
    s.arrayDone s.chip.num s.coreIndex = (s.slotsBack s.chip.array.release).vacate s.chip.num .array s.coreIndex Park.inArray := by
  rw [State.arrayDone, chipAt_focus]
  dsimp only
  rw [hbusy]
  dsimp only
  rw [if_pos rfl, fibre?_focus hlive]
  cases s.chip.array.release with
  | none => rfl
  | some e =>
    dsimp only
    rw [State.onSpoolOf, hat]
    exact congrArg (fun t : State => t.vacate s.chip.num .array s.coreIndex Park.inArray) (if_pos rfl)

/-- The end of the array's run of an instruction of the fibre in focus. -/
theorem arrayDone_focus {s : State} (hlive : s.fib.live = true) (hpark : s.fib.park = some .array) (hat : s.fib.at_ = s.core.num)
    (hbusy : s.chip.array.busy = some (s.coreIndex, s.fib.id)) :
    s.arrayDone s.chip.num s.coreIndex = ((s.slotsBack s.chip.array.release).setChip fun c => c.putUnit .array { s.chip.array with
      busy := none, completed := s.chip.array.completed + 1, undo := [], back := none, release := none }).setFib fun f =>
        { f with park := none } := by
  have hwas : Park.inArray s.fib.park = true := beq_iff_eq.mpr hpark
  rw [arrayDone_eq hlive hat hbusy]
  cases s.chip.array.release with
  | none => exact vacate_focus (k := .array) hlive hwas hbusy
  | some e => exact vacate_focus (s := s.slotsBack (some e)) (k := .array) hlive hwas hbusy

/-! ## Passes -/

/-- The operands of a pass, as its words and registers give them in a state. -/
def passArgs (a b c : GReg) (acc gm : BitVec 4) (sp : BitVec 1) (sph spn : BitVec 4) (sl : BitVec 2) (nb : Nat) (t : State) : Ex Pass := do
  let va ← if sp = 1 then .ok 0 else readG t a
  let beats ← readG t b
  let cols ← readG t c
  .ok { acc := acc.toNat, nv := nb + 1, g := gm.toNat + 1, slot := sl.toNat,
        spool := if sp = 1 then some (sph.toNat, spn.toNat + 1) else none, addr := va, beats := beats, cols := cols }

/-- The issue of a pass: the names of its slot and its handle, its W hold, its operands and its checks. -/
def passIssue (a b c : GReg) (w : BitVec 1) (acc gm : BitVec 4) (sp : BitVec 1) (sph spn : BitVec 4) (sl : BitVec 2) (nb : Nat)
    (s : State) : Ex State := do
  let _ ← slotNo s sl.toNat
  if sp = 1 then do
    let _ ← spoolNo s sph.toNat
    .ok ()
  else .ok ()
  let t ← waitW s w
  let p ← passArgs a b c acc gm sp sph spn sl nb t
  notGuest t
  let (t, _) ← passChecks t p
  .ok t

theorem passRun_eq (s : State) (a b c : GReg) (w : BitVec 1) (acc gm : BitVec 4) (sp : BitVec 1) (sph spn : BitVec 4) (sl : BitVec 2)
    (nb : Nat) : passRun s a b c w acc gm sp sph spn sl nb = arrayRun s 2 (passIssue a b c w acc gm sp sph spn sl nb s) fun t =>
      passArgs a b c acc gm sp sph spn sl nb t >>= passBody t := rfl

section
variable {s t : State} {a b c : GReg} {w : BitVec 1} {acc gm sph spn : BitVec 4} {sp : BitVec 1} {sl : BitVec 2} {nb : Nat}

/-- The operands of a pass with the registers of a state. -/
def State.passOf (s : State) (a b c : GReg) (acc gm : BitVec 4) (sp : BitVec 1) (sph spn : BitVec 4) (sl : BitVec 2) (nb : Nat) : Pass :=
  { acc := acc.toNat, nv := nb + 1, g := gm.toNat + 1, slot := sl.toNat
    spool := if sp = 1 then some (sph.toNat, spn.toNat + 1) else none, addr := if sp = 1 then 0 else s.g a, beats := s.g b, cols := s.g c }

variable (ha : sp = 0 → FullG s a) (hb : FullG s b) (hc : FullG s c)
include ha hb hc

theorem passArgs_ok (hbank : t.bank = s.bank) :
    passArgs a b c acc gm sp sph spn sl nb t = .ok (s.passOf a b c acc gm sp sph spn sl nb) := by
  have hbeats := readG_of_bank hb hbank
  have hcols := readG_of_bank hc hbank
  obtain rfl | rfl : sp = 0 ∨ sp = 1 := bit_cases sp
  · have hbase := readG_of_bank (ha rfl) hbank
    have h0 : (0 : BitVec 1) ≠ 1 := by decide
    simp only [passArgs, if_neg h0, hbase, hbeats, hcols, ok_bind, State.passOf]
  · simp only [passArgs, if_true, hbeats, hcols, ok_bind, State.passOf]

theorem passIssue_ok {y : PassArgs} (hw : WaitOver s w) (hg : s.fib.guest = false) (hslot : ∃ i, slotNo s sl.toNat = .ok i)
    (hspool : sp = 1 → ∃ i, spoolNo s sph.toNat = .ok i)
    (hchecks : passChecks (s.waited w) (s.passOf a b c acc gm sp sph spn sl nb) = .ok (t, y)) :
    passIssue a b c w acc gm sp sph spn sl nb s = .ok t := by
  obtain ⟨i, hi⟩ := hslot
  have hguest : notGuest (s.waited w) = .ok () := notGuest_ok (by rw [waited_fib]; exact hg)
  have hargs := passArgs_ok (acc := acc) (gm := gm) (sph := sph) (spn := spn) (sl := sl) (nb := nb) ha hb hc (waited_bank s w)
  rw [passIssue, hi, ok_bind]
  dsimp only
  obtain rfl | rfl : sp = 0 ∨ sp = 1 := bit_cases sp
  · rw [if_neg (by decide), ok_bind, waitW_over hw, ok_bind, hargs, ok_bind, hguest, ok_bind, hchecks, ok_bind]
  · obtain ⟨j, hj⟩ := hspool rfl
    rw [if_pos rfl, hj, ok_bind, ok_bind, waitW_over hw, ok_bind, hargs, ok_bind, hguest, ok_bind, hchecks, ok_bind]

/-- A pass whose checks hold at issue does in the idle array what its body gives with those operands. -/
theorem passRun_idle {u : State} {y : PassArgs} (hroom : Room s 2) (hw : WaitOver s w) (hg : s.fib.guest = false)
    (hn : s.entered .array = false) (hslot : ∃ i, slotNo s sl.toNat = .ok i) (hspool : sp = 1 → ∃ i, spoolNo s sph.toNat = .ok i)
    (hchecks : passChecks (s.waited w) (s.passOf a b c acc gm sp sph spn sl nb) = .ok (t, y)) (hgt : t.fib.guest = false)
    (hm : t.behindMessage true = false) (hf : UnitFree t.settle.drain .array) (hbank : t.settle.drain.bank = s.bank)
    (hu : captured t.atArray t.settle.drain.capture (fun r => passBody r (s.passOf a b c acc gm sp sph spn sl nb)) = .ok u) :
    passRun s a b c w acc gm sp sph spn sl nb = unitRuns u 2 .array .array := by
  rw [passRun_eq]
  refine arrayRun_ok hroom hn (passIssue_ok ha hb hc hw hg hslot hspool hchecks) hgt (allFirst_ok hm) hf (Eq.trans ?_ hu)
  have hargs : passArgs a b c acc gm sp sph spn sl nb (t.atArray.withMaps t.settle.drain.capture.accmap t.settle.drain.capture.accen
      t.settle.drain.capture.slots) = .ok (s.passOf a b c acc gm sp sph spn sl nb) := passArgs_ok ha hb hc hbank
  rw [captured, captured, hargs, ok_bind]

end

/-! ## The body of a pass -/

/-- What undoes a pass: the columns of its sets as they are. -/
def State.passUndo (s : State) (x : PassArgs) : List (Nat × XCol) :=
  (x.sets.eraseDups.map fun g => ((List.range x.nc).map fun i => x.col + i).map fun col => (256 * g + col, s.chip.xcol g col)).flatten

/-- The slots that a pass gives back once it completes (R295). -/
def Feed.slotsOf (p : Pass) (x : PassArgs) : Feed → Option (Nat × Nat)
  | .slots h n => some (h, n * p.nv * x.nb)
  | .pad _ => none

section
variable {r r1 r2 : State} {p : Pass} {x : PassArgs} {tiles : List (List Byte)} (hchecks : passChecks r p = .ok (r1, x))
  (hlive : liveSets r1 x.sets = .ok ()) (htiles : passTiles r1 p x.feed 0 (p.nv * x.nb) = .ok (r2, tiles))
  (hplane : planeBreak r2.chip ((List.range x.nc).map fun i => x.col + i) ((List.range x.nb).map fun j => x.row + j) = none)
include hchecks hlive htiles hplane

theorem passBody_differs {off : Nat}
    (h : stripBreak r2.chip ((List.range x.nc).map fun i => x.col + i) (passGroups x.row x.nb p.g) = some off) :
    passBody r p = .error ⟨r2, .trap 0x0E 4 (BitVec.ofNat 64 off) false⟩ := by
  rw [passBody, hchecks, ok_bind]
  dsimp only
  rw [hlive, ok_bind, htiles, ok_bind]
  dsimp only
  rw [hplane]
  dsimp only
  rw [h]
  rfl

theorem passBody_enters (h : stripBreak r2.chip ((List.range x.nc).map fun i => x.col + i) (passGroups x.row x.nb p.g) = none) :
    passBody r p = .ok (r2.setChip fun ch => { passSums ch p x tiles with array := { (passSums ch p x tiles).array with
      undo := r2.passUndo x, back := some (r2.fib.pc, r2.fib.rpt), release := x.feed.slotsOf p x } }) := by
  rw [passBody, hchecks, ok_bind]
  dsimp only
  rw [hlive, ok_bind, htiles, ok_bind]
  dsimp only
  rw [hplane]
  dsimp only
  rw [h]
  cases x.feed <;> rfl

end

/-- Settles O29: an array instruction by its turn, a pass by what it reads and what stops it. -/
theorem arrayPasses : Obligations.ArrayPasses := by
  refine ⟨⟨fun s t u n before body q hroom hg => ⟨fun hn hb => ⟨arrayRun_behind hroom hn hb hg, fun hm => ?_⟩,
    fun v hn hgs ht hu => arrayRun_turn hroom hn hgs ht hu, fun hu => ?_⟩, ?_⟩, ?_, ?_⟩
  · intro v hf hu
    exact arrayRun_ok hroom hn hb hg (allFirst_ok hm) hf hu
  · rw [captured, hu]
  · rintro s f release rfl hlive hpark hat hbusy rfl
    refine ⟨_, congrArg Host.Outcome.next (arrayDone_focus hlive hpark hat hbusy), ?_⟩
    cases s.chip.array.release with
    | none => exact ⟨rfl, rfl, rfl, rfl, rfl⟩
    | some e => exact ⟨rfl, rfl, rfl, rfl, rfl⟩
  · intro s t u a b c w acc gm sph spn nb sp sl k y hroom hw hg ha hb hc hn hslot hspool p hchecks hgt hm v hf hbank hu
    refine ⟨?_, ?_⟩
    · rintro rfl
      exact passRun_idle ha hb hc hroom hw hg hn hslot hspool hchecks hgt hm hf hbank hu
    · rintro rfl
      exact passRun_idle ha hb hc hroom hw hg hn hslot hspool hchecks hgt hm hf hbank hu
  · intro r r1 r2 p x tiles hchecks hlive htiles cols hplane
    refine ⟨fun off h => passBody_differs hchecks hlive htiles hplane h, fun h => ?_⟩
    intro undo release
    refine (passBody_enters hchecks hlive htiles hplane h).trans ?_
    have hrelease : x.feed.slotsOf p x = release := by
      simp only [release]
      cases x.feed <;> rfl
    rw [hrelease]
    rfl

end Sys2Proof.Machine

/-! # Posting cursors and the posting engine (O31)

A single-cursor instruction is what its step does in the state in which the idle engine serves it. A multi-cursor instruction is what
its first step leaves there, and PL_ENGINE_STEP what each later one does. -/

namespace Sys2Proof.Machine

/-! ## Single-cursor instructions -/

/-- The state in which the idle engine serves an instruction of the fibre in focus, after its earlier stores (R301, R325). -/
abbrev State.atEngine (s : State) : State := s.settle.drain.served .engine

/-- The end of a single-cursor instruction, which the engine counts (R325, R444). -/
abbrev engineEnds (v : State) : Host.Outcome State Fault Refusal :=
  .next (retire (v.setChip fun y => { y with engine := y.engine.oneMore }) 1)

/-- What holds where an idle engine serves an instruction of a fibre that is at home. -/
structure EngineServes (s : State) : Prop where
  room : Room s 1
  home : s.fib.guest = false
  first : s.behindMessage true = false
  free : UnitFree s .engine
  then_free : UnitFree s.settle.drain .engine
  bank : s.atEngine.bank = s.bank

section
variable {s u : State} (hs : EngineServes s) {before : State → Ex Unit} {body : State → Ex State} (hb : before s = .ok ())
include hs hb

theorem engineOne_idle (hu : body s.atEngine = .ok u) : engineOne s before body = engineEnds u := by
  refine run_ok hs.room ?_
  rw [hb, ok_bind, notGuest_ok hs.home, ok_bind, entered_free hs.free, if_neg Bool.false_ne_true, allFirst_ok hs.first, ok_bind]
  dsimp only
  rw [takeTurn_free hs.then_free, ok_bind]
  dsimp only
  rw [hu, ok_bind]

theorem engineOne_trap {c sub : Nat} {v : Word} {p : Bool} (hu : body s.atEngine = .error ⟨u, .trap c sub v p⟩) :
    engineOne s before body = .next (raise u c sub v p) := by
  refine run_trap hs.room ?_
  rw [hb, ok_bind, notGuest_ok hs.home, ok_bind, entered_free hs.free, if_neg Bool.false_ne_true, allFirst_ok hs.first, ok_bind]
  dsimp only
  rw [takeTurn_free hs.then_free, ok_bind]
  dsimp only
  rw [hu]
  rfl

end

/-! ## Naming cursors -/

section
variable {s : State} {v : Word}

theorem cursorOf_open {c : Cursor} (h : cursorOf s v = .ok c) : s.cursor? v.toNat = some c := by
  unfold cursorOf at h
  split at h
  · cases h
  next x hx =>
    obtain ⟨_, hc⟩ := ensure_bind_iff.mp h
    rw [hx, Except.ok.inj hc]

/-- No cursor has a number of 32 or more (R318). -/
theorem cursorOf_beyond (h : 32 ≤ v.toNat) : cursorOf s v = .error ⟨s, .trap 0x0D 4 v false⟩ := by
  have hfault {α : Type} : (postFault s 4 v.toNat : Ex α) = .error ⟨s, .trap 0x0D 4 v false⟩ := by
    rw [postFault, BitVec.ofNat_toNat, BitVec.setWidth_eq]
    rfl
  have hno : decide (v.toNat < 32) = false := decide_eq_false (by omega)
  unfold cursorOf
  split
  · exact hfault
  · rw [hno, Bool.false_and, Bool.false_and, hfault]
    rfl

end

/-! ## Each single-cursor instruction -/

/-- The check at issue of a single-cursor instruction with one source and a result. -/
theorem source_dest {s : State} {a d : GReg} (ha : FullG s a) (hd : FreeG s d) : (do
    let _ ← readG s a
    destG s d) = .ok () := by
  rw [readG_full ha, ok_bind, destG_free hd]

/-- The check at issue of a single-cursor instruction with two sources and a result. -/
theorem sources_dest {s : State} {a b d : GReg} (ha : FullG s a) (hb : FullG s b) (hd : FreeG s d) : (do
    let _ ← readG s a
    let _ ← readG s b
    destG s d) = .ok () := by
  rw [readG_full ha, ok_bind, readG_full hb, ok_bind, destG_free hd]

/-- A cursor as `pl.open` leaves it: before the first posting of its list (R314, R315). -/
def State.newCursor (u : State) (n : Nat) (desc sc : List Byte) (scores : Bool) : Cursor :=
  { num := n, lid := u.fib.id.lid, skn := u.fib.id.skn, desc := desc, scoring := sc, sc := scores, st := Cursor.before, blk := 0, i := 0
    tf := 0, doc := 0, cntSum := 0, off := 0, last := 0, prevLast := 0, known := false, cnt := 0, size := 0, block := [] }

section
variable {s : State} (hs : EngineServes s) {a b d : GReg} (ha : FullG s a)
include hs ha

theorem plClose_idle {c : Cursor} (hc : cursorOf s.atEngine (s.g a) = .ok c) : exec (.plClose a) s =
    engineEnds (s.atEngine.setChip fun y => { y with cursors := y.cursors.filter fun z => z.num != c.num }) := by
  change execPlClose a s = _
  refine engineOne_idle hs (by rw [readG_full ha, ok_bind]) ?_
  rw [readG_of_bank ha hs.bank, ok_bind, hc, ok_bind]

variable (hd : FreeG s d)
include hd

theorem plStat_word {c : Cursor} (hc : cursorOf s.atEngine (s.g a) = .ok c) :
    exec (.plStat d a) s = engineEnds (setG s.atEngine d (BitVec.ofNat 64 c.status)) := by
  have hopen : ¬((s.g a).toNat < 32 ∧ (s.atEngine.cursor? (s.g a).toNat).isNone = true) := by
    rw [cursorOf_open hc]
    exact fun h => Bool.false_ne_true h.2
  change execPlStat d a s = _
  refine engineOne_idle hs (source_dest ha hd) ?_
  rw [readG_of_bank ha hs.bank, ok_bind, if_neg hopen, hc, ok_bind]

theorem plStat_closed (hl : (s.g a).toNat < 32) (hc : s.atEngine.cursor? (s.g a).toNat = none) :
    exec (.plStat d a) s = engineEnds (setG s.atEngine d 0) := by
  change execPlStat d a s = _
  refine engineOne_idle hs (source_dest ha hd) ?_
  rw [readG_of_bank ha hs.bank, ok_bind, hc]
  exact if_pos ⟨hl, rfl⟩

theorem plStat_beyond (hl : 32 ≤ (s.g a).toNat) : exec (.plStat d a) s = .next (raise s.atEngine 0x0D 4 (s.g a) false) := by
  change execPlStat d a s = _
  refine engineOne_trap hs (source_dest ha hd) ?_
  rw [readG_of_bank ha hs.bank, ok_bind, if_neg fun h => absurd h.1 (by omega), cursorOf_beyond hl]
  rfl

theorem plNext_posting {c x : Cursor} {t : State} (hc : cursorOf s.atEngine (s.g a) = .ok c) (hx : Cursor.next s.atEngine c = .ok (t, x)) :
    exec (.plNext d a) s = engineEnds (setG (t.putCursor x) d x.posting) := by
  change cursorStep s d a Cursor.next = _
  refine engineOne_idle hs (source_dest ha hd) ?_
  rw [readG_of_bank ha hs.bank, ok_bind, hc, ok_bind, hx, ok_bind]

theorem plNext_beyond (hl : 32 ≤ (s.g a).toNat) : exec (.plNext d a) s = .next (raise s.atEngine 0x0D 4 (s.g a) false) := by
  change cursorStep s d a Cursor.next = _
  refine engineOne_trap hs (source_dest ha hd) ?_
  rw [readG_of_bank ha hs.bank, ok_bind, cursorOf_beyond hl]
  rfl

theorem plScore_term {c : Cursor} {t : State} {f : FV} (hc : cursorOf s.atEngine (s.g a) = .ok c) (hst : c.st = Cursor.at_)
    (hf : Cursor.term s.atEngine c = .ok (t, f)) :
    exec (.plScore d a) s = engineEnds (setG t d (BitVec.ofNat 64 (scoreBits f))) := by
  change execPlScore d a s = _
  refine engineOne_idle hs (source_dest ha hd) ?_
  rw [readG_of_bank ha hs.bank, ok_bind, hc, ok_bind, ensure_ok (beq_iff_eq.mpr hst), ok_bind, hf, ok_bind]

variable (hb : FullG s b)
include hb

theorem plSkip_posting {c x : Cursor} {t : State} (hc : cursorOf s.atEngine (s.g a) = .ok c) (hl : (s.g b).toNat < 2 ^ 32)
    (hx : Cursor.skipTo s.atEngine c (s.g b).toNat = .ok (t, x)) :
    exec (.plSkip d a b) s = engineEnds (setG (t.putCursor x) d x.posting) := by
  have hhigh : (bits (s.g b) 32 32 == 0) = true := by
    rw [beq_iff_eq, bits, Nat.shiftRight_eq_div_pow, Nat.div_eq_of_lt hl]
    rfl
  change execPlSkip d a b s = _
  refine engineOne_idle hs (sources_dest ha hb hd) ?_
  rw [readG_of_bank ha hs.bank, ok_bind, readG_of_bank hb hs.bank, ok_bind, hc, ok_bind, ensure_ok hhigh, ok_bind, hx, ok_bind]

section
variable {t u : State} {desc sc : List Byte} (hal : (s.g a).toNat % 32 = 0) (hread : engineRead s.atEngine (s.g a).toNat 32 = .ok (t, desc))
  (hdesc : descriptorOk desc = true) (hsc : scoringBlock t (s.g b).toNat = .ok (u, sc))
include hal hread hdesc hsc

theorem plOpen_all (hall : ((List.range 32).find? fun n => (u.cursor? n).isNone) = none) :
    exec (.plOpen d a b) s = engineEnds (setG u d (BitVec.allOnes 64)) := by
  change execPlOpen d a b s = _
  refine engineOne_idle hs (sources_dest ha hb hd) ?_
  rw [readG_of_bank ha hs.bank, ok_bind, readG_of_bank hb hs.bank, ok_bind, ensure_ok (beq_iff_eq.mpr hal), ok_bind, hread, ok_bind]
  dsimp only
  rw [ensure_ok hdesc, ok_bind, hsc, ok_bind]
  dsimp only
  rw [hall]

theorem plOpen_opens {n : Nat} (hn : ((List.range 32).find? fun n => (u.cursor? n).isNone) = some n) :
    exec (.plOpen d a b) s = engineEnds (setG (u.setChip fun y =>
      { y with cursors := y.cursors ++ [u.newCursor n desc sc (s.g b != 0)] }) d (BitVec.ofNat 64 n)) := by
  change execPlOpen d a b s = _
  refine engineOne_idle hs (sources_dest ha hb hd) ?_
  rw [readG_of_bank ha hs.bank, ok_bind, readG_of_bank hb hs.bank, ok_bind, ensure_ok (beq_iff_eq.mpr hal), ok_bind, hread, ok_bind]
  dsimp only
  rw [ensure_ok hdesc, ok_bind, hsc, ok_bind]
  dsimp only
  rw [hn]
  rfl

end

end

theorem no_closed {u : State} (h : ∀ n, n < 32 → (u.cursor? n).isSome = true) :
    ((List.range 32).find? fun n => (u.cursor? n).isNone) = none := by
  refine List.find?_eq_none.mpr fun n hn hnone => ?_
  have hsome := h n (List.mem_range.mp hn)
  rw [Option.isNone_iff_eq_none.mp hnone] at hsome
  exact Bool.false_ne_true hsome

theorem lowest_closed {u : State} {n : Nat} (hn : n < 32) (hc : u.cursor? n = none) (hl : ∀ m, m < n → (u.cursor? m).isSome = true) :
    ((List.range 32).find? fun n => (u.cursor? n).isNone) = some n :=
  List.find?_range_eq_some.mpr ⟨Option.isNone_iff_eq_none.mpr hc, List.mem_range.mpr hn, fun m hm => by
    rw [Bool.not_eq_true', Option.isNone_eq_false_iff]
    exact hl m hm⟩

/-! ## Cursors -/

section
variable {s : State} {c : Cursor} {target : Nat}

theorem next_empty (hst : c.st = Cursor.before) (h0 : c.nblk = 0) : Cursor.next s c = .ok (s, c.toEnd) := by
  rw [Cursor.next, if_pos hst, if_pos h0]

theorem skipTo_empty (hst : c.st = Cursor.before) (h0 : c.nblk = 0) : Cursor.skipTo s c target = .ok (s, c.toEnd) := by
  have hne : ¬(c.st = Cursor.ended ∨ (c.st = Cursor.at_ ∧ target ≤ c.doc)) := by
    rintro (h | ⟨h, _⟩)
    · exact absurd (hst.symm.trans h) (by decide)
    · exact absurd (hst.symm.trans h) (by decide)
  rw [Cursor.skipTo, if_neg hne, if_pos ⟨hst, h0⟩]

theorem next_ended (hst : c.st = Cursor.ended) : Cursor.next s c = .ok (s, c) := by
  rw [Cursor.next, if_neg (by rw [hst]; decide), if_neg (by rw [hst]; decide)]

theorem posting_ended (hst : c.st = Cursor.ended) : c.posting = BitVec.allOnes 64 := if_neg (by rw [hst]; decide)

theorem skipTo_stays (h : c.st = Cursor.ended ∨ (c.st = Cursor.at_ ∧ target ≤ c.doc)) : Cursor.skipTo s c target = .ok (s, c) := if_pos h

theorem next_posting (hst : c.st = Cursor.at_) (hk : c.known = true) (hi : c.i + 1 < c.cnt) (hb : c.block ≠ []) :
    Cursor.next s c = .ok (s, c.toPosting (c.i + 1)) := by
  have hrenew : Cursor.renew s c = .ok (s, c) := if_pos hk
  have hready : Cursor.ready s c = .ok (s, c) := if_neg (by rw [List.isEmpty_iff]; exact hb)
  rw [Cursor.next, if_neg (by rw [hst]; decide), if_pos hst, hrenew, ok_bind]
  dsimp only
  rw [if_pos hi, hready, ok_bind]

end

/-! ## Multi-cursor instructions -/

theorem spoolNames_named {s : State} : ∀ {l : List Nat}, (∀ n ∈ l, ∃ h, spoolNo s n = .ok h) → spoolNames s l = .ok ()
  | [], _ => rfl
  | n :: ns, hl => by
    obtain ⟨h, hh⟩ := hl n List.mem_cons_self
    rw [spoolNames, hh, ok_bind]
    exact spoolNames_named fun m hm => hl m (List.mem_cons_of_mem _ hm)

/-- What holds where an idle engine serves a multi-cursor instruction of a fibre that is at home, after its W hold. -/
structure EngineStarts (s : State) (w : BitVec 1) : Prop where
  room : Room s 2
  home : s.fib.guest = false
  wait : WaitOver s w
  fresh : s.entered .engine = false
  first : (s.waited w).behindMessage true = false
  free : UnitFree (s.waited w).settle.drain .engine

section
variable {s : State} {w : BitVec 1} (hs : EngineStarts s w) {spools : List Nat} (hnames : ∀ n ∈ spools, ∃ h, spoolNo s n = .ok h)
include hs hnames

/-- A multi-cursor instruction ends as its first step leaves it (R325). -/
theorem engineMulti_idle {j : State → Ex EngineJob} {k : EngineJob} {r : StepResult} (hj : j (s.waited w) = .ok k) (hd : FreeG s k.d)
    (hr : engineStep (s.waited w).atEngine k = .ok r) :
    engineMulti s w spools j = .next (afterStep (s.waited w).atEngine k r) := by
  have hguest : notGuest (s.waited w) = .ok () := notGuest_ok (by rw [waited_fib]; exact hs.home)
  have hfresh : ¬s.entered .engine = true := Bool.eq_false_iff.mp hs.fresh
  rw [engineMulti, ending_room hs.room, spoolNames_named hnames, ok_bind, if_neg hfresh, waitW_over hs.wait, ok_bind]
  dsimp only
  rw [hj, ok_bind, destG_free (hd.of_bank (waited_bank s w)), ok_bind, hguest, ok_bind, if_neg hfresh, allFirst_ok hs.first, ok_bind,
    takeTurn_free hs.free, ok_bind]
  dsimp only
  rw [hr, ok_bind]
  rfl

variable {t : State} {i : Instr} {j : State → Ex EngineJob} {k l : EngineJob} {n : Word} (hi : exec i s = engineMulti s w spools j)
  (hj : j (s.waited w) = .ok k) (hd : FreeG s k.d)
include hi hj hd

/-- The first step of a multi-cursor instruction is its last, or parks its fibre for another (R325, R326). -/
theorem engineMulti_runs :
    (engineStep (s.waited w).atEngine k = .ok (some (t, l, some n)) → exec i s =
      .next (retire (setG (servedEngine (t.setChip fun c => { c with engine := { c.engine with
        queue := c.engine.queue.filter fun e => e.fib != t.fib.id, completed := c.engine.completed + 1 } })) l.d n) 2)) ∧
    (engineStep (s.waited w).atEngine k = .ok (some (t, l, none)) →
      exec i s = .next (parkEngine (servedEngine t) { l with waits := false })) ∧
    (engineStep (s.waited w).atEngine k = .ok none →
      exec i s = .next (parkEngine (servedEngine (s.waited w).atEngine) { k with waits := true })) :=
  ⟨fun hr => hi.trans (engineMulti_idle hs hnames hj hd hr), fun hr => hi.trans (engineMulti_idle hs hnames hj hd hr),
    fun hr => hi.trans (engineMulti_idle hs hnames hj hd hr)⟩

end

section
variable {s : State} {w : BitVec 1} {a b d : GReg} (hb : FullG s b)
include hb

theorem mergeJob_waited (ha : FullG s a) (kind : Nat) (nc : BitVec 3) (out : BitVec 1) (osp : BitVec 4) :
    mergeJob (s.waited w) kind d a b nc out osp = .ok
      { kind := kind, d := d, ga := s.g a, gb := s.g b, nc := nc.toNat + 1, osp := if out = 1 then some osp.toNat else none, isp := 0,
        out := 0, first := true, lex := none, map := none, waits := false } := by
  rw [mergeJob, readG_waited w ha, ok_bind, readG_waited w hb, ok_bind]

theorem streamJob_waited (kind : Nat) (osp isp : BitVec 4) :
    streamJob (s.waited w) kind d b osp isp = .ok
      { kind := kind, d := d, ga := 0, gb := s.g b, nc := 0, osp := some osp.toNat, isp := isp.toNat, out := 0, first := true,
        lex := none, map := none, waits := false } := by
  rw [streamJob, readG_waited w hb, ok_bind]

end

/-! ## Later steps -/

section
variable {s t : State} {j : EngineJob} (hlive : s.fib.live = true) (hpark : s.fib.park = some (.engine j)) (hf : s.focus s.fib.id = s)
include hlive hpark hf

theorem plEngineStep_early (ht : (s.chip.engine.next.any fun e => e.fib == s.fib.id) = false) :
    exec (.plEngineStep s.fib.id) s = .next s := by
  change execPlEngineStep s.fib.id s = _
  rw [execPlEngineStep, fibre?_focus hlive, Option.bind_some, Fibre.engineJob, hpark]
  dsimp only
  rw [hf, ht]
  rfl

variable (ht : (s.chip.engine.next.any fun e => e.fib == s.fib.id) = true)
include ht

/-- A step that the engine runs leaves what it leaves at issue (R325). -/
theorem plEngineStep_runs {r : StepResult} (hr : engineStep s j = .ok r) : exec (.plEngineStep s.fib.id) s = .next (afterStep s j r) := by
  change execPlEngineStep s.fib.id s = _
  rw [execPlEngineStep, fibre?_focus hlive, Option.bind_some, Fibre.engineJob, hpark]
  dsimp only
  rw [hf, if_pos ht, hr]

theorem plEngineStep_waits {p : Park} (hr : engineStep s j = .error ⟨t, .park p⟩) : exec (.plEngineStep s.fib.id) s = .next s := by
  change execPlEngineStep s.fib.id s = _
  rw [execPlEngineStep, fibre?_focus hlive, Option.bind_some, Fibre.engineJob, hpark]
  dsimp only
  rw [hf, if_pos ht, hr]

/-- A step that traps leaves the queue of the engine, which has served it. -/
theorem plEngineStep_traps {c sub : Nat} {v : Word} {p : Bool} (hr : engineStep s j = .error ⟨t, .trap c sub v p⟩) :
    exec (.plEngineStep s.fib.id) s = .next (raise (servedEngine (t.setChip fun c => { c with engine := { c.engine with
      queue := c.engine.queue.filter fun e => e.fib != s.fib.id } })) c sub v p) := by
  change execPlEngineStep s.fib.id s = _
  rw [execPlEngineStep, fibre?_focus hlive, Option.bind_some, Fibre.engineJob, hpark]
  dsimp only
  rw [hf, if_pos ht, hr]
  rfl

end

/-- Settles O31: a single-cursor instruction by its step, a cursor by where it stands, a multi-cursor instruction by what its first step
leaves, PL_ENGINE_STEP by whose turn it is. -/
theorem postings : Obligations.Postings := by
  refine ⟨?_, ?_, ?_, ?_⟩
  · intro s t u d a b c x desc sc f hroom hg hm hf hf' ha hb hd r va ends hbank
    have hs : EngineServes s := ⟨hroom, hg, hm, hf, hf', hbank⟩
    refine ⟨fun hal hread hdesc hsc => ⟨fun hall => ?_, fun n hn hc hl => ?_⟩, fun hc => ⟨plClose_idle hs ha hc, plStat_word hs ha hd hc,
      plNext_posting hs ha hd hc, plSkip_posting hs ha hd hb hc, plScore_term hs ha hd hc⟩,
      fun hl => ⟨plNext_beyond hs ha hd hl, plStat_beyond hs ha hd hl⟩, plStat_closed hs ha hd⟩
    · exact plOpen_all hs ha hd hb hal hread hdesc hsc (no_closed hall)
    · exact ⟨u.newCursor n desc sc (s.g b != 0), rfl, rfl, rfl, rfl, rfl, rfl, rfl, rfl,
        plOpen_opens hs ha hd hb hal hread hdesc hsc (lowest_closed hn hc hl)⟩
  · intro s c target
    exact ⟨fun hst h0 => ⟨next_empty hst h0, skipTo_empty hst h0⟩,
      fun hst => ⟨next_ended hst, skipTo_stays (Or.inl hst), posting_ended hst⟩, fun hst ht => skipTo_stays (Or.inr ⟨hst, ht⟩),
      fun hst hk hi hb => ⟨_, next_posting hst hk hi hb, rfl, rfl⟩⟩
  · intro s t d a b w out nc osp isp k n hroom hg hw hn hm hf ha hb hd r job list stream ends runs
    have hs : EngineStarts s w := ⟨hroom, hg, hw, hn, hm, hf⟩
    refine ⟨fun hout => ?_, fun ho hi => ?_⟩
    · have hnames : ∀ h ∈ (if out = 1 then [osp.toNat] else []), ∃ i, spoolNo s h = .ok i := by
        intro h hh
        split at hh
        next h1 => rw [List.mem_singleton.mp hh]; exact hout h1
        next => exact absurd hh List.not_mem_nil
      exact ⟨engineMulti_runs hs hnames rfl (mergeJob_waited hb ha 0 nc out osp) hd,
        engineMulti_runs hs hnames rfl (mergeJob_waited hb ha 1 nc out osp) hd⟩
    · have hnames : ∀ h ∈ [osp.toNat, isp.toNat], ∃ i, spoolNo s h = .ok i := by
        simp [ho, hi]
      exact ⟨engineMulti_runs hs hnames rfl (streamJob_waited hb 2 osp isp) hd,
        engineMulti_runs hs hnames rfl (streamJob_waited hb 3 osp isp) hd⟩
  · intro s t j k n hlive hpark hf turn gone
    refine ⟨fun ht => ⟨plEngineStep_runs hlive hpark hf ht, plEngineStep_runs hlive hpark hf ht, fun hid hr => ?_,
      fun c sub v p hr => plEngineStep_traps hlive hpark hf ht hr, fun p hr => plEngineStep_waits hlive hpark hf ht hr⟩,
      plEngineStep_early hlive hpark hf⟩
    rw [plEngineStep_runs hlive hpark hf ht hr]
    simp only [gone, ← hid]
    rfl

end Sys2Proof.Machine
